-- ==== Sys2Proof/Word.lean ====
section
/-!
DEFINITION. Word.lean: the word types of the NZ-1280 model, its status codes and the shape of its sparse tables.
-/

namespace Sys2Proof

/-- A byte of a frame, message or image. -/
abbrev Byte := BitVec 8

/-- A register word (R365). -/
abbrev Word := BitVec 32

/-- A sparse table: (key, value) pairs, keys strictly rising, no entry equal to what an unlisted key reads as. -/
abbrev Table (α : Type) := List (Nat × α)

/-- Status codes of Table 0.5. -/
inductive Code where
  | done | doneRepaired | donePartial | orderChanged
  | badOpcode | badParam | outOfRange | locked | running | notAuthorised | timePast | conflict
  | partitionNotClosed | busyTeardown | noResource | domainTimeout
  | peerFenced | memberMismatch | memberTimeout | exactnessLost | rootLost | staleEpoch | holdActive | internal
  deriving DecidableEq, Repr

end Sys2Proof
end

