-- ==== Sys2Proof/Machine/Wire.lean ====
section
/-!
DEFINITION. Machine/Wire.lean: what reaches the ports of the module and what leaves them, as the operands of the commands
carry it. Frames, messages and images are byte lists; the decoders of Machine/Operands.lean read their fields.
-/

namespace Sys2Proof

/-- The seal of a frame on a protected link: which key it was sealed under and at which transmit counter (R342).
Log 122 (DESIGN CHOICE). -/
structure Seal where
  keyId : Nat
  counter : Nat
  deriving DecidableEq, Repr

/-- A fabric-mode frame received whole on a port, or an FFH-over-UDP datagram's shim, FFH and payload. The payload of a
frame shorter than 64 bytes comes with its padding (R33). `lead` is how many RAW ticks before now its first bit passed the fibre face. -/
structure RxFrame where
  port : Nat
  etype : Nat
  linkHdr : List Byte
  ffh : List Byte
  payload : List Byte
  sealedAs : Option Seal := none
  badCodewords : Nat := 0
  lead : Nat := 0
  deriving DecidableEq, Repr

/-- An Ethernet-mode frame from the destination MAC to the end of the payload (R53). `macsec` is the seal of a
MACsec-protected frame: the association number and the packet number. -/
structure EthFrame where
  port : Nat
  bytes : List Byte
  macsec : Option Seal := none
  badCodewords : Nat := 0
  lead : Nat := 0
  deriving DecidableEq, Repr

/-- An FFH-over-UDP datagram (R48): the Ethernet, IP and UDP headers as they stand on the wire (Table 2.9), whether its
UDP checksum is bad, then the retry shim, the FFH and the payload, and the MACsec seal of the Ethernet frame around it. -/
structure UdpFfh where
  port : Nat
  hdr : List Byte
  badChecksum : Bool
  inner : RxFrame
  macsec : Option Seal := none
  deriving DecidableEq, Repr

/-- The transports of Table 16.4 with what the reply needs to find its way. -/
inductive Transport where
  | udp (mg : Nat) (srcIp : Nat) (srcPort : Nat)
  | mailbox (slot : Nat)
  | inband (port : Nat) (src : Nat)
  deriving DecidableEq, Repr

/-- Who a command's tag was checked as: the owner key, a tenant key, or untagged (R347, R359). -/
inductive Authority where
  | owner
  | tenant (part : Nat)
  | untagged
  deriving DecidableEq, Repr

/-- An NCP command as Heath executes it: its authority, sequence number, transport and assembled body. `dma` is what
the host memory holds at the image source's address, when the image comes by DMA; none when that read fails. -/
structure Ncp where
  auth : Authority
  seq : Nat
  via : Transport
  body : List Byte
  dma : Option (List Byte) := none
  deriving DecidableEq, Repr

/-- What an upset changes of itself (R371, R57, R149, R210): a bit of one of the three copies of an RWV register
word; a Topsoil cell or a Subsoil clod, correctable or not; a word of a Marl page; or an entry of a Laurel replica. -/
inductive UpsetTarget where
  | register (addr idx copy bit : Nat)
  | cell (cell : Nat) (uncorrectable : Bool)
  | clod (clod : Nat) (uncorrectable : Bool)
  | weight (array page word : Nat) (uncorrectable : Bool)
  | laurel (half tkind index : Nat)
  deriving DecidableEq, Repr

end Sys2Proof
end

