-- ==== Sys2Proof/Syntax.lean ====
section
/-!
DEFINITION. Syntax.lean: the commands of the block, one constructor per row of the opcode table. A command's
operands are what its row leaves to the moment: what arrived, on which port, or which of several like things it
concerns. A frame that the ingress stages have handed to a unit is named by its number in Loam.
-/

namespace Sys2Proof

/-- The commands and events of the NZ-1280 (opcode_table.json). Log 162 (DESIGN CHOICE). -/
inductive Instr where
  /-- `VSB_APPLIED` (R403) -/
  | vsbApplied
  /-- `VIN48_APPLIED` (R403) -/
  | vin48Applied
  /-- `RESET_RELEASE` (R403) -/
  | resetRelease
  /-- `RESET_PIN_ASSERT` (R404) -/
  | resetPinAssert
  /-- `SUPPLY_BROWNOUT` (R404) -/
  | supplyBrownout (vsbLost : Bool)
  /-- `WATCHDOG_EXPIRY` (R405) -/
  | watchdogExpiry
  /-- `WATCHDOG_RESTART` (R405) -/
  | watchdogRestart
  /-- `COMMANDED_RESET` (R404) -/
  | commandedReset
  /-- `PERST_ASSERT` (R404) -/
  | perstAssert
  /-- `REFCLK_VALID` (R403) -/
  | refclkValid
  /-- `REFCLK_LOSS` (R403) -/
  | refclkLoss
  /-- `THERMAL_TRIP` (R407) -/
  | thermalTrip (die : Nat)
  /-- `THERMAL_LOOP_EVAL` (R409) -/
  | thermalLoopEval (dies : List Int) (rails : List (Nat × Nat)) (powerW : Nat)
  /-- `MBX_GO` (R356) -/
  | mbxGo (slot : Nat) (len : Nat) (window : List Byte)
  /-- `MBX_READY_CLEAR` (R356) -/
  | mbxReadyClear (slot : Nat)
  /-- `NCP_UDP_DATAGRAM` (R355) -/
  | ncpUdpDatagram (mg : Nat) (srcIp : Nat) (srcPort : Nat) (dstPort : Nat) (ipFragment : Bool) (msg : List Byte)
  /-- `NCP_INBAND_FRAME` (R355) -/
  | ncpInbandFrame (fid : Nat)
  /-- `FRAG_ASSEMBLY_TIMEOUT` (R355) -/
  | fragAssemblyTimeout (buffer : Nat)
  /-- `COMMAND_DISPATCH` (R360) -/
  | commandDispatch (dma : Option (List Byte))
  /-- `IDENT` (R363) -/
  | ident (c : Ncp)
  /-- `POWER_STATUS` (R402) -/
  | powerStatus (c : Ncp)
  /-- `POWER_CAP` (R409) -/
  | powerCap (c : Ncp)
  /-- `MODULE_RESET` (R404) -/
  | moduleReset (c : Ncp)
  /-- `REG_READ` (R365) -/
  | regRead (c : Ncp)
  /-- `REG_WRITE` (R375) -/
  | regWrite (c : Ncp)
  /-- `REG_COMMIT_AT_T` (R378) -/
  | regCommitAtT (c : Ncp)
  /-- `REG_COMMIT_NOW` (R378) -/
  | regCommitNow (c : Ncp)
  /-- `REG_COMMIT_DISCARD` (R378) -/
  | regCommitDiscard (c : Ncp)
  /-- `SHADOW_COMMIT_APPLY` (R379) -/
  | shadowCommitApply (blk : Nat) (inst : Nat)
  /-- `LOAD_TABLE` (R151) -/
  | loadTable (c : Ncp)
  /-- `LOAD_ROUTES` (R110) -/
  | loadRoutes (c : Ncp)
  /-- `TABLE_READ` (R363) -/
  | tableRead (c : Ncp)
  /-- `LOAD_CALENDAR` (R90) -/
  | loadCalendar (c : Ncp)
  /-- `LOAD_GATES` (R90) -/
  | loadGates (c : Ncp)
  /-- `CANCEL_PENDING` (R93) -/
  | cancelPending (c : Ncp)
  /-- `LOAD_LIST` (R212) -/
  | loadList (c : Ncp)
  /-- `QUEUE_OPEN` (R215) -/
  | queueOpen (c : Ncp)
  /-- `COLL_POST` (R215) -/
  | collPost (c : Ncp)
  /-- `QUEUE_RESUME` (R215) -/
  | queueResume (c : Ncp)
  /-- `QUEUE_SKIP` (R215) -/
  | queueSkip (c : Ncp)
  /-- `QUEUE_FLUSH` (R215) -/
  | queueFlush (c : Ncp)
  /-- `QUEUE_CLOSE` (R215) -/
  | queueClose (c : Ncp)
  /-- `COLL_STATUS` (R215) -/
  | collStatus (c : Ncp)
  /-- `LOAD_TEMPLATE` (R217) -/
  | loadTemplate (c : Ncp)
  /-- `LOAD_KPROG` (R188) -/
  | loadKprog (c : Ncp)
  /-- `LOAD_MOP` (R197) -/
  | loadMop (c : Ncp)
  /-- `DROP_MOP` (R197) -/
  | dropMop (c : Ncp)
  /-- `OPT_BASELINE` (R268) -/
  | optBaseline (c : Ncp)
  /-- `OPT_MIGRATE` (R271) -/
  | optMigrate (c : Ncp)
  /-- `OPT_COMB` (R275) -/
  | optComb (c : Ncp)
  /-- `OPT_RELOCK` (R264) -/
  | optRelock (c : Ncp)
  /-- `LOAD_STEER` (R278) -/
  | loadSteer (c : Ncp)
  /-- `LOAD_CIRCUITS` (R282) -/
  | loadCircuits (c : Ncp)
  /-- `OPT_CANCEL` (R284) -/
  | optCancel (c : Ncp)
  /-- `TIME_STEP` (R292) -/
  | timeStep (c : Ncp)
  /-- `TIME_STATUS` (R305) -/
  | timeStatus (c : Ncp)
  /-- `TIME_CAL` (R299) -/
  | timeCal (c : Ncp)
  /-- `PART_ADMIT` (R309) -/
  | partAdmit (c : Ncp)
  /-- `PART_TEARDOWN` (R331) -/
  | partTeardown (c : Ncp)
  /-- `LOAD_CABLING` (R315) -/
  | loadCabling (c : Ncp)
  /-- `CABLING_ACCEPT` (R317) -/
  | cablingAccept (c : Ncp)
  /-- `DISCOVER` (R333) -/
  | discover (c : Ncp)
  /-- `HAW_FENCE` (R333) -/
  | hawFence (c : Ncp)
  /-- `FENCE_CLEAR` (R313) -/
  | fenceClear (c : Ncp)
  /-- `HOLD_RELEASE` (R328) -/
  | holdRelease (c : Ncp)
  /-- `PROBATION_START` (R329) -/
  | probationStart (c : Ncp)
  /-- `MARGIN_SWEEP` (R330) -/
  | marginSweep (c : Ncp)
  /-- `MARGIN_SWEEP_DONE` (R330) -/
  | marginSweepDone (tests : Nat) (mismatches : Nat) (peak : Int)
  /-- `HAW_REPORT` (R333) -/
  | hawReport (c : Ncp)
  /-- `ATTEST_CERTS` (R338) -/
  | attestCerts (c : Ncp)
  /-- `ATTEST_MEASURE` (R338) -/
  | attestMeasure (c : Ncp)
  /-- `KEX_INIT` (R339) -/
  | kexInit (c : Ncp)
  /-- `KEX_FIN` (R339) -/
  | kexFin (c : Ncp)
  /-- `KEX_TIMEOUT` (R339) -/
  | kexTimeout (exchange : Nat)
  /-- `MACSEC_KEY` (R344) -/
  | macsecKey (c : Ncp)
  /-- `OWNER_SET` (R347) -/
  | ownerSet (c : Ncp)
  /-- `OWNER_CLEAR` (R347) -/
  | ownerClear (c : Ncp)
  /-- `DEBUG_NONCE` (R348) -/
  | debugNonce (c : Ncp)
  /-- `DEBUG_UNLOCK` (R348) -/
  | debugUnlock (c : Ncp)
  /-- `HOLLY_STATUS` (R351) -/
  | hollyStatus (c : Ncp)
  /-- `CTR_SAMPLE` (R386) -/
  | ctrSample (c : Ncp)
  /-- `SNAPSHOT` (R392) -/
  | snapshot (c : Ncp)
  /-- `SNAPSHOT_READ` (R393) -/
  | snapshotRead (c : Ncp)
  /-- `RING_READ` (R394) -/
  | ringRead (c : Ncp)
  /-- `TRACE_START` (R397) -/
  | traceStart (c : Ncp)
  /-- `TRACE_STOP` (R397) -/
  | traceStop (c : Ncp)
  /-- `CMAP_READ` (R128) -/
  | cmapRead (c : Ncp)
  /-- `THRESH_SET` (R388) -/
  | threshSet (c : Ncp)
  /-- `FW_STAGE` (R412) -/
  | fwStage (c : Ncp)
  /-- `FW_ACTIVATE` (R412) -/
  | fwActivate (c : Ncp)
  /-- `FW_STATUS` (R412) -/
  | fwStatus (c : Ncp)
  /-- `REGISTER_WRITE` (R370) -/
  | registerWrite (req : Nat) (addr : Nat) (value : Word) (dword : Bool)
  /-- `REGISTER_ACCESS_TIMEOUT` (R375) -/
  | registerAccessTimeout (req : Nat) (addr : Nat) (write : Bool) (ncp : Option (Ncp × Nat))
  /-- `LOCK_BIT_SET` (R372) -/
  | lockBitSet (req : Nat) (addr : Nat) (value : Word)
  /-- `RWV_SCRUB` (R371) -/
  | rwvScrub
  /-- `SIEVE_START` (R80) -/
  | sieveStart (req : Nat) (half : Nat)
  /-- `COUNTER_RESET_WRITE` (R386) -/
  | counterResetWrite (req : Nat)
  /-- `SLOW_CLEAR` (R229) -/
  | slowClear (req : Nat)
  /-- `RING_FREEZE_WRITE` (R395) -/
  | ringFreezeWrite (req : Nat) (value : Word)
  /-- `FRAME_ARRIVAL` (R17) -/
  | frameArrival (f : RxFrame)
  /-- `ETH_FRAME_ARRIVAL` (R51) -/
  | ethFrameArrival (f : EthFrame)
  /-- `UDP_DATAGRAM_ARRIVAL` (R48) -/
  | udpDatagramArrival (d : UdpFfh)
  /-- `VLINK_OPEN` (R50) -/
  | vlinkOpen (d : UdpFfh)
  /-- `VLINK_IDLE_RELEASE` (R258) -/
  | vlinkIdleRelease (v : Nat)
  /-- `TRANSMIT_OPPORTUNITY` (R82) -/
  | transmitOpportunity (port : Nat)
  /-- `TC7_DEPARTURE` (R98) -/
  | tc7Departure (port : Nat)
  /-- `SPINE_TC7_DEPARTURE` (R416) -/
  | spineTc7Departure (port : Nat)
  /-- `LINK_ACK_RECEIVED` (R245) -/
  | linkAckReceived (link : Nat) (space : Nat) (ack : Nat)
  /-- `ACK_REPORT` (R245) -/
  | ackReport (link : Nat)
  /-- `LOSS_EVENT` (R246) -/
  | lossEvent (link : Nat) (space : Nat) (seq : Nat)
  /-- `WITHHELD_EVENT` (R246) -/
  | withheldEvent (link : Nat) (space : Nat) (seq : Nat)
  /-- `WITHHOLD_REPLAY` (R246) -/
  | withholdReplay (link : Nat) (space : Nat) (seq : Nat)
  /-- `REFUSED_EVENT` (R245) -/
  | refusedEvent (link : Nat) (space : Nat) (seq : Nat)
  /-- `SKIP_EVENT` (R248) -/
  | skipEvent (link : Nat) (space : Nat) (seq : Nat)
  /-- `SKIP_ANNOUNCE` (R248) -/
  | skipAnnounce (link : Nat)
  /-- `TXC_MARK_EVENT` (R342) -/
  | txcMarkEvent (link : Nat) (txc : Nat)
  /-- `TXC_MARK_SEND` (R342) -/
  | txcMarkSend (link : Nat)
  /-- `RETRY_TIMEOUT` (R246) -/
  | retryTimeout (link : Nat) (space : Nat) (seq : Nat)
  /-- `SINK_STALL` (R74) -/
  | sinkStall (port : Nat)
  /-- `SIGNAL_PRESENT` (R238) -/
  | signalPresent (port : Nat)
  /-- `TRAIN_TIMEOUT` (R238) -/
  | trainTimeout (port : Nat)
  /-- `HELLO_RECEIVED` (R239) -/
  | helloReceived (port : Nat) (msg : List Byte)
  /-- `LINK_UP` (R238) -/
  | linkUp (port : Nat) (rtt : Nat)
  /-- `ALIGNMENT_MARKER` (R240) -/
  | alignmentMarker (port : Nat) (lane : Nat) (laneId : Nat) (echoId : Nat)
  /-- `LANE_LOCK_LOSS` (R253) -/
  | laneLockLoss (port : Nat) (lane : Nat)
  /-- `LANE_ERROR_PERIOD` (R253) -/
  | laneErrorPeriod (port : Nat) (lane : Nat) (symbols : Nat)
  /-- `SPARE_REMAP` (R254) -/
  | spareRemap (slice : Nat) (lane : Nat)
  /-- `DEGRADE_AGREE` (R255) -/
  | degradeAgree (port : Nat) (mask : Nat)
  /-- `IDLE_TIMEOUT` (R26) -/
  | idleTimeout (domain : Nat) (trigger : Bool)
  /-- `DOMAIN_AWAKE` (R26) -/
  | domainAwake (domain : Nat)
  /-- `WAKE_LATE_CHECK` (R30) -/
  | wakeLateCheck (domain : Nat)
  /-- `PREWAKE` (R104) -/
  | prewake (port : Nat)
  /-- `ENGINE_PREWAKE` (R219) -/
  | enginePrewake (coll : Nat)
  /-- `SPILL_OUT_MOVE` (R66) -/
  | spillOutMove (half : Nat)
  /-- `SPILL_READBACK` (R68) -/
  | spillReadback (queue : Nat)
  /-- `HOLD_SPILL_MOVE` (R71) -/
  | holdSpillMove (fid : Nat)
  /-- `SIEVE_PASS` (R77) -/
  | sievePass (half : Nat) (tier : Nat)
  /-- `GATE_LIST_TAKEOVER` (R94) -/
  | gateListTakeover (port : Nat)
  /-- `CALENDAR_TAKEOVER` (R94) -/
  | calendarTakeover (port : Nat)
  /-- `ROUTE_TAKEOVER` (R111) -/
  | routeTakeover
  /-- `EPOCH_RELEASE` (R111) -/
  | epochRelease
  /-- `MARKER_COPY_TRANSMIT` (R120) -/
  | markerCopyTransmit (port : Nat) (queue : Nat)
  /-- `SWEEP_COMPLETE` (R121) -/
  | sweepComplete (key : Nat)
  /-- `SWEEP_TIMEOUT` (R122) -/
  | sweepTimeout (key : Nat)
  /-- `SWEEP_SLOT_RELEASE` (R122) -/
  | sweepSlotRelease (key : Nat)
  /-- `ECHO_FRAME_SEND` (R125) -/
  | echoFrameSend (half : Nat)
  /-- `THROTTLE_INCREASE` (R126) -/
  | throttleIncrease (port : Nat) (tc : Nat)
  /-- `CMAP_SEND` (R127) -/
  | cmapSend
  /-- `CMAP_RECEIVE` (R128) -/
  | cmapReceive (fid : Nat)
  /-- `CMAP_STALE` (R128) -/
  | cmapStale (dim : Nat)
  /-- `LEARN_PROCESS` (R143) -/
  | learnProcess
  /-- `AGE_PERIOD` (R146) -/
  | agePeriod
  /-- `PARITY_REPAIR` (R149) -/
  | parityRepair (half : Nat) (tkind : Nat) (index : Nat)
  /-- `GROUP_RECORD_RETURN` (R135) -/
  | groupRecordReturn (record : Nat)
  /-- `TOKEN_PIECE_ARRIVAL` (R199) -/
  | tokenPieceArrival (fid : Nat)
  /-- `ASSEMBLY_TIMEOUT` (R199) -/
  | assemblyTimeout (tok : Nat)
  /-- `TOKEN_ROUTED` (R201) -/
  | tokenRouted (tok : Nat) (rowBad : Option Nat) (colBad : List Nat)
  /-- `EXPERT_OUT_ARRIVAL` (R203) -/
  | expertOutArrival (fid : Nat) (residueBad : Bool)
  /-- `COMBINE_TIMEOUT` (R185) -/
  | combineTimeout (tok : Nat)
  /-- `BASIS_REWRITE_DONE` (R209) -/
  | basisRewriteDone (array : Nat) (page : Nat)
  /-- `QUEUE_HEAD_ADMIT` (R216) -/
  | queueHeadAdmit (queue : Nat)
  /-- `CONTRIB_ARRIVAL` (R223) -/
  | contribArrival (fid : Nat) (rowBad : Option Nat) (colBad : List Nat)
  /-- `CHUNK_INPUTS_COMPLETE` (R224) -/
  | chunkInputsComplete (coll : Nat) (chunk : Nat) (residueBad : Bool) (rowBad : Option Nat) (colBad : List Nat)
  /-- `SHADOW_RUN_COMPLETE` (R191) -/
  | shadowRunComplete (engine : Nat) (differs : Bool)
  /-- `SHADOW_TIMEOUT` (R191) -/
  | shadowTimeout (engine : Nat)
  /-- `ARRIVE_RECEIVED` (R220) -/
  | arriveReceived (fid : Nat)
  /-- `NODE_DONE_RECEIVED` (R225) -/
  | nodeDoneReceived (fid : Nat)
  /-- `END_RECEIVED` (R225) -/
  | endReceived (fid : Nat)
  /-- `ABORT_RECEIVED` (R226) -/
  | abortReceived (fid : Nat)
  /-- `COLL_DEADLINE` (R226) -/
  | collDeadline (coll : Nat)
  /-- `BCAST_CHUNK_ARRIVAL` (R230) -/
  | bcastChunkArrival (fid : Nat)
  /-- `BC_ACK_RECEIVED` (R230) -/
  | bcAckReceived (fid : Nat)
  /-- `BC_RESEND` (R230) -/
  | bcResend (coll : Nat)
  /-- `DIGEST_RECEIVED` (R231) -/
  | digestReceived (fid : Nat)
  /-- `REPAIR_REQ_RECEIVED` (R232) -/
  | repairReqReceived (fid : Nat)
  /-- `ADOPT_RECEIVED` (R232) -/
  | adoptReceived (fid : Nat)
  /-- `ADOPT_TIMEOUT` (R232) -/
  | adoptTimeout (coll : Nat)
  /-- `RING_ACQUIRE_COMPLETE` (R264) -/
  | ringAcquireComplete (ring : Nat) (peaks : List (Nat × Int)) (lit : Bool)
  /-- `HEATER_WINDOW_EXCEEDED` (R266) -/
  | heaterWindowExceeded (ring : Nat) (heat : Nat)
  /-- `POWER_EVALUATION` (R268) -/
  | powerEvaluation (engine : Nat) (means : List Int)
  /-- `MIGRATION_SCHEDULED_START` (R271) -/
  | migrationScheduledStart (lane : Nat)
  /-- `MIG_REQ_RECEIVED` (R271) -/
  | migReqReceived (port : Nat) (msg : List Byte)
  /-- `MIG_READY_RECEIVED` (R271) -/
  | migReadyReceived (port : Nat) (msg : List Byte)
  /-- `MIG_SWITCH_RECEIVED` (R271) -/
  | migSwitchReceived (port : Nat) (msg : List Byte)
  /-- `MIG_SWITCH_TIME` (R271) -/
  | migSwitchTime (lane : Nat)
  /-- `MIG_DONE_RECEIVED` (R271) -/
  | migDoneReceived (port : Nat) (msg : List Byte)
  /-- `MIG_ABORT_RECEIVED` (R272) -/
  | migAbortReceived (port : Nat) (msg : List Byte)
  /-- `MIG_ASK_RECEIVED` (R273) -/
  | migAskReceived (port : Nat) (msg : List Byte)
  /-- `MIG_TIMEOUT` (R272) -/
  | migTimeout (lane : Nat)
  /-- `STEER_TAKEOVER` (R279) -/
  | steerTakeover
  /-- `CIRCUIT_TAKEOVER` (R283) -/
  | circuitTakeover (part : Nat)
  /-- `XC_OUTPUT_FALL` (R283) -/
  | xcOutputFall (out : Nat) (power : Int)
  /-- `TIME_FRAME_SEND` (R294) -/
  | timeFrameSend (port : Nat)
  /-- `TIME_FRAME_RECEIVE` (R295) -/
  | timeFrameReceive (fid : Nat)
  /-- `ROOT_WAIT_EXPIRY` (R292) -/
  | rootWaitExpiry
  /-- `PARENT_SILENCE` (R297) -/
  | parentSilence
  /-- `PTP_SYNC_RECEIVE` (R300) -/
  | ptpSyncReceive (src : Nat) (domain : Nat) (gm : Nat) (time : Nat) (logInterval : Int) (utc : Nat)
  /-- `PTP_LOSS` (R300) -/
  | ptpLoss
  /-- `TIME_BEAT` (R301) -/
  | timeBeat (missed : List Nat)
  /-- `HEDGE_BEAT_SEND` (R322) -/
  | hedgeBeatSend (port : Nat)
  /-- `HEDGE_BEAT_RECEIVE` (R322) -/
  | hedgeBeatReceive (fid : Nat)
  /-- `NEIGHBOUR_SILENT` (R322) -/
  | neighbourSilent (dim : Nat)
  /-- `PROPOSE_RECEIVED` (R325) -/
  | proposeReceived (fid : Nat)
  /-- `VOTE_OBSERVATION_DUE` (R325) -/
  | voteObservationDue (suspect : Nat)
  /-- `VOTE_YES_RECEIVED` (R325) -/
  | voteYesReceived (fid : Nat)
  /-- `VOTE_NO_RECEIVED` (R325) -/
  | voteNoReceived (fid : Nat)
  /-- `VOTE_WINDOW_EXPIRY` (R325) -/
  | voteWindowExpiry (suspect : Nat)
  /-- `COMMIT_RECEIVED` (R325) -/
  | commitReceived (fid : Nat)
  /-- `ABANDON_RECEIVED` (R325) -/
  | abandonReceived (fid : Nat)
  /-- `NOTICE_RECEIVED` (R327) -/
  | noticeReceived (fid : Nat)
  /-- `HOLD_RECEIVED` (R328) -/
  | holdReceived (fid : Nat)
  /-- `RELEASE_RECEIVED` (R328) -/
  | releaseReceived (fid : Nat)
  /-- `EXPULSION_WINDOW_AGE` (R328) -/
  | expulsionWindowAge
  /-- `SCORE_RECOVERY` (R319) -/
  | scoreRecovery
  /-- `SINK_FENCE` (R327) -/
  | sinkFence (port : Nat)
  /-- `DISCOVERY_SEND` (R314) -/
  | discoverySend (port : Nat)
  /-- `DISCOVERY_RECEIVE` (R316) -/
  | discoveryReceive (fid : Nat)
  /-- `BOUNDARY_FENCE_APPLY` (R311) -/
  | boundaryFenceApply (port : Nat)
  /-- `PLAN_WAIT_EXPIRY` (R316) -/
  | planWaitExpiry (port : Nat)
  /-- `PROBATION_END` (R329) -/
  | probationEnd (spine : Nat)
  /-- `TEARDOWN_COMPLETE` (R331) -/
  | teardownComplete
  /-- `REKEY_TIMER` (R343) -/
  | rekeyTimer (link : Nat)
  /-- `SNAPSHOT_LATCH` (R392) -/
  | snapshotLatch
  /-- `SNAPSHOT_WRITTEN` (R393) -/
  | snapshotWritten
  /-- `SNAPSHOT_EXPIRY` (R393) -/
  | snapshotExpiry
  /-- `TRACE_TIME_RECORD` (R396) -/
  | traceTimeRecord
  /-- `TRACE_STOP_TIME` (R397) -/
  | traceStopTime
  /-- `HEATER_AT_RANGE_LIMIT` (R264) -/
  | heaterAtRangeLimit (ring : Nat) (heat : Nat)
  /-- `CIRCUIT_LIT` (R283) -/
  | circuitLit (out : Nat) (power : Int)
  /-- `OPTICAL_CONTROL_MESSAGE_REPEAT` (R270) -/
  | opticalControlMessageRepeat (lane : Nat)
  /-- `UPSET` (R371) -/
  | upset (target : UpsetTarget)
  /-- `RAIL_OUT_OF_REGULATION` (R407) -/
  | railOutOfRegulation (rail : Nat) (bad : Bool)
  deriving DecidableEq, Repr

end Sys2Proof
end

