-- ==== Sys2Proof/Decode.lean ====
section
/-!
DEFINITION. Decode.lean: the command that a word spells. The opcode table gives no row any bits: commands are operations on the
block, and the block decodes what it is given (messages, frames, images) inside their meanings.
-/

namespace Sys2Proof

/-- The command that a word of `nbits` bits spells by the opcode table: none. Log 3 (DESIGN CHOICE). -/
def decodeTableWord (_nbits _w : Nat) : Option Instr := none

end Sys2Proof
end

