-- ==== Sys2Proof/Machine/EventTable.lean ====
section
/-!
DEFINITION. Machine/EventTable.lean: the event catalogue of Strata (Table 18.2, R383, R384): one name for every
event, its number EVT = 32 × block + index, its scope kind and its marks.
-/

namespace Sys2Proof.Machine

/-- Scope kinds of Table 18.1, by the manual's letter. -/
inductive ScopeKind where
  | m | p | l | h | e | a | o | r | n | x | g | c | u | y
  deriving DecidableEq, Repr

/-- The SCOPE values of a kind are those below this number (Table 18.1). -/
def scopeRange : ScopeKind → Nat
  | .m => 1 | .p => 1280 | .l => 1296 | .h => 2 | .e => 144 | .a => 128 | .o => 512 | .r => 2304 | .n => 608
  | .x => 512 | .g => 359 | .c => 0x1001 | .u => 1424 | .y => 64

/-- One event of Table 18.2: EVT = 32 × block ID + index (R383), its scope kind, whether it is marked ‡ (written to
rings only while RING_ALL is 1) and whether it is marked ! (an alarm, R389). Events marked † (quantities) are raised
with a count. -/
structure Ev where
  evt : Nat
  kind : ScopeKind
  gated : Bool := false
  alarm : Bool := false
  deriving DecidableEq, Repr

/-! Block 0x00 -/
/-- `REG_BAD_ADDR` -/
def Ev.regBadAddr : Ev := ⟨0x000, .m, false, false⟩
/-- `REG_BAD_ACCESS` -/
def Ev.regBadAccess : Ev := ⟨0x001, .m, false, false⟩
/-- `REG_REJECT` -/
def Ev.regReject : Ev := ⟨0x002, .m, false, false⟩
/-- `REG_DOMAIN_TIMEOUT` -/
def Ev.regDomainTimeout : Ev := ⟨0x003, .m, false, false⟩
/-- `REG_VOTE_FIX` -/
def Ev.regVoteFix : Ev := ⟨0x004, .m, false, false⟩
/-- `REG_COMMIT_FAIL` -/
def Ev.regCommitFail : Ev := ⟨0x005, .m, false, false⟩
/-- `WAKE_LATE` -/
def Ev.wakeLate : Ev := ⟨0x006, .g, false, false⟩
/-! Block 0x01 -/
/-- `HOLLY_TAG_FAIL` -/
def Ev.hollyTagFail : Ev := ⟨0x020, .p, false, false⟩
/-- `HOLLY_REKEY` -/
def Ev.hollyRekey : Ev := ⟨0x021, .p, false, false⟩
/-- `MACSEC_PN_EXHAUSTED` -/
def Ev.macsecPnExhausted : Ev := ⟨0x022, .p, false, false⟩
/-- `HOLLY_KEX_FAIL` -/
def Ev.hollyKexFail : Ev := ⟨0x023, .m, false, false⟩
/-- `HOLLY_ERASE` -/
def Ev.hollyErase : Ev := ⟨0x024, .m, false, false⟩
/-- `MACSEC_UNPROTECTED` -/
def Ev.macsecUnprotected : Ev := ⟨0x025, .p, false, false⟩
/-! Block 0x02 -/
/-- `YEW_STEP` -/
def Ev.yewStep : Ev := ⟨0x040, .m, false, false⟩
/-- `YEW_LOCK` -/
def Ev.yewLock : Ev := ⟨0x041, .m, false, false⟩
/-- `YEW_UNLOCK` -/
def Ev.yewUnlock : Ev := ⟨0x042, .m, false, false⟩
/-- `YEW_HOLDOVER` -/
def Ev.yewHoldover : Ev := ⟨0x043, .m, false, false⟩
/-- `YEW_PARENT_SWITCH` -/
def Ev.yewParentSwitch : Ev := ⟨0x044, .m, false, false⟩
/-- `YEW_RATE_LIMIT` -/
def Ev.yewRateLimit : Ev := ⟨0x045, .m, false, false⟩
/-- `YEW_ROOT_MISMATCH` -/
def Ev.yewRootMismatch : Ev := ⟨0x046, .m, false, false⟩
/-- `PTP_LOST` -/
def Ev.ptpLost : Ev := ⟨0x047, .m, false, false⟩
/-- `YEW_SAMPLE_DROP` -/
def Ev.yewSampleDrop : Ev := ⟨0x048, .p, false, false⟩
/-- `YEW_BEAT_MISS` -/
def Ev.yewBeatMiss : Ev := ⟨0x049, .g, false, false⟩
/-! Block 0x03 -/
/-- `NCP_TAG_FAIL` -/
def Ev.ncpTagFail : Ev := ⟨0x060, .c, false, false⟩
/-- `NCP_STALE_SEQ` -/
def Ev.ncpStaleSeq : Ev := ⟨0x061, .c, false, false⟩
/-- `NCP_DUP` -/
def Ev.ncpDup : Ev := ⟨0x062, .c, false, false⟩
/-- `NCP_RATE_DROP` -/
def Ev.ncpRateDrop : Ev := ⟨0x063, .c, false, false⟩
/-- `NCP_FRAG_TMO` -/
def Ev.ncpFragTmo : Ev := ⟨0x064, .m, false, false⟩
/-- `NCP_NO_KEY` -/
def Ev.ncpNoKey : Ev := ⟨0x065, .m, false, false⟩
/-- `MBX_BUSY` -/
def Ev.mbxBusy : Ev := ⟨0x066, .m, false, false⟩
/-! Block 0x08 -/
/-- `FRM_BAD_ETYPE` -/
def Ev.frmBadEtype : Ev := ⟨0x100, .p, false, false⟩
/-- `FFH_CRC_ERR` -/
def Ev.ffhCrcErr : Ev := ⟨0x101, .p, false, false⟩
/-- `FFH_BAD_VER` -/
def Ev.ffhBadVer : Ev := ⟨0x102, .p, false, false⟩
/-- `FFH_MALFORMED` -/
def Ev.ffhMalformed : Ev := ⟨0x103, .p, false, false⟩
/-- `FFH_WRONG_PLANE` -/
def Ev.ffhWrongPlane : Ev := ⟨0x104, .p, false, false⟩
/-- `FFH_SRC_SPOOF` -/
def Ev.ffhSrcSpoof : Ev := ⟨0x105, .p, false, false⟩
/-- `FFH_FENCED` -/
def Ev.ffhFenced : Ev := ⟨0x106, .p, false, false⟩
/-- `FFH_BAD_PART` -/
def Ev.ffhBadPart : Ev := ⟨0x107, .p, false, false⟩
/-- `FFH_STALE_EPOCH` -/
def Ev.ffhStaleEpoch : Ev := ⟨0x108, .p, false, false⟩
/-- `UDP_NO_VLINK` -/
def Ev.udpNoVlink : Ev := ⟨0x109, .p, false, false⟩
/-- `ETH_SIZE` -/
def Ev.ethSize : Ev := ⟨0x10A, .p, false, false⟩
/-- `ETH_TTL` -/
def Ev.ethTtl : Ev := ⟨0x10B, .p, false, false⟩
/-- `ETH_PAUSE` -/
def Ev.ethPause : Ev := ⟨0x10C, .p, false, false⟩
/-! Block 0x09 -/
/-- `CAL_STARVE` -/
def Ev.calStarve : Ev := ⟨0x120, .p, false, false⟩
/-- `GL_TAKEOVER` -/
def Ev.glTakeover : Ev := ⟨0x121, .p, false, false⟩
/-- `CAL_TAKEOVER` -/
def Ev.calTakeover : Ev := ⟨0x122, .p, false, false⟩
/-- `TC7_TOO_LONG` -/
def Ev.tc7TooLong : Ev := ⟨0x123, .p, false, false⟩
/-- `TC7_WINDOW_MISS` -/
def Ev.tc7WindowMiss : Ev := ⟨0x124, .p, false, false⟩
/-- `TC7_OVERLAP` -/
def Ev.tc7Overlap : Ev := ⟨0x125, .p, false, false⟩
/-- `TC7_DEPART_MISS` -/
def Ev.tc7DepartMiss : Ev := ⟨0x126, .p, false, false⟩
/-- `TC7_WAKE_MISS` -/
def Ev.tc7WakeMiss : Ev := ⟨0x127, .p, false, false⟩
/-- `POLICE_DROP` -/
def Ev.policeDrop : Ev := ⟨0x128, .p, true, false⟩
/-! Block 0x0A -/
/-- `MC_NO_GROUP` -/
def Ev.mcNoGroup : Ev := ⟨0x140, .p, false, false⟩
/-- `EXPERT_MISS` -/
def Ev.expertMiss : Ev := ⟨0x141, .p, false, false⟩
/-- `DPORT_MISS` -/
def Ev.dportMiss : Ev := ⟨0x142, .p, false, false⟩
/-- `L3_MISS` -/
def Ev.l3Miss : Ev := ⟨0x143, .p, false, false⟩
/-- `L2_FLOOD` -/
def Ev.l2Flood : Ev := ⟨0x144, .p, true, false⟩
/-- `FEXC_DROP` -/
def Ev.fexcDrop : Ev := ⟨0x145, .p, false, false⟩
/-- `FEXC_TRAP_LIMIT` -/
def Ev.fexcTrapLimit : Ev := ⟨0x146, .p, false, false⟩
/-- `LEARN_QUEUE_FULL` -/
def Ev.learnQueueFull : Ev := ⟨0x147, .h, false, false⟩
/-- `LEARN_DROP` -/
def Ev.learnDrop : Ev := ⟨0x148, .p, false, false⟩
/-- `LEARN_FLOOD` -/
def Ev.learnFlood : Ev := ⟨0x149, .p, true, false⟩
/-- `LEARN_TABLE_FULL` -/
def Ev.learnTableFull : Ev := ⟨0x14A, .p, false, false⟩
/-- `LEARN_MOVE` -/
def Ev.learnMove : Ev := ⟨0x14B, .p, false, false⟩
/-- `LEARN_STATIC_CONFLICT` -/
def Ev.learnStaticConflict : Ev := ⟨0x14C, .p, false, false⟩
/-- `AGE_EVICT` -/
def Ev.ageEvict : Ev := ⟨0x14D, .p, true, false⟩
/-- `VLAN_INGRESS` -/
def Ev.vlanIngress : Ev := ⟨0x14E, .p, false, false⟩
/-- `ACL_DENY` -/
def Ev.aclDeny : Ev := ⟨0x14F, .p, false, false⟩
/-- `LAUREL_PARITY` -/
def Ev.laurelParity : Ev := ⟨0x150, .h, false, false⟩
/-! Block 0x0B -/
/-- `EPOCH_RELEASE` -/
def Ev.epochRelease : Ev := ⟨0x160, .m, false, false⟩
/-- `ROUTE_TAKEOVER` -/
def Ev.routeTakeover : Ev := ⟨0x161, .m, false, false⟩
/-- `ROUTE_UNREACH` -/
def Ev.routeUnreach : Ev := ⟨0x162, .p, false, false⟩
/-- `ROUTE_NO_PORT` -/
def Ev.routeNoPort : Ev := ⟨0x163, .p, false, false⟩
/-- `ROUTE_HOP_LIMIT` -/
def Ev.routeHopLimit : Ev := ⟨0x164, .p, false, false⟩
/-- `REROUTE_FENCED` -/
def Ev.rerouteFenced : Ev := ⟨0x165, .p, false, false⟩
/-- `ESC_MOVE` -/
def Ev.escMove : Ev := ⟨0x166, .p, true, false⟩
/-- `ESC_RANK` -/
def Ev.escRank : Ev := ⟨0x167, .p, false, false⟩
/-- `SWEEP_NO_SLOT` -/
def Ev.sweepNoSlot : Ev := ⟨0x168, .p, false, false⟩
/-- `SWEEP_TIMEOUT` -/
def Ev.sweepTimeout : Ev := ⟨0x169, .p, false, false⟩
/-- `SWEEP_MC` -/
def Ev.sweepMc : Ev := ⟨0x16A, .p, false, false⟩
/-- `ECN_MARK` -/
def Ev.ecnMark : Ev := ⟨0x16B, .p, true, false⟩
/-- `ECE_EVICT` -/
def Ev.eceEvict : Ev := ⟨0x16C, .p, false, false⟩
/-- `THROTTLE_WITHHOLD` -/
def Ev.throttleWithhold : Ev := ⟨0x16D, .p, true, false⟩
/-- `CMAP_STALE` -/
def Ev.cmapStale : Ev := ⟨0x16E, .p, false, false⟩
/-- `SWEEP_SHARED_WAIT` -/
def Ev.sweepSharedWait : Ev := ⟨0x16F, .p, true, false⟩
/-! Block 0x10 -/
/-- `LOAM_CE` -/
def Ev.loamCe : Ev := ⟨0x200, .m, true, false⟩
/-- `LOAM_UE` -/
def Ev.loamUe : Ev := ⟨0x201, .m, false, false⟩
/-- `LOAM_QUAD_DEGRADED` -/
def Ev.loamQuadDegraded : Ev := ⟨0x202, .m, false, true⟩
/-- `LOAM_LAND_FULL` -/
def Ev.loamLandFull : Ev := ⟨0x203, .p, false, false⟩
/-- `LOAM_DROP` -/
def Ev.loamDrop : Ev := ⟨0x204, .p, true, false⟩
/-- `LOAM_WITHHOLD` -/
def Ev.loamWithhold : Ev := ⟨0x205, .p, true, false⟩
/-- `TC7_RESV_MISS` -/
def Ev.tc7ResvMiss : Ev := ⟨0x206, .p, false, false⟩
/-- `LOAM_SPILL_FULL` -/
def Ev.loamSpillFull : Ev := ⟨0x207, .p, false, false⟩
/-- `MC_COPY_FENCED` -/
def Ev.mcCopyFenced : Ev := ⟨0x208, .p, false, false⟩
/-- `SINK_STALL_DROP` -/
def Ev.sinkStallDrop : Ev := ⟨0x209, .p, false, false⟩
/-! Block 0x11 -/
/-- `SIEVE_DOUBLE` -/
def Ev.sieveDouble : Ev := ⟨0x220, .h, false, true⟩
/-- `SIEVE_LEAK` -/
def Ev.sieveLeak : Ev := ⟨0x221, .h, false, true⟩
/-- `SIEVE_CHARGE_FIX` -/
def Ev.sieveChargeFix : Ev := ⟨0x222, .h, false, false⟩
/-- `SIEVE_START_BUSY` -/
def Ev.sieveStartBusy : Ev := ⟨0x223, .h, false, false⟩
/-! Block 0x18 -/
/-- `KAO_PAGE_IN` -/
def Ev.kaoPageIn : Ev := ⟨0x300, .e, true, false⟩
/-- `KAO_PAGE_OUT` -/
def Ev.kaoPageOut : Ev := ⟨0x301, .e, true, false⟩
/-- `KAO_RESIDUE_ERR` -/
def Ev.kaoResidueErr : Ev := ⟨0x302, .e, false, true⟩
/-- `KAO_SHADOW_SKIP` -/
def Ev.kaoShadowSkip : Ev := ⟨0x303, .e, false, false⟩
/-- `KAO_SHADOW_MISMATCH` -/
def Ev.kaoShadowMismatch : Ev := ⟨0x304, .e, false, true⟩
/-- `KAO_COMBINE_DUP` -/
def Ev.kaoCombineDup : Ev := ⟨0x305, .e, false, false⟩
/-- `KAO_COMBINE_TMO` -/
def Ev.kaoCombineTmo : Ev := ⟨0x306, .e, false, false⟩
/-- `KAO_COMBINE_LATE` -/
def Ev.kaoCombineLate : Ev := ⟨0x307, .e, false, false⟩
/-- `FMT_SAT` -/
def Ev.fmtSat : Ev := ⟨0x308, .e, true, false⟩
/-- `FMT_NAN_ZERO` -/
def Ev.fmtNanZero : Ev := ⟨0x309, .e, true, false⟩
/-- `MX_INEXACT` -/
def Ev.mxInexact : Ev := ⟨0x30A, .e, true, false⟩
/-- `FMT_ROW_MISMATCH` -/
def Ev.fmtRowMismatch : Ev := ⟨0x30B, .e, false, false⟩
/-- `FMT_BAD_SCALE` -/
def Ev.fmtBadScale : Ev := ⟨0x30C, .e, false, false⟩
/-- `FMT_BAD_EXACT` -/
def Ev.fmtBadExact : Ev := ⟨0x30D, .e, false, false⟩
/-! Block 0x19 -/
/-- `MARL_NO_OP` -/
def Ev.marlNoOp : Ev := ⟨0x320, .o, false, false⟩
/-- `MARL_SHAPE` -/
def Ev.marlShape : Ev := ⟨0x321, .o, false, false⟩
/-- `MARL_DUP_PIECE` -/
def Ev.marlDupPiece : Ev := ⟨0x322, .o, false, false⟩
/-- `MARL_WINDOW_FULL` -/
def Ev.marlWindowFull : Ev := ⟨0x323, .o, true, false⟩
/-- `MARL_ASM_FULL` -/
def Ev.marlAsmFull : Ev := ⟨0x324, .o, true, false⟩
/-- `MARL_ASM_TMO` -/
def Ev.marlAsmTmo : Ev := ⟨0x325, .o, false, false⟩
/-- `MARL_NONFINITE` -/
def Ev.marlNonfinite : Ev := ⟨0x326, .o, false, false⟩
/-- `MARL_EXP_FENCED` -/
def Ev.marlExpFenced : Ev := ⟨0x327, .o, false, false⟩
/-- `MARL_OUT_FENCED` -/
def Ev.marlOutFenced : Ev := ⟨0x328, .o, false, false⟩
/-- `MARL_ROW_ERR` -/
def Ev.marlRowErr : Ev := ⟨0x329, .a, false, true⟩
/-- `MARL_COL_ERR` -/
def Ev.marlColErr : Ev := ⟨0x32A, .a, false, false⟩
/-- `MARL_W_CE` -/
def Ev.marlWCe : Ev := ⟨0x32B, .a, true, false⟩
/-- `MARL_W_UE` -/
def Ev.marlWUe : Ev := ⟨0x32C, .a, false, true⟩
/-! Block 0x1A -/
/-- `COLL_UNKNOWN` -/
def Ev.collUnknown : Ev := ⟨0x340, .h, false, false⟩
/-- `COLL_TEMPLATE_FAIL` -/
def Ev.collTemplateFail : Ev := ⟨0x341, .h, false, false⟩
/-- `COLL_WINDOW` -/
def Ev.collWindow : Ev := ⟨0x342, .h, true, false⟩
/-- `COLL_MISMATCH` -/
def Ev.collMismatch : Ev := ⟨0x343, .h, false, false⟩
/-- `COLL_TIMEOUT` -/
def Ev.collTimeout : Ev := ⟨0x344, .h, false, false⟩
/-- `BC_CRC_ERR` -/
def Ev.bcCrcErr : Ev := ⟨0x345, .h, false, false⟩
/-- `BC_RESEND` -/
def Ev.bcResend : Ev := ⟨0x346, .h, true, false⟩
/-- `BC_ADOPT` -/
def Ev.bcAdopt : Ev := ⟨0x347, .h, false, false⟩
/-- `BC_DIGEST_ERR` -/
def Ev.bcDigestErr : Ev := ⟨0x348, .h, false, false⟩
/-! Block 0x20 -/
/-- `LINK_UP` -/
def Ev.linkUp : Ev := ⟨0x400, .p, false, false⟩
/-- `LINK_DOWN` -/
def Ev.linkDown : Ev := ⟨0x401, .p, false, false⟩
/-- `LINK_TRAIN_FAIL` -/
def Ev.linkTrainFail : Ev := ⟨0x402, .p, false, false⟩
/-- `LINK_FEC_MISMATCH` -/
def Ev.linkFecMismatch : Ev := ⟨0x403, .p, false, false⟩
/-- `LINK_REACH_MISMATCH` -/
def Ev.linkReachMismatch : Ev := ⟨0x404, .p, false, false⟩
/-- `LINK_REACH_EXCEEDED` -/
def Ev.linkReachExceeded : Ev := ⟨0x405, .p, false, false⟩
/-- `LINK_DEGRADED` -/
def Ev.linkDegraded : Ev := ⟨0x406, .p, false, false⟩
/-- `GATE_COVER_LOST` -/
def Ev.gateCoverLost : Ev := ⟨0x407, .p, false, false⟩
/-- `LANE_ID_MISMATCH` -/
def Ev.laneIdMismatch : Ev := ⟨0x408, .l, false, false⟩
/-- `LANE_SPARED` -/
def Ev.laneSpared : Ev := ⟨0x409, .l, false, false⟩
/-- `FEC_CE_SYM`† -/
def Ev.fecCeSym : Ev := ⟨0x40A, .l, true, false⟩
/-- `FEC_UE_CW` -/
def Ev.fecUeCw : Ev := ⟨0x40B, .p, false, false⟩
/-- `LR_REPLAY` -/
def Ev.lrReplay : Ev := ⟨0x40C, .p, true, false⟩
/-- `LR_TIMEOUT` -/
def Ev.lrTimeout : Ev := ⟨0x40D, .p, false, false⟩
/-- `LR_DUP` -/
def Ev.lrDup : Ev := ⟨0x40E, .p, true, false⟩
/-- `LR_SKIP` -/
def Ev.lrSkip : Ev := ⟨0x40F, .p, false, false⟩
/-- `LR_WINDOW_FULL` -/
def Ev.lrWindowFull : Ev := ⟨0x410, .p, true, false⟩
/-- `LR_REPLAY_LIMIT` -/
def Ev.lrReplayLimit : Ev := ⟨0x411, .p, false, false⟩
/-- `LR_LINK_DOWN_DROP` -/
def Ev.lrLinkDownDrop : Ev := ⟨0x412, .p, false, false⟩
/-- `LR_GAP_ABANDON` -/
def Ev.lrGapAbandon : Ev := ⟨0x413, .p, false, false⟩
/-- `LR_TC7_REPLAY` -/
def Ev.lrTc7Replay : Ev := ⟨0x414, .p, false, false⟩
/-! Block 0x22 -/
/-- `PRV_ACQ_FAIL` -/
def Ev.prvAcqFail : Ev := ⟨0x440, .r, false, false⟩
/-- `PRV_RELOCK` -/
def Ev.prvRelock : Ev := ⟨0x441, .r, false, false⟩
/-- `PRV_WRONG_LINE` -/
def Ev.prvWrongLine : Ev := ⟨0x442, .r, false, false⟩
/-- `PRV_CROSS_HIT` -/
def Ev.prvCrossHit : Ev := ⟨0x443, .r, false, false⟩
/-- `PRV_LINE_WARN` -/
def Ev.prvLineWarn : Ev := ⟨0x444, .n, false, false⟩
/-- `PRV_LINE_MIGRATE` -/
def Ev.prvLineMigrate : Ev := ⟨0x445, .n, false, false⟩
/-- `PRV_NO_SPARE` -/
def Ev.prvNoSpare : Ev := ⟨0x446, .n, false, false⟩
/-- `PRV_LINE_FAIL` -/
def Ev.prvLineFail : Ev := ⟨0x447, .n, false, false⟩
/-- `PRV_COMB_SWITCH` -/
def Ev.prvCombSwitch : Ev := ⟨0x448, .n, false, false⟩
/-- `PRV_COMB_BOTH` -/
def Ev.prvCombBoth : Ev := ⟨0x449, .n, false, true⟩
/-- `PRV_MIG_DONE` -/
def Ev.prvMigDone : Ev := ⟨0x44A, .l, false, false⟩
/-- `PRV_MIG_ABORT` -/
def Ev.prvMigAbort : Ev := ⟨0x44B, .l, false, false⟩
/-- `PRV_PEER_MISMATCH` -/
def Ev.prvPeerMismatch : Ev := ⟨0x44C, .p, false, false⟩
/-- `STEER_TAKEOVER` -/
def Ev.steerTakeover : Ev := ⟨0x44D, .p, false, false⟩
/-! Block 0x23 -/
/-- `XC_TAKEOVER` -/
def Ev.xcTakeover : Ev := ⟨0x460, .x, false, false⟩
/-- `XC_LIT` -/
def Ev.xcLit : Ev := ⟨0x461, .x, false, false⟩
/-- `XC_LOSS` -/
def Ev.xcLoss : Ev := ⟨0x462, .x, false, false⟩
/-! Block 0x28 -/
/-- `PART_NONE` -/
def Ev.partNone : Ev := ⟨0x500, .p, false, false⟩
/-- `PART_EGRESS_DENY` -/
def Ev.partEgressDeny : Ev := ⟨0x501, .p, false, false⟩
/-- `FENCED_DST` -/
def Ev.fencedDst : Ev := ⟨0x502, .p, false, false⟩
/-- `HAW_BOUNDARY_PEER` -/
def Ev.hawBoundaryPeer : Ev := ⟨0x503, .p, false, false⟩
/-- `HAW_ABSENT` -/
def Ev.hawAbsent : Ev := ⟨0x504, .p, false, false⟩
/-- `HAW_QUARANTINE` -/
def Ev.hawQuarantine : Ev := ⟨0x505, .p, false, false⟩
/-- `HAW_SWAP` -/
def Ev.hawSwap : Ev := ⟨0x506, .p, false, false⟩
/-- `HAW_PART_MISMATCH` -/
def Ev.hawPartMismatch : Ev := ⟨0x507, .p, false, false⟩
/-- `HAW_VOTE_COMMIT` -/
def Ev.hawVoteCommit : Ev := ⟨0x508, .m, false, false⟩
/-- `HAW_DEGRADE` -/
def Ev.hawDegrade : Ev := ⟨0x509, .m, false, false⟩
/-- `HAW_HOLD` -/
def Ev.hawHold : Ev := ⟨0x50A, .m, false, true⟩
/-- `HAW_PROB_PASS` -/
def Ev.hawProbPass : Ev := ⟨0x50B, .m, false, false⟩
/-- `HAW_PROB_FAIL` -/
def Ev.hawProbFail : Ev := ⟨0x50C, .m, false, false⟩
/-- `HAW_RFENCE_FULL` -/
def Ev.hawRfenceFull : Ev := ⟨0x50D, .m, false, false⟩
/-! Block 0x30 -/
/-- `SLOT_RETIRED`† -/
def Ev.slotRetired : Ev := ⟨0x600, .u, true, false⟩
/-- `SLOT_WASTED`† -/
def Ev.slotWasted : Ev := ⟨0x601, .u, true, false⟩
/-- `SLOT_FRONT`† -/
def Ev.slotFront : Ev := ⟨0x602, .u, true, false⟩
/-- `SLOT_BACK`† -/
def Ev.slotBack : Ev := ⟨0x603, .u, true, false⟩
/-- `CTR_THRESH` -/
def Ev.ctrThresh : Ev := ⟨0x604, .m, false, false⟩
/-- `ALERT_DROP` -/
def Ev.alertDrop : Ev := ⟨0x605, .m, false, false⟩
/-- `LAYER_FRAMES` -/
def Ev.layerFrames : Ev := ⟨0x606, .y, true, false⟩
/-- `LAYER_BYTES`† -/
def Ev.layerBytes : Ev := ⟨0x607, .y, true, false⟩
/-! Block 0x31 -/
/-- `SNAP_TAKEN` -/
def Ev.snapTaken : Ev := ⟨0x620, .m, false, false⟩
/-- `SNAP_EXPIRED` -/
def Ev.snapExpired : Ev := ⟨0x621, .m, false, false⟩
/-- `RING_FREEZE` -/
def Ev.ringFreeze : Ev := ⟨0x622, .m, false, false⟩
/-- `TRACE_DROP` -/
def Ev.traceDrop : Ev := ⟨0x623, .m, true, false⟩
/-- `TRACE_LINK_DOWN` -/
def Ev.traceLinkDown : Ev := ⟨0x624, .m, false, false⟩

/-- The events of block 0x00. -/
def evBlock00 : List Ev :=
  [Ev.regBadAddr, Ev.regBadAccess, Ev.regReject, Ev.regDomainTimeout, Ev.regVoteFix, Ev.regCommitFail, Ev.wakeLate]
/-- The events of block 0x01. -/
def evBlock01 : List Ev :=
  [Ev.hollyTagFail, Ev.hollyRekey, Ev.macsecPnExhausted, Ev.hollyKexFail, Ev.hollyErase, Ev.macsecUnprotected]
/-- The events of block 0x02. -/
def evBlock02 : List Ev :=
  [Ev.yewStep, Ev.yewLock, Ev.yewUnlock, Ev.yewHoldover, Ev.yewParentSwitch, Ev.yewRateLimit, Ev.yewRootMismatch, Ev.ptpLost, Ev.yewSampleDrop, Ev.yewBeatMiss]
/-- The events of block 0x03. -/
def evBlock03 : List Ev :=
  [Ev.ncpTagFail, Ev.ncpStaleSeq, Ev.ncpDup, Ev.ncpRateDrop, Ev.ncpFragTmo, Ev.ncpNoKey, Ev.mbxBusy]
/-- The events of block 0x08. -/
def evBlock08 : List Ev :=
  [Ev.frmBadEtype, Ev.ffhCrcErr, Ev.ffhBadVer, Ev.ffhMalformed, Ev.ffhWrongPlane, Ev.ffhSrcSpoof, Ev.ffhFenced, Ev.ffhBadPart, Ev.ffhStaleEpoch, Ev.udpNoVlink, Ev.ethSize, Ev.ethTtl, Ev.ethPause]
/-- The events of block 0x09. -/
def evBlock09 : List Ev :=
  [Ev.calStarve, Ev.glTakeover, Ev.calTakeover, Ev.tc7TooLong, Ev.tc7WindowMiss, Ev.tc7Overlap, Ev.tc7DepartMiss, Ev.tc7WakeMiss, Ev.policeDrop]
/-- The events of block 0x0A. -/
def evBlock0A : List Ev :=
  [Ev.mcNoGroup, Ev.expertMiss, Ev.dportMiss, Ev.l3Miss, Ev.l2Flood, Ev.fexcDrop, Ev.fexcTrapLimit, Ev.learnQueueFull, Ev.learnDrop, Ev.learnFlood, Ev.learnTableFull, Ev.learnMove, Ev.learnStaticConflict, Ev.ageEvict, Ev.vlanIngress, Ev.aclDeny, Ev.laurelParity]
/-- The events of block 0x0B. -/
def evBlock0B : List Ev :=
  [Ev.epochRelease, Ev.routeTakeover, Ev.routeUnreach, Ev.routeNoPort, Ev.routeHopLimit, Ev.rerouteFenced, Ev.escMove, Ev.escRank, Ev.sweepNoSlot, Ev.sweepTimeout, Ev.sweepMc, Ev.ecnMark, Ev.eceEvict, Ev.throttleWithhold, Ev.cmapStale, Ev.sweepSharedWait]
/-- The events of block 0x10. -/
def evBlock10 : List Ev :=
  [Ev.loamCe, Ev.loamUe, Ev.loamQuadDegraded, Ev.loamLandFull, Ev.loamDrop, Ev.loamWithhold, Ev.tc7ResvMiss, Ev.loamSpillFull, Ev.mcCopyFenced, Ev.sinkStallDrop]
/-- The events of block 0x11. -/
def evBlock11 : List Ev :=
  [Ev.sieveDouble, Ev.sieveLeak, Ev.sieveChargeFix, Ev.sieveStartBusy]
/-- The events of block 0x18. -/
def evBlock18 : List Ev :=
  [Ev.kaoPageIn, Ev.kaoPageOut, Ev.kaoResidueErr, Ev.kaoShadowSkip, Ev.kaoShadowMismatch, Ev.kaoCombineDup, Ev.kaoCombineTmo, Ev.kaoCombineLate, Ev.fmtSat, Ev.fmtNanZero, Ev.mxInexact, Ev.fmtRowMismatch, Ev.fmtBadScale, Ev.fmtBadExact]
/-- The events of block 0x19. -/
def evBlock19 : List Ev :=
  [Ev.marlNoOp, Ev.marlShape, Ev.marlDupPiece, Ev.marlWindowFull, Ev.marlAsmFull, Ev.marlAsmTmo, Ev.marlNonfinite, Ev.marlExpFenced, Ev.marlOutFenced, Ev.marlRowErr, Ev.marlColErr, Ev.marlWCe, Ev.marlWUe]
/-- The events of block 0x1A. -/
def evBlock1A : List Ev :=
  [Ev.collUnknown, Ev.collTemplateFail, Ev.collWindow, Ev.collMismatch, Ev.collTimeout, Ev.bcCrcErr, Ev.bcResend, Ev.bcAdopt, Ev.bcDigestErr]
/-- The events of block 0x20. -/
def evBlock20 : List Ev :=
  [Ev.linkUp, Ev.linkDown, Ev.linkTrainFail, Ev.linkFecMismatch, Ev.linkReachMismatch, Ev.linkReachExceeded, Ev.linkDegraded, Ev.gateCoverLost, Ev.laneIdMismatch, Ev.laneSpared, Ev.fecCeSym, Ev.fecUeCw, Ev.lrReplay, Ev.lrTimeout, Ev.lrDup, Ev.lrSkip, Ev.lrWindowFull, Ev.lrReplayLimit, Ev.lrLinkDownDrop, Ev.lrGapAbandon, Ev.lrTc7Replay]
/-- The events of block 0x22. -/
def evBlock22 : List Ev :=
  [Ev.prvAcqFail, Ev.prvRelock, Ev.prvWrongLine, Ev.prvCrossHit, Ev.prvLineWarn, Ev.prvLineMigrate, Ev.prvNoSpare, Ev.prvLineFail, Ev.prvCombSwitch, Ev.prvCombBoth, Ev.prvMigDone, Ev.prvMigAbort, Ev.prvPeerMismatch, Ev.steerTakeover]
/-- The events of block 0x23. -/
def evBlock23 : List Ev :=
  [Ev.xcTakeover, Ev.xcLit, Ev.xcLoss]
/-- The events of block 0x28. -/
def evBlock28 : List Ev :=
  [Ev.partNone, Ev.partEgressDeny, Ev.fencedDst, Ev.hawBoundaryPeer, Ev.hawAbsent, Ev.hawQuarantine, Ev.hawSwap, Ev.hawPartMismatch, Ev.hawVoteCommit, Ev.hawDegrade, Ev.hawHold, Ev.hawProbPass, Ev.hawProbFail, Ev.hawRfenceFull]
/-- The events of block 0x30. -/
def evBlock30 : List Ev :=
  [Ev.slotRetired, Ev.slotWasted, Ev.slotFront, Ev.slotBack, Ev.ctrThresh, Ev.alertDrop, Ev.layerFrames, Ev.layerBytes]
/-- The events of block 0x31. -/
def evBlock31 : List Ev :=
  [Ev.snapTaken, Ev.snapExpired, Ev.ringFreeze, Ev.traceDrop, Ev.traceLinkDown]
/-- Every event of Table 18.2, in ascending EVT. -/
def evAll : List Ev :=
  evBlock00 ++ evBlock01 ++ evBlock02 ++ evBlock03 ++ evBlock08 ++ evBlock09 ++ evBlock0A ++ evBlock0B ++ evBlock10 ++ evBlock11 ++ evBlock18 ++ evBlock19 ++ evBlock1A ++ evBlock20 ++ evBlock22 ++ evBlock23 ++ evBlock28 ++ evBlock30 ++ evBlock31

end Sys2Proof.Machine
end

