-- ==== Sys2Proof/Machine/Bits.lean ====
section
/-!
DEFINITION. Machine/Bits.lean: sparse tables, byte order (R6), bit fields and the cyclic redundancy checks the
manual names.
-/

namespace Sys2Proof.Machine

open Sys2Proof

/-! Sparse tables -/

/-- The value under a key; `d` for a key not listed. -/
def tget {α : Type} (d : α) : Table α → Nat → α
  | [], _ => d
  | (k', v) :: t, k => if k' = k then v else tget d t k

/-- The entry under a key, if one is listed. -/
def tfind {α : Type} : Table α → Nat → Option α
  | [], _ => none
  | (k', v) :: t, k => if k' = k then some v else tfind t k

/-- Remove the entry of a key. -/
def tdel {α : Type} : Table α → Nat → Table α
  | [], _ => []
  | (k', v) :: t, k => if k' = k then t else (k', v) :: tdel t k

/-- Put an entry at its place in the rising order of keys. -/
def tins {α : Type} : Table α → Nat → α → Table α
  | [], k, v => [(k, v)]
  | (k', v') :: t, k, v =>
    if k < k' then (k, v) :: (k', v') :: t
    else if k' = k then (k, v) :: t
    else (k', v') :: tins t k v

/-- Write a value under a key; a value equal to the default removes the entry. -/
def tset {α : Type} [DecidableEq α] (d : α) (t : Table α) (k : Nat) (v : α) : Table α :=
  if v = d then tdel t k else tins t k v

/-- Change the value under a key. -/
def tmod {α : Type} [DecidableEq α] (d : α) (t : Table α) (k : Nat) (f : α → α) : Table α :=
  tset d t k (f (tget d t k))

/-- Change an entry that is listed; nothing for one that is not. -/
def tadj {α : Type} : Table α → Nat → (α → α) → Table α
  | [], _, _ => []
  | (k', v) :: t, k, f => if k' = k then (k', f v) :: t else (k', v) :: tadj t k f

/-- Change every entry. -/
def tmap {α : Type} (f : Nat → α → α) : Table α → Table α
  | [] => []
  | (k, v) :: t => (k, f k v) :: tmap f t

/-- Keep the entries that a test accepts. -/
def tfilter {α : Type} (p : Nat → α → Bool) : Table α → Table α
  | [] => []
  | (k, v) :: t => if p k v then (k, v) :: tfilter p t else tfilter p t

/-- How many entries a test accepts. -/
def tcount {α : Type} (p : Nat → α → Bool) (t : Table α) : Nat :=
  (tfilter p t).length

/-- The lowest number from `start`, among `fuel` numbers, that is no key of the table. -/
def tfree {α : Type} (t : Table α) : Nat → Nat → Option Nat
  | 0, _ => none
  | fuel + 1, start => if (tfind t start).isNone then some start else tfree t fuel (start + 1)

/-- Keys strictly rising above a bound. -/
def keysAbove {α : Type} : Option Nat → Table α → Bool
  | _, [] => true
  | none, (k, _) :: t => keysAbove (some k) t
  | some b, (k, _) :: t => decide (b < k) && keysAbove (some k) t

/-- The canonical form of a table with default `d`. -/
def tableWf {α : Type} [DecidableEq α] (d : α) (t : Table α) : Bool :=
  keysAbove none t && t.all (fun e => decide (e.2 ≠ d))

/-! Numbers, fields, bytes -/

/-- Bits [msb:lsb] of a number. -/
def bitsOf (v msb lsb : Nat) : Nat := v / 2 ^ lsb % 2 ^ (msb + 1 - lsb)

/-- Bit b of a number. -/
def bitAt (v b : Nat) : Bool := v / 2 ^ b % 2 == 1

/-- 1 for true, 0 for false. -/
def b2n (b : Bool) : Nat := if b then 1 else 0

/-- Division rounding up. -/
def ceilDiv (a b : Nat) : Nat := (a + b - 1) / b

/-- Signed reading of a w-bit number. -/
def signedOf (w v : Nat) : Int :=
  if v % 2 ^ w < 2 ^ (w - 1) then (v % 2 ^ w : Nat) else ((v % 2 ^ w : Nat) : Int) - ((2 ^ w : Nat) : Int)

/-- The low w bits of an integer. -/
def wrapInt (w : Nat) (i : Int) : Nat := (i % ((2 ^ w : Nat) : Int)).toNat

/-- Add to a counter that saturates at its highest value. -/
def satAdd (width v n : Nat) : Nat := min (v + n) (2 ^ width - 1)

/-- An integer held to [lo, hi]. -/
def clampInt (lo hi i : Int) : Int := max lo (min hi i)

/-- Number of ones among the low `n` bits. -/
def popCount : Nat → Nat → Nat
  | 0, _ => 0
  | n + 1, v => b2n (bitAt v n) + popCount n v

/-- The positions of the ones among the low `n` bits, rising. -/
def onesOf (n v : Nat) : List Nat := (List.range n).filter (bitAt v)

/-- Big-endian number of a byte list (R6). -/
def beNat (l : List Byte) : Nat := l.foldl (fun a b => a * 256 + b.toNat) 0

/-- `n` big-endian bytes of a number (R6). -/
def beBytes : Nat → Nat → List Byte
  | 0, _ => []
  | n + 1, v => BitVec.ofNat 8 (v / 256 ^ n) :: beBytes n v

/-- `n` bytes from an offset; bytes beyond the end read as zero. -/
def bytesAt (l : List Byte) (off n : Nat) : List Byte :=
  let t := (l.drop off).take n
  t ++ List.replicate (n - t.length) 0#8

/-- The big-endian field of `n` bytes at an offset (R6). -/
def beAt (l : List Byte) (off n : Nat) : Nat := beNat (bytesAt l off n)

/-- Little-endian number of a byte list (elements of a payload, R158). -/
def leNat : List Byte → Nat
  | [] => 0
  | b :: t => b.toNat + 256 * leNat t

/-- `n` little-endian bytes of a number. -/
def leBytes : Nat → Nat → List Byte
  | 0, _ => []
  | n + 1, v => BitVec.ofNat 8 v :: leBytes n (v / 256)

/-- `n` zero bytes. -/
def zeroBytes (n : Nat) : List Byte := List.replicate n 0#8

/-- Pad with zeros up to a length. -/
def padTo (n : Nat) (l : List Byte) : List Byte := l ++ zeroBytes (n - l.length)

/-- A field a value must fit in `w` bits of. -/
def fits (w v : Nat) : Bool := decide (v < 2 ^ w)

/-- Split into rows of `n` bytes; `fuel` bounds the rows. -/
def chunksOf {α : Type} (n : Nat) : Nat → List α → List (List α)
  | 0, _ => []
  | fuel + 1, l => if l.isEmpty then [] else l.take n :: chunksOf n fuel (l.drop n)

/-- The first element a test accepts, with its position. -/
def findIdx {α : Type} (p : α → Bool) : Nat → List α → Option (Nat × α)
  | _, [] => none
  | i, x :: t => if p x then some (i, x) else findIdx p (i + 1) t

/-- Does a list hold two equal members? -/
def hasDup {α : Type} [DecidableEq α] : List α → Bool
  | [] => false
  | x :: t => t.contains x || hasDup t

/-- Replace the element at a position. -/
def setNth {α : Type} : List α → Nat → α → List α
  | [], _, _ => []
  | _ :: t, 0, y => y :: t
  | x :: t, n + 1, y => x :: setNth t n y

/-- The element with the least key, the first among equals. -/
def minBy {α : Type} (key : α → Nat) : List α → Option α
  | [] => none
  | x :: t =>
    match minBy key t with
    | none => some x
    | some y => if key y < key x then some y else some x

/-! Cyclic redundancy checks -/

/-- One bit step of an unreflected 16-bit register. -/
def crc16Bit (poly r : Nat) : Nat :=
  if r < 0x8000 then r * 2 else (r * 2 % 0x10000) ^^^ poly

/-- CRC-16 with polynomial 0x1021 and initial value 0xFFFF, unreflected: HCRC of Table 2.3. -/
def crc16 (l : List Byte) : Nat :=
  l.foldl (fun r b => (List.range 8).foldl (fun x _ => crc16Bit 0x1021 x) (r ^^^ (b.toNat * 256))) 0xFFFF

/-- One byte of a reflected register. -/
def crcReflByte (poly r b : Nat) : Nat :=
  (List.range 8).foldl (fun x _ => if x % 2 = 1 then (x / 2) ^^^ poly else x / 2) (r ^^^ b)

/-- CRC-32 of IEEE 802.3 (reflected polynomial 0xEDB8_8320). -/
def crc32 (l : List Byte) : Nat :=
  (l.foldl (fun r b => crcReflByte 0xEDB88320 r b.toNat) 0xFFFFFFFF) ^^^ 0xFFFFFFFF

/-- CRC-32C with an initial value (polynomial 0x1EDC_6F41, reflected; R138). -/
def crc32cFrom (init : Nat) (l : List Byte) : Nat :=
  (l.foldl (fun r b => crcReflByte 0x82F63B78 r b.toNat) init) ^^^ 0xFFFFFFFF

/-- CRC-64 of BC_CRC (polynomial 0x42F0_E1EB_A9EA_3693, reflected; R221). -/
def crc64 (l : List Byte) : Nat :=
  (l.foldl (fun r b => crcReflByte 0xC96C5795D7870F42 r b.toNat) 0xFFFFFFFFFFFFFFFF) ^^^ 0xFFFFFFFFFFFFFFFF

end Sys2Proof.Machine
end

