-- ==== Sys2Proof/Machine/RegTable.lean ====
section
/-!
DEFINITION. Machine/RegTable.lean: every register of the module, block by block, field by field, as the register
tables of the chapters list them (R370, R376, R382, Table 17.6).
-/

namespace Sys2Proof.Machine

open Sys2Proof

/-- Access types of Table 17.2. -/
inductive Acc where
  | ro | rw | wo | w1c | rwv | rwl
  deriving DecidableEq, Repr

/-- Change classes of R376; `none` is the dash of the tables. -/
inductive ChangeClass where
  | none | live | halt | shadow
  deriving DecidableEq, Repr

/-- A field of a register: place, access, change class, reset value, and the bounds its description gives: a value
below `lo` is rejected with BAD_PARAM, one above `hi` with `hiCode`. -/
structure FieldDesc where
  lsb : Nat
  width : Nat
  acc : Acc
  cls : ChangeClass
  reset : Nat := 0
  lo : Nat := 0
  hi : Option Nat := none
  hiCode : Code := .badParam
  deriving DecidableEq, Repr

/-- The instances that hold a register: the single instance 0x00, the module-wide instance 0xFF, or one per unit. -/
inductive InstKind where
  | one
  | all
  | each (n : Nat)
  deriving DecidableEq, Repr

/-- How the copy of a register is chosen: one copy; a selector, with a copy per requester (R367); or the copies
addressed by the selector at an offset of the same block instance. -/
inductive SelKind where
  | plain
  | selector
  | byRegister (off : Nat)
  deriving DecidableEq, Repr

/-- A register, or a row of `n` registers `stride` bytes apart. -/
structure RegDesc where
  blk : Nat
  inst : InstKind
  off : Nat
  n : Nat := 1
  stride : Nat := 4
  sel : SelKind := .plain
  fields : List FieldDesc
  deriving DecidableEq, Repr

/-- The place of a writable field, for the units that use it. `inst` is 0xFF or 0x00, or is given where it is read. -/
structure Fld where
  blk : Nat
  inst : Nat
  off : Nat
  lsb : Nat
  width : Nat
  deriving DecidableEq, Repr

/-- Registers of Table 2.11 (block 0x08). -/
def regs2_11 : List RegDesc :=
  [
   -- `FRM_ETYPE`
   ⟨0x08, .all, 0x0000, 1, 4, .plain,
     [⟨0, 16, .rw, .shadow, 0x88B5, 0, none, .badParam⟩]⟩,
   -- `FRM_UDP`
   ⟨0x08, .all, 0x0004, 1, 4, .plain,
     [⟨0, 16, .rw, .shadow, 0xC5A0, 0, none, .badParam⟩]⟩,
   -- `FRM_CTRL`
   ⟨0x08, .all, 0x0008, 1, 4, .plain,
     [⟨8, 1, .rw, .live, 0x0, 0, none, .badParam⟩,
      ⟨0, 8, .rw, .live, 0x40, 0, none, .badParam⟩]⟩]

/-- Registers of Table 2.12 (block 0x08). -/
def regs2_12 : List RegDesc :=
  [
   -- `PORT_MODE_Tt`
   ⟨0x08, .each 16, 0x0040, 10, 4, .plain,
     [⟨0, 2, .rw, .shadow, 0x0, 0, some 2, .badParam⟩,
      ⟨2, 2, .rw, .shadow, 0x0, 0, some 2, .badParam⟩,
      ⟨4, 2, .rw, .shadow, 0x0, 0, some 2, .badParam⟩,
      ⟨6, 2, .rw, .shadow, 0x0, 0, some 2, .badParam⟩,
      ⟨8, 2, .rw, .shadow, 0x0, 0, some 2, .badParam⟩,
      ⟨10, 2, .rw, .shadow, 0x0, 0, some 2, .badParam⟩,
      ⟨12, 2, .rw, .shadow, 0x0, 0, some 2, .badParam⟩,
      ⟨14, 2, .rw, .shadow, 0x0, 0, some 2, .badParam⟩]⟩,
   -- `PCP_MAP`
   ⟨0x08, .each 16, 0x0080, 1, 4, .plain,
     [⟨0, 3, .rw, .live, 0x1, 0, none, .badParam⟩,
      ⟨3, 3, .rw, .live, 0x0, 0, none, .badParam⟩,
      ⟨6, 3, .rw, .live, 0x2, 0, none, .badParam⟩,
      ⟨9, 3, .rw, .live, 0x3, 0, none, .badParam⟩,
      ⟨12, 3, .rw, .live, 0x4, 0, none, .badParam⟩,
      ⟨15, 3, .rw, .live, 0x4, 0, none, .badParam⟩,
      ⟨18, 3, .rw, .live, 0x4, 0, none, .badParam⟩,
      ⟨21, 3, .rw, .live, 0x4, 0, none, .badParam⟩]⟩]

/-- Registers of Table 3.11 (block 0x10). -/
def regs3_11 : List RegDesc :=
  [
   -- `LOAM_STATUS`
   ⟨0x10, .all, 0x0000, 1, 4, .plain,
     [⟨0, 1, .ro, .live, 0x0, 0, none, .badParam⟩]⟩,
   -- `LOAM_SHARED_SIZE`
   ⟨0x10, .all, 0x0004, 1, 4, .plain,
     [⟨0, 23, .ro, .live, 0x0, 0, none, .badParam⟩]⟩,
   -- `LOAM_SHARED_USED`
   ⟨0x10, .all, 0x0008, 1, 4, .plain,
     [⟨0, 23, .ro, .live, 0x0, 0, none, .badParam⟩]⟩,
   -- `LOAM_THRESH`
   ⟨0x10, .all, 0x000C, 1, 4, .plain,
     [⟨24, 8, .rw, .live, 0xC0, 0, none, .badParam⟩,
      ⟨16, 8, .rw, .live, 0xA8, 0, none, .badParam⟩,
      ⟨8, 8, .rw, .live, 0xE6, 0, none, .badParam⟩,
      ⟨0, 8, .rw, .live, 0xFA, 0, none, .badParam⟩]⟩,
   -- `LOAM_TC6`
   ⟨0x10, .all, 0x0010, 1, 4, .plain,
     [⟨16, 16, .rw, .shadow, 0x100, 0, none, .badParam⟩,
      ⟨0, 16, .rw, .shadow, 0x8000, 0, none, .badParam⟩]⟩,
   -- `LOAM_RESV`
   ⟨0x10, .all, 0x0014, 1, 4, .plain,
     [⟨8, 8, .rw, .shadow, 0x40, 0, none, .badParam⟩,
      ⟨0, 8, .rw, .shadow, 0x24, 0, none, .badParam⟩]⟩,
   -- `LOAM_SPILL`
   ⟨0x10, .all, 0x0018, 1, 4, .plain,
     [⟨0, 16, .rw, .live, 0x100, 0, none, .badParam⟩]⟩,
   -- `LOAM_HOLD`
   ⟨0x10, .all, 0x001C, 1, 4, .plain,
     [⟨16, 1, .rw, .live, 0x1, 0, none, .badParam⟩,
      ⟨0, 16, .rw, .live, 0x1F40, 0, none, .badParam⟩]⟩,
   -- `LOAM_SINK`
   ⟨0x10, .all, 0x0020, 1, 4, .plain,
     [⟨0, 16, .rw, .live, 0x64, 1, none, .badParam⟩]⟩,
   -- `LOAM_WHEEL`
   ⟨0x10, .all, 0x0024, 1, 4, .plain,
     [⟨0, 32, .ro, .live, 0x0, 0, none, .badParam⟩]⟩,
   -- `PART_SEL`
   ⟨0x10, .all, 0x0040, 1, 4, .selector,
     [⟨0, 12, .rw, .live, 0x0, 0, none, .badParam⟩]⟩,
   -- `PART_TQUOTA`
   ⟨0x10, .all, 0x0044, 1, 4, .byRegister 0x40,
     [⟨0, 23, .rw, .live, 0x400000, 0, none, .badParam⟩]⟩,
   -- `PART_SQUOTA`
   ⟨0x10, .all, 0x0048, 1, 4, .byRegister 0x40,
     [⟨0, 26, .rw, .live, 0x3000000, 0, none, .badParam⟩]⟩,
   -- `PART_TCHARGE`
   ⟨0x10, .all, 0x004C, 1, 4, .byRegister 0x40,
     [⟨0, 23, .ro, .live, 0x0, 0, none, .badParam⟩]⟩,
   -- `PART_SCHARGE`
   ⟨0x10, .all, 0x0050, 1, 4, .byRegister 0x40,
     [⟨0, 26, .ro, .live, 0x0, 0, none, .badParam⟩]⟩]

/-- Registers of Table 3.12 (block 0x10). -/
def regs3_12 : List RegDesc :=
  [
   -- `SUB_FREE`
   ⟨0x10, .each 2, 0x0100, 1, 4, .plain,
     [⟨0, 25, .ro, .live, 0x1800000, 0, none, .badParam⟩]⟩,
   -- `SUB_RETRY_POOL`
   ⟨0x10, .each 2, 0x0104, 1, 4, .plain,
     [⟨0, 25, .rw, .shadow, 0x10000, 0, none, .badParam⟩]⟩,
   -- `SUB_SPILLED`
   ⟨0x10, .each 2, 0x0108, 1, 4, .plain,
     [⟨0, 25, .ro, .live, 0x0, 0, none, .badParam⟩]⟩,
   -- `SUB_STACK_EN`
   ⟨0x10, .each 2, 0x010C, 1, 4, .plain,
     [⟨0, 6, .rw, .shadow, 0x3F, 0, none, .badParam⟩]⟩]

/-- Registers of Table 3.13 (block 0x11). -/
def regs3_13 : List RegDesc :=
  [
   -- `SIEVE_CTRL`
   ⟨0x11, .each 2, 0x0000, 1, 4, .plain,
     [⟨2, 1, .wo, .live, 0x0, 0, none, .badParam⟩,
      ⟨1, 1, .rw, .live, 0x0, 0, none, .badParam⟩,
      ⟨0, 1, .rw, .live, 0x1, 0, none, .badParam⟩]⟩,
   -- `SIEVE_PERIOD`
   ⟨0x11, .each 2, 0x0004, 1, 4, .plain,
     [⟨16, 16, .rw, .live, 0x64, 0, none, .badParam⟩,
      ⟨0, 16, .rw, .live, 0xA, 0, none, .badParam⟩]⟩,
   -- `SIEVE_PASSES`
   ⟨0x11, .each 2, 0x0008, 1, 4, .plain,
     [⟨0, 32, .ro, .live, 0x0, 0, none, .badParam⟩]⟩,
   -- `SIEVE_LEAKS`
   ⟨0x11, .each 2, 0x000C, 1, 4, .plain,
     [⟨0, 32, .ro, .live, 0x0, 0, none, .badParam⟩]⟩,
   -- `SIEVE_DOUBLES`
   ⟨0x11, .each 2, 0x0010, 1, 4, .plain,
     [⟨0, 32, .ro, .live, 0x0, 0, none, .badParam⟩]⟩,
   -- `SIEVE_LAST`
   ⟨0x11, .each 2, 0x0014, 1, 4, .plain,
     [⟨30, 2, .ro, .live, 0x0, 0, none, .badParam⟩,
      ⟨29, 1, .ro, .live, 0x0, 0, none, .badParam⟩,
      ⟨0, 26, .ro, .live, 0x0, 0, none, .badParam⟩]⟩,
   -- `SIEVE_LAST_PART`
   ⟨0x11, .each 2, 0x0018, 1, 4, .plain,
     [⟨0, 12, .ro, .live, 0x0, 0, none, .badParam⟩]⟩]

/-- Registers of Table 4.10 (block 0x09). -/
def regs4_10 : List RegDesc :=
  [
   -- `BX_WAKE`
   ⟨0x09, .all, 0x0000, 1, 4, .plain,
     [⟨16, 1, .rw, .live, 0x0, 0, none, .badParam⟩,
      ⟨0, 16, .rw, .live, 0x190, 300, none, .badParam⟩]⟩,
   -- `BX_LEAD`
   ⟨0x09, .all, 0x0004, 1, 4, .plain,
     [⟨0, 16, .rw, .live, 0xC8, 20, none, .badParam⟩]⟩,
   -- `BX_STARVE`
   ⟨0x09, .all, 0x0008, 1, 4, .plain,
     [⟨0, 16, .rw, .live, 0x1000, 1, none, .badParam⟩]⟩,
   -- `BX_TC7`
   ⟨0x09, .all, 0x000C, 1, 4, .plain,
     [⟨0, 16, .ro, .none, 0x208, 0, none, .badParam⟩]⟩,
   -- `BX_TC7_LEN`
   ⟨0x09, .all, 0x0010, 1, 4, .plain,
     [⟨0, 16, .ro, .none, 0x1130, 0, none, .badParam⟩]⟩]

/-- Registers of Table 4.11 (block 0x09). -/
def regs4_11 : List RegDesc :=
  [
   -- `PQ_SEL`
   ⟨0x09, .each 16, 0x0000, 1, 4, .selector,
     [⟨16, 3, .rw, .live, 0x0, 0, none, .badParam⟩,
      ⟨0, 11, .rw, .live, 0x0, 0, none, .badParam⟩]⟩,
   -- `POL_RATE`
   ⟨0x09, .each 16, 0x0004, 1, 4, .byRegister 0x0,
     [⟨31, 1, .rw, .live, 0x0, 0, none, .badParam⟩,
      ⟨0, 21, .rw, .live, 0x0, 0, none, .badParam⟩]⟩,
   -- `POL_BURST`
   ⟨0x09, .each 16, 0x0008, 1, 4, .byRegister 0x0,
     [⟨0, 24, .rw, .live, 0x2414, 0, none, .badParam⟩]⟩,
   -- `POL_TOKENS`
   ⟨0x09, .each 16, 0x000C, 1, 4, .byRegister 0x0,
     [⟨0, 24, .ro, .live, 0x2414, 0, none, .badParam⟩]⟩,
   -- `SHP_RATE`
   ⟨0x09, .each 16, 0x0010, 1, 4, .byRegister 0x0,
     [⟨31, 1, .rw, .live, 0x0, 0, none, .badParam⟩,
      ⟨0, 21, .rw, .live, 0x0, 0, none, .badParam⟩]⟩,
   -- `SHP_BURST`
   ⟨0x09, .each 16, 0x0014, 1, 4, .byRegister 0x0,
     [⟨0, 24, .rw, .live, 0x2414, 0, none, .badParam⟩]⟩,
   -- `SHP_CREDIT`
   ⟨0x09, .each 16, 0x0018, 1, 4, .byRegister 0x0,
     [⟨0, 24, .ro, .live, 0x2414, 0, none, .badParam⟩]⟩,
   -- `CAL_STATUS`
   ⟨0x09, .each 16, 0x0020, 1, 4, .byRegister 0x0,
     [⟨31, 1, .ro, .live, 0x0, 0, none, .badParam⟩,
      ⟨30, 1, .ro, .live, 0x0, 0, none, .badParam⟩,
      ⟨0, 9, .ro, .live, 0x0, 0, none, .badParam⟩]⟩,
   -- `GL_STATUS`
   ⟨0x09, .each 16, 0x0024, 1, 4, .byRegister 0x0,
     [⟨31, 1, .ro, .live, 0x0, 0, none, .badParam⟩,
      ⟨30, 1, .ro, .live, 0x0, 0, none, .badParam⟩,
      ⟨0, 10, .ro, .live, 0x0, 0, none, .badParam⟩]⟩,
   -- `GL_TAKEOVER`
   ⟨0x09, .each 16, 0x0028, 1, 4, .byRegister 0x0,
     [⟨0, 32, .ro, .live, 0x0, 0, none, .badParam⟩]⟩,
   -- `TC7_RESV_NOW`
   ⟨0x09, .each 16, 0x002C, 1, 4, .byRegister 0x0,
     [⟨0, 23, .ro, .live, 0x0, 0, none, .badParam⟩]⟩,
   -- `GL_ACT_ID_HI`
   ⟨0x09, .each 16, 0x0030, 1, 4, .byRegister 0x0,
     [⟨0, 32, .ro, .live, 0x0, 0, none, .badParam⟩]⟩,
   -- `GL_ACT_ID_LO`
   ⟨0x09, .each 16, 0x0034, 1, 4, .byRegister 0x0,
     [⟨0, 32, .ro, .live, 0x0, 0, none, .badParam⟩]⟩]

/-- Registers of Table 5.5 (block 0x0B). -/
def regs5_5 : List RegDesc :=
  [
   -- `SH_SELF`
   ⟨0x0B, .all, 0x0000, 1, 4, .plain,
     [⟨16, 3, .rw, .halt, 0x0, 0, none, .badParam⟩,
      ⟨0, 14, .rw, .halt, 0x0, 0, none, .badParam⟩]⟩,
   -- `SH_CUBE`
   ⟨0x0B, .all, 0x0004, 1, 4, .plain,
     [⟨5, 1, .rw, .halt, 0x0, 0, none, .badParam⟩,
      ⟨4, 1, .rw, .halt, 0x0, 0, none, .badParam⟩,
      ⟨0, 4, .rw, .halt, 0x0, 0, some 14, .outOfRange⟩]⟩,
   -- `SH_EPOCH`
   ⟨0x0B, .all, 0x0008, 1, 4, .plain,
     [⟨3, 1, .ro, .live, 0x0, 0, none, .badParam⟩,
      ⟨2, 1, .ro, .live, 0x0, 0, none, .badParam⟩,
      ⟨0, 2, .ro, .live, 0x0, 0, none, .badParam⟩]⟩,
   -- `SH_EPOCH_T`
   ⟨0x0B, .all, 0x000C, 1, 4, .plain,
     [⟨0, 32, .ro, .live, 0x0, 0, none, .badParam⟩]⟩,
   -- `SH_TRAV`
   ⟨0x0B, .all, 0x0010, 1, 4, .plain,
     [⟨0, 16, .rw, .live, 0x64, 1, none, .badParam⟩]⟩,
   -- `SH_OLD_CNT`
   ⟨0x0B, .all, 0x0014, 1, 4, .plain,
     [⟨0, 24, .ro, .live, 0x0, 0, none, .badParam⟩]⟩,
   -- `SH_SPRAY`
   ⟨0x0B, .all, 0x0018, 1, 4, .plain,
     [⟨16, 16, .rw, .live, 0x100, 0, none, .badParam⟩,
      ⟨8, 8, .rw, .live, 0x4, 0, none, .badParam⟩,
      ⟨0, 8, .rw, .live, 0x0, 0, none, .badParam⟩]⟩,
   -- `SH_SPRAY_W_LO`
   ⟨0x0B, .all, 0x001C, 1, 4, .plain,
     [⟨0, 4, .rw, .live, 0x8, 0, none, .badParam⟩,
      ⟨4, 4, .rw, .live, 0x8, 0, none, .badParam⟩,
      ⟨8, 4, .rw, .live, 0x8, 0, none, .badParam⟩,
      ⟨12, 4, .rw, .live, 0x8, 0, none, .badParam⟩,
      ⟨16, 4, .rw, .live, 0x8, 0, none, .badParam⟩,
      ⟨20, 4, .rw, .live, 0x8, 0, none, .badParam⟩,
      ⟨24, 4, .rw, .live, 0x8, 0, none, .badParam⟩,
      ⟨28, 4, .rw, .live, 0x8, 0, none, .badParam⟩]⟩,
   -- `SH_SPRAY_W_HI`
   ⟨0x0B, .all, 0x0020, 1, 4, .plain,
     [⟨0, 4, .rw, .live, 0x8, 0, none, .badParam⟩,
      ⟨4, 4, .rw, .live, 0x8, 0, none, .badParam⟩,
      ⟨8, 4, .rw, .live, 0x8, 0, none, .badParam⟩,
      ⟨12, 4, .rw, .live, 0x8, 0, none, .badParam⟩,
      ⟨16, 4, .rw, .live, 0x8, 0, none, .badParam⟩,
      ⟨20, 4, .rw, .live, 0x8, 0, none, .badParam⟩]⟩,
   -- `SH_ESC`
   ⟨0x0B, .all, 0x0024, 1, 4, .plain,
     [⟨16, 8, .rw, .live, 0x2, 1, none, .badParam⟩,
      ⟨0, 16, .rw, .live, 0x200, 0, none, .badParam⟩]⟩,
   -- `SH_HOPS`
   ⟨0x0B, .all, 0x0028, 1, 4, .plain,
     [⟨0, 8, .rw, .live, 0x1E, 0, none, .badParam⟩]⟩,
   -- `SH_SWEEP`
   ⟨0x0B, .all, 0x002C, 1, 4, .plain,
     [⟨16, 16, .rw, .live, 0x3E8, 0, none, .badParam⟩,
      ⟨0, 16, .ro, .live, 0x1000, 0, none, .badParam⟩]⟩,
   -- `SH_CMAP`
   ⟨0x0B, .all, 0x0030, 1, 4, .plain,
     [⟨16, 1, .rw, .live, 0x1, 0, none, .badParam⟩,
      ⟨0, 16, .rw, .live, 0xA, 1, none, .badParam⟩]⟩,
   -- `SH_ECN_SEED`
   ⟨0x0B, .all, 0x0034, 1, 4, .plain,
     [⟨0, 32, .rw, .live, 0x5EED0001, 1, none, .badParam⟩]⟩,
   -- `SH_ECN_TCc`
   ⟨0x0B, .all, 0x0040, 6, 4, .plain,
     [⟨20, 12, .rw, .live, 0x10, 0, none, .badParam⟩,
      ⟨8, 12, .rw, .live, 0x100, 0, none, .badParam⟩,
      ⟨0, 8, .rw, .live, 0x20, 0, none, .badParam⟩]⟩,
   -- `SH_ECE`
   ⟨0x0B, .all, 0x0060, 1, 4, .plain,
     [⟨16, 16, .rw, .live, 0x7D0, 0, none, .badParam⟩,
      ⟨8, 8, .rw, .live, 0x20, 0, none, .badParam⟩]⟩,
   -- `SH_AI`
   ⟨0x0B, .all, 0x0064, 1, 4, .plain,
     [⟨16, 16, .rw, .live, 0x51F, 0, none, .badParam⟩,
      ⟨0, 16, .rw, .live, 0x4, 0, none, .badParam⟩]⟩,
   -- `SH_RMIN`
   ⟨0x0B, .all, 0x0068, 1, 4, .plain,
     [⟨0, 16, .rw, .live, 0x666, 1, none, .badParam⟩]⟩]

/-- Registers of Table 5.6 (block 0x0B). -/
def regs5_6 : List RegDesc :=
  [
   -- `SH_PORT_DIM_Tt`
   ⟨0x0B, .each 16, 0x0000, 10, 4, .plain,
     [⟨0, 4, .rw, .shadow, 0xF, 0, none, .badParam⟩,
      ⟨4, 4, .rw, .shadow, 0xF, 0, none, .badParam⟩,
      ⟨8, 4, .rw, .shadow, 0xF, 0, none, .badParam⟩,
      ⟨12, 4, .rw, .shadow, 0xF, 0, none, .badParam⟩,
      ⟨16, 4, .rw, .shadow, 0xF, 0, none, .badParam⟩,
      ⟨20, 4, .rw, .shadow, 0xF, 0, none, .badParam⟩,
      ⟨24, 4, .rw, .shadow, 0xF, 0, none, .badParam⟩,
      ⟨28, 4, .rw, .shadow, 0xF, 0, none, .badParam⟩]⟩,
   -- `TR_SEL`
   ⟨0x0B, .each 16, 0x0040, 1, 4, .selector,
     [⟨16, 3, .rw, .live, 0x0, 0, none, .badParam⟩,
      ⟨0, 11, .rw, .live, 0x0, 0, none, .badParam⟩]⟩,
   -- `TR_RATE`
   ⟨0x0B, .each 16, 0x0044, 1, 4, .byRegister 0x40,
     [⟨0, 17, .ro, .live, 0x10000, 0, none, .badParam⟩]⟩]

/-- Registers of Table 6.8 (block 0x0A). -/
def regs6_8 : List RegDesc :=
  [
   -- `LAUREL_STATUS`
   ⟨0x0A, .all, 0x0000, 1, 4, .plain,
     [⟨0, 1, .ro, .live, 0x0, 0, none, .badParam⟩]⟩,
   -- `LAUREL_LOCK`
   ⟨0x0A, .all, 0x0004, 1, 4, .plain,
     [⟨11, 1, .rwl, .live, 0x0, 0, none, .badParam⟩,
      ⟨0, 11, .rwl, .live, 0x0, 0, none, .badParam⟩]⟩,
   -- `LAUREL_HASH`
   ⟨0x0A, .all, 0x0008, 1, 4, .plain,
     [⟨0, 32, .rw, .halt, 0x0, 0, none, .badParam⟩]⟩,
   -- `LEARN_CTRL`
   ⟨0x0A, .all, 0x000C, 1, 4, .plain,
     [⟨31, 1, .rw, .live, 0x1, 0, none, .badParam⟩,
      ⟨0, 13, .ro, .live, 0x0, 0, none, .badParam⟩]⟩,
   -- `AGE_CTRL`
   ⟨0x0A, .all, 0x0010, 1, 4, .plain,
     [⟨31, 1, .rw, .live, 0x1, 0, none, .badParam⟩,
      ⟨8, 8, .rw, .live, 0x5, 1, none, .badParam⟩,
      ⟨0, 8, .rw, .live, 0x3C, 1, none, .badParam⟩]⟩,
   -- `AGE_EPOCH`
   ⟨0x0A, .all, 0x0014, 1, 4, .plain,
     [⟨0, 8, .ro, .live, 0x0, 0, none, .badParam⟩]⟩,
   -- `OCC_EXACT`
   ⟨0x0A, .all, 0x0018, 1, 4, .plain,
     [⟨0, 17, .ro, .live, 0x0, 0, none, .badParam⟩]⟩,
   -- `OCC_EXPERT`
   ⟨0x0A, .all, 0x001C, 1, 4, .plain,
     [⟨0, 15, .ro, .live, 0x0, 0, none, .badParam⟩]⟩,
   -- `OCC_LPM4`
   ⟨0x0A, .all, 0x0020, 1, 4, .plain,
     [⟨0, 21, .ro, .live, 0x0, 0, none, .badParam⟩]⟩,
   -- `OCC_LPM6`
   ⟨0x0A, .all, 0x0024, 1, 4, .plain,
     [⟨0, 20, .ro, .live, 0x0, 0, none, .badParam⟩]⟩,
   -- `OCC_MAC`
   ⟨0x0A, .all, 0x0028, 1, 4, .plain,
     [⟨0, 19, .ro, .live, 0x0, 0, none, .badParam⟩]⟩,
   -- `LEN_SEL`
   ⟨0x0A, .all, 0x0030, 1, 4, .selector,
     [⟨3, 1, .rw, .live, 0x0, 0, none, .badParam⟩,
      ⟨0, 3, .rw, .live, 0x0, 0, none, .badParam⟩]⟩,
   -- `LEN_MAP`
   ⟨0x0A, .all, 0x0034, 1, 4, .byRegister 0x30,
     [⟨0, 32, .ro, .live, 0x0, 0, none, .badParam⟩]⟩,
   -- `LRN_SEL`
   ⟨0x0A, .all, 0x0040, 1, 4, .selector,
     [⟨0, 11, .rw, .live, 0x0, 0, none, .badParam⟩]⟩,
   -- `LRN_PORT`
   ⟨0x0A, .all, 0x0044, 1, 4, .byRegister 0x40,
     [⟨31, 1, .rw, .live, 0x0, 0, none, .badParam⟩,
      ⟨0, 18, .rw, .live, 0x1000, 0, none, .badParam⟩]⟩,
   -- `LRN_COUNT`
   ⟨0x0A, .all, 0x0048, 1, 4, .byRegister 0x40,
     [⟨0, 18, .ro, .live, 0x0, 0, none, .badParam⟩]⟩,
   -- `PORT_PVID`
   ⟨0x0A, .all, 0x004C, 1, 4, .byRegister 0x40,
     [⟨0, 12, .rw, .live, 0x1, 1, some 4094, .badParam⟩]⟩]

/-- Registers of Table 6.9 (block 0x0A). -/
def regs6_9 : List RegDesc :=
  [
   -- `PAR_LAST`
   ⟨0x0A, .each 2, 0x0100, 1, 4, .plain,
     [⟨28, 4, .ro, .live, 0x0, 0, none, .badParam⟩,
      ⟨0, 21, .ro, .live, 0x0, 0, none, .badParam⟩]⟩,
   -- `PAR_COUNT`
   ⟨0x0A, .each 2, 0x0104, 1, 4, .plain,
     [⟨0, 32, .ro, .live, 0x0, 0, none, .badParam⟩]⟩,
   -- `WR_PENDING`
   ⟨0x0A, .each 2, 0x0108, 1, 4, .plain,
     [⟨0, 21, .ro, .live, 0x0, 0, none, .badParam⟩]⟩]

/-- Registers of Table 8.7 (block 0x18). -/
def regs8_7 : List RegDesc :=
  [
   -- `KAO_AWAKE`
   ⟨0x18, .all, 0x0000, 1, 4, .plain,
     [⟨0, 16, .ro, .live, 0x0, 0, none, .badParam⟩]⟩,
   -- `KAO_SHADOW`
   ⟨0x18, .all, 0x0004, 1, 4, .plain,
     [⟨31, 1, .rw, .live, 0x1, 0, none, .badParam⟩,
      ⟨0, 16, .rw, .live, 0x1000, 1, none, .badParam⟩]⟩,
   -- `KAO_TMO`
   ⟨0x18, .all, 0x0008, 1, 4, .plain,
     [⟨16, 16, .rw, .live, 0x3E8, 1, none, .badParam⟩,
      ⟨0, 16, .rw, .live, 0xC8, 1, none, .badParam⟩]⟩,
   -- `KAO_LOCK`
   ⟨0x18, .all, 0x000C, 1, 4, .plain,
     [⟨0, 1, .rwl, .live, 0x0, 0, none, .badParam⟩]⟩,
   -- `KAO_PROG_SEL`
   ⟨0x18, .all, 0x0010, 1, 4, .selector,
     [⟨0, 8, .rw, .live, 0x0, 0, none, .badParam⟩]⟩,
   -- `KAO_PROG_INFO`
   ⟨0x18, .all, 0x0014, 1, 4, .byRegister 0x10,
     [⟨31, 1, .ro, .live, 0x0, 0, none, .badParam⟩,
      ⟨16, 7, .ro, .live, 0x0, 0, none, .badParam⟩,
      ⟨0, 16, .ro, .live, 0x0, 0, none, .badParam⟩]⟩,
   -- `KAO_PROG_ID_HI`
   ⟨0x18, .all, 0x0018, 1, 4, .byRegister 0x10,
     [⟨0, 32, .ro, .live, 0x0, 0, none, .badParam⟩]⟩,
   -- `KAO_PROG_ID_LO`
   ⟨0x18, .all, 0x001C, 1, 4, .byRegister 0x10,
     [⟨0, 32, .ro, .live, 0x0, 0, none, .badParam⟩]⟩]

/-- Registers of Table 8.8 (block 0x18). -/
def regs8_8 : List RegDesc :=
  [
   -- `KE_CTRL`
   ⟨0x18, .each 16, 0x0000, 1, 4, .plain,
     [⟨0, 16, .rw, .halt, 0xFFFF, 0, none, .badParam⟩]⟩,
   -- `KE_OCC`
   ⟨0x18, .each 16, 0x0004, 1, 4, .plain,
     [⟨16, 16, .ro, .live, 0x0, 0, none, .badParam⟩,
      ⟨0, 8, .ro, .live, 0x80, 0, none, .badParam⟩]⟩,
   -- `KE_ADDS_HI`
   ⟨0x18, .each 16, 0x0008, 1, 4, .plain,
     [⟨0, 32, .ro, .live, 0x0, 0, none, .badParam⟩]⟩,
   -- `KE_ADDS_LO`
   ⟨0x18, .each 16, 0x000C, 1, 4, .plain,
     [⟨0, 32, .ro, .live, 0x0, 0, none, .badParam⟩]⟩,
   -- `KE_CHECKS`
   ⟨0x18, .each 16, 0x0010, 1, 4, .plain,
     [⟨16, 16, .ro, .live, 0x0, 0, none, .badParam⟩,
      ⟨0, 16, .ro, .live, 0x0, 0, none, .badParam⟩]⟩,
   -- `KE_SHADOW_RUNS`
   ⟨0x18, .each 16, 0x0014, 1, 4, .plain,
     [⟨0, 32, .ro, .live, 0x0, 0, none, .badParam⟩]⟩,
   -- `KE_LOG_ID`
   ⟨0x18, .each 16, 0x0020, 1, 4, .plain,
     [⟨30, 2, .ro, .live, 0x0, 0, none, .badParam⟩,
      ⟨26, 4, .ro, .live, 0x0, 0, none, .badParam⟩]⟩,
   -- `KE_LOG_COLL`
   ⟨0x18, .each 16, 0x0024, 1, 4, .plain,
     [⟨0, 32, .ro, .live, 0x0, 0, none, .badParam⟩]⟩,
   -- `KE_LOG_CHUNK`
   ⟨0x18, .each 16, 0x0028, 1, 4, .plain,
     [⟨0, 32, .ro, .live, 0x0, 0, none, .badParam⟩]⟩,
   -- `KE_LOG_ENV`
   ⟨0x18, .each 16, 0x002C, 1, 4, .plain,
     [⟨16, 16, .ro, .live, 0x0, 0, none, .badParam⟩,
      ⟨0, 16, .ro, .live, 0x0, 0, none, .badParam⟩]⟩,
   -- `KE_LOG_ACT`
   ⟨0x18, .each 16, 0x0030, 1, 4, .plain,
     [⟨24, 8, .ro, .live, 0x0, 0, none, .badParam⟩,
      ⟨16, 8, .ro, .live, 0x0, 0, none, .badParam⟩,
      ⟨0, 16, .ro, .live, 0x0, 0, none, .badParam⟩]⟩,
   -- `KE_LOG_TIME`
   ⟨0x18, .each 16, 0x0034, 1, 4, .plain,
     [⟨0, 32, .ro, .live, 0x0, 0, none, .badParam⟩]⟩]

/-- Registers of Table 9.8 (block 0x19). -/
def regs9_8 : List RegDesc :=
  [
   -- `MR_AWAKE`
   ⟨0x19, .all, 0x0000, 1, 4, .plain,
     [⟨0, 16, .ro, .live, 0x0, 0, none, .badParam⟩]⟩,
   -- `MR_KEEP`
   ⟨0x19, .all, 0x0004, 1, 4, .plain,
     [⟨0, 16, .rw, .live, 0x0, 0, none, .badParam⟩]⟩,
   -- `MR_LOCK`
   ⟨0x19, .all, 0x0008, 1, 4, .plain,
     [⟨1, 1, .rwl, .live, 0x0, 0, none, .badParam⟩,
      ⟨0, 1, .rwl, .live, 0x0, 0, none, .badParam⟩]⟩,
   -- `MR_PAGES`
   ⟨0x19, .all, 0x000C, 1, 4, .plain,
     [⟨0, 15, .ro, .live, 0x4000, 0, none, .badParam⟩]⟩,
   -- `MR_TMO`
   ⟨0x19, .all, 0x0010, 1, 4, .plain,
     [⟨0, 16, .rw, .live, 0x32, 1, none, .badParam⟩]⟩,
   -- `MR_CHECK`
   ⟨0x19, .all, 0x0014, 1, 4, .plain,
     [⟨31, 1, .rw, .live, 0x1, 0, none, .badParam⟩,
      ⟨0, 16, .rw, .live, 0x100, 1, none, .badParam⟩]⟩,
   -- `MR_MOP_SEL`
   ⟨0x19, .all, 0x0020, 1, 4, .selector,
     [⟨0, 8, .rw, .live, 0x0, 0, none, .badParam⟩]⟩,
   -- `MR_MOP_INFO`
   ⟨0x19, .all, 0x0024, 1, 4, .byRegister 0x20,
     [⟨31, 1, .ro, .live, 0x0, 0, none, .badParam⟩,
      ⟨29, 2, .ro, .live, 0x0, 0, none, .badParam⟩,
      ⟨28, 1, .ro, .live, 0x0, 0, none, .badParam⟩,
      ⟨27, 1, .ro, .live, 0x0, 0, none, .badParam⟩,
      ⟨19, 8, .ro, .live, 0x0, 0, none, .badParam⟩,
      ⟨0, 16, .ro, .live, 0x0, 0, none, .badParam⟩]⟩,
   -- `MR_MOP_KEY`
   ⟨0x19, .all, 0x0028, 1, 4, .byRegister 0x20,
     [⟨20, 12, .ro, .live, 0x0, 0, none, .badParam⟩,
      ⟨16, 4, .ro, .live, 0x0, 0, none, .badParam⟩,
      ⟨0, 16, .ro, .live, 0x0, 0, none, .badParam⟩]⟩,
   -- `MR_MOP_ID_HI`
   ⟨0x19, .all, 0x002C, 1, 4, .byRegister 0x20,
     [⟨0, 32, .ro, .live, 0x0, 0, none, .badParam⟩]⟩,
   -- `MR_MOP_ID_LO`
   ⟨0x19, .all, 0x0030, 1, 4, .byRegister 0x20,
     [⟨0, 32, .ro, .live, 0x0, 0, none, .badParam⟩]⟩,
   -- `MR_MOP_TOK_HI`
   ⟨0x19, .all, 0x0034, 1, 4, .byRegister 0x20,
     [⟨0, 32, .ro, .live, 0x0, 0, none, .badParam⟩]⟩,
   -- `MR_MOP_TOK_LO`
   ⟨0x19, .all, 0x0038, 1, 4, .byRegister 0x20,
     [⟨0, 32, .ro, .live, 0x0, 0, none, .badParam⟩]⟩]

/-- Registers of Table 9.9 (block 0x19). -/
def regs9_9 : List RegDesc :=
  [
   -- `MA_STATUS`
   ⟨0x19, .each 128, 0x0000, 1, 4, .plain,
     [⟨16, 8, .ro, .live, 0x0, 0, none, .badParam⟩,
      ⟨8, 8, .ro, .live, 0x0, 0, none, .badParam⟩,
      ⟨0, 8, .ro, .live, 0x80, 0, none, .badParam⟩]⟩,
   -- `MA_ECC`
   ⟨0x19, .each 128, 0x0004, 1, 4, .plain,
     [⟨16, 16, .ro, .live, 0x0, 0, none, .badParam⟩,
      ⟨0, 16, .ro, .live, 0x0, 0, none, .badParam⟩]⟩,
   -- `MA_CHECKS`
   ⟨0x19, .each 128, 0x0008, 1, 4, .plain,
     [⟨16, 16, .ro, .live, 0x0, 0, none, .badParam⟩,
      ⟨0, 16, .ro, .live, 0x0, 0, none, .badParam⟩]⟩,
   -- `MA_LOG_ID`
   ⟨0x19, .each 128, 0x0020, 1, 4, .plain,
     [⟨30, 2, .ro, .live, 0x0, 0, none, .badParam⟩,
      ⟨22, 8, .ro, .live, 0x0, 0, none, .badParam⟩]⟩,
   -- `MA_LOG_COLL`
   ⟨0x19, .each 128, 0x0024, 1, 4, .plain,
     [⟨0, 32, .ro, .live, 0x0, 0, none, .badParam⟩]⟩,
   -- `MA_LOG_CHUNK`
   ⟨0x19, .each 128, 0x0028, 1, 4, .plain,
     [⟨0, 32, .ro, .live, 0x0, 0, none, .badParam⟩]⟩,
   -- `MA_LOG_ENV`
   ⟨0x19, .each 128, 0x002C, 1, 4, .plain,
     [⟨16, 16, .ro, .live, 0x0, 0, none, .badParam⟩,
      ⟨0, 16, .ro, .live, 0x0, 0, none, .badParam⟩]⟩,
   -- `MA_LOG_ACT`
   ⟨0x19, .each 128, 0x0030, 1, 4, .plain,
     [⟨24, 8, .ro, .live, 0x0, 0, none, .badParam⟩,
      ⟨16, 8, .ro, .live, 0x0, 0, none, .badParam⟩,
      ⟨8, 8, .ro, .live, 0x0, 0, none, .badParam⟩]⟩,
   -- `MA_LOG_TIME`
   ⟨0x19, .each 128, 0x0034, 1, 4, .plain,
     [⟨0, 32, .ro, .live, 0x0, 0, none, .badParam⟩]⟩]

/-- Registers of Table 10.11 (block 0x1A). -/
def regs10_11 : List RegDesc :=
  [
   -- `TL_REPAIR`
   ⟨0x1A, .all, 0x0000, 1, 4, .plain,
     [⟨16, 16, .rw, .live, 0x7D0, 1, some 4000, .outOfRange⟩,
      ⟨0, 16, .rw, .live, 0x64, 1, none, .badParam⟩]⟩,
   -- `TL_ENG`
   ⟨0x1A, .all, 0x0004, 1, 4, .plain,
     [⟨0, 16, .rw, .live, 0xFFFF, 1, none, .badParam⟩]⟩,
   -- `TL_PREWAKE`
   ⟨0x1A, .all, 0x0008, 1, 4, .plain,
     [⟨0, 16, .rw, .live, 0xFA0, 2000, none, .badParam⟩]⟩,
   -- `TL_LOCK`
   ⟨0x1A, .all, 0x000C, 1, 4, .plain,
     [⟨1, 1, .rwl, .live, 0x0, 0, none, .badParam⟩,
      ⟨0, 1, .rwl, .live, 0x0, 0, none, .badParam⟩]⟩,
   -- `TL_MEM_FREE`
   ⟨0x1A, .all, 0x0010, 1, 4, .plain,
     [⟨0, 22, .ro, .live, 0x200000, 0, none, .badParam⟩]⟩,
   -- `TL_NODE_FREE`
   ⟨0x1A, .all, 0x0014, 1, 4, .plain,
     [⟨0, 19, .ro, .live, 0x40000, 0, none, .badParam⟩]⟩,
   -- `TL_SLOW_CTRL`
   ⟨0x1A, .all, 0x0018, 1, 4, .plain,
     [⟨0, 1, .wo, .live, 0x0, 0, none, .badParam⟩]⟩]

/-- Registers of Table 10.12 (block 0x1A). -/
def regs10_12 : List RegDesc :=
  [
   -- `TL_ADMITTED`
   ⟨0x1A, .each 2, 0x0100, 1, 4, .plain,
     [⟨0, 13, .ro, .live, 0x0, 0, none, .badParam⟩]⟩,
   -- `TL_CACHE`
   ⟨0x1A, .each 2, 0x0104, 1, 4, .plain,
     [⟨0, 26, .ro, .live, 0x0, 0, none, .badParam⟩]⟩,
   -- `TL_Q_SEL`
   ⟨0x1A, .each 2, 0x0108, 1, 4, .selector,
     [⟨0, 6, .rw, .live, 0x0, 0, none, .badParam⟩]⟩,
   -- `TL_Q_STATE`
   ⟨0x1A, .each 2, 0x010C, 1, 4, .byRegister 0x108,
     [⟨30, 2, .ro, .live, 0x0, 0, none, .badParam⟩,
      ⟨18, 12, .ro, .live, 0x0, 0, none, .badParam⟩,
      ⟨10, 8, .ro, .live, 0x0, 0, none, .badParam⟩,
      ⟨0, 10, .ro, .live, 0x0, 0, none, .badParam⟩]⟩,
   -- `TL_Q_HEAD`
   ⟨0x1A, .each 2, 0x0110, 1, 4, .byRegister 0x108,
     [⟨0, 32, .ro, .live, 0x0, 0, none, .badParam⟩]⟩,
   -- `TL_Q_ADM`
   ⟨0x1A, .each 2, 0x0114, 1, 4, .byRegister 0x108,
     [⟨0, 13, .ro, .live, 0x0, 0, none, .badParam⟩]⟩,
   -- `TL_TOK_SEL`
   ⟨0x1A, .each 2, 0x0118, 1, 4, .selector,
     [⟨0, 4, .rw, .live, 0x0, 0, none, .badParam⟩]⟩,
   -- `TL_TOK_VAL`
   ⟨0x1A, .each 2, 0x011C, 1, 4, .byRegister 0x118,
     [⟨0, 16, .ro, .live, 0x0, 0, none, .badParam⟩]⟩,
   -- `ST_SLOW_SEL`
   ⟨0x1A, .each 2, 0x0120, 1, 4, .selector,
     [⟨0, 6, .rw, .live, 0x0, 0, none, .badParam⟩]⟩,
   -- `ST_SLOW_RANK`
   ⟨0x1A, .each 2, 0x0124, 1, 4, .byRegister 0x120,
     [⟨31, 1, .ro, .live, 0x0, 0, none, .badParam⟩,
      ⟨0, 17, .ro, .live, 0x0, 0, none, .badParam⟩]⟩,
   -- `ST_SLOW_LIST`
   ⟨0x1A, .each 2, 0x0128, 1, 4, .byRegister 0x120,
     [⟨16, 12, .ro, .live, 0x0, 0, none, .badParam⟩,
      ⟨0, 16, .ro, .live, 0x0, 0, none, .badParam⟩]⟩,
   -- `ST_SLOW_LAST`
   ⟨0x1A, .each 2, 0x012C, 1, 4, .byRegister 0x120,
     [⟨0, 32, .ro, .live, 0x0, 0, none, .badParam⟩]⟩,
   -- `ST_SLOW_LAG`
   ⟨0x1A, .each 2, 0x0130, 1, 4, .byRegister 0x120,
     [⟨0, 32, .ro, .live, 0x0, 0, none, .badParam⟩]⟩]

/-- Registers of Table 11.8 (block 0x20). -/
def regs11_8 : List RegDesc :=
  [
   -- `LK_ACK`
   ⟨0x20, .all, 0x0000, 1, 4, .plain,
     [⟨0, 16, .rw, .live, 0x64, 1, none, .badParam⟩]⟩,
   -- `LK_RTO`
   ⟨0x20, .all, 0x0004, 1, 4, .plain,
     [⟨16, 16, .rw, .live, 0x1F4, 0, none, .badParam⟩,
      ⟨0, 16, .rw, .live, 0x3E8, 1, none, .badParam⟩]⟩,
   -- `LK_LIMIT`
   ⟨0x20, .all, 0x0008, 1, 4, .plain,
     [⟨0, 8, .rw, .live, 0x10, 1, none, .badParam⟩]⟩,
   -- `LK_TRAIN`
   ⟨0x20, .all, 0x000C, 1, 4, .plain,
     [⟨0, 16, .rw, .live, 0x1F4, 50, none, .badParam⟩]⟩,
   -- `LK_LANE`
   ⟨0x20, .all, 0x0010, 1, 4, .plain,
     [⟨0, 16, .rw, .live, 0x850, 0, none, .badParam⟩]⟩,
   -- `LK_VLINK`
   ⟨0x20, .all, 0x0014, 1, 4, .plain,
     [⟨0, 16, .rw, .live, 0x3C, 1, none, .badParam⟩]⟩]

/-- Registers of Table 11.9 (block 0x20). -/
def regs11_9 : List RegDesc :=
  [
   -- `LK_SEL`
   ⟨0x20, .each 16, 0x0000, 1, 4, .selector,
     [⟨0, 11, .rw, .live, 0x0, 0, none, .badParam⟩]⟩,
   -- `LK_CFG`
   ⟨0x20, .each 16, 0x0004, 1, 4, .byRegister 0x0,
     [⟨30, 2, .rw, .halt, 0x0, 0, none, .badParam⟩,
      ⟨29, 1, .rw, .halt, 0x0, 0, none, .badParam⟩,
      ⟨28, 1, .rw, .live, 0x1, 0, none, .badParam⟩]⟩,
   -- `LK_STATE`
   ⟨0x20, .each 16, 0x0008, 1, 4, .byRegister 0x0,
     [⟨29, 3, .ro, .live, 0x0, 0, none, .badParam⟩,
      ⟨24, 4, .ro, .live, 0x0, 0, none, .badParam⟩,
      ⟨16, 8, .ro, .live, 0x0, 0, none, .badParam⟩,
      ⟨8, 8, .ro, .live, 0x0, 0, none, .badParam⟩]⟩,
   -- `LK_RTT`
   ⟨0x20, .each 16, 0x000C, 1, 4, .byRegister 0x0,
     [⟨16, 16, .ro, .live, 0x0, 0, none, .badParam⟩,
      ⟨0, 16, .ro, .live, 0x0, 0, none, .badParam⟩]⟩,
   -- `LK_PEER_HI`
   ⟨0x20, .each 16, 0x0010, 1, 4, .byRegister 0x0,
     [⟨0, 16, .ro, .live, 0x0, 0, none, .badParam⟩]⟩,
   -- `LK_PEER_LO`
   ⟨0x20, .each 16, 0x0014, 1, 4, .byRegister 0x0,
     [⟨0, 32, .ro, .live, 0x0, 0, none, .badParam⟩]⟩,
   -- `LK_PEER_PORT`
   ⟨0x20, .each 16, 0x0018, 1, 4, .byRegister 0x0,
     [⟨0, 11, .ro, .live, 0x0, 0, none, .badParam⟩]⟩,
   -- `LK_UNSETTLED`
   ⟨0x20, .each 16, 0x001C, 1, 4, .byRegister 0x0,
     [⟨0, 16, .ro, .live, 0x0, 0, none, .badParam⟩]⟩,
   -- `LK_SPARE`
   ⟨0x20, .each 16, 0x0020, 1, 4, .plain,
     [⟨1, 1, .rw, .halt, 0x0, 0, none, .badParam⟩,
      ⟨0, 1, .ro, .live, 0x0, 0, none, .badParam⟩]⟩,
   -- `LK_REPLAYS`
   ⟨0x20, .each 16, 0x0024, 1, 4, .byRegister 0x0,
     [⟨0, 32, .ro, .live, 0x0, 0, none, .badParam⟩]⟩]

/-- Registers of Table 12.13 (block 0x22). -/
def regs12_13 : List RegDesc :=
  [
   -- `PRV_THRESH`
   ⟨0x22, .all, 0x0000, 1, 4, .plain,
     [⟨16, 8, .rw, .live, 0xF, 0, none, .badParam⟩,
      ⟨8, 8, .rw, .live, 0x1E, 0, none, .badParam⟩,
      ⟨0, 8, .rw, .live, 0x3C, 0, none, .badParam⟩]⟩,
   -- `PRV_EVAL`
   ⟨0x22, .all, 0x0004, 1, 4, .plain,
     [⟨24, 8, .rw, .live, 0x8, 1, some 18, .badParam⟩,
      ⟨17, 1, .rw, .live, 0x1, 0, none, .badParam⟩,
      ⟨16, 1, .rw, .live, 0x1, 0, none, .badParam⟩,
      ⟨0, 16, .rw, .live, 0x3E8, 100, none, .badParam⟩]⟩,
   -- `PRV_LOOP`
   ⟨0x22, .all, 0x0008, 1, 4, .plain,
     [⟨16, 16, .rw, .live, 0x12C, 100, none, .badParam⟩,
      ⟨8, 8, .rw, .live, 0x14, 1, none, .badParam⟩,
      ⟨0, 8, .rw, .live, 0xF8, 0, none, .badParam⟩]⟩,
   -- `PRV_HEAT`
   ⟨0x22, .all, 0x000C, 1, 4, .plain,
     [⟨24, 8, .rw, .live, 0xA, 1, none, .badParam⟩,
      ⟨0, 16, .rw, .live, 0x38, 0, none, .badParam⟩]⟩,
   -- `PRV_MIG`
   ⟨0x22, .all, 0x0010, 1, 4, .plain,
     [⟨16, 16, .rw, .live, 0x3C, 1, none, .badParam⟩,
      ⟨0, 16, .rw, .live, 0x5, 2, none, .badParam⟩]⟩,
   -- `PRV_LOCKS`
   ⟨0x22, .all, 0x0014, 1, 4, .plain,
     [⟨0, 1, .rwl, .live, 0x0, 0, none, .badParam⟩]⟩]

/-- Registers of Table 12.14 (block 0x22). -/
def regs12_14 : List RegDesc :=
  [
   -- `PRV_ENG`
   ⟨0x22, .each 16, 0x0000, 1, 4, .plain,
     [⟨31, 1, .ro, .live, 0x0, 0, none, .badParam⟩,
      ⟨30, 1, .ro, .live, 0x0, 0, none, .badParam⟩,
      ⟨8, 8, .ro, .live, 0x0, 0, none, .badParam⟩,
      ⟨4, 4, .rw, .halt, 0x0, 0, none, .badParam⟩,
      ⟨0, 4, .rw, .halt, 0x0, 0, none, .badParam⟩]⟩,
   -- `PRV_LINE_SEL`
   ⟨0x22, .each 16, 0x0004, 1, 4, .selector,
     [⟨8, 1, .rw, .live, 0x0, 0, none, .badParam⟩,
      ⟨0, 5, .rw, .live, 0x0, 0, some 18, .outOfRange⟩]⟩,
   -- `PRV_LINE_PWR`
   ⟨0x22, .each 16, 0x0008, 1, 4, .byRegister 0x4,
     [⟨16, 16, .ro, .live, 0x0, 0, none, .badParam⟩,
      ⟨0, 16, .ro, .live, 0x0, 0, none, .badParam⟩]⟩,
   -- `PRV_LINE_STATE`
   ⟨0x22, .each 16, 0x000C, 1, 4, .byRegister 0x4,
     [⟨0, 2, .ro, .live, 0x0, 0, none, .badParam⟩]⟩,
   -- `PRV_RING_SEL`
   ⟨0x22, .each 16, 0x0010, 1, 4, .selector,
     [⟨7, 1, .rw, .live, 0x0, 0, none, .badParam⟩,
      ⟨5, 2, .rw, .live, 0x0, 0, none, .badParam⟩,
      ⟨0, 5, .rw, .live, 0x0, 0, some 17, .outOfRange⟩]⟩,
   -- `PRV_RING`
   ⟨0x22, .each 16, 0x0014, 1, 4, .byRegister 0x10,
     [⟨29, 3, .ro, .live, 0x0, 0, none, .badParam⟩,
      ⟨16, 11, .ro, .live, 0x7FF, 0, none, .badParam⟩,
      ⟨0, 16, .ro, .live, 0x0, 0, none, .badParam⟩]⟩,
   -- `PRV_RING_WIN`
   ⟨0x22, .each 16, 0x0018, 1, 4, .byRegister 0x10,
     [⟨16, 16, .ro, .live, 0x0, 0, none, .badParam⟩,
      ⟨0, 16, .ro, .live, 0x0, 0, none, .badParam⟩]⟩]

/-- Registers of Table 12.15 (block 0x23). -/
def regs12_15 : List RegDesc :=
  [
   -- `XC_STATUS`
   ⟨0x23, .one, 0x0000, 1, 4, .plain,
     [⟨31, 1, .ro, .live, 0x0, 0, none, .badParam⟩,
      ⟨0, 10, .ro, .live, 0x0, 0, none, .badParam⟩]⟩,
   -- `XC_TAKEOVER`
   ⟨0x23, .one, 0x0004, 1, 4, .plain,
     [⟨0, 32, .ro, .live, 0x0, 0, none, .badParam⟩]⟩,
   -- `XC_LOCK`
   ⟨0x23, .one, 0x0008, 1, 4, .plain,
     [⟨0, 1, .rwl, .live, 0x0, 0, none, .badParam⟩]⟩,
   -- `XC_SEL`
   ⟨0x23, .one, 0x000C, 1, 4, .selector,
     [⟨4, 5, .rw, .live, 0x0, 0, none, .badParam⟩,
      ⟨0, 4, .rw, .live, 0x0, 0, none, .badParam⟩]⟩,
   -- `XC_PATH`
   ⟨0x23, .one, 0x0010, 1, 4, .byRegister 0xC,
     [⟨31, 1, .ro, .live, 0x0, 0, none, .badParam⟩,
      ⟨16, 5, .ro, .live, 0x0, 0, none, .badParam⟩,
      ⟨0, 12, .ro, .live, 0x0, 0, none, .badParam⟩]⟩,
   -- `XC_PWR`
   ⟨0x23, .one, 0x0014, 1, 4, .byRegister 0xC,
     [⟨16, 16, .ro, .live, 0x0, 0, none, .badParam⟩,
      ⟨0, 16, .ro, .live, 0x0, 0, none, .badParam⟩]⟩]

/-- Registers of Table 13.7 (block 0x02). -/
def regs13_7 : List RegDesc :=
  [
   -- `YEW_STATUS`
   ⟨0x02, .one, 0x0000, 1, 4, .plain,
     [⟨29, 3, .ro, .live, 0x0, 0, none, .badParam⟩,
      ⟨27, 2, .ro, .live, 0x3, 0, none, .badParam⟩,
      ⟨26, 1, .ro, .live, 0x0, 0, none, .badParam⟩,
      ⟨25, 1, .ro, .live, 0x0, 0, none, .badParam⟩,
      ⟨0, 8, .ro, .live, 0xFF, 0, none, .badParam⟩]⟩,
   -- `YEW_RAW_HI`
   ⟨0x02, .one, 0x0004, 1, 4, .plain,
     [⟨0, 32, .ro, .live, 0x0, 0, none, .badParam⟩]⟩,
   -- `YEW_RAW_LO`
   ⟨0x02, .one, 0x0008, 1, 4, .plain,
     [⟨0, 32, .ro, .live, 0x0, 0, none, .badParam⟩]⟩,
   -- `YEW_TIME_HI`
   ⟨0x02, .one, 0x000C, 1, 4, .plain,
     [⟨0, 32, .ro, .live, 0x0, 0, none, .badParam⟩]⟩,
   -- `YEW_TIME_LO`
   ⟨0x02, .one, 0x0010, 1, 4, .plain,
     [⟨0, 32, .ro, .live, 0x0, 0, none, .badParam⟩]⟩,
   -- `YEW_TIME_FRAC`
   ⟨0x02, .one, 0x0014, 1, 4, .plain,
     [⟨0, 16, .ro, .live, 0x0, 0, none, .badParam⟩]⟩,
   -- `YEW_RATE_HI`
   ⟨0x02, .one, 0x0018, 1, 4, .plain,
     [⟨0, 10, .ro, .live, 0xCC, 0, none, .badParam⟩]⟩,
   -- `YEW_RATE_LO`
   ⟨0x02, .one, 0x001C, 1, 4, .plain,
     [⟨0, 32, .ro, .live, 0xCCCCCCCD, 0, none, .badParam⟩]⟩,
   -- `YEW_THETA`
   ⟨0x02, .one, 0x0020, 1, 4, .plain,
     [⟨0, 32, .ro, .live, 0x0, 0, none, .badParam⟩]⟩,
   -- `YEW_DELAY`
   ⟨0x02, .one, 0x0024, 1, 4, .plain,
     [⟨0, 32, .ro, .live, 0x0, 0, none, .badParam⟩]⟩,
   -- `YEW_CTRL`
   ⟨0x02, .one, 0x0028, 1, 4, .plain,
     [⟨31, 1, .rw, .halt, 0x0, 0, none, .badParam⟩,
      ⟨30, 1, .rw, .live, 0x0, 0, none, .badParam⟩,
      ⟨28, 2, .rw, .live, 0x0, 0, none, .badParam⟩,
      ⟨0, 16, .rw, .halt, 0x3C, 0, none, .badParam⟩]⟩,
   -- `YEW_PARENT`
   ⟨0x02, .one, 0x002C, 1, 4, .plain,
     [⟨31, 1, .rw, .live, 0x0, 0, none, .badParam⟩,
      ⟨16, 11, .rw, .live, 0x0, 0, none, .badParam⟩,
      ⟨15, 1, .rw, .live, 0x0, 0, none, .badParam⟩,
      ⟨0, 11, .rw, .live, 0x0, 0, none, .badParam⟩]⟩,
   -- `YEW_SERVO`
   ⟨0x02, .one, 0x0030, 1, 4, .plain,
     [⟨16, 16, .rw, .live, 0x64, 1, some 10000, .badParam⟩,
      ⟨8, 8, .rw, .live, 0x5, 1, none, .badParam⟩,
      ⟨0, 8, .rw, .live, 0x4, 1, none, .badParam⟩]⟩,
   -- `YEW_SLEW`
   ⟨0x02, .one, 0x0034, 1, 4, .plain,
     [⟨16, 16, .rw, .live, 0x2710, 0, none, .badParam⟩,
      ⟨0, 16, .rw, .live, 0x3E8, 0, none, .badParam⟩]⟩,
   -- `YEW_LIMITS`
   ⟨0x02, .one, 0x0038, 1, 4, .plain,
     [⟨24, 8, .rw, .live, 0x2, 1, none, .badParam⟩,
      ⟨0, 20, .rw, .halt, 0x30D40, 0, none, .badParam⟩]⟩,
   -- `YEW_GATES`
   ⟨0x02, .one, 0x003C, 1, 4, .plain,
     [⟨16, 16, .rw, .live, 0x64, 0, none, .badParam⟩,
      ⟨0, 16, .rw, .live, 0x14, 1, none, .badParam⟩]⟩,
   -- `YEW_WORLD`
   ⟨0x02, .one, 0x0040, 1, 4, .plain,
     [⟨0, 32, .ro, .live, 0x0, 0, none, .badParam⟩]⟩,
   -- `YEW_PTP`
   ⟨0x02, .one, 0x0044, 1, 4, .plain,
     [⟨24, 8, .rw, .live, 0x0, 0, none, .badParam⟩,
      ⟨8, 16, .ro, .live, 0x0, 0, none, .badParam⟩,
      ⟨0, 1, .ro, .live, 0x0, 0, none, .badParam⟩]⟩,
   -- `YEW_PTP_PORT`
   ⟨0x02, .one, 0x0048, 1, 4, .plain,
     [⟨0, 11, .rw, .live, 0x0, 0, none, .badParam⟩]⟩,
   -- `ASYM_SEL`
   ⟨0x02, .one, 0x0080, 1, 4, .selector,
     [⟨0, 11, .rw, .live, 0x0, 0, none, .badParam⟩]⟩,
   -- `ASYM`
   ⟨0x02, .one, 0x0084, 1, 4, .byRegister 0x80,
     [⟨0, 32, .rw, .live, 0x0, 0, none, .badParam⟩]⟩,
   -- `PORT_THETA`
   ⟨0x02, .one, 0x0088, 1, 4, .byRegister 0x80,
     [⟨0, 32, .ro, .live, 0x0, 0, none, .badParam⟩]⟩]

/-- Registers of Table 14.12 (block 0x28). -/
def regs14_12 : List RegDesc :=
  [
   -- `HAW_STATUS`
   ⟨0x28, .one, 0x0000, 1, 4, .plain,
     [⟨30, 2, .ro, .live, 0x0, 0, none, .badParam⟩,
      ⟨29, 1, .ro, .live, 0x0, 0, none, .badParam⟩,
      ⟨28, 1, .ro, .live, 0x0, 0, none, .badParam⟩,
      ⟨16, 12, .ro, .live, 0x0, 0, none, .badParam⟩,
      ⟨0, 10, .ro, .live, 0x3E8, 0, none, .badParam⟩]⟩,
   -- `HAW_CUBE`
   ⟨0x28, .one, 0x0004, 1, 4, .plain,
     [⟨16, 14, .ro, .live, 0x0, 0, none, .badParam⟩,
      ⟨0, 14, .ro, .live, 0x0, 0, none, .badParam⟩]⟩,
   -- `HAW_CTRL`
   ⟨0x28, .one, 0x0008, 1, 4, .plain,
     [⟨31, 1, .rw, .live, 0x1, 0, none, .badParam⟩,
      ⟨0, 2, .rw, .halt, 0x0, 0, some 2, .badParam⟩]⟩,
   -- `HAW_BEAT`
   ⟨0x28, .one, 0x000C, 1, 4, .plain,
     [⟨16, 16, .rw, .live, 0x64, 20, none, .badParam⟩,
      ⟨8, 8, .rw, .live, 0x3, 2, none, .badParam⟩]⟩,
   -- `HAW_VOTE`
   ⟨0x28, .one, 0x0010, 1, 4, .plain,
     [⟨16, 16, .rw, .live, 0x7D0, 1500, some 4000, .outOfRange⟩,
      ⟨0, 16, .rw, .live, 0xA, 1, none, .badParam⟩]⟩,
   -- `HAW_SCORE_TH`
   ⟨0x28, .one, 0x0014, 1, 4, .plain,
     [⟨16, 10, .rw, .live, 0x258, 0, none, .badParam⟩,
      ⟨0, 10, .rw, .live, 0x12C, 0, none, .badParam⟩]⟩,
   -- `HAW_RECOVER`
   ⟨0x28, .one, 0x0018, 1, 4, .plain,
     [⟨16, 16, .rw, .live, 0x3C, 1, none, .badParam⟩,
      ⟨0, 8, .rw, .live, 0x2, 0, none, .badParam⟩]⟩,
   -- `HAW_WEIGHT_SEL`
   ⟨0x28, .one, 0x001C, 1, 4, .selector,
     [⟨0, 4, .rw, .live, 0x0, 0, none, .badParam⟩]⟩,
   -- `HAW_WEIGHT`
   ⟨0x28, .one, 0x0020, 1, 4, .byRegister 0x1C,
     [⟨0, 10, .rw, .live, 0x0, 0, none, .badParam⟩]⟩,
   -- `HAW_BUDGET`
   ⟨0x28, .one, 0x0024, 1, 4, .plain,
     [⟨16, 16, .rw, .live, 0x258, 1, none, .badParam⟩,
      ⟨0, 16, .rw, .live, 0x40, 16, none, .badParam⟩]⟩,
   -- `HAW_BUDGET_B`
   ⟨0x28, .one, 0x0028, 1, 4, .plain,
     [⟨0, 21, .ro, .live, 0x0, 0, none, .badParam⟩]⟩,
   -- `HAW_EXPELLED`
   ⟨0x28, .one, 0x002C, 1, 4, .plain,
     [⟨0, 21, .ro, .live, 0x0, 0, none, .badParam⟩]⟩,
   -- `HAW_PLAN`
   ⟨0x28, .one, 0x0030, 1, 4, .plain,
     [⟨16, 16, .rw, .live, 0xA, 1, none, .badParam⟩,
      ⟨0, 16, .rw, .live, 0xA, 1, none, .badParam⟩]⟩,
   -- `HAW_LOCK`
   ⟨0x28, .one, 0x0034, 1, 4, .plain,
     [⟨0, 1, .rwl, .live, 0x0, 0, none, .badParam⟩]⟩,
   -- `HAW_PORT_SEL`
   ⟨0x28, .one, 0x0040, 1, 4, .selector,
     [⟨0, 11, .rw, .live, 0x0, 0, none, .badParam⟩]⟩,
   -- `HAW_PORT_STATE`
   ⟨0x28, .one, 0x0044, 1, 4, .byRegister 0x40,
     [⟨29, 3, .ro, .live, 0x6, 0, none, .badParam⟩,
      ⟨27, 2, .ro, .live, 0x0, 0, none, .badParam⟩,
      ⟨26, 1, .ro, .live, 0x0, 0, none, .badParam⟩,
      ⟨25, 1, .ro, .live, 0x0, 0, none, .badParam⟩,
      ⟨0, 11, .ro, .live, 0x0, 0, none, .badParam⟩]⟩,
   -- `HAW_PORT_TAG`
   ⟨0x28, .one, 0x0048, 1, 4, .byRegister 0x40,
     [⟨0, 32, .ro, .live, 0x0, 0, none, .badParam⟩]⟩,
   -- `HAW_PORT_PEER`
   ⟨0x28, .one, 0x004C, 1, 4, .byRegister 0x40,
     [⟨16, 14, .ro, .live, 0x0, 0, none, .badParam⟩,
      ⟨0, 11, .ro, .live, 0x0, 0, none, .badParam⟩]⟩,
   -- `HAW_SPINE_SEL`
   ⟨0x28, .one, 0x0050, 1, 4, .selector,
     [⟨0, 14, .rw, .live, 0x0, 0, none, .badParam⟩]⟩,
   -- `HAW_SPINE_FENCE`
   ⟨0x28, .one, 0x0054, 1, 4, .byRegister 0x50,
     [⟨31, 1, .ro, .live, 0x0, 0, none, .badParam⟩,
      ⟨30, 1, .ro, .live, 0x0, 0, none, .badParam⟩,
      ⟨29, 1, .ro, .live, 0x0, 0, none, .badParam⟩,
      ⟨28, 1, .ro, .live, 0x0, 0, none, .badParam⟩,
      ⟨27, 1, .ro, .live, 0x0, 0, none, .badParam⟩]⟩,
   -- `HAW_LAST_VOTE`
   ⟨0x28, .one, 0x0060, 1, 4, .plain,
     [⟨28, 4, .ro, .live, 0x0, 0, none, .badParam⟩,
      ⟨25, 3, .ro, .live, 0x0, 0, none, .badParam⟩,
      ⟨21, 4, .ro, .live, 0x0, 0, none, .badParam⟩,
      ⟨17, 4, .ro, .live, 0x0, 0, none, .badParam⟩,
      ⟨0, 14, .ro, .live, 0x0, 0, none, .badParam⟩]⟩,
   -- `HAW_LAST_VOTE_T`
   ⟨0x28, .one, 0x0064, 1, 4, .plain,
     [⟨0, 32, .ro, .live, 0x0, 0, none, .badParam⟩]⟩,
   -- `HAW_RFENCE`
   ⟨0x28, .one, 0x0068, 1, 4, .plain,
     [⟨0, 14, .ro, .live, 0x0, 0, none, .badParam⟩]⟩]

/-- Registers of Table 15.7 (block 0x01). -/
def regs15_7 : List RegDesc :=
  [
   -- `HOLLY_STATUS`
   ⟨0x01, .one, 0x0000, 1, 4, .plain,
     [⟨31, 1, .ro, .live, 0x0, 0, none, .badParam⟩,
      ⟨30, 1, .ro, .live, 0x0, 0, none, .badParam⟩,
      ⟨29, 1, .ro, .live, 0x0, 0, none, .badParam⟩,
      ⟨0, 12, .ro, .live, 0x0, 0, none, .badParam⟩]⟩,
   -- `HOLLY_LOCK`
   ⟨0x01, .one, 0x0004, 1, 4, .plain,
     [⟨2, 1, .rwl, .live, 0x0, 0, none, .badParam⟩,
      ⟨1, 1, .rwl, .live, 0x0, 0, none, .badParam⟩,
      ⟨0, 1, .rwl, .live, 0x0, 0, none, .badParam⟩]⟩,
   -- `HOLLY_REKEY`
   ⟨0x01, .one, 0x0008, 1, 4, .plain,
     [⟨0, 16, .rw, .live, 0xE10, 1, none, .badParam⟩]⟩,
   -- `HOLLY_ERASES`
   ⟨0x01, .one, 0x000C, 1, 4, .plain,
     [⟨0, 32, .ro, .live, 0x0, 0, none, .badParam⟩]⟩,
   -- `HOLLY_PROT_SEL`
   ⟨0x01, .one, 0x0010, 1, 4, .selector,
     [⟨0, 11, .rw, .live, 0x0, 0, none, .badParam⟩]⟩,
   -- `HOLLY_PROT`
   ⟨0x01, .one, 0x0014, 1, 4, .byRegister 0x10,
     [⟨31, 1, .rw, .halt, 0x1, 0, none, .badParam⟩,
      ⟨29, 2, .ro, .live, 0x0, 0, none, .badParam⟩,
      ⟨0, 16, .ro, .live, 0x0, 0, none, .badParam⟩]⟩,
   -- `HOLLY_PART_SEL`
   ⟨0x01, .one, 0x0018, 1, 4, .selector,
     [⟨0, 12, .rw, .live, 0x1, 1, some 4094, .badParam⟩]⟩,
   -- `HOLLY_PART`
   ⟨0x01, .one, 0x001C, 1, 4, .byRegister 0x18,
     [⟨31, 1, .ro, .live, 0x0, 0, none, .badParam⟩]⟩,
   -- `HOLLY_PART_TA`
   ⟨0x01, .one, 0x0020, 1, 4, .byRegister 0x18,
     [⟨0, 32, .ro, .live, 0x0, 0, none, .badParam⟩]⟩]

/-- Registers of Table 16.6 (block 0x03). -/
def regs16_6 : List RegDesc :=
  [
   -- `NCP_CTRL`
   ⟨0x03, .one, 0x0000, 1, 4, .plain,
     [⟨31, 1, .rw, .live, 0x1, 0, none, .badParam⟩,
      ⟨30, 1, .rw, .live, 0x1, 0, none, .badParam⟩,
      ⟨0, 16, .rw, .shadow, 0xC5A2, 0, none, .badParam⟩]⟩,
   -- `NCP_FRAG`
   ⟨0x03, .one, 0x0004, 1, 4, .plain,
     [⟨0, 16, .rw, .live, 0x3E8, 1, none, .badParam⟩]⟩,
   -- `NCP_CLASS_SEL`
   ⟨0x03, .one, 0x0008, 1, 4, .selector,
     [⟨0, 13, .rw, .live, 0x0, 0, none, .badParam⟩]⟩,
   -- `NCP_RATE`
   ⟨0x03, .one, 0x000C, 1, 4, .byRegister 0x8,
     [⟨16, 16, .rw, .live, 0x0, 1, none, .badParam⟩,
      ⟨0, 16, .rw, .live, 0x0, 1, none, .badParam⟩]⟩,
   -- `NCP_QSTATE`
   ⟨0x03, .one, 0x0010, 1, 4, .byRegister 0x8,
     [⟨8, 8, .ro, .live, 0x0, 0, none, .badParam⟩,
      ⟨0, 8, .ro, .live, 0x0, 0, none, .badParam⟩]⟩,
   -- `NCP_SEQ_HI`
   ⟨0x03, .one, 0x0014, 1, 4, .byRegister 0x8,
     [⟨0, 32, .ro, .live, 0x0, 0, none, .badParam⟩]⟩,
   -- `NCP_LAST`
   ⟨0x03, .one, 0x0018, 1, 4, .byRegister 0x8,
     [⟨24, 8, .ro, .live, 0x0, 0, none, .badParam⟩,
      ⟨0, 16, .ro, .live, 0x0, 0, none, .badParam⟩]⟩,
   -- `NCP_CMDS`
   ⟨0x03, .one, 0x0020, 1, 4, .plain,
     [⟨0, 32, .ro, .live, 0x0, 0, none, .badParam⟩]⟩,
   -- `NCP_REJECTS`
   ⟨0x03, .one, 0x0024, 1, 4, .plain,
     [⟨0, 32, .ro, .live, 0x0, 0, none, .badParam⟩]⟩,
   -- `MBX_SLOTk`
   ⟨0x03, .one, 0x0100, 4, 4, .plain,
     [⟨31, 1, .wo, .live, 0x0, 0, none, .badParam⟩,
      ⟨30, 1, .ro, .live, 0x0, 0, none, .badParam⟩,
      ⟨29, 1, .w1c, .live, 0x0, 0, none, .badParam⟩,
      ⟨0, 16, .rw, .live, 0x0, 0, some 16384, .outOfRange⟩]⟩]

/-- Registers of Table 17.5 (block 0x00). -/
def regs17_5 : List RegDesc :=
  [
   -- `ID_PART`
   ⟨0x00, .one, 0x0000, 1, 4, .plain,
     [⟨0, 32, .ro, .none, 0x4E5A1280, 0, none, .badParam⟩]⟩,
   -- `ID_STEP`
   ⟨0x00, .one, 0x0004, 1, 4, .plain,
     [⟨8, 8, .ro, .none, 0x42, 0, none, .badParam⟩,
      ⟨0, 8, .ro, .none, 0x1, 0, none, .badParam⟩]⟩,
   -- `ID_SERIAL_HI`
   ⟨0x00, .one, 0x0008, 1, 4, .plain,
     [⟨0, 32, .ro, .none, 0x0, 0, none, .badParam⟩]⟩,
   -- `ID_SERIAL_LO`
   ⟨0x00, .one, 0x000C, 1, 4, .plain,
     [⟨0, 32, .ro, .none, 0x0, 0, none, .badParam⟩]⟩,
   -- `ID_MAC_HI`
   ⟨0x00, .one, 0x0010, 1, 4, .plain,
     [⟨0, 16, .ro, .none, 0x0, 0, none, .badParam⟩]⟩,
   -- `ID_MAC_LO`
   ⟨0x00, .one, 0x0014, 1, 4, .plain,
     [⟨0, 32, .ro, .none, 0x0, 0, none, .badParam⟩]⟩,
   -- `ID_FW_HOLLY`
   ⟨0x00, .one, 0x0018, 1, 4, .plain,
     [⟨0, 32, .ro, .live, 0x0, 0, none, .badParam⟩]⟩,
   -- `ID_FW_HEATH`
   ⟨0x00, .one, 0x001C, 1, 4, .plain,
     [⟨0, 32, .ro, .live, 0x0, 0, none, .badParam⟩]⟩,
   -- `ID_FW_OPT`
   ⟨0x00, .one, 0x0020, 1, 4, .plain,
     [⟨0, 32, .ro, .live, 0x0, 0, none, .badParam⟩]⟩,
   -- `HUB_RESET_CAUSE`
   ⟨0x00, .one, 0x0040, 1, 4, .plain,
     [⟨4, 1, .w1c, .live, 0x0, 0, none, .badParam⟩,
      ⟨3, 1, .w1c, .live, 0x0, 0, none, .badParam⟩,
      ⟨2, 1, .w1c, .live, 0x0, 0, none, .badParam⟩,
      ⟨1, 1, .w1c, .live, 0x0, 0, none, .badParam⟩,
      ⟨0, 1, .w1c, .live, 0x0, 0, none, .badParam⟩]⟩,
   -- `PWR_IDLE_PG`
   ⟨0x00, .one, 0x0080, 1, 4, .plain,
     [⟨0, 16, .rwv, .live, 0xA, 1, none, .badParam⟩]⟩,
   -- `PWR_IDLE_ENG`
   ⟨0x00, .one, 0x0084, 1, 4, .plain,
     [⟨16, 16, .rwv, .live, 0x64, 1, none, .badParam⟩,
      ⟨0, 16, .rwv, .live, 0x64, 1, none, .badParam⟩]⟩,
   -- `PWR_CAP`
   ⟨0x00, .one, 0x0088, 1, 4, .plain,
     [⟨0, 16, .ro, .live, 0x0, 0, none, .badParam⟩]⟩,
   -- `REG_WSTAT_r`
   ⟨0x00, .one, 0x0100, 4, 8, .plain,
     [⟨24, 8, .ro, .live, 0x0, 0, none, .badParam⟩,
      ⟨0, 16, .ro, .live, 0x0, 0, none, .badParam⟩]⟩,
   -- `REG_WADDR_r`
   ⟨0x00, .one, 0x0104, 4, 8, .plain,
     [⟨0, 32, .ro, .live, 0x0, 0, none, .badParam⟩]⟩,
   -- `REG_STATS`
   ⟨0x00, .one, 0x0140, 1, 4, .plain,
     [⟨16, 16, .ro, .live, 0x0, 0, none, .badParam⟩,
      ⟨0, 16, .ro, .live, 0x0, 0, none, .badParam⟩]⟩,
   -- `REG_COMMIT_SEL`
   ⟨0x00, .one, 0x0144, 1, 4, .selector,
     [⟨8, 8, .rw, .live, 0x0, 0, none, .badParam⟩,
      ⟨0, 8, .rw, .live, 0x0, 0, none, .badParam⟩]⟩,
   -- `REG_COMMIT_STATE`
   ⟨0x00, .one, 0x0148, 1, 4, .byRegister 0x144,
     [⟨31, 1, .ro, .live, 0x0, 0, none, .badParam⟩,
      ⟨30, 1, .ro, .live, 0x0, 0, none, .badParam⟩,
      ⟨16, 8, .ro, .live, 0x0, 0, none, .badParam⟩]⟩,
   -- `REG_COMMIT_T`
   ⟨0x00, .one, 0x014C, 1, 4, .byRegister 0x144,
     [⟨0, 32, .ro, .live, 0x0, 0, none, .badParam⟩]⟩,
   -- `PORT_WIDTH_i`
   ⟨0x00, .one, 0x0400, 160, 4, .plain,
     [⟨0, 2, .rwv, .shadow, 0x0, 0, none, .badParam⟩,
      ⟨2, 2, .rwv, .shadow, 0x0, 0, none, .badParam⟩,
      ⟨4, 2, .rwv, .shadow, 0x0, 0, none, .badParam⟩,
      ⟨6, 2, .rwv, .shadow, 0x0, 0, none, .badParam⟩,
      ⟨8, 2, .rwv, .shadow, 0x0, 0, none, .badParam⟩,
      ⟨10, 2, .rwv, .shadow, 0x0, 0, none, .badParam⟩,
      ⟨12, 2, .rwv, .shadow, 0x0, 0, none, .badParam⟩,
      ⟨14, 2, .rwv, .shadow, 0x0, 0, none, .badParam⟩]⟩,
   -- `PORT_SWAP_k`
   ⟨0x00, .one, 0x0800, 64, 4, .plain,
     [⟨31, 1, .rwv, .shadow, 0x0, 0, none, .badParam⟩,
      ⟨16, 11, .rwv, .shadow, 0x0, 0, none, .badParam⟩,
      ⟨0, 11, .rwv, .shadow, 0x0, 0, none, .badParam⟩]⟩]

/-- Registers of Table 18.10 (block 0x30). -/
def regs18_10 : List RegDesc :=
  [
   -- `ST_CTR_SEL`
   ⟨0x30, .one, 0x0000, 1, 4, .selector,
     [⟨0, 32, .rw, .live, 0x0, 0, none, .badParam⟩]⟩,
   -- `ST_CTR_HI`
   ⟨0x30, .one, 0x0004, 1, 4, .byRegister 0x0,
     [⟨0, 32, .ro, .live, 0x0, 0, none, .badParam⟩]⟩,
   -- `ST_CTR_LO`
   ⟨0x30, .one, 0x0008, 1, 4, .byRegister 0x0,
     [⟨0, 32, .ro, .live, 0x0, 0, none, .badParam⟩]⟩,
   -- `ST_PREV_HI`
   ⟨0x30, .one, 0x000C, 1, 4, .byRegister 0x0,
     [⟨0, 32, .ro, .live, 0x0, 0, none, .badParam⟩]⟩,
   -- `ST_PREV_LO`
   ⟨0x30, .one, 0x0010, 1, 4, .byRegister 0x0,
     [⟨0, 32, .ro, .live, 0x0, 0, none, .badParam⟩]⟩,
   -- `ST_TAG_PART`
   ⟨0x30, .one, 0x0014, 1, 4, .byRegister 0x0,
     [⟨31, 1, .ro, .live, 0x0, 0, none, .badParam⟩,
      ⟨0, 12, .ro, .live, 0x0, 0, none, .badParam⟩]⟩,
   -- `ST_TAG_SEQ`
   ⟨0x30, .one, 0x0018, 1, 4, .byRegister 0x0,
     [⟨0, 32, .ro, .live, 0x0, 0, none, .badParam⟩]⟩,
   -- `ST_CTR_CTRL`
   ⟨0x30, .one, 0x001C, 1, 4, .byRegister 0x0,
     [⟨0, 1, .wo, .live, 0x0, 0, none, .badParam⟩]⟩,
   -- `ST_THRESH_HI`
   ⟨0x30, .one, 0x0020, 1, 4, .byRegister 0x0,
     [⟨0, 32, .ro, .live, 0x0, 0, none, .badParam⟩]⟩,
   -- `ST_THRESH_LO`
   ⟨0x30, .one, 0x0024, 1, 4, .byRegister 0x0,
     [⟨0, 32, .ro, .live, 0x0, 0, none, .badParam⟩]⟩,
   -- `ST_THRESH_STATE`
   ⟨0x30, .one, 0x0028, 1, 4, .byRegister 0x0,
     [⟨31, 1, .ro, .live, 0x0, 0, none, .badParam⟩,
      ⟨30, 1, .ro, .live, 0x0, 0, none, .badParam⟩,
      ⟨0, 13, .ro, .live, 0x0, 0, none, .badParam⟩]⟩,
   -- `ALERT_ADDRw`
   ⟨0x30, .one, 0x0040, 4, 4, .plain,
     [⟨0, 32, .rw, .live, 0x0, 0, none, .badParam⟩]⟩,
   -- `ST_ALERT_CTRL`
   ⟨0x30, .one, 0x0050, 1, 4, .plain,
     [⟨31, 1, .rw, .live, 0x0, 0, none, .badParam⟩,
      ⟨30, 1, .rw, .live, 0x0, 0, none, .badParam⟩,
      ⟨29, 1, .rw, .live, 0x0, 0, none, .badParam⟩,
      ⟨0, 16, .rw, .live, 0xC5A3, 0, none, .badParam⟩]⟩,
   -- `ST_ALERT_SEQ`
   ⟨0x30, .one, 0x0054, 1, 4, .plain,
     [⟨0, 32, .ro, .live, 0x0, 0, none, .badParam⟩]⟩,
   -- `ST_LAYER_SEL`
   ⟨0x30, .one, 0x0060, 1, 4, .selector,
     [⟨0, 6, .rw, .live, 0x0, 0, none, .badParam⟩]⟩,
   -- `ST_LAYER_MATCH`
   ⟨0x30, .one, 0x0064, 1, 4, .byRegister 0x60,
     [⟨31, 1, .rw, .live, 0x0, 0, none, .badParam⟩,
      ⟨16, 12, .rw, .live, 0x0, 0, none, .badParam⟩,
      ⟨0, 16, .rw, .live, 0x0, 0, none, .badParam⟩]⟩,
   -- `ST_LAYER_OPER`
   ⟨0x30, .one, 0x0068, 1, 4, .byRegister 0x60,
     [⟨16, 16, .rw, .live, 0x0, 0, none, .badParam⟩,
      ⟨0, 16, .rw, .live, 0x0, 0, none, .badParam⟩]⟩]

/-- Registers of Table 18.11 (block 0x31). -/
def regs18_11 : List RegDesc :=
  [
   -- `ST_RING_CTRL`
   ⟨0x31, .one, 0x0000, 1, 4, .plain,
     [⟨31, 1, .rw, .live, 0x0, 0, none, .badParam⟩,
      ⟨30, 1, .rw, .live, 0x0, 0, none, .badParam⟩,
      ⟨29, 1, .rw, .live, 0x0, 0, none, .badParam⟩]⟩,
   -- `ST_RING_FROZEN_T`
   ⟨0x31, .one, 0x0004, 1, 4, .plain,
     [⟨0, 32, .ro, .live, 0x0, 0, none, .badParam⟩]⟩,
   -- `ST_SNAP_STATE`
   ⟨0x31, .one, 0x0010, 1, 4, .plain,
     [⟨0, 2, .ro, .live, 0x0, 0, none, .badParam⟩,
      ⟨2, 2, .ro, .live, 0x0, 0, none, .badParam⟩,
      ⟨4, 2, .ro, .live, 0x0, 0, none, .badParam⟩,
      ⟨6, 2, .ro, .live, 0x0, 0, none, .badParam⟩]⟩,
   -- `ST_SNAP_CFG`
   ⟨0x31, .one, 0x0014, 1, 4, .plain,
     [⟨16, 16, .rw, .live, 0x3C, 1, none, .badParam⟩,
      ⟨0, 16, .rw, .shadow, 0x4000, 0, none, .badParam⟩]⟩,
   -- `ST_TRACE_CTRL`
   ⟨0x31, .one, 0x0020, 1, 4, .plain,
     [⟨31, 1, .rw, .live, 0x1, 0, none, .badParam⟩]⟩,
   -- `ST_TRACE_STATE`
   ⟨0x31, .one, 0x0024, 1, 4, .plain,
     [⟨30, 2, .ro, .live, 0x0, 0, none, .badParam⟩,
      ⟨29, 1, .ro, .live, 0x0, 0, none, .badParam⟩,
      ⟨16, 12, .ro, .live, 0x0, 0, none, .badParam⟩]⟩,
   -- `ST_TRACE_BYTES_HI`
   ⟨0x31, .one, 0x0028, 1, 4, .plain,
     [⟨0, 32, .ro, .live, 0x0, 0, none, .badParam⟩]⟩,
   -- `ST_TRACE_BYTES_LO`
   ⟨0x31, .one, 0x002C, 1, 4, .plain,
     [⟨0, 32, .ro, .live, 0x0, 0, none, .badParam⟩]⟩,
   -- `ST_TRACE_DROPS`
   ⟨0x31, .one, 0x0030, 1, 4, .plain,
     [⟨0, 32, .ro, .live, 0x0, 0, none, .badParam⟩]⟩]

/-- The link registers of optical ports: Table 11.9 in block 0x21, whose LK_SPARE is reserved (R259). -/
def regs11_9o : List RegDesc :=
  regs11_9.map fun r => if r.off = 0x20 then { r with blk := 0x21, fields := [] } else { r with blk := 0x21 }

/-- Every register table of Table 17.6. -/
def regTables : List (List RegDesc) :=
  [regs2_11, regs2_12, regs3_11, regs3_12, regs3_13, regs4_10, regs4_11, regs5_5, regs5_6, regs6_8, regs6_9, regs8_7, regs8_8, regs9_8, regs9_9, regs10_11, regs10_12, regs11_8, regs11_9, regs12_13, regs12_14, regs12_15, regs13_7, regs14_12, regs15_7, regs16_6, regs17_5, regs18_10, regs18_11, regs11_9o]

/-! Names of the writable fields (and of the few read-only ones the hub itself keeps in the register file). -/

/-- `ETYPE` of `FRM_ETYPE` (Table 2.11). -/
def Fld.ETYPE : Fld := ⟨0x08, 0xFF, 0x0000, 0, 16⟩
/-- `UDP_DPORT` of `FRM_UDP` (Table 2.11). -/
def Fld.UDP_DPORT : Fld := ⟨0x08, 0xFF, 0x0004, 0, 16⟩
/-- `UDP_CSUM4` of `FRM_CTRL` (Table 2.11). -/
def Fld.UDP_CSUM4 : Fld := ⟨0x08, 0xFF, 0x0008, 8, 1⟩
/-- `IP_TTL` of `FRM_CTRL` (Table 2.11). -/
def Fld.IP_TTL : Fld := ⟨0x08, 0xFF, 0x0008, 0, 8⟩
/-- `MODE_L0` of `PORT_MODE_Tt` (Table 2.12). -/
def Fld.MODE_L : Fld := ⟨0x08, 0x00, 0x0040, 0, 2⟩
/-- `PCP_TC0` of `PCP_MAP` (Table 2.12). -/
def Fld.PCP_TC : Fld := ⟨0x08, 0x00, 0x0080, 0, 3⟩
/-- `SPILL_ON` of `LOAM_THRESH` (Table 3.11). -/
def Fld.SPILL_ON : Fld := ⟨0x10, 0xFF, 0x000C, 24, 8⟩
/-- `SPILL_OFF` of `LOAM_THRESH` (Table 3.11). -/
def Fld.SPILL_OFF : Fld := ⟨0x10, 0xFF, 0x000C, 16, 8⟩
/-- `DROP_TC0` of `LOAM_THRESH` (Table 3.11). -/
def Fld.DROP_TC0 : Fld := ⟨0x10, 0xFF, 0x000C, 8, 8⟩
/-- `DROP_BULK` of `LOAM_THRESH` (Table 3.11). -/
def Fld.DROP_BULK : Fld := ⟨0x10, 0xFF, 0x000C, 0, 8⟩
/-- `TC6_PORT_MAX` of `LOAM_TC6` (Table 3.11). -/
def Fld.TC6_PORT_MAX : Fld := ⟨0x10, 0xFF, 0x0010, 16, 16⟩
/-- `TC6_RESV` of `LOAM_TC6` (Table 3.11). -/
def Fld.TC6_RESV : Fld := ⟨0x10, 0xFF, 0x0010, 0, 16⟩
/-- `LAND_RESV` of `LOAM_RESV` (Table 3.11). -/
def Fld.LAND_RESV : Fld := ⟨0x10, 0xFF, 0x0014, 8, 8⟩
/-- `ESC_RESV` of `LOAM_RESV` (Table 3.11). -/
def Fld.ESC_RESV : Fld := ⟨0x10, 0xFF, 0x0014, 0, 8⟩
/-- `HEAD_WIN` of `LOAM_SPILL` (Table 3.11). -/
def Fld.HEAD_WIN : Fld := ⟨0x10, 0xFF, 0x0018, 0, 16⟩
/-- `HOLD_SPILL_EN` of `LOAM_HOLD` (Table 3.11). -/
def Fld.HOLD_SPILL_EN : Fld := ⟨0x10, 0xFF, 0x001C, 16, 1⟩
/-- `HOLD_SPILL_NS` of `LOAM_HOLD` (Table 3.11). -/
def Fld.HOLD_SPILL_NS : Fld := ⟨0x10, 0xFF, 0x001C, 0, 16⟩
/-- `SINK_STALL_US` of `LOAM_SINK` (Table 3.11). -/
def Fld.SINK_STALL_US : Fld := ⟨0x10, 0xFF, 0x0020, 0, 16⟩
/-- `PART` of `PART_SEL` (Table 3.11). -/
def Fld.PART_SEL_PART : Fld := ⟨0x10, 0xFF, 0x0040, 0, 12⟩
/-- `TQUOTA` of `PART_TQUOTA` (Table 3.11). -/
def Fld.TQUOTA : Fld := ⟨0x10, 0xFF, 0x0044, 0, 23⟩
/-- `SQUOTA` of `PART_SQUOTA` (Table 3.11). -/
def Fld.SQUOTA : Fld := ⟨0x10, 0xFF, 0x0048, 0, 26⟩
/-- `RETRY_POOL` of `SUB_RETRY_POOL` (Table 3.12). -/
def Fld.RETRY_POOL : Fld := ⟨0x10, 0x00, 0x0104, 0, 25⟩
/-- `STACK_EN` of `SUB_STACK_EN` (Table 3.12). -/
def Fld.STACK_EN : Fld := ⟨0x10, 0x00, 0x010C, 0, 6⟩
/-- `START` of `SIEVE_CTRL` (Table 3.13). -/
def Fld.START : Fld := ⟨0x11, 0x00, 0x0000, 2, 1⟩
/-- `RECLAIM` of `SIEVE_CTRL` (Table 3.13). -/
def Fld.RECLAIM : Fld := ⟨0x11, 0x00, 0x0000, 1, 1⟩
/-- `EN` of `SIEVE_CTRL` (Table 3.13). -/
def Fld.SIEVE_CTRL_EN : Fld := ⟨0x11, 0x00, 0x0000, 0, 1⟩
/-- `SS_PERIOD` of `SIEVE_PERIOD` (Table 3.13). -/
def Fld.SS_PERIOD : Fld := ⟨0x11, 0x00, 0x0004, 16, 16⟩
/-- `TS_PERIOD` of `SIEVE_PERIOD` (Table 3.13). -/
def Fld.TS_PERIOD : Fld := ⟨0x11, 0x00, 0x0004, 0, 16⟩
/-- `PREWAKE_ALL` of `BX_WAKE` (Table 4.10). -/
def Fld.PREWAKE_ALL : Fld := ⟨0x09, 0xFF, 0x0000, 16, 1⟩
/-- `PREWAKE_NS` of `BX_WAKE` (Table 4.10). -/
def Fld.BX_WAKE_PREWAKE_NS : Fld := ⟨0x09, 0xFF, 0x0000, 0, 16⟩
/-- `LEAD_US` of `BX_LEAD` (Table 4.10). -/
def Fld.LEAD_US : Fld := ⟨0x09, 0xFF, 0x0004, 0, 16⟩
/-- `STARVE_LIMIT` of `BX_STARVE` (Table 4.10). -/
def Fld.STARVE_LIMIT : Fld := ⟨0x09, 0xFF, 0x0008, 0, 16⟩
/-- `TC` of `PQ_SEL` (Table 4.11). -/
def Fld.PQ_SEL_TC : Fld := ⟨0x09, 0x00, 0x0000, 16, 3⟩
/-- `PORT` of `PQ_SEL` (Table 4.11). -/
def Fld.PQ_SEL_PORT : Fld := ⟨0x09, 0x00, 0x0000, 0, 11⟩
/-- `PEN` of `POL_RATE` (Table 4.11). -/
def Fld.PEN : Fld := ⟨0x09, 0x00, 0x0004, 31, 1⟩
/-- `RATE` of `POL_RATE` (Table 4.11). -/
def Fld.POL_RATE_RATE : Fld := ⟨0x09, 0x00, 0x0004, 0, 21⟩
/-- `BURST` of `POL_BURST` (Table 4.11). -/
def Fld.POL_BURST_BURST : Fld := ⟨0x09, 0x00, 0x0008, 0, 24⟩
/-- `SEN` of `SHP_RATE` (Table 4.11). -/
def Fld.SEN : Fld := ⟨0x09, 0x00, 0x0010, 31, 1⟩
/-- `RATE` of `SHP_RATE` (Table 4.11). -/
def Fld.SHP_RATE_RATE : Fld := ⟨0x09, 0x00, 0x0010, 0, 21⟩
/-- `BURST` of `SHP_BURST` (Table 4.11). -/
def Fld.SHP_BURST_BURST : Fld := ⟨0x09, 0x00, 0x0014, 0, 24⟩
/-- `PLANE` of `SH_SELF` (Table 5.5). -/
def Fld.PLANE : Fld := ⟨0x0B, 0xFF, 0x0000, 16, 3⟩
/-- `SPINE` of `SH_SELF` (Table 5.5). -/
def Fld.SH_SELF_SPINE : Fld := ⟨0x0B, 0xFF, 0x0000, 0, 14⟩
/-- `TW_SUB` of `SH_CUBE` (Table 5.5). -/
def Fld.TW_SUB : Fld := ⟨0x0B, 0xFF, 0x0004, 5, 1⟩
/-- `TW_TOP` of `SH_CUBE` (Table 5.5). -/
def Fld.TW_TOP : Fld := ⟨0x0B, 0xFF, 0x0004, 4, 1⟩
/-- `DIMS` of `SH_CUBE` (Table 5.5). -/
def Fld.DIMS : Fld := ⟨0x0B, 0xFF, 0x0004, 0, 4⟩
/-- `MAX_TRAV_US` of `SH_TRAV` (Table 5.5). -/
def Fld.MAX_TRAV_US : Fld := ⟨0x0B, 0xFF, 0x0010, 0, 16⟩
/-- `NM_PEN` of `SH_SPRAY` (Table 5.5). -/
def Fld.NM_PEN : Fld := ⟨0x0B, 0xFF, 0x0018, 16, 16⟩
/-- `REM_W` of `SH_SPRAY` (Table 5.5). -/
def Fld.REM_W : Fld := ⟨0x0B, 0xFF, 0x0018, 8, 8⟩
/-- `NONMIN` of `SH_SPRAY` (Table 5.5). -/
def Fld.NONMIN : Fld := ⟨0x0B, 0xFF, 0x0018, 0, 8⟩
/-- `SPRAY_W0` of `SH_SPRAY_W_LO` (Table 5.5). -/
def Fld.SPRAY_W : Fld := ⟨0x0B, 0xFF, 0x001C, 0, 4⟩
/-- `ESC_RETRIES` of `SH_ESC` (Table 5.5). -/
def Fld.ESC_RETRIES : Fld := ⟨0x0B, 0xFF, 0x0024, 16, 8⟩
/-- `ESC_THRESH` of `SH_ESC` (Table 5.5). -/
def Fld.ESC_THRESH : Fld := ⟨0x0B, 0xFF, 0x0024, 0, 16⟩
/-- `HOP_LIMIT` of `SH_HOPS` (Table 5.5). -/
def Fld.HOP_LIMIT : Fld := ⟨0x0B, 0xFF, 0x0028, 0, 8⟩
/-- `SWEEP_TMO_US` of `SH_SWEEP` (Table 5.5). -/
def Fld.SWEEP_TMO_US : Fld := ⟨0x0B, 0xFF, 0x002C, 16, 16⟩
/-- `CMAP_EN` of `SH_CMAP` (Table 5.5). -/
def Fld.CMAP_EN : Fld := ⟨0x0B, 0xFF, 0x0030, 16, 1⟩
/-- `CMAP_PERIOD_US` of `SH_CMAP` (Table 5.5). -/
def Fld.CMAP_PERIOD_US : Fld := ⟨0x0B, 0xFF, 0x0030, 0, 16⟩
/-- `ECN_SEED` of `SH_ECN_SEED` (Table 5.5). -/
def Fld.ECN_SEED : Fld := ⟨0x0B, 0xFF, 0x0034, 0, 32⟩
/-- `KMIN` of `SH_ECN_TCc` (Table 5.5). -/
def Fld.KMIN : Fld := ⟨0x0B, 0xFF, 0x0040, 20, 12⟩
/-- `KMAX` of `SH_ECN_TCc` (Table 5.5). -/
def Fld.KMAX : Fld := ⟨0x0B, 0xFF, 0x0040, 8, 12⟩
/-- `PMAX` of `SH_ECN_TCc` (Table 5.5). -/
def Fld.PMAX : Fld := ⟨0x0B, 0xFF, 0x0040, 0, 8⟩
/-- `ECE_HOLD_NS` of `SH_ECE` (Table 5.5). -/
def Fld.ECE_HOLD_NS : Fld := ⟨0x0B, 0xFF, 0x0060, 16, 16⟩
/-- `MD` of `SH_ECE` (Table 5.5). -/
def Fld.MD : Fld := ⟨0x0B, 0xFF, 0x0060, 8, 8⟩
/-- `AI` of `SH_AI` (Table 5.5). -/
def Fld.AI : Fld := ⟨0x0B, 0xFF, 0x0064, 16, 16⟩
/-- `AI_US` of `SH_AI` (Table 5.5). -/
def Fld.AI_US : Fld := ⟨0x0B, 0xFF, 0x0064, 0, 16⟩
/-- `R_MIN` of `SH_RMIN` (Table 5.5). -/
def Fld.R_MIN : Fld := ⟨0x0B, 0xFF, 0x0068, 0, 16⟩
/-- `DIM_L0` of `SH_PORT_DIM_Tt` (Table 5.6). -/
def Fld.DIM_L : Fld := ⟨0x0B, 0x00, 0x0000, 0, 4⟩
/-- `TC` of `TR_SEL` (Table 5.6). -/
def Fld.TR_SEL_TC : Fld := ⟨0x0B, 0x00, 0x0040, 16, 3⟩
/-- `PORT` of `TR_SEL` (Table 5.6). -/
def Fld.TR_SEL_PORT : Fld := ⟨0x0B, 0x00, 0x0040, 0, 11⟩
/-- `TDMA_LOCK` of `LAUREL_LOCK` (Table 6.8). -/
def Fld.TDMA_LOCK : Fld := ⟨0x0A, 0xFF, 0x0004, 11, 1⟩
/-- `TLOCK` of `LAUREL_LOCK` (Table 6.8). -/
def Fld.TLOCK : Fld := ⟨0x0A, 0xFF, 0x0004, 0, 11⟩
/-- `SALT` of `LAUREL_HASH` (Table 6.8). -/
def Fld.SALT : Fld := ⟨0x0A, 0xFF, 0x0008, 0, 32⟩
/-- `LEARN_EN` of `LEARN_CTRL` (Table 6.8). -/
def Fld.LEARN_EN : Fld := ⟨0x0A, 0xFF, 0x000C, 31, 1⟩
/-- `AGE_EN` of `AGE_CTRL` (Table 6.8). -/
def Fld.AGE_EN : Fld := ⟨0x0A, 0xFF, 0x0010, 31, 1⟩
/-- `AGE_LIMIT` of `AGE_CTRL` (Table 6.8). -/
def Fld.AGE_LIMIT : Fld := ⟨0x0A, 0xFF, 0x0010, 8, 8⟩
/-- `AGE_PERIOD_S` of `AGE_CTRL` (Table 6.8). -/
def Fld.AGE_PERIOD_S : Fld := ⟨0x0A, 0xFF, 0x0010, 0, 8⟩
/-- `FAM` of `LEN_SEL` (Table 6.8). -/
def Fld.FAM : Fld := ⟨0x0A, 0xFF, 0x0030, 3, 1⟩
/-- `WORD` of `LEN_SEL` (Table 6.8). -/
def Fld.WORD : Fld := ⟨0x0A, 0xFF, 0x0030, 0, 3⟩
/-- `PORT` of `LRN_SEL` (Table 6.8). -/
def Fld.LRN_SEL_PORT : Fld := ⟨0x0A, 0xFF, 0x0040, 0, 11⟩
/-- `LRN_EXCESS` of `LRN_PORT` (Table 6.8). -/
def Fld.LRN_EXCESS : Fld := ⟨0x0A, 0xFF, 0x0044, 31, 1⟩
/-- `LRN_MAX` of `LRN_PORT` (Table 6.8). -/
def Fld.LRN_MAX : Fld := ⟨0x0A, 0xFF, 0x0044, 0, 18⟩
/-- `PVID` of `PORT_PVID` (Table 6.8). -/
def Fld.PVID : Fld := ⟨0x0A, 0xFF, 0x004C, 0, 12⟩
/-- `SHADOW_EN` of `KAO_SHADOW` (Table 8.7). -/
def Fld.SHADOW_EN : Fld := ⟨0x18, 0xFF, 0x0004, 31, 1⟩
/-- `SHADOW_INTERVAL` of `KAO_SHADOW` (Table 8.7). -/
def Fld.SHADOW_INTERVAL : Fld := ⟨0x18, 0xFF, 0x0004, 0, 16⟩
/-- `SHADOW_TMO_US` of `KAO_TMO` (Table 8.7). -/
def Fld.SHADOW_TMO_US : Fld := ⟨0x18, 0xFF, 0x0008, 16, 16⟩
/-- `COMBINE_TMO_US` of `KAO_TMO` (Table 8.7). -/
def Fld.COMBINE_TMO_US : Fld := ⟨0x18, 0xFF, 0x0008, 0, 16⟩
/-- `PROG_LOCK` of `KAO_LOCK` (Table 8.7). -/
def Fld.PROG_LOCK : Fld := ⟨0x18, 0xFF, 0x000C, 0, 1⟩
/-- `PROG` of `KAO_PROG_SEL` (Table 8.7). -/
def Fld.PROG : Fld := ⟨0x18, 0xFF, 0x0010, 0, 8⟩
/-- `GROUP_EN` of `KE_CTRL` (Table 8.8). -/
def Fld.GROUP_EN : Fld := ⟨0x18, 0x00, 0x0000, 0, 16⟩
/-- `KEEP_AWAKE` of `MR_KEEP` (Table 9.8). -/
def Fld.KEEP_AWAKE : Fld := ⟨0x19, 0xFF, 0x0004, 0, 16⟩
/-- `MDMA_LOCK` of `MR_LOCK` (Table 9.8). -/
def Fld.MDMA_LOCK : Fld := ⟨0x19, 0xFF, 0x0008, 1, 1⟩
/-- `MW_LOCK` of `MR_LOCK` (Table 9.8). -/
def Fld.MW_LOCK : Fld := ⟨0x19, 0xFF, 0x0008, 0, 1⟩
/-- `ASM_TMO_US` of `MR_TMO` (Table 9.8). -/
def Fld.ASM_TMO_US : Fld := ⟨0x19, 0xFF, 0x0010, 0, 16⟩
/-- `COL_EN` of `MR_CHECK` (Table 9.8). -/
def Fld.COL_EN : Fld := ⟨0x19, 0xFF, 0x0014, 31, 1⟩
/-- `COL_INTERVAL` of `MR_CHECK` (Table 9.8). -/
def Fld.COL_INTERVAL : Fld := ⟨0x19, 0xFF, 0x0014, 0, 16⟩
/-- `MOP` of `MR_MOP_SEL` (Table 9.8). -/
def Fld.MOP : Fld := ⟨0x19, 0xFF, 0x0020, 0, 8⟩
/-- `BC_REPAIR_TMO_US` of `TL_REPAIR` (Table 10.11). -/
def Fld.BC_REPAIR_TMO_US : Fld := ⟨0x1A, 0xFF, 0x0000, 16, 16⟩
/-- `BC_RESEND_US` of `TL_REPAIR` (Table 10.11). -/
def Fld.BC_RESEND_US : Fld := ⟨0x1A, 0xFF, 0x0000, 0, 16⟩
/-- `ENG_MASK` of `TL_ENG` (Table 10.11). -/
def Fld.ENG_MASK : Fld := ⟨0x1A, 0xFF, 0x0004, 0, 16⟩
/-- `PREWAKE_NS` of `TL_PREWAKE` (Table 10.11). -/
def Fld.TL_PREWAKE_PREWAKE_NS : Fld := ⟨0x1A, 0xFF, 0x0008, 0, 16⟩
/-- `TPL_LOCK` of `TL_LOCK` (Table 10.11). -/
def Fld.TPL_LOCK : Fld := ⟨0x1A, 0xFF, 0x000C, 1, 1⟩
/-- `LIST_LOCK` of `TL_LOCK` (Table 10.11). -/
def Fld.LIST_LOCK : Fld := ⟨0x1A, 0xFF, 0x000C, 0, 1⟩
/-- `SLOW_CLEAR` of `TL_SLOW_CTRL` (Table 10.11). -/
def Fld.SLOW_CLEAR : Fld := ⟨0x1A, 0xFF, 0x0018, 0, 1⟩
/-- `QUEUE` of `TL_Q_SEL` (Table 10.12). -/
def Fld.QUEUE : Fld := ⟨0x1A, 0x00, 0x0108, 0, 6⟩
/-- `TOKEN` of `TL_TOK_SEL` (Table 10.12). -/
def Fld.TOKEN : Fld := ⟨0x1A, 0x00, 0x0118, 0, 4⟩
/-- `ENTRY` of `ST_SLOW_SEL` (Table 10.12). -/
def Fld.ENTRY : Fld := ⟨0x1A, 0x00, 0x0120, 0, 6⟩
/-- `ACK_DELAY_NS` of `LK_ACK` (Table 11.8). -/
def Fld.ACK_DELAY_NS : Fld := ⟨0x20, 0xFF, 0x0000, 0, 16⟩
/-- `WITHHOLD_NS` of `LK_RTO` (Table 11.8). -/
def Fld.WITHHOLD_NS : Fld := ⟨0x20, 0xFF, 0x0004, 16, 16⟩
/-- `RETRY_MARGIN_NS` of `LK_RTO` (Table 11.8). -/
def Fld.RETRY_MARGIN_NS : Fld := ⟨0x20, 0xFF, 0x0004, 0, 16⟩
/-- `REPLAY_MAX` of `LK_LIMIT` (Table 11.8). -/
def Fld.REPLAY_MAX : Fld := ⟨0x20, 0xFF, 0x0008, 0, 8⟩
/-- `TRAIN_TMO_MS` of `LK_TRAIN` (Table 11.8). -/
def Fld.TRAIN_TMO_MS : Fld := ⟨0x20, 0xFF, 0x000C, 0, 16⟩
/-- `LANE_ERR_MAX` of `LK_LANE` (Table 11.8). -/
def Fld.LANE_ERR_MAX : Fld := ⟨0x20, 0xFF, 0x0010, 0, 16⟩
/-- `VLINK_IDLE_S` of `LK_VLINK` (Table 11.8). -/
def Fld.VLINK_IDLE_S : Fld := ⟨0x20, 0xFF, 0x0014, 0, 16⟩
/-- `PORT` of `LK_SEL` (Table 11.9). -/
def Fld.LK_SEL_PORT : Fld := ⟨0x20, 0x00, 0x0000, 0, 11⟩
/-- `FEC` of `LK_CFG` (Table 11.9). -/
def Fld.FEC : Fld := ⟨0x20, 0x00, 0x0004, 30, 2⟩
/-- `REACH` of `LK_CFG` (Table 11.9). -/
def Fld.REACH : Fld := ⟨0x20, 0x00, 0x0004, 29, 1⟩
/-- `DEG_EN` of `LK_CFG` (Table 11.9). -/
def Fld.DEG_EN : Fld := ⟨0x20, 0x00, 0x0004, 28, 1⟩
/-- `SPARE_TILE` of `LK_SPARE` (Table 11.9). -/
def Fld.SPARE_TILE : Fld := ⟨0x20, 0x00, 0x0020, 1, 1⟩
/-- `WARN_DB10` of `PRV_THRESH` (Table 12.13). -/
def Fld.WARN_DB10 : Fld := ⟨0x22, 0xFF, 0x0000, 16, 8⟩
/-- `MIG_DB10` of `PRV_THRESH` (Table 12.13). -/
def Fld.MIG_DB10 : Fld := ⟨0x22, 0xFF, 0x0000, 8, 8⟩
/-- `FAIL_DB10` of `PRV_THRESH` (Table 12.13). -/
def Fld.FAIL_DB10 : Fld := ⟨0x22, 0xFF, 0x0000, 0, 8⟩
/-- `COMB_LINES` of `PRV_EVAL` (Table 12.13). -/
def Fld.COMB_LINES : Fld := ⟨0x22, 0xFF, 0x0004, 24, 8⟩
/-- `AUTO_COMB` of `PRV_EVAL` (Table 12.13). -/
def Fld.AUTO_COMB : Fld := ⟨0x22, 0xFF, 0x0004, 17, 1⟩
/-- `AUTO_MIG` of `PRV_EVAL` (Table 12.13). -/
def Fld.AUTO_MIG : Fld := ⟨0x22, 0xFF, 0x0004, 16, 1⟩
/-- `POWER_PERIOD_US` of `PRV_EVAL` (Table 12.13). -/
def Fld.POWER_PERIOD_US : Fld := ⟨0x22, 0xFF, 0x0004, 0, 16⟩
/-- `HWIN_UW` of `PRV_LOOP` (Table 12.13). -/
def Fld.HWIN_UW : Fld := ⟨0x22, 0xFF, 0x0008, 16, 16⟩
/-- `DITHER_UW` of `PRV_LOOP` (Table 12.13). -/
def Fld.DITHER_UW : Fld := ⟨0x22, 0xFF, 0x0008, 8, 8⟩
/-- `TX_DETUNE` of `PRV_LOOP` (Table 12.13). -/
def Fld.TX_DETUNE : Fld := ⟨0x22, 0xFF, 0x0008, 0, 8⟩
/-- `HWIN_TIME_US` of `PRV_HEAT` (Table 12.13). -/
def Fld.HWIN_TIME_US : Fld := ⟨0x22, 0xFF, 0x000C, 24, 8⟩
/-- `HEAT_SLOPE` of `PRV_HEAT` (Table 12.13). -/
def Fld.HEAT_SLOPE : Fld := ⟨0x22, 0xFF, 0x000C, 0, 16⟩
/-- `MIG_TMO_US` of `PRV_MIG` (Table 12.13). -/
def Fld.MIG_TMO_US : Fld := ⟨0x22, 0xFF, 0x0010, 16, 16⟩
/-- `SW_MARGIN_US` of `PRV_MIG` (Table 12.13). -/
def Fld.SW_MARGIN_US : Fld := ⟨0x22, 0xFF, 0x0010, 0, 16⟩
/-- `STEER_LOCK` of `PRV_LOCKS` (Table 12.13). -/
def Fld.STEER_LOCK : Fld := ⟨0x22, 0xFF, 0x0014, 0, 1⟩
/-- `SPARE_DIS` of `PRV_ENG` (Table 12.14). -/
def Fld.SPARE_DIS : Fld := ⟨0x22, 0x00, 0x0000, 4, 4⟩
/-- `STEER_EN` of `PRV_ENG` (Table 12.14). -/
def Fld.STEER_EN : Fld := ⟨0x22, 0x00, 0x0000, 0, 4⟩
/-- `CSEL` of `PRV_LINE_SEL` (Table 12.14). -/
def Fld.CSEL : Fld := ⟨0x22, 0x00, 0x0004, 8, 1⟩
/-- `LINE` of `PRV_LINE_SEL` (Table 12.14). -/
def Fld.PRV_LINE_SEL_LINE : Fld := ⟨0x22, 0x00, 0x0004, 0, 5⟩
/-- `DIR` of `PRV_RING_SEL` (Table 12.14). -/
def Fld.DIR : Fld := ⟨0x22, 0x00, 0x0010, 7, 1⟩
/-- `FIBRE` of `PRV_RING_SEL` (Table 12.14). -/
def Fld.FIBRE : Fld := ⟨0x22, 0x00, 0x0010, 5, 2⟩
/-- `LINE` of `PRV_RING_SEL` (Table 12.14). -/
def Fld.PRV_RING_SEL_LINE : Fld := ⟨0x22, 0x00, 0x0010, 0, 5⟩
/-- `CIRC_LOCK` of `XC_LOCK` (Table 12.15). -/
def Fld.CIRC_LOCK : Fld := ⟨0x23, 0x00, 0x0008, 0, 1⟩
/-- `XO` of `XC_SEL` (Table 12.15). -/
def Fld.XO : Fld := ⟨0x23, 0x00, 0x000C, 4, 5⟩
/-- `LINE` of `XC_SEL` (Table 12.15). -/
def Fld.XC_SEL_LINE : Fld := ⟨0x23, 0x00, 0x000C, 0, 4⟩
/-- `ROOT_EN` of `YEW_CTRL` (Table 13.7). -/
def Fld.ROOT_EN : Fld := ⟨0x02, 0x00, 0x0028, 31, 1⟩
/-- `PTP_EN` of `YEW_CTRL` (Table 13.7). -/
def Fld.PTP_EN : Fld := ⟨0x02, 0x00, 0x0028, 30, 1⟩
/-- `PTP_SRC` of `YEW_CTRL` (Table 13.7). -/
def Fld.PTP_SRC : Fld := ⟨0x02, 0x00, 0x0028, 28, 2⟩
/-- `ROOT_WAIT_S` of `YEW_CTRL` (Table 13.7). -/
def Fld.ROOT_WAIT_S : Fld := ⟨0x02, 0x00, 0x0028, 0, 16⟩
/-- `PRI_V` of `YEW_PARENT` (Table 13.7). -/
def Fld.PRI_V : Fld := ⟨0x02, 0x00, 0x002C, 31, 1⟩
/-- `PARENT_PRI` of `YEW_PARENT` (Table 13.7). -/
def Fld.PARENT_PRI : Fld := ⟨0x02, 0x00, 0x002C, 16, 11⟩
/-- `ALT_V` of `YEW_PARENT` (Table 13.7). -/
def Fld.ALT_V : Fld := ⟨0x02, 0x00, 0x002C, 15, 1⟩
/-- `PARENT_ALT` of `YEW_PARENT` (Table 13.7). -/
def Fld.PARENT_ALT : Fld := ⟨0x02, 0x00, 0x002C, 0, 11⟩
/-- `SYNC_PERIOD_US` of `YEW_SERVO` (Table 13.7). -/
def Fld.SYNC_PERIOD_US : Fld := ⟨0x02, 0x00, 0x0030, 16, 16⟩
/-- `LOCK_NS` of `YEW_SERVO` (Table 13.7). -/
def Fld.LOCK_NS : Fld := ⟨0x02, 0x00, 0x0030, 8, 8⟩
/-- `HOLD_PERIODS` of `YEW_SERVO` (Table 13.7). -/
def Fld.HOLD_PERIODS : Fld := ⟨0x02, 0x00, 0x0030, 0, 8⟩
/-- `SLEW_PPB` of `YEW_SLEW` (Table 13.7). -/
def Fld.SLEW_PPB : Fld := ⟨0x02, 0x00, 0x0034, 16, 16⟩
/-- `WORLD_SLEW_PPB` of `YEW_SLEW` (Table 13.7). -/
def Fld.WORLD_SLEW_PPB : Fld := ⟨0x02, 0x00, 0x0034, 0, 16⟩
/-- `SERVO_TAU_MS` of `YEW_LIMITS` (Table 13.7). -/
def Fld.SERVO_TAU_MS : Fld := ⟨0x02, 0x00, 0x0038, 24, 8⟩
/-- `RATE_MAX_PPB` of `YEW_LIMITS` (Table 13.7). -/
def Fld.RATE_MAX_PPB : Fld := ⟨0x02, 0x00, 0x0038, 0, 20⟩
/-- `WORLD_DEAD_NS` of `YEW_GATES` (Table 13.7). -/
def Fld.WORLD_DEAD_NS : Fld := ⟨0x02, 0x00, 0x003C, 16, 16⟩
/-- `DELAY_GATE_NS` of `YEW_GATES` (Table 13.7). -/
def Fld.DELAY_GATE_NS : Fld := ⟨0x02, 0x00, 0x003C, 0, 16⟩
/-- `DOMAIN` of `YEW_PTP` (Table 13.7). -/
def Fld.DOMAIN : Fld := ⟨0x02, 0x00, 0x0044, 24, 8⟩
/-- `PTP_PORT` of `YEW_PTP_PORT` (Table 13.7). -/
def Fld.PTP_PORT : Fld := ⟨0x02, 0x00, 0x0048, 0, 11⟩
/-- `PORT` of `ASYM_SEL` (Table 13.7). -/
def Fld.ASYM_SEL_PORT : Fld := ⟨0x02, 0x00, 0x0080, 0, 11⟩
/-- `ASYM_PS` of `ASYM` (Table 13.7). -/
def Fld.ASYM_PS : Fld := ⟨0x02, 0x00, 0x0084, 0, 32⟩
/-- `DISC_MODE` of `HAW_CTRL` (Table 14.12). -/
def Fld.DISC_MODE : Fld := ⟨0x28, 0x00, 0x0008, 31, 1⟩
/-- `POD_DIMS` of `HAW_CTRL` (Table 14.12). -/
def Fld.POD_DIMS : Fld := ⟨0x28, 0x00, 0x0008, 0, 2⟩
/-- `BEAT_US` of `HAW_BEAT` (Table 14.12). -/
def Fld.BEAT_US : Fld := ⟨0x28, 0x00, 0x000C, 16, 16⟩
/-- `BEAT_MISS` of `HAW_BEAT` (Table 14.12). -/
def Fld.BEAT_MISS : Fld := ⟨0x28, 0x00, 0x000C, 8, 8⟩
/-- `VOTE_WINDOW_US` of `HAW_VOTE` (Table 14.12). -/
def Fld.VOTE_WINDOW_US : Fld := ⟨0x28, 0x00, 0x0010, 16, 16⟩
/-- `SINK_FENCE_MS` of `HAW_VOTE` (Table 14.12). -/
def Fld.SINK_FENCE_MS : Fld := ⟨0x28, 0x00, 0x0010, 0, 16⟩
/-- `DEGRADE_SCORE` of `HAW_SCORE_TH` (Table 14.12). -/
def Fld.DEGRADE_SCORE : Fld := ⟨0x28, 0x00, 0x0014, 16, 10⟩
/-- `FENCE_SCORE` of `HAW_SCORE_TH` (Table 14.12). -/
def Fld.FENCE_SCORE : Fld := ⟨0x28, 0x00, 0x0014, 0, 10⟩
/-- `PROB_S` of `HAW_RECOVER` (Table 14.12). -/
def Fld.PROB_S : Fld := ⟨0x28, 0x00, 0x0018, 16, 16⟩
/-- `RECOVER_PER_S` of `HAW_RECOVER` (Table 14.12). -/
def Fld.RECOVER_PER_S : Fld := ⟨0x28, 0x00, 0x0018, 0, 8⟩
/-- `CLASS` of `HAW_WEIGHT_SEL` (Table 14.12). -/
def Fld.HAW_WEIGHT_SEL_CLASS : Fld := ⟨0x28, 0x00, 0x001C, 0, 4⟩
/-- `WEIGHT` of `HAW_WEIGHT` (Table 14.12). -/
def Fld.WEIGHT : Fld := ⟨0x28, 0x00, 0x0020, 0, 10⟩
/-- `BUDGET_WIN_S` of `HAW_BUDGET` (Table 14.12). -/
def Fld.BUDGET_WIN_S : Fld := ⟨0x28, 0x00, 0x0024, 16, 16⟩
/-- `BUDGET_DIV` of `HAW_BUDGET` (Table 14.12). -/
def Fld.BUDGET_DIV : Fld := ⟨0x28, 0x00, 0x0024, 0, 16⟩
/-- `PLAN_WAIT_S` of `HAW_PLAN` (Table 14.12). -/
def Fld.PLAN_WAIT_S : Fld := ⟨0x28, 0x00, 0x0030, 16, 16⟩
/-- `DISC_PERIOD_MS` of `HAW_PLAN` (Table 14.12). -/
def Fld.DISC_PERIOD_MS : Fld := ⟨0x28, 0x00, 0x0030, 0, 16⟩
/-- `PLAN_LOCK` of `HAW_LOCK` (Table 14.12). -/
def Fld.PLAN_LOCK : Fld := ⟨0x28, 0x00, 0x0034, 0, 1⟩
/-- `PORT` of `HAW_PORT_SEL` (Table 14.12). -/
def Fld.HAW_PORT_SEL_PORT : Fld := ⟨0x28, 0x00, 0x0040, 0, 11⟩
/-- `SPINE` of `HAW_SPINE_SEL` (Table 14.12). -/
def Fld.HAW_SPINE_SEL_SPINE : Fld := ⟨0x28, 0x00, 0x0050, 0, 14⟩
/-- `FW_LOCK` of `HOLLY_LOCK` (Table 15.7). -/
def Fld.FW_LOCK : Fld := ⟨0x01, 0x00, 0x0004, 2, 1⟩
/-- `OWNER_LOCK` of `HOLLY_LOCK` (Table 15.7). -/
def Fld.OWNER_LOCK : Fld := ⟨0x01, 0x00, 0x0004, 1, 1⟩
/-- `DEBUG_LOCK` of `HOLLY_LOCK` (Table 15.7). -/
def Fld.DEBUG_LOCK : Fld := ⟨0x01, 0x00, 0x0004, 0, 1⟩
/-- `REKEY_S` of `HOLLY_REKEY` (Table 15.7). -/
def Fld.REKEY_S : Fld := ⟨0x01, 0x00, 0x0008, 0, 16⟩
/-- `PORT` of `HOLLY_PROT_SEL` (Table 15.7). -/
def Fld.HOLLY_PROT_SEL_PORT : Fld := ⟨0x01, 0x00, 0x0010, 0, 11⟩
/-- `PROT_EN` of `HOLLY_PROT` (Table 15.7). -/
def Fld.PROT_EN : Fld := ⟨0x01, 0x00, 0x0014, 31, 1⟩
/-- `PART` of `HOLLY_PART_SEL` (Table 15.7). -/
def Fld.HOLLY_PART_SEL_PART : Fld := ⟨0x01, 0x00, 0x0018, 0, 12⟩
/-- `UDP_EN1` of `NCP_CTRL` (Table 16.6). -/
def Fld.UDP_EN1 : Fld := ⟨0x03, 0x00, 0x0000, 31, 1⟩
/-- `UDP_EN0` of `NCP_CTRL` (Table 16.6). -/
def Fld.UDP_EN0 : Fld := ⟨0x03, 0x00, 0x0000, 30, 1⟩
/-- `UDP_PORT` of `NCP_CTRL` (Table 16.6). -/
def Fld.NCP_CTRL_UDP_PORT : Fld := ⟨0x03, 0x00, 0x0000, 0, 16⟩
/-- `FRAG_TMO_MS` of `NCP_FRAG` (Table 16.6). -/
def Fld.FRAG_TMO_MS : Fld := ⟨0x03, 0x00, 0x0004, 0, 16⟩
/-- `CLASS` of `NCP_CLASS_SEL` (Table 16.6). -/
def Fld.NCP_CLASS_SEL_CLASS : Fld := ⟨0x03, 0x00, 0x0008, 0, 13⟩
/-- `RATE` of `NCP_RATE` (Table 16.6). -/
def Fld.NCP_RATE_RATE : Fld := ⟨0x03, 0x00, 0x000C, 16, 16⟩
/-- `BURST` of `NCP_RATE` (Table 16.6). -/
def Fld.NCP_RATE_BURST : Fld := ⟨0x03, 0x00, 0x000C, 0, 16⟩
/-- `GO` of `MBX_SLOTk` (Table 16.6). -/
def Fld.GO : Fld := ⟨0x03, 0x00, 0x0100, 31, 1⟩
/-- `READY` of `MBX_SLOTk` (Table 16.6). -/
def Fld.READY : Fld := ⟨0x03, 0x00, 0x0100, 29, 1⟩
/-- `LEN` of `MBX_SLOTk` (Table 16.6). -/
def Fld.LEN : Fld := ⟨0x03, 0x00, 0x0100, 0, 16⟩
/-- `JTAG` of `HUB_RESET_CAUSE` (Table 17.5). -/
def Fld.JTAG : Fld := ⟨0x00, 0x00, 0x0040, 4, 1⟩
/-- `WDOG` of `HUB_RESET_CAUSE` (Table 17.5). -/
def Fld.WDOG : Fld := ⟨0x00, 0x00, 0x0040, 3, 1⟩
/-- `CMD` of `HUB_RESET_CAUSE` (Table 17.5). -/
def Fld.CMD : Fld := ⟨0x00, 0x00, 0x0040, 2, 1⟩
/-- `PIN` of `HUB_RESET_CAUSE` (Table 17.5). -/
def Fld.PIN : Fld := ⟨0x00, 0x00, 0x0040, 1, 1⟩
/-- `POR` of `HUB_RESET_CAUSE` (Table 17.5). -/
def Fld.POR : Fld := ⟨0x00, 0x00, 0x0040, 0, 1⟩
/-- `PG_IDLE_US` of `PWR_IDLE_PG` (Table 17.5). -/
def Fld.PG_IDLE_US : Fld := ⟨0x00, 0x00, 0x0080, 0, 16⟩
/-- `MARL_IDLE_US` of `PWR_IDLE_ENG` (Table 17.5). -/
def Fld.MARL_IDLE_US : Fld := ⟨0x00, 0x00, 0x0084, 16, 16⟩
/-- `KAO_IDLE_US` of `PWR_IDLE_ENG` (Table 17.5). -/
def Fld.KAO_IDLE_US : Fld := ⟨0x00, 0x00, 0x0084, 0, 16⟩
/-- `BLOCK` of `REG_COMMIT_SEL` (Table 17.5). -/
def Fld.BLOCK : Fld := ⟨0x00, 0x00, 0x0144, 8, 8⟩
/-- `INSTANCE` of `REG_COMMIT_SEL` (Table 17.5). -/
def Fld.INSTANCE : Fld := ⟨0x00, 0x00, 0x0144, 0, 8⟩
/-- `WIDTH_L0` of `PORT_WIDTH_i` (Table 17.5). -/
def Fld.WIDTH_L : Fld := ⟨0x00, 0x00, 0x0400, 0, 2⟩
/-- `V` of `PORT_SWAP_k` (Table 17.5). -/
def Fld.PORT_SWAP_V : Fld := ⟨0x00, 0x00, 0x0800, 31, 1⟩
/-- `PORT_A` of `PORT_SWAP_k` (Table 17.5). -/
def Fld.PORT_A : Fld := ⟨0x00, 0x00, 0x0800, 16, 11⟩
/-- `PORT_B` of `PORT_SWAP_k` (Table 17.5). -/
def Fld.PORT_B : Fld := ⟨0x00, 0x00, 0x0800, 0, 11⟩
/-- `SOURCE` of `ST_CTR_SEL` (Table 18.10). -/
def Fld.SOURCE : Fld := ⟨0x30, 0x00, 0x0000, 0, 32⟩
/-- `RESET` of `ST_CTR_CTRL` (Table 18.10). -/
def Fld.RESET : Fld := ⟨0x30, 0x00, 0x001C, 0, 1⟩
/-- `ADDR` of `ALERT_ADDRw` (Table 18.10). -/
def Fld.ADDR : Fld := ⟨0x30, 0x00, 0x0040, 0, 32⟩
/-- `EN` of `ST_ALERT_CTRL` (Table 18.10). -/
def Fld.ST_ALERT_CTRL_EN : Fld := ⟨0x30, 0x00, 0x0050, 31, 1⟩
/-- `V6` of `ST_ALERT_CTRL` (Table 18.10). -/
def Fld.V6 : Fld := ⟨0x30, 0x00, 0x0050, 30, 1⟩
/-- `MG1` of `ST_ALERT_CTRL` (Table 18.10). -/
def Fld.MG1 : Fld := ⟨0x30, 0x00, 0x0050, 29, 1⟩
/-- `UDP_PORT` of `ST_ALERT_CTRL` (Table 18.10). -/
def Fld.ST_ALERT_CTRL_UDP_PORT : Fld := ⟨0x30, 0x00, 0x0050, 0, 16⟩
/-- `MATCHER` of `ST_LAYER_SEL` (Table 18.10). -/
def Fld.MATCHER : Fld := ⟨0x30, 0x00, 0x0060, 0, 6⟩
/-- `V` of `ST_LAYER_MATCH` (Table 18.10). -/
def Fld.ST_LAYER_MATCH_V : Fld := ⟨0x30, 0x00, 0x0064, 31, 1⟩
/-- `PART` of `ST_LAYER_MATCH` (Table 18.10). -/
def Fld.ST_LAYER_MATCH_PART : Fld := ⟨0x30, 0x00, 0x0064, 16, 12⟩
/-- `LAYER` of `ST_LAYER_MATCH` (Table 18.10). -/
def Fld.LAYER : Fld := ⟨0x30, 0x00, 0x0064, 0, 16⟩
/-- `OPER_VAL` of `ST_LAYER_OPER` (Table 18.10). -/
def Fld.OPER_VAL : Fld := ⟨0x30, 0x00, 0x0068, 16, 16⟩
/-- `OPER_MASK` of `ST_LAYER_OPER` (Table 18.10). -/
def Fld.OPER_MASK : Fld := ⟨0x30, 0x00, 0x0068, 0, 16⟩
/-- `FREEZE` of `ST_RING_CTRL` (Table 18.11). -/
def Fld.FREEZE : Fld := ⟨0x31, 0x00, 0x0000, 31, 1⟩
/-- `FREEZE_ON_ALARM` of `ST_RING_CTRL` (Table 18.11). -/
def Fld.FREEZE_ON_ALARM : Fld := ⟨0x31, 0x00, 0x0000, 30, 1⟩
/-- `RING_ALL` of `ST_RING_CTRL` (Table 18.11). -/
def Fld.RING_ALL : Fld := ⟨0x31, 0x00, 0x0000, 29, 1⟩
/-- `SNAP_HOLD_S` of `ST_SNAP_CFG` (Table 18.11). -/
def Fld.SNAP_HOLD_S : Fld := ⟨0x31, 0x00, 0x0014, 16, 16⟩
/-- `SNAP_CELLS` of `ST_SNAP_CFG` (Table 18.11). -/
def Fld.SNAP_CELLS : Fld := ⟨0x31, 0x00, 0x0014, 0, 16⟩
/-- `TP_EN` of `ST_TRACE_CTRL` (Table 18.11). -/
def Fld.TP_EN : Fld := ⟨0x31, 0x00, 0x0020, 31, 1⟩

end Sys2Proof.Machine
end

