-- ==== Sys2Proof/Config.lean ====
section
/-!
DEFINITION. Config.lean: what manufacture fixes in a module, and the free values: constants with no body, so that no
proof can see what they are.
-/

namespace Sys2Proof.Config

/-- The fused serial number (R380). Log 5 (UNVERIFIED). -/
opaque fusedSerial : BitVec 64

/-- The fused base address before the bits the rule fixes (R380). -/
opaque fusedMac : BitVec 48

/-- A free value: nothing constrains it. The argument is the step's counter of free values. -/
opaque free : Nat → Nat

/-- The item by which measurement 5 is extended when a lock or the debug state changes: its encoding is not stated (R349,
R372). The arguments are the debug state and the lock words. -/
opaque meas5Item : Bool → List Byte → List Byte

/-- What measurement 7 is for a partition, its authority's key hash and its binding time: its encoding is not stated (Table 15.1). -/
opaque meas7 : Nat → List Byte → Nat → List Byte

/-- The slots charged to a slot account up to a RAW instant: which account a slot is charged to is not modelled (R390). The
argument is the event source. Log 15 (UNVERIFIED). -/
opaque slotCount : Nat → Nat → Nat

/-! The primitives that Holly names and the manual does not define (R335 to R348): each is a function of what it is given. -/

/-- A measurement of the boot ROM, the fuses or the factory firmware (Table 15.1). -/
opaque factoryMeasure : Nat → List Byte

/-- The component versions of the factory firmware: Holly, Heath, optical microcode. -/
opaque factoryVersion : Nat → Nat

/-- A certificate chain (R338): chain number, and measurements 0 to 3, of which the alias keys are made (R335). -/
opaque certChain : Nat → List Byte → List Byte

/-- The alias signatures over a digest (R335): measurements 0 to 3, then the digest. -/
opaque aliasEcdsa : List Byte → List Byte → List Byte
opaque aliasMlDsa : List Byte → List Byte → List Byte

/-- Do signatures pass: public key, digest, signature? -/
opaque ecdsaOk : List Byte → List Byte → List Byte → Bool
opaque mlDsaOk : List Byte → List Byte → List Byte → Bool

/-- Do Colavo's two signatures over a digest pass: digest, ECDSA signature, ML-DSA signature? -/
opaque colavoOk : List Byte → List Byte → List Byte → Bool

/-- The two public keys of a certificate chain that holds under an authority: the authority's keys (empty for Colavo), the chain. -/
opaque chainKeys : List Byte → List Byte → Option (List Byte × List Byte)

/-- ML-KEM-768 encapsulation to a key with a random draw: ciphertext and shared secret. -/
opaque mlKemCipher : List Byte → Nat → List Byte
opaque mlKemSecret : List Byte → Nat → List Byte

/-- ECDH P-384 with a private number: the public key, and the secret shared with a peer's public key. -/
opaque ecdhPublic : Nat → List Byte
opaque ecdhSecret : List Byte → Nat → List Byte

/-- A byte of the ciphertext and tag that a sealed FFH and payload travel as: key, transmit counter, place (R342). -/
opaque cipherByte : Nat → Nat → Nat → Byte

/-- AES-256 key unwrap (RFC 3394): the key-wrap key, the wrapped key; none when the check fails. -/
opaque keyUnwrap : List Byte → List Byte → Option (List Byte)

end Sys2Proof.Config
end

