-- ==== Sys2Proof/Machine/EgressState.lean ====
section
/-!
DEFINITION. Machine/EgressState.lean: the state of Boxwood (calendars, gate lists, policers, shapers, TC7
departures) and of Shingle (route tables, spraying, sweeps, echoes, throttles, congestion maps).
-/

namespace Sys2Proof.Machine

open Sys2Proof

/-- A loaded calendar: its slots, each the valid queues in order, and its image (Tables 4.1, 4.3). -/
structure Calendar where
  slots : List (List Nat)
  takeover : Nat
  imgId : Nat
  deriving DecidableEq, Repr

/-- A gate entry (Table 4.4). -/
structure GateEntry where
  dur : Nat
  gates : Nat
  owner : Option Nat
  deriving DecidableEq, Repr

/-- A loaded gate list (Tables 4.1, 4.2, 4.4). -/
structure GateList where
  entries : List GateEntry
  takeover : Nat
  tc7Cells : Nat
  imgId : Nat
  deriving DecidableEq, Repr

/-- A token bucket in units of 1/8,000 byte and the instant, in ns, of its last update. -/
structure Bucket where
  tokens : Nat
  at_ : Nat
  deriving DecidableEq, Repr

/-- A TC7 frame admitted toward a port: its departure interval in units of 1/200 ns of fabric time, the owner of its
window, and the link and number it replays. -/
structure Departure where
  fid : Nat
  start : Nat
  stop : Nat
  owner : Nat
  link : Nat := 0
  replay : Option Nat := none
  viaDim : Option Nat := none
  deriving DecidableEq, Repr

/-- Boxwood's state of one port. `glOld` is the gate list that the active one replaced: it tells the gates of instants before the
takeover. -/
structure BxPort where
  cal : Option Calendar := none
  calPend : Option Calendar := none
  gl : Option GateList := none
  glPend : Option GateList := none
  glOld : Option GateList := none
  slot : Nat := 0
  starve : Table Nat := []
  starved : List Nat := []
  pol : Table Bucket := []
  shp : Table Bucket := []
  freeAt : Nat := 0
  deps : List Departure := []
  coverLost : List Nat := []
  lfsr : Option Nat := none
  deriving DecidableEq, Repr

/-- A route table image (R110). -/
structure RouteTable where
  epoch : Nat
  takeover : Nat
  imgId : Nat
  entries : List Nat
  deriving DecidableEq, Repr

/-- A sweep at its destination spine, keyed by SRC, DST, TC, SWEEP_ID (R119 to R122). -/
structure Sweep where
  half : Nat
  total : Nat := 0
  copies : List Nat := []
  lastFid : Nat := 0
  started : Nat
  timedOut : Option Nat := none
  fenced : List Nat := []
  done : Bool := false
  deriving DecidableEq, Repr

/-- An entry of an echo table (R125). -/
structure EchoEnt where
  src : Nat
  dst : Nat
  tc : Nat
  part : Nat
  port : Nat
  at_ : Nat
  deriving DecidableEq, Repr

/-- The injection throttle of a down-port and class (R126). `lastInc` is the RAW instant of the last increase, with R before
it. -/
structure Throttle where
  r : Nat := 65536
  tokens : Nat := 9236 * 8000
  tokensAt : Nat := 0
  lastDec : Option Nat := none
  lastInc : Option (Nat × Nat) := none
  aiFrom : Nat := 0
  deriving DecidableEq, Repr

/-- The latest congestion map received across a dimension (R127, R128), and the one it replaced with its instant, which
serves to the end of the cycle. -/
structure CmapIn where
  payload : List Byte := []
  receivedAt : Nat := 0
  before : List Byte × Nat := ([], 0)
  stale : Bool := false
  deriving DecidableEq, Repr

/-- Utilisation and marks of a port and class over the running map period. -/
structure CmapAcc where
  busy : Nat := 0
  marks : Nat := 0
  deriving DecidableEq, Repr

/-- Shingle. The two halves always hold the same tables, so one copy stands for both (R110). `heldCopies` are the
marker copies not yet sent: frame, sweep slot group and half (R120, R122). -/
structure Shingle where
  cur : Option RouteTable := none
  epoch : Nat := 0
  prev : Option (Option RouteTable) := none
  pend : Option RouteTable := none
  quietFrom : Option Nat := none
  spray : Table Nat := []
  sweeps : Table Sweep := []
  heldCopies : List (Nat × Nat × Nat) := []
  echo : Table (List EchoEnt) := []
  thr : Table Throttle := []
  cmapIn : Table CmapIn := []
  cmapSeq : Table Nat := []
  cmapAcc : Table CmapAcc := []
  cmapSentAt : Nat := 0
  deriving DecidableEq, Repr

/-- Boxwood: the ports, and the windows already pre-woken for. -/
structure Boxwood where
  ports : Table BxPort := []
  deriving DecidableEq, Repr

end Sys2Proof.Machine
end

