-- ==== Sys2Proof/Machine/EngineState.lean ====
section
/-!
DEFINITION. Machine/EngineState.lean: the state of Kaolin (Kaolin: Vector Combine Engines), Marl (Marl: the Matrix Router
Engine) and Tilth (Tilth: Collectives and Broadcast).
-/

namespace Sys2Proof.Machine

open Sys2Proof

/-- An exact value: ± m / d × 2^e with m, d above zero, a signed zero, ±Inf or NaN. -/
inductive Val where
  | nan
  | inf (neg : Bool)
  | zero (neg : Bool)
  | fin (neg : Bool) (m d : Nat) (e : Int)
  deriving DecidableEq, Repr

/-- An accumulator: its flags and SUM modulo 2^298 in units of 2^-149 (Table 7.7). -/
structure Accum where
  nan : Bool := false
  pinf : Bool := false
  ninf : Bool := false
  inexact : Bool := false
  nzSeen : Bool := false
  sum : Nat := 0
  deriving DecidableEq, Repr

/-! Kaolin -/

/-- A lane-file entry (R175): an accumulator, a running FP32 sum, or a kept maximum or minimum; `empty` until the first
addend of an ordered sum, a maximum or a minimum. -/
inductive Lane where
  | acc (a : Accum)
  | sum32 (bits : Nat)
  | kept (v : Val)
  | empty
  deriving DecidableEq, Repr

/-- A user program (R188). -/
structure KProg where
  instrs : List Nat
  imgId : Nat
  image : List Byte := []
  deriving DecidableEq, Repr

/-- A check record (R192, R209). -/
structure CheckRec where
  kind : Nat := 0
  other : Nat := 0
  coll : Nat := 0
  chunk : Nat := 0
  temp : Int := 0
  volt : Nat := 0
  marlBusy : Nat := 0
  engBusy : Nat := 0
  unitBusy : Nat := 0
  time : Nat := 0
  deriving DecidableEq, Repr

/-- A chunk marked for a shadow run (R191): the input frames the partner still has to read, the partner's lane state, and the RAW
instant of its final read, when that has happened, with the primary's lane state then. -/
structure ShadowRun where
  coll : Nat
  chunk : Nat
  fids : List Nat := []
  lanes : List Lane := []
  readAt : Option Nat := none
  primary : List Lane := []
  deriving DecidableEq, Repr

/-- One Kaolin engine. `resident` are the chunks in its lane files, the most recently used last: the collective or
token stream, the chunk, and the entries per lane it takes; `opened` counts chunks since the last marked one. -/
structure KEngine where
  resident : List (Nat × Nat × Nat) := []
  adds : Nat := 0
  residueErr : Nat := 0
  shadowMismatch : Nat := 0
  shadowRuns : Nat := 0
  log : CheckRec := {}
  opened : Nat := 0
  shadows : List ShadowRun := []
  deriving DecidableEq, Repr

/-- Kaolin: the engines and the user programs. -/
structure Kaolin where
  engines : Table KEngine := []
  progs : Table KProg := []
  deriving DecidableEq, Repr

/-! Marl -/

/-- A tile of an operator: its half, its place in the order of R198, its array and its pages; of each row the residues of its two
checksum columns (R195, R208); and for the column check the inputs since the last one, with the residues of the sums of their
x̂, by row, and of their y′, by column (R208). -/
structure Tile where
  mop : Nat
  half : Nat
  j : Nat
  array : Nat
  pages : List Nat
  chk : List (Nat × Nat) := []
  inputs : Nat := 0
  sumX : List Nat := []
  sumY : List Nat := []
  deriving DecidableEq, Repr

/-- An operator (R196): its image, the reservation of its combine window or basis, and whether a weight error has failed
it. -/
structure Mop where
  header : List Byte
  biases : List Nat
  scales : List Nat
  weights : List Nat
  resv : Option Nat := none
  failed : Bool := false
  routed : Nat := 0
  deriving DecidableEq, Repr

/-- How far a token has come: collecting pieces, all pieces in, or dispatched. -/
inductive TokPhase where
  | assembling | whole | waiting
  deriving DecidableEq, Repr

/-- What the pieces of one slot of a token have added (R184, R203): its accumulators, and the residue channel's sum and flags (R189). -/
structure SlotSum where
  accs : List Accum := []
  resid : Nat := 0
  rflags : List Nat := []
  deriving DecidableEq, Repr

/-- An open token: its key, its stage-0 pieces in Loam with their piece numbers, and its combine record (Table 9.4). -/
structure Token where
  part : Nat
  src : Nat
  collId : Nat
  chunk : Nat
  layer : Nat
  rop : Nat
  mop : Nat
  half : Nat
  tc : Nat
  phase : TokPhase := .assembling
  firstAt : Nat
  pieces : List (Nat × Nat) := []
  dispAt : Nat := 0
  dispTime : Nat := 0
  expect : Nat := 0
  excluded : Nat := 0
  missed : List Nat := []
  exps : List Nat := []
  eps : List Nat := []
  ws : List Nat := []
  got : List (Nat × Nat) := []
  sums : Table SlotSum := []
  deriving DecidableEq, Repr

/-- One Marl array's counts and last record (R207, R209). -/
structure MArray where
  ce : Nat := 0
  ue : Nat := 0
  rowErr : Nat := 0
  colErr : Nat := 0
  log : CheckRec := {}
  deriving DecidableEq, Repr

/-- Marl. Pages are keyed array × 128 + page, as `retired` lists them; `errs` holds the 16-byte words whose bits
carry an error (1 correctable, 2 uncorrectable), keyed page × 2,048 + word (R195). -/
structure Marl where
  mops : Table Mop := []
  tiles : List Tile := []
  retired : List Nat := []
  errs : Table Nat := []
  arrays : Table MArray := []
  tokens : Table Token := []
  nextTok : Nat := 1
  deriving DecidableEq, Repr

/-! Tilth -/

/-- A node of a spine list (R211). -/
structure TNode where
  spine : Nat
  parent : Nat
  alt1 : Nat
  alt2 : Nat
  deriving DecidableEq, Repr

/-- A list (R211). `adopted` gives the orphans that have found a new parent, in the order of adoption: child and parent
(R228, R232). -/
structure TList where
  lver : Nat
  imgId : Nat
  members : List Nat := []
  nodes : List TNode := []
  adopted : List (Nat × Nat) := []
  deriving DecidableEq, Repr

/-- An open queue (R215, R216). -/
structure TQueue where
  part : Nat
  stopped : Bool := false
  lastStatus : Nat := 0
  descs : List (List Byte) := []
  toks : List Nat := List.replicate 16 0
  deriving DecidableEq, Repr

/-- A member's or node's piece of a chunk (R223): the elements received, the frames that carry them or, projected and waiting for
its turn, its rows in FP32 (R182, R206), and whether it is complete. Members are keyed by rank, nodes by 2^24 + index. -/
structure Piece where
  got : Nat := 0
  fids : List Nat := []
  codes : List Nat := []
  done : Bool := false
  deriving DecidableEq, Repr

/-- An open chunk (R177, R223). `resid` and `rflags` are the residue channel's sum and flags (R189); `order` lists pieces as they
completed, `firstAt` is the RAW instant of the first and `lastAt` of the last (R229). -/
structure Chunk where
  pieces : Table Piece := []
  lanes : List Lane := []
  resid : Nat := 0
  rflags : List Nat := []
  order : List Nat := []
  firstAt : Nat := 0
  lastAt : Nat := 0
  marked : Bool := false
  deriving DecidableEq, Repr

/-- What a child of a broadcast node has acknowledged (R230). -/
structure BcChild where
  base : Nat := 0
  bitmap : List Nat := []
  digest : Bool := false
  deriving DecidableEq, Repr

/-- An orphan's search for a new parent (R232): which alternate is asked and since when (RAW). -/
structure Orphan where
  alt : Nat
  since : Nat
  deriving DecidableEq, Repr

/-- An admitted collective (R216 to R228), by `PART` × 2^32 + `COLL_ID`. Instants are RAW except `start`, a 64-bit fabric
time. `finished` are the chunks this node has finalised, forwarded, cached or sent upward, or the blocks that an all-to-all
has passed on whole; `repaired` and `reordered` are the qualifiers its own node reports, those of other nodes stand in
`nodeDone`; `entered` are the pieces projected where they entered; `moved` gives the node that took over a fenced node's
chunks; `failed` is the status of a failure it has reported and waits to be told of, `abortRanks` the ranks named so far by an
`ABORT` of several frames; `fencedLate` are members fenced after this coordinator had done its own part; `gone` are the nodes
fenced when the tree was last set, and `restart` is the RAW instant since when this coordinator owes a `RESTART` (R228). -/
structure Coll where
  part : Nat
  id : Nat
  desc : List Byte
  layer : Nat := 0
  oper : Nat := 0
  queue : Option Nat := none
  half : Nat
  engMask : Nat
  start : Nat
  resv : List Nat := []
  excluded : List Nat := []
  chunks : Table Chunk := []
  finished : List Nat := []
  arrived : List Nat := []
  nodeDone : Table Nat := []
  sentDone : Bool := false
  repaired : Bool := false
  reordered : Bool := false
  prewoken : Bool := false
  entered : List Nat := []
  blocks : Table Nat := []
  cache : Table (List Byte) := []
  kids : Table BcChild := []
  sentAt : Table Nat := []
  digest : Option (List Nat) := none
  verified : Bool := false
  orphan : Option Orphan := none
  moved : Table Nat := []
  slowCount : Table Nat := []
  lagMax : Nat := 0
  failed : Option Nat := none
  abortRanks : List Nat := []
  fencedLate : List Nat := []
  gone : List Nat := []
  restart : Option Nat := none
  deriving DecidableEq, Repr

/-- An entry of the slowest-member table (R229). -/
structure SlowEnt where
  part : Nat
  mlist : Nat
  rank : Nat
  count : Nat
  lagNs : Nat
  deriving DecidableEq, Repr

/-- A template (R217). -/
structure Template where
  part : Nat
  layer : Nat
  oper : Nat
  desc : List Byte
  deriving DecidableEq, Repr

/-- Tilth. Lists are keyed `PART` × 65,536 + `LIST_ID`. -/
structure Tilth where
  lists : Table TList := []
  queues : Table TQueue := []
  colls : Table Coll := []
  templates : List Template := []
  slow : Table (List SlowEnt) := []
  deriving DecidableEq, Repr

end Sys2Proof.Machine
end

