-- ==== Sys2Proof/Machine/HawState.lean ====
section
/-!
DEFINITION. Machine/HawState.lean: the state of Hawthorn (Hawthorn: Partitions, Fencing and Fault Decisions).
-/

namespace Sys2Proof.Machine

open Sys2Proof

/-- PSTATE of HAW_STATUS. -/
inductive PState where
  | none | active | teardown
  deriving DecidableEq, Repr

/-- Port fence kinds (Table 14.2). -/
inductive PortFence where
  | none | boundary | fault
  deriving DecidableEq, Repr

/-- The slice copies' bits of a spine (R312, R329). -/
structure SpineBits where
  fenced : Bool := false
  weak : Bool := false
  degraded : Bool := false
  probation : Bool := false
  cleared : Bool := false
  deriving DecidableEq, Repr

/-- A cabling-plan entry (R315). -/
structure PlanEnt where
  pkind : Nat
  any : Bool
  tag : Nat
  peerPort : Nat
  peerSpine : Nat
  pcrc : Nat
  deriving DecidableEq, Repr

/-- What a port knows of its peer (R316): from HELLO, from DISCOVERY and from LLDP. -/
structure PeerId where
  helloTag : Option Nat := none
  helloPort : Nat := 0
  disc : Option (List Byte) := none
  lldp : Option (Nat × Nat) := none
  deriving DecidableEq, Repr

/-- CAB of HAW_PORT_STATE. -/
inductive Cab where
  | unplanned | ok | absent | quarantined | swap | awaiting | discovery
  deriving DecidableEq, Repr

/-- What a spine knows of a neighbour, by dimension (R322). -/
structure Neigh where
  lastBeat : Nat := 0
  heard : Bool := false
  degraded : Bool := false
  score : Nat := 1000
  deriving DecidableEq, Repr

/-- An open vote as a spine holds it (R325). `mine` on the proposer's own. -/
structure Vote where
  suspect : Nat
  origin : Nat
  vseq : Nat
  evid : Nat
  part : Nat
  since : Nat
  mine : Bool := false
  voted : Bool := false
  voters : List Nat := []
  yes : List Nat := []
  no : List Nat := []
  deriving DecidableEq, Repr

/-- A finished vote as HAW_LAST_VOTE and HAW_REPORT give it. -/
structure VoteDone where
  result : Nat
  evid : Nat
  voters : Nat
  yes : Nat
  suspect : Nat
  at_ : Nat
  deriving DecidableEq, Repr

/-- A probation that this spine, a neighbour of the suspect, watches (R329): the RAW instants of its start and of the
latest beat since, and whether a beat was missed or SCORE fell below DEGRADE_SCORE. -/
structure Probation where
  since : Nat
  lastBeat : Option Nat := none
  failed : Bool := false
  deriving DecidableEq, Repr

/-- An accepted PART_ADMIT whose boundary ports are being fenced (R309, R311). -/
structure Admitting where
  cmd : Ncp
  part : Nat
  base : Nat
  free : Nat
  devices : Nat
  bypass : List Nat
  hash : Nat
  deriving DecidableEq, Repr

/-- A running margin sweep (R330): the command, the unit (an engine, or 16 + a Marl group), the supply trim in mV, the load
and the RAW instant of its end. -/
structure Margin where
  cmd : Ncp
  unit : Nat
  vofs : Int
  load : Nat
  endAt : Nat
  deriving DecidableEq, Repr

/-- Hawthorn. Instants are RAW: `waitFrom` is a port's last link down, enable or unfencing, `boundaryAt` when its boundary
DISCOVERY left, `sinkFrom` when its sink discard began (R74), `expelled` the expulsions in the window, `seen` the flooded
messages of the last 10 ms, `commitAt` the latest commit that fenced a spine. `selfDue` says that SCORE has fallen below FENCE_SCORE and the spine's own fence is not yet
proposed. -/
structure Haw where
  pstate : PState := .none
  part : Nat := 0
  base : Nat := 0
  free : Nat := 0
  devices : Nat := 0
  bypass : List Nat := []
  admitHash : Nat := 0
  portFence : Table PortFence := []
  spines : Table SpineBits := []
  rfence : List (Nat × Nat) := []
  partFence : List Nat := []
  plan : Table PlanEnt := []
  planAt : Nat := 0
  planLoaded : Bool := false
  ids : Table PeerId := []
  cab : Table Cab := []
  swapWith : Table Nat := []
  waitFrom : Table Nat := []
  boundaryAt : Table Nat := []
  score : Nat := 1000
  recoveredAt : Nat := 0
  neigh : Table Neigh := []
  votes : List Vote := []
  seen : List (Nat × Nat × Nat) := []
  hseq : Nat := 0
  vseq : Nat := 0
  expelled : List Nat := []
  hold : Bool := false
  lastVotes : List VoteDone := []
  probation : Table Probation := []
  sinkFrom : Table Nat := []
  beatSent : Table Nat := []
  selfDue : Bool := false
  admitting : Option Admitting := none
  teardown : Option Ncp := none
  margin : Option Margin := none
  discSentAt : Table Nat := []
  commitAt : Table Nat := []
  deriving DecidableEq, Repr

end Sys2Proof.Machine
end

