-- ==== Sys2Proof/Machine/HollyState.lean ====
section
/-!
DEFINITION. Machine/HollyState.lean: the state of Holly (Holly: Trust, Keys and Isolation). A key is kept as the number
its bytes spell.
-/

namespace Sys2Proof.Machine

open Sys2Proof

/-- The keys of a link or virtual link (R341 to R343): the 36 bytes of key and salt of each direction, TXC, the
receiver's E and latest mark, and the keys of a rekey not yet in use. -/
structure LinkKeys where
  txKey : Option Nat := none
  txc : Nat := 0
  rxKey : Option Nat := none
  rxE : Nat := 0
  mark : Option Nat := none
  nextRx : Option Nat := none
  exchanging : Bool := false
  rekeys : Nat := 0
  keyedAt : Nat := 0
  markedAt : Nat := 0
  deriving DecidableEq, Repr

/-- A partition binding (R340): the tenant authority's public keys, the partition master secret, the four Subsoil keys
(two per half), and measurements 7 and 8. -/
structure Binding where
  ecPub : List Byte
  mlPub : List Byte
  pms : List Byte
  xts : List (List Byte)
  meas7 : List Byte
  meas8 : List Byte
  deriving DecidableEq, Repr

/-- An exchange that has sent KEX_RESP and waits for KEX_FIN (R339): messages 1 and 2, the secret S, when it began, the
link it is for, the names of initiator and responder in its key derivation, and whether the owner's tag began it. -/
structure Kex where
  purpose : Nat
  part : Nat
  via : Transport
  msg1 : List Byte
  msg2 : List Byte
  secret : List Byte
  since : Nat
  link : Nat
  macI : List Byte
  macR : List Byte
  tagged : Bool := false
  deriving DecidableEq, Repr

/-- A MACsec secure association (R344): the partition under whose key-wrap key it came (0 for the owner's), key, next packet
number of a transmit association or next expected of a receive association, and whether packet numbers are extended to 64
bits. -/
structure MacsecSa where
  part : Nat := 0
  key : Nat
  pn : Nat
  xpn : Bool
  salt : Nat
  deriving DecidableEq, Repr

/-- MACsec of a port: associations keyed by secure channel × 4 + association number, the transmit channel's current
association, and whether one has been installed since the port was last disabled. -/
structure MacsecPort where
  tx : Table MacsecSa := []
  rx : Table MacsecSa := []
  curTx : Option Nat := none
  stopped : Bool := false
  installed : Bool := false
  deriving DecidableEq, Repr

/-- Holly. Measurements 0 to 4 are fixed at boot; `meas5` and `meas6` are kept here. -/
structure Holly where
  ownerKey : Option (List Byte) := none
  links : Table LinkKeys := []
  bindings : Table Binding := []
  kexes : Table Kex := []
  nextKex : Nat := 1
  macsec : Table MacsecPort := []
  meas5 : List Byte := List.replicate 48 0
  meas6 : List Byte := List.replicate 48 0
  debug : Bool := false
  scope : Nat := 0
  fwBad : Bool := false
  erases : Nat := 0
  nonce : Option (List Byte × Nat) := none
  deriving DecidableEq, Repr

end Sys2Proof.Machine
end

