-- ==== Sys2Proof/Machine/HubState.lean ====
section
/-!
DEFINITION. Machine/HubState.lean: the state of the hub: power, reset and sleep (Module, Power and Signals), the
register nodes (Register Interface), Heath's command protocol (Ndoziel Command Protocol) and Strata.
-/

namespace Sys2Proof.Machine

open Sys2Proof

/-- Sleep states of a domain of Table 1.9; a waking domain carries the RAW instant of its wake trigger, and a late one has
been reported under R30. -/
inductive SleepState where
  | awake
  | asleep
  | waking (since : Nat)
  | late (since : Nat)
  deriving DecidableEq, Repr

/-- A firmware slot of R412: the firmware of the factory, or the contents staged, the stretches staged so far, and whether the
contents have passed FW_ACTIVATE. -/
structure FwSlot where
  factory : Bool := false
  image : List Byte := []
  written : List (Nat × Nat) := []
  valid : Bool := false
  deriving DecidableEq, Repr

/-- Supplies, pins, reset, watchdog, thermal loop, sleep and firmware slots. Domains are numbered as kind G of
Table 18.1. `cause` is HUB_RESET_CAUSE. `dies` holds temperatures in 0.1 °C, `rails` mV and units of 0.1 A, as last read. -/
structure Power where
  vsb : Bool := true
  aon : Bool := true
  vin48 : Bool := true
  railsBad : List Nat := []
  tripped : Bool := false
  resetN : Bool := false
  refclk : Bool := true
  pllOnRef : Bool := true
  hubUp : Bool := false
  cause : Nat := 1
  wdogAt : Nat := 0
  resetAt : Option Nat := none
  level : Nat := 0
  capW : Nat := 0
  powerW : Nat := 0
  rails : Table (Nat × Nat) := []
  dies : Table Int := []
  domains : Table SleepState := (List.range 32).map fun i => (327 + i, .asleep)
  sleptAt : Table Nat := []
  lastWork : Table Nat := []
  slots : List FwSlot := [{ factory := true }, {}]
  active : Nat := 0
  pendingAct : Bool := false
  fwVersions : List Nat := [0, 0, 0]
  deriving DecidableEq, Repr

/-- A pending timed commit of a block instance (R378); instance 0xFE pends on every instance of its block. -/
structure PendCommit where
  blk : Nat
  inst : Nat
  at_ : Nat
  wanted : Nat
  deriving DecidableEq, Repr

/-- The register nodes. Keys are address × 2^20 + copy, the copy being the requester of a selector or the selected
item (R367). `upset` holds, for an RWV word, what each of its three copies differs by from the value kept (R371). -/
structure RegFile where
  active : Table (BitVec 32) := []
  shadow : Table (BitVec 32) := []
  upset : Table (BitVec 32 × BitVec 32 × BitVec 32) := []
  pend : List PendCommit := []
  lastStatus : Table Nat := []
  wstat : Table Nat := []
  rejects : Table Nat := []
  waddr : Table Nat := []
  voteFix : Nat := 0
  timeouts : Nat := 0
  latched : Table Nat := []
  deriving DecidableEq, Repr

/-- A mailbox slot (R356): its register, its windows, and the reply messages that wait for READY to clear. -/
structure Mbx where
  len : Nat := 0
  busy : Bool := false
  ready : Bool := false
  reply : List Byte := []
  window : List Byte := []
  waiting : List (List Byte) := []
  deriving DecidableEq, Repr

/-- A staging buffer that assembles a fragmented command (R355). -/
structure Stage where
  opcode : Nat
  seq : Nat
  part : Nat
  total : Nat
  frags : List (Nat × List Byte)
  startedAt : Nat
  via : Transport
  deriving DecidableEq, Repr

/-- The replay state of a command key and its reply cache (R357, R358): H, the numbers of the window already
accepted, and for each cached number its opcode and cut reply. -/
structure SeqState where
  started : Bool := false
  h : Nat := 0
  seen : List Nat := []
  cache : List (Nat × List Byte) := []
  deriving DecidableEq, Repr

/-- A command waiting in its class's queue or executing (R360, R361). -/
structure QCmd where
  cls : Nat
  opcode : Nat
  seq : Nat
  part : Nat
  via : Transport
  body : List Byte
  deriving DecidableEq, Repr

/-- A long command executing: it holds an execution slot until its reply (R360). -/
structure Running where
  cls : Nat
  opcode : Nat
  seq : Nat
  part : Nat
  via : Transport
  scope : Nat
  deriving DecidableEq, Repr

/-- Heath's command state. Classes: 0 owner, 1 to 0xFFE tenant, 0x1000 untagged. -/
structure NcpState where
  mbx : Table Mbx := []
  stages : Table Stage := []
  seqs : Table SeqState := []
  queues : Table (List QCmd) := []
  buckets : Table (Nat × Nat) := []
  running : List Running := []
  last : Table (Nat × Nat) := []
  cmds : Nat := 0
  rejects : Nat := 0
  turn : Nat := 0
  deriving DecidableEq, Repr

/-- A ring record (Table 18.6). -/
structure RingRec where
  time : Nat
  qual : Nat
  akind : Nat
  rseq : Nat
  source : Nat
  part : Nat
  args : List Nat
  deriving DecidableEq, Repr

/-- An event ring: its records, oldest first, and the number of the next (R394). -/
structure Ring where
  recs : List RingRec := []
  rseq : Nat := 0
  deriving DecidableEq, Repr

/-- An armed threshold (R388). -/
structure Threshold where
  value : Nat
  fired : Bool := false
  deriving DecidableEq, Repr

/-- Snapshot phases of ST_SNAP_STATE. -/
inductive SnapPhase where
  | pending | writing | complete
  deriving DecidableEq, Repr

/-- A snapshot (R392, R393). -/
structure Snap where
  id : Nat
  slot : Nat := 0
  tReq : Nat
  at_ : Nat
  mask : Nat
  part : Nat
  seq : Nat
  phase : SnapPhase := .pending
  tLatch : Nat := 0
  qual : Nat := 0
  ctrs : List (Nat × Option Nat × Nat) := []
  rings : List (Nat × List RingRec) := []
  doneAt : Nat := 0
  deriving DecidableEq, Repr

/-- A running trace (R397, Table 18.9): its parameters, who reads it, its staging and its counts. -/
structure Trace where
  params : List Byte
  authPart : Nat
  resv : Nat
  stopAt : Option Nat
  staged : List (List Byte) := []
  stagedBytes : Nat := 0
  picked : Table Nat := []
  lostSince : Nat := 0
  linkDownCounted : Bool := false
  lastTime : Nat := 0
  deriving DecidableEq, Repr

/-- A counter reset (R386): the source, its RAW instant, and the tag that the counter had before it. -/
structure CtrReset where
  src : Nat
  at_ : Nat
  tag : Option (Nat × Nat)
  deriving DecidableEq, Repr

/-- Strata. Counters, PREV and tags are keyed by the 32-bit event source (R383). -/
structure Strata where
  ctr : Table Nat := []
  prev : Table Nat := []
  tag : Table (Nat × Nat) := []
  thr : Table Threshold := []
  rings : Table Ring := []
  frozenT : Nat := 0
  aseq : Nat := 0
  alertTokens : Nat := 64 * 1000000
  alertAt : Nat := 0
  snaps : List Snap := []
  nextSnap : Nat := 1
  trace : Option Trace := none
  traceBytes : Nat := 0
  traceDrops : Nat := 0
  traceSeq : Nat := 0
  resets : List CtrReset := []
  deriving DecidableEq, Repr

/-- The parts of an FFH-over-UDP datagram on transmit (Table 2.9, R49, R50): the VLAN tag where the VLAN does not untag the
port, IPv4 DF, whether the UDP checksum is computed, the shim, FFH and payload. -/
structure UdpTx where
  port : Nat
  vid : Option Nat
  dmac : Nat
  smac : Nat
  v6 : Bool
  df : Bool
  srcIp : Nat
  dstIp : Nat
  sport : Nat
  dport : Nat
  dscp : Nat
  ecn : Nat
  ttl : Nat
  csum : Bool
  shim : List Byte
  ffh : List Byte
  payload : List Byte
  deriving DecidableEq, Repr

/-- What leaves the module, in the order it left. Log 158 (DESIGN CHOICE). -/
inductive Emit where
  /-- A fabric-mode frame on a port (Table 2.2): Ethernet header, link header, FFH, payload, padding, and the FCS of an
  unprotected frame; the FCS of a protected one covers its ciphertext. -/
  | frame (port : Nat) (mac linkHdr ffh payload pad fcs : List Byte) (sealedAs : Option Seal)
  /-- An FFH-over-UDP datagram on virtual link v (Table 2.9). -/
  | udp (v : Nat) (d : UdpTx) (sealedAs macsec : Option Seal)
  /-- A link control block (R242): link number, the 8 header bytes and their CRC. -/
  | lcb (link : Nat) (hdr : List Byte)
  /-- An Ethernet-mode frame without FCS; `sealedAs` when MACsec protects it. -/
  | eth (port : Nat) (bytes : List Byte) (sealedAs : Option Seal)
  /-- A `HELLO` run on a port (R239). -/
  | hello (port : Nat) (bytes : List Byte)
  /-- An NCP reply message on its transport (R353). -/
  | reply (via : Transport) (msg : List Byte)
  /-- An alert datagram: management port, collector words, UDP port, payload and tag (R389). -/
  | alert (mg : Nat) (v6 : Bool) (addr : List Nat) (port : Nat) (payload tag : List Byte)
  /-- An MSI-X vector over PCIe. -/
  | msix (vector : Nat)
  /-- An optical control message on a port's lane (R270). -/
  | optical (port : Nat) (msg : List Byte)
  /-- The identities that the alignment markers of lane i of a port carry from now on: LANE_ID, and ECHO_ID once there is one
  (R240). -/
  | marker (port : Nat) (lane : Nat) (laneId : Nat) (echoId : Option Nat)
  /-- A lane remap request or degrade agreement in link control blocks (R254, R255). -/
  | lanes (port : Nat) (request : Nat) (mask : Nat)
  /-- A trace frame on the trace port (R396). -/
  | trace (bytes : List Byte)
  /-- Completion of a PCIe register request (R366, R375): 0 done, 1 Unsupported Request, 2 Completer Abort. -/
  | pcie (completion : Nat) (value : Nat)
  /-- A time beat to the regions: RAW and the pair OFFSET, RATE (R301). -/
  | beat (raw : Nat) (offset : Int) (rate : Nat)
  deriving DecidableEq, Repr

end Sys2Proof.Machine
end

