-- ==== Sys2Proof/Machine/LaurelState.lean ====
section
/-!
DEFINITION. Machine/LaurelState.lean: the state of Laurel (Laurel: Forwarding Tables and Learning). An entry whose
stored bits fail parity carries `bad` (R149).
-/

namespace Sys2Proof.Machine

open Sys2Proof

/-- An exact-match entry: 96-bit key and result word (R133). -/
structure ExactEnt where
  key : Nat
  res : Nat
  bad : Bool := false
  deriving DecidableEq, Repr

/-- A group record of 192 bytes (R135). -/
structure GroupRec where
  bytes : List Byte
  bad : Bool := false
  deriving DecidableEq, Repr

/-- A slot of a prefix hash table: key bytes as a number, length, next hop (R138). -/
structure PrefixEnt where
  key : Nat
  len : Nat
  nh : Nat
  bad : Bool := false
  deriving DecidableEq, Repr

/-- A slot of the MAC table (R138, R143). -/
structure MacEnt where
  key : Nat
  port : Nat
  static : Bool
  stamp : Nat := 0
  lrnPort : Nat := 0
  bad : Bool := false
  deriving DecidableEq, Repr

/-- A next hop (R140). -/
structure NhEnt where
  act : Nat
  port : Nat
  vid : Nat
  dmac : Nat
  bad : Bool := false
  deriving DecidableEq, Repr

/-- A VLAN: members and untagged ports, as numbers whose bit p stands for port Pp (R147). -/
structure VlanEnt where
  members : Nat
  untag : Nat
  bad : Bool := false
  deriving DecidableEq, Repr

/-- An ACL rule of 48 bytes (R148). -/
structure AclEnt where
  bytes : List Byte
  bad : Bool := false
  deriving DecidableEq, Repr

/-- A word of a direct table. -/
structure DirectEnt where
  val : Nat
  bad : Bool := false
  deriving DecidableEq, Repr

/-- One replica (Table 6.1). Hash slots are numbered (way × 2^16 + bucket) × 16 + slot. -/
structure Replica where
  exact : Table ExactEnt := []
  recs : Table GroupRec := []
  recWait : Table Nat := []
  v4 : Table PrefixEnt := []
  v6 : Table PrefixEnt := []
  mac : Table MacEnt := []
  nh : Table NhEnt := []
  vlan : Table VlanEnt := []
  acl : Table AclEnt := []
  dp : Table DirectEnt := []
  locals : Table DirectEnt := []
  parLast : Nat := 0
  parCount : Nat := 0
  deriving DecidableEq, Repr

/-- A learn request (R143). -/
structure LearnReq where
  half : Nat
  key : Nat
  port : Nat
  deriving DecidableEq, Repr

/-- Laurel: the replicas of the halves, the learn engine's queue, ageing, and the trap and LLDP buckets. -/
structure Laurel where
  ready : Bool := false
  r0 : Replica := {}
  r1 : Replica := {}
  learnQ : List LearnReq := []
  lrnCount : Table Nat := []
  age : Nat := 0
  agedAt : Nat := 0
  trap : Table (Nat × Nat) := []
  lldp : Table (Nat × Nat) := []
  trapped : List (Nat × List Byte) := []
  deriving DecidableEq, Repr

end Sys2Proof.Machine
end

