-- ==== Sys2Proof/Machine/LinkState.lean ====
section
/-!
DEFINITION. Machine/LinkState.lean: the state of links, lanes and virtual links (Links, Lanes and Link-Level Retry).
Link number n below 1,280 is the fabric-mode link of port Pn; 2,048 + v is virtual link v.
-/

namespace Sys2Proof.Machine

open Sys2Proof

/-- A frame sent on a link and not yet settled (R244, R245): `firstTx` and `lastTx` are RAW instants, `marked` says
that this copy left with ECN set to 0b11 (R124), and `replayAt` when a replay is due. -/
structure TxRec where
  seq : Nat
  fid : Nat
  firstTx : Nat
  lastTx : Nat
  marked : Bool := false
  viaDim : Option Nat := none
  byException : Bool := false
  named : Bool := false
  lossReplays : Nat := 0
  withholds : Nat := 0
  replayAt : Option Nat := none
  lossDue : Bool := false
  deriving DecidableEq, Repr

/-- The transmit side of a sequence space (R243); `skips` are numbers abandoned and not yet passed by the far ACK. -/
structure TxSpace where
  next : Nat := 0
  open_ : List TxRec := []
  skips : List Nat := []
  deriving DecidableEq, Repr

/-- The receive side of a sequence space: the lowest unsettled number, the settled numbers above it, the highest
number received, and admitted frames that wait for a gap (R245, R247). -/
structure RxSpace where
  ack : Nat := 0
  above : List Nat := []
  highest : Option Nat := none
  held : List (Nat × Nat) := []
  deriving DecidableEq, Repr

/-- Event kinds of the link header (Table 11.5). -/
inductive EKind where
  | none | loss | refused | withheld | skip | open | txcMark | reserved
  deriving DecidableEq, Repr

/-- An event waiting to be sent (R246). -/
structure LinkEvent where
  kind : EKind
  space : Nat
  seq : Nat
  deriving DecidableEq, Repr

/-- The retry state of one end of a link or virtual link (R242 to R251, R258). -/
structure LinkEnd where
  tx : Table TxSpace := []
  rx : Table RxSpace := []
  events : List LinkEvent := []
  ackDirty : List Nat := []
  blocked : List Nat := []
  replays : Nat := 0
  lastAckAt : Nat := 0
  deriving DecidableEq, Repr

/-- Link states of LK_STATE. -/
inductive LinkPhase where
  | down | training | up | degraded
  deriving DecidableEq, Repr

/-- How far a training attempt has come (Table 11.3). -/
inductive TrainStep where
  | signal | markers | hello | measured | keying
  deriving DecidableEq, Repr

/-- The physical link of a port. `refAt` is the RAW instant of the training reference; `active` lanes and `laneOk` are
those of LK_STATE; `peerLane` is the LANE_ID accepted on each receive lane at training, `lastId` the one last received there, and `echoRun` and `idRun` count
the markers in a row whose identities differ (R240, R266); `steer` is the peer a steering image expects (R279). -/
structure PortLink where
  phase : LinkPhase := .down
  step : TrainStep := .signal
  refAt : Nat := 0
  active : Nat := 0
  laneOk : Nat := 0
  idMismatch : Nat := 0
  peerLane : Table Nat := []
  lastId : Table Nat := []
  echoRun : Table Nat := []
  idRun : Table Nat := []
  rtt : Nat := 0
  hello : List Byte := []
  steer : Option (Nat × Nat) := none
  deriving DecidableEq, Repr

/-- A virtual link of FFH over UDP (R48, R50, R258). `hop` is the next hop that the last prefix lookup of the peer gave;
none when a load has left the peer without one whose action is forward. -/
structure VLink where
  peerIp : Nat
  v6 : Bool
  localIp : Nat
  peerAddr : Nat
  port : Nat
  lastSeen : Nat
  rtoNs : Nat
  ackDelays : List Nat := []
  hop : Option NhEnt
  deriving DecidableEq, Repr

/-- All link state. `spares` maps a slice to the lane its spare carries, `spareAsked` to the lane
whose remap is asked for (R254); `laneOf` gives the first
lane of each port that a cabling swap has moved (R8, R317). -/
structure Links where
  ends : Table LinkEnd := []
  ports : Table PortLink := []
  vlinks : Table VLink := []
  spares : Table Nat := []
  spareAsked : Table Nat := []
  laneOf : Table Nat := []
  deriving DecidableEq, Repr

end Sys2Proof.Machine
end

