-- ==== Sys2Proof/Machine/LoamState.lean ====
section
/-!
DEFINITION. Machine/LoamState.lean: the state of Loam and Sieve: frames, cell and clod records, pools, queues,
reservations, charges (Loam: the Central Store).
-/

namespace Sys2Proof.Machine

open Sys2Proof

/-- The Fleornum Fabric Header (Table 2.3), field by field. -/
structure Ffh where
  ver : Nat := 1
  tc : Nat := 0
  fence : Bool := false
  epoch : Nat := 0
  sweep : Bool := false
  esc : Bool := false
  ecn : Nat := 0
  ece : Bool := false
  mc : Bool := false
  part : Nat := 0
  fmt : Nat := 0
  src : Nat := 0
  dst : Nat := 0
  collId : Nat := 0
  chunk : Nat := 0
  layer : Nat := 0
  oper : Nat := 0
  plen : Nat := 0
  kind : Nat := 0
  scl : Bool := false
  last : Bool := false
  rsv : Nat := 0
  hops : Nat := 0
  sweepId : Nat := 0
  hcrc : Nat := 0
  deriving DecidableEq, Repr

/-- Cell states of Table 3.2. -/
inductive CellKind where
  | free | held | retired
  deriving DecidableEq, Repr

/-- A cell record (Table 3.2), with what lies beside it: `off` on a free cell that is not on its free list, Sieve's
`suspect`, and `err`, the error its bits carry: 1 correctable, 2 uncorrectable. -/
structure CellRec where
  kind : CellKind := .free
  ref : Nat := 0
  part : Nat := 0
  next : Nat := 0
  off : Bool := false
  suspect : Nat := 0
  err : Nat := 0
  deriving DecidableEq, Repr

/-- Clod states of Table 3.2. -/
inductive ClodKind where
  | free | spill | hold | cache | basis | retired
  deriving DecidableEq, Repr

/-- A clod record (Table 3.2), with `off`, `suspect` and `err` as in a cell record. -/
structure ClodRec where
  kind : ClodKind := .free
  part : Nat := 0
  used : Nat := 0
  owner : Nat := 0
  off : Bool := false
  suspect : Nat := 0
  err : Nat := 0
  deriving DecidableEq, Repr

/-- Where a cell of a frame lies: a Topsoil cell, or a Subsoil clod (numbered stack × 2^22 + clod). -/
inductive Place where
  | top (cell : Nat)
  | sub (clod : Nat)
  deriving DecidableEq, Repr

/-- The pools of Table 3.5 a frame's cells may be charged to; an admission reservation goes by its number. -/
inductive Pool where
  | shared
  | tc6 (inPort : Nat)
  | tc7 (egPort : Nat)
  | escape (egPort tc : Nat)
  | resv (id : Nat)
  deriving DecidableEq, Repr

/-- What a stored frame is: a fabric-mode frame, an Ethernet-mode frame, or one the spine made itself. -/
inductive FrameMode where
  | fabric | eth | own
  deriving DecidableEq, Repr

/-- A frame copy in an egress queue. `viaDim` is set on a copy that the group record or a sweep sends across a
dimension, `byException` on a frame whose port a fabric exception gave, `named` on a multicast copy toward a port that
PORTS names, and `waits` on a marker copy: the frames of its key that it leaves after (R120). -/
structure QEnt where
  fid : Nat
  viaDim : Option Nat := none
  byException : Bool := false
  named : Bool := false
  waits : List Nat := []
  deriving DecidableEq, Repr

/-- A frame held in Loam: header, stored bytes after the header (all of them for an Ethernet-mode frame), where its
cells lie, who is charged, its holders, and, until it is queued, where it goes: queues, or the spine itself. A frame that
`shares` the cells of another holds one reference on that frame, and only its header is its own (R18, R202, R230). -/
structure StoredFrame where
  mode : FrameMode
  ffh : Ffh
  data : List Byte
  tc : Nat
  places : List Place := []
  pool : Pool
  part : Nat
  inPort : Nat
  inHalf : Nat
  refs : Nat := 1
  arrivedAt : Nat
  vid : Nat := 0
  dests : List (Nat × QEnt) := []
  consumed : Bool := false
  inDim : Nat := 15
  rxLink : Nat := 0
  rxStamp : Nat := 0
  shares : Option Nat := none
  deriving DecidableEq, Repr

/-- A reservation inside Loam (Table 1.6); `used` of its cells hold frames. -/
structure Resv where
  part : Nat
  cells : Nat
  clods : Nat
  used : Nat := 0
  clodIds : List Nat := []
  deriving DecidableEq, Repr

/-- The last finding of a Sieve (SIEVE_LAST). -/
structure SieveLast where
  kind : Nat := 0
  tier : Nat := 0
  unit : Nat := 0
  part : Nat := 0
  deriving DecidableEq, Repr

/-- One Sieve: the tiers that START has begun and that are still to be audited, its counts and its last finding. -/
structure SieveHalf where
  started : List Nat := []
  passes : Nat := 0
  leaks : Nat := 0
  doubles : Nat := 0
  last : SieveLast := {}
  lastTop : Nat := 0
  lastSub : Nat := 0
  deriving DecidableEq, Repr

/-- Loam. A unit with no record is free and on its free list once. `extra…` are the units listed a second time, or
listed while not free, which only Sieve takes off. `openClod` is the clod a queue's spill is filling. -/
structure Loam where
  initDone : Bool := false
  frames : Table StoredFrame := []
  nextFid : Nat := 1
  cells : Table CellRec := []
  quadUsed : Table Nat := []
  quadRetired : Table Nat := []
  clods : Table ClodRec := []
  extraCells : List Nat := []
  extraClods : List Nat := []
  queues : Table (List QEnt) := []
  tcharge : Table Nat := []
  scharge : Table Nat := []
  sharedUsed : Nat := 0
  tc6Used : Nat := 0
  tc6Port : Table Nat := []
  tc7Used : Table Nat := []
  escUsed : Table Nat := []
  resvs : Table Resv := []
  nextResv : Nat := 1
  spilling : Bool := false
  paused : Table Bool := []
  spillCount : Table Nat := []
  openClod : Table Nat := []
  sieves : Table SieveHalf := []
  inbox : List (Nat × Nat) := []
  deriving DecidableEq, Repr

end Sys2Proof.Machine
end

