-- ==== Sys2Proof/Machine/PrivetState.lean ====
section
/-!
DEFINITION. Machine/PrivetState.lean: the state of Privet and of Hedgerow (Privet and Hedgerow: Light, Rings and
Circuits). Rings are numbered as kind R of Table 18.1, comb lines as kind N, output lines as kind X.
-/

namespace Sys2Proof.Machine

/-- States of PRV_RING. An enabled port's ring that is `off` is acquiring its line (R264). -/
inductive RingPhase where
  | off | locked | parked | failed
  deriving DecidableEq, Repr

/-- A ring: its heater power and, at its last acquisition, window centre in µW and die temperature in 0.1 K; the failed sweeps in a row, its relocks, whether it relocks on
wrong-line evidence, and the RAW instant of its last relock. -/
structure OptRing where
  phase : RingPhase := .off
  heat : Nat := 0
  centre : Nat := 0
  tempAt : Int := 0
  tries : Nat := 0
  relocks : Nat := 0
  onEvidence : Bool := false
  relockedAt : Option Nat := none
  deriving DecidableEq, Repr

/-- A comb line: mean power of the last period and baseline in 0.01 dBm, state of PRV_LINE_STATE. -/
structure CombLine where
  now : Int := 0
  base : Int := 0
  state : Nat := 0
  deriving DecidableEq, Repr

/-- Steps of a migration (Table 12.7). -/
inductive MigStep where
  | scheduled | asked | ready | switched
  deriving DecidableEq, Repr

/-- A migration as one end holds it (R271 to R273): whether this end transmits, the lane by its number at this end, the
LANE_ID in its messages, the lines, the time of its next step, and the message it repeats. -/
structure Mig where
  tx : Bool
  lane : Nat
  laneId : Nat
  id : Nat
  emerg : Bool
  fromLine : Nat
  toLine : Nat
  step : MigStep
  since : Nat
  at_ : Nat := 0
  msg : List Byte := []
  sentAt : Nat := 0
  deriving DecidableEq, Repr

/-- An entry of a steering image (Table 12.9). -/
structure SteerEnt where
  peerOnly : Bool
  port : Nat
  txLine : Nat
  rxLine : Nat
  peerTag : Nat
  peerPort : Nat
  deriving DecidableEq, Repr

/-- A pending steering image. -/
structure SteerImg where
  takeover : Nat
  imgId : Nat
  entries : List SteerEnt
  deriving DecidableEq, Repr

/-- Privet. `txLine` and `rxLine` give the line of each lane that does not use its base line (0x1F: dark); engines use
comb 0 but those in `standby`; `spent` are the engines whose AUTO_SPENT is set, `bothBad`
those whose combs both fail R275, and `noSpare` the lines marked PRV_NO_SPARE. -/
structure Privet where
  rings : Table OptRing := []
  lines : Table CombLine := []
  txLine : Table Nat := []
  rxLine : Table Nat := []
  standby : List Nat := []
  spent : List Nat := []
  bothBad : List Nat := []
  noSpare : List Nat := []
  migs : List Mig := []
  nextMig : Nat := 0
  steerPend : Option SteerImg := none
  evalAt : Table Nat := []
  deriving DecidableEq, Repr

/-- A circuit of an output line: its input fibre and owner, whether it is lit, its power at lighting and now, in
0.01 dBm, the RAW instant of its switching, and whether its loss has been counted. -/
structure Circuit where
  xi : Nat
  part : Nat
  lit : Bool := false
  setup : Int := 0
  now : Int := 0
  since : Nat := 0
  lost : Bool := false
  deriving DecidableEq, Repr

/-- A pending circuit image: the whole set of one partition's circuits as (output line, input fibre). -/
structure CircuitImg where
  takeover : Nat
  circuits : List (Nat × Nat)
  deriving DecidableEq, Repr

/-- Hedgerow. Circuits are keyed by output line 16 × XO + line; pending images by partition. -/
structure Hedgerow where
  circuits : Table Circuit := []
  pend : Table CircuitImg := []
  deriving DecidableEq, Repr

end Sys2Proof.Machine
end

