-- ==== Sys2Proof/Machine/YewState.lean ====
section
/-!
DEFINITION. Machine/YewState.lean: the state of Yew (Yew: Fabric Time).
-/

namespace Sys2Proof.Machine

/-- Yew states of Table 13.1. -/
inductive YewPhase where
  | free | acquire | tracking | locked | holdover
  deriving DecidableEq, Repr

/-- The exchange on one port (R294, R295): the number of the next frame, the frames sent with their first-bit stamps
(units of 2^-16 ns) and whether each was transmitted more than once, the latest frame received with its stamp, the last
16 values of θ (units of 2^-17 ps), the delays of the last 8 usable samples (same units), and the RAW instants of the
last frame sent and of the last usable sample. -/
structure YewPort where
  tseq : Nat := 0
  sent : List (Nat × Nat × Bool) := []
  rx : Option (Nat × Nat) := none
  thetas : List Int := []
  delays : List Int := []
  sentAt : Nat := 0
  usableAt : Nat := 0
  deriving DecidableEq, Repr

/-- A `TIME_CAL` in progress (R299): its command and the values of θ gathered per port. -/
structure TimeCal where
  cmd : Ncp
  refPort : Nat
  ports : List Nat
  vals : Table (List Int) := []
  deriving DecidableEq, Repr

/-- Yew: OFFSET in 2^-40 ns, RATE in 2^-40 ns per tick (R288), state, servo and PTP. -/
structure Yew where
  offset : Int := 0
  rate : Nat := 0xCCCCCCCCCD
  phase : YewPhase := .free
  stepped : Bool := false
  thops : Nat := 0xFF
  root : Nat := 0
  altActive : Bool := false
  priRun : Nat := 0
  lockRun : Nat := 0
  unlockRun : Nat := 0
  acq : List Int := []
  servo : List Nat := []
  freq : Nat := 0xCCCCCCCCCD
  theta : Int := 0
  delay : Int := 0
  worldOfs : Int := 0
  utcOfs : Nat := 0
  parentQual : Nat := 3
  ptpMaster : Nat := 0
  ptpRun : Nat := 0
  ptpInterval : Int := 0
  ptpLast : Nat := 0
  ptpLost : Bool := false
  rootWaitFrom : Nat := 0
  ports : Table YewPort := []
  regionMissed : Table Nat := []
  regionStale : List Nat := []
  cal : Option TimeCal := none
  deriving DecidableEq, Repr

end Sys2Proof.Machine
end

