-- ==== Sys2Proof/Machine/State.lean ====
section
/-!
DEFINITION. Machine/State.lean: the state of the NZ-1280, its reset, and the reasons a step can stop.
-/

namespace Sys2Proof.Machine

open Sys2Proof

/-- The state of the module. `raw` is the raw counter (R287). `pending` is the queue of commands, oldest first.
`out` is what has left the module, oldest first, and `freeCtr` counts the free values taken: these two and `pending`
are the model's own. -/
structure State where
  pending : List Instr := []
  raw : Nat := 0
  pwr : Power := {}
  regs : RegFile := {}
  ncp : NcpState := {}
  st : Strata := {}
  yew : Yew := {}
  loam : Loam := {}
  bx : Boxwood := {}
  sh : Shingle := {}
  lk : Links := {}
  laurel : Laurel := {}
  kao : Kaolin := {}
  marl : Marl := {}
  tilth : Tilth := {}
  prv : Privet := {}
  xc : Hedgerow := {}
  haw : Haw := {}
  holly : Holly := {}
  out : List Emit := []
  freeCtr : Nat := 0
  deriving DecidableEq, Repr

/-- Why the machine stops. -/
inductive Fault where
  /-- A command names a port, lane, slice, engine or other unit that Table 0.3 does not number. Raised by the
  meanings of events that happen at a unit. Safe: no such event can happen. -/
  | noSuchUnit
  deriving DecidableEq, Repr

/-- Why a command is refused. -/
inductive Refusal where
  /-- A command that has no meaning yet, by its mnemonic. Raised by exec's arms only. Safe. -/
  | notModelled (mnemonic : String)
  deriving DecidableEq, Repr

/-- The module right after a module reset with its supplies valid (R404): RAW at zero, RESET_N low, every register
at its reset value, nothing stored, nothing waiting. Log 7 (DESIGN CHOICE). -/
def State.reset : State := {}

end Sys2Proof.Machine
end

