-- ==== Sys2Proof/Machine/Time.lean ====
section
/-!
DEFINITION. Machine/Time.lean: local time and its 32-bit readings (R287 to R290), durations in RAW ticks, time
quality (R302, R303), and taking a free value.
-/

namespace Sys2Proof.Machine

open Sys2Proof

/-- 0.8 ns in units of 2^-40 ns, rounded to the nearest unit (R288). -/
def nominalRate : Nat := 0xCCCCCCCCCD

/-- OFFSET + RAW × RATE, exact, in units of 2^-40 ns (R288). -/
def localExact (s : State) : Int := s.yew.offset + (s.raw : Int) * (s.yew.rate : Int)

/-- Local time in units of 2^-16 ns, truncated toward −∞: a 64-bit count of ns with a 16-bit fraction (R288). -/
def stamp (s : State) : Nat := wrapInt 80 (localExact s / (2 : Int) ^ 24)

/-- The 64-bit count of ns of local time. -/
def nowNs (s : State) : Nat := stamp s / 65536

/-- The 16-bit fraction of local time. -/
def nowFrac (s : State) : Nat := stamp s % 65536

/-- The stamp of an instant `lead` ticks before now. -/
def stampBefore (s : State) (lead : Nat) : Nat :=
  wrapInt 80 ((s.yew.offset + ((s.raw : Int) - (lead : Int)) * (s.yew.rate : Int)) / (2 : Int) ^ 24)

/-- Local time as a 32-bit time. -/
def now32 (s : State) : Nat := nowNs s % 2 ^ 32

/-- The signed difference of two 32-bit times (R290). -/
def diff32 (a b : Nat) : Int := signedOf 32 (wrapInt 32 ((a : Int) - (b : Int)))

/-- The 64-bit time a 32-bit time stands for when it is accepted now (R290). -/
def expand32 (s : State) (t : Nat) : Nat := wrapInt 64 ((nowNs s : Int) + diff32 t (now32 s))

/-- Has the 64-bit time T come? -/
def reached (s : State) (t : Nat) : Bool := decide (t ≤ nowNs s)

/-- ns of a number of RAW ticks of 0.8 ns. -/
def nsOfTicks (t : Nat) : Nat := t * 4 / 5

/-- RAW ticks of a number of ns, rounded up. -/
def ticksOfNs (n : Nat) : Nat := ceilDiv (n * 5) 4

def ticksOfUs (n : Nat) : Nat := n * 1250
def ticksOfMs (n : Nat) : Nat := n * 1250000
def ticksOfS (n : Nat) : Nat := n * 1250000000

/-- Have at least this many ticks passed since a RAW instant? Log 45 (DEDUCED). -/
def elapsed (s : State) (since ticks : Nat) : Bool := decide (since + ticks ≤ s.raw)

/-- The core cycle count c of R58, derived from RAW: the core clock runs at 1.6 GHz against 1.25 GHz. -/
def coreCycle (s : State) : Nat := s.raw * 32 / 25

/-- Module time quality (Table 13.1, R296): 0 GOOD, 1 HOLDOVER, 2 STALE, 3 INVALID. A non-root spine's is never
better than its active parent's. -/
def moduleQual (s : State) (root : Bool) : Nat :=
  let own := match s.yew.phase with
    | .free | .acquire => 3
    | .tracking | .holdover => 1
    | .locked => 0
  if root || own == 3 then own else max own s.yew.parentQual

/-- The quality of a stamp taken in a region (R302): the worse of the module's and the region's. -/
def qualIn (s : State) (root : Bool) (region : Nat) : Nat :=
  max (moduleQual s root) (if s.yew.regionStale.contains region then 2 else 0)

/-- The temperature of a die in 0.1 °C as last read; 25 °C before the first reading. Log 9 (DESIGN CHOICE).
Log 89 (DESIGN CHOICE). -/
def dieTemp (s : State) (die : Nat) : Int := tget 250 s.pwr.dies die

/-- Take a free value: a number below `bound` that nothing constrains further, and the state that has counted it.
Log 6 (DESIGN CHOICE). -/
def takeFree (s : State) (bound : Nat) : Nat × State :=
  (Config.free s.freeCtr % bound, { s with freeCtr := s.freeCtr + 1 })

/-- What leaves the module. -/
def emit (s : State) (e : Emit) : State := { s with out := s.out ++ [e] }

end Sys2Proof.Machine
end

