-- ==== Sys2Proof/Machine/Regs.lean ====
section
/-!
DEFINITION. Machine/Regs.lean: the register nodes: where a register is, its reset value, its copies, reading and
writing a field from inside the module (R365, R367, R371, R377).
-/

namespace Sys2Proof.Machine

open Sys2Proof

/-- Does an instance number hold the register? -/
def InstKind.has : InstKind → Nat → Bool
  | .one, i => i == 0
  | .all, i => i == 0xFF
  | .each n, i => decide (i < n)

/-- Does the register row lie at this block, instance and offset? -/
def RegDesc.at (r : RegDesc) (blk inst off : Nat) : Bool :=
  r.blk == blk && r.inst.has inst && decide (r.off ≤ off) && (off - r.off) % r.stride == 0 &&
    decide ((off - r.off) / r.stride < r.n)

/-- The register at a block, instance and offset (R365, R382). -/
def findReg (blk inst off : Nat) : Option RegDesc :=
  regTables.findSome? fun t => t.find? fun r => r.at blk inst off

/-- Is there such a block and instance (R13, R382)? -/
def unitExists (blk inst : Nat) : Bool :=
  regTables.any fun t => t.any fun r => r.blk == blk && r.inst.has inst

/-- The key of a register copy. -/
def regKey (blk inst off idx : Nat) : Nat := (blk * 2 ^ 24 + inst * 2 ^ 16 + off) * 2 ^ 20 + idx

/-- Weights of the evidence classes 0 to 10 at reset (Table 14.5). -/
def evidenceWeights : List Nat := [200, 100, 50, 100, 50, 20, 5, 300, 10, 20, 0]

/-- Reset values that depend on the instance or on the selected item. -/
def specialReset (blk inst off idx : Nat) : Option Nat :=
  if blk == 0x09 && off == 0 && inst != 0xFF then some (64 * inst)
  else if blk == 0x0B && off == 0x40 && inst != 0xFF then some (64 * inst)
  else if blk == 0x21 && off == 0 then some (64 * inst)
  else if blk == 0x20 && off == 0 && inst != 0xFF then some (1024 + 16 * inst)
  else if blk == 0x28 && off == 0x20 then some (evidenceWeights.getD idx 0)
  else if blk == 0x03 && off == 0x0C then
    some (if idx == 0 then 0x4E200100 else if idx == 0x1000 then 0x03E80010 else 0x13880040)
  else none

/-- The reset value of a register copy: the reset values of its fields that the nodes hold. -/
def regReset (blk inst off idx : Nat) : Nat :=
  match specialReset blk inst off idx with
  | some v => v
  | none =>
    match findReg blk inst off with
    | none => 0
    | some r => r.fields.foldl (fun a f => if f.acc = .ro then a else a + f.reset * 2 ^ f.lsb) 0

/-- The bits of a register that carry SHADOW fields. -/
def shadowMask (blk inst off : Nat) : Nat :=
  match findReg blk inst off with
  | none => 0
  | some r => r.fields.foldl (fun a f => if f.cls = .shadow then a + (2 ^ f.width - 1) * 2 ^ f.lsb else a) 0

/-- Bitwise majority of three words (R371). -/
def majority3 (a b c : BitVec 32) : BitVec 32 := (a &&& b) ||| (a &&& c) ||| (b &&& c)

/-- The value kept under a key: what was last written, or the reset value. -/
def regKept (s : State) (blk inst off idx : Nat) : BitVec 32 :=
  tget (BitVec.ofNat 32 (regReset blk inst off idx)) s.regs.active (regKey blk inst off idx)

/-- The active value of a register copy; the three copies of an RWV word are voted (R371). -/
def regActive (s : State) (blk inst off idx : Nat) : Nat :=
  let v := regKept s blk inst off idx
  match tfind s.regs.upset (regKey blk inst off idx) with
  | none => v.toNat
  | some (d0, d1, d2) => (v ^^^ majority3 d0 d1 d2).toNat

/-- The shadow word of a register: the shadow copy where one differs, else the active value (R377). -/
def regShadow (s : State) (blk inst off idx : Nat) : Nat :=
  (tget (BitVec.ofNat 32 (regActive s blk inst off idx)) s.regs.shadow (regKey blk inst off idx)).toNat

/-- Keep a value in a register copy, all three copies of an RWV word included. -/
def regKeep (s : State) (blk inst off idx v : Nat) : State :=
  let k := regKey blk inst off idx
  { s with regs := { s.regs with
      active := tset (BitVec.ofNat 32 (regReset blk inst off idx)) s.regs.active k (BitVec.ofNat 32 v)
      upset := tdel s.regs.upset k } }

/-- Keep a value in the shadow copy of a register (R377). -/
def regKeepShadow (s : State) (blk inst off idx v : Nat) : State :=
  let k := regKey blk inst off idx
  { s with regs := { s.regs with
      shadow := tset (BitVec.ofNat 32 (regActive s blk inst off idx)) s.regs.shadow k (BitVec.ofNat 32 v) } }

/-! Fields as the units use them: the active value. -/

/-- A field of instance `inst`, `k` registers into its row, copy `idx`. -/
def fldAt (s : State) (f : Fld) (inst k idx : Nat) : Nat :=
  bitsOf (regActive s f.blk inst (f.off + 4 * k) idx) (f.lsb + f.width - 1) f.lsb

/-- A field of a block's one instance or module-wide instance. -/
def fld (s : State) (f : Fld) : Nat := fldAt s f f.inst 0 0

/-- A one-bit field. -/
def flag (s : State) (f : Fld) : Bool := fld s f == 1

/-- A field of a selected item. -/
def fldSel (s : State) (f : Fld) (idx : Nat) : Nat := fldAt s f f.inst 0 idx

/-- A field of an instance. -/
def fldI (s : State) (f : Fld) (inst : Nat) : Nat := fldAt s f inst 0 0

/-- Write a field of a register copy, active at once. -/
def setFldAt (s : State) (f : Fld) (inst k idx v : Nat) : State :=
  let w := regActive s f.blk inst (f.off + 4 * k) idx
  let old := bitsOf w (f.lsb + f.width - 1) f.lsb
  regKeep s f.blk inst (f.off + 4 * k) idx (w - old * 2 ^ f.lsb + (v % 2 ^ f.width) * 2 ^ f.lsb)

/-- Write a field of a block's one instance or module-wide instance. -/
def setFld (s : State) (f : Fld) (v : Nat) : State := setFldAt s f f.inst 0 0 v

end Sys2Proof.Machine
end

