-- ==== Sys2Proof/Machine/Ports.lean ====
section
/-!
DEFINITION. Machine/Ports.lean: where a port is (R7, R8, R12, R14), its lanes, mode, width and dimension, and whether
it is up, fenced or quarantined.
-/

namespace Sys2Proof.Machine

open Sys2Proof

def nPorts : Nat := 1280

/-- The slice of a port (Table 0.3). -/
def sliceOf (p : Nat) : Nat := if p < 1024 then p / 64 else (p - 1024) / 16

/-- The tile of a port within its slice (R12). -/
def tileOf (p : Nat) : Nat := if p < 1024 then p % 64 / 8 else 8 + (p - 1024) % 16 / 8

/-- The lane of a port's number within its tile. -/
def laneOf (p : Nat) : Nat := p % 8

/-- The tile among the module's 160. -/
def tileNo (p : Nat) : Nat := 10 * sliceOf p + tileOf p

/-- The half of a slice (R14). -/
def halfOfSlice (s : Nat) : Nat := if s < 8 then 0 else 1

def halfOf (p : Nat) : Nat := halfOfSlice (sliceOf p)

/-- The first port number of a port's tile. -/
def tileStart (p : Nat) : Nat := p - laneOf p

def isOptical (p : Nat) : Bool := decide (p < 1024)

/-- Configured width of the port that starts at `p` (PORT_WIDTH_i, R381). -/
def widthAt (s : State) (p : Nat) : Nat :=
  2 ^ bitsOf (regActive s 0x00 0 (0x400 + 4 * tileNo p) 0) (2 * laneOf p + 1) (2 * laneOf p)

/-- Walk the lanes of a tile from its first: the start lane and width of the port that holds lane n (R8). -/
def holderFrom (s : State) (base n : Nat) : Nat → Nat → Nat × Nat
  | 0, pos => (pos, 1)
  | fuel + 1, pos =>
    let w := widthAt s (base + pos)
    if n < pos + w then (pos, w) else holderFrom s base n fuel (pos + w)

/-- The port that holds the lane of number `p`, and its width. -/
def holder (s : State) (p : Nat) : Nat × Nat :=
  let h := holderFrom s (tileStart p) (laneOf p) 8 0
  (tileStart p + h.1, h.2)

/-- The first lane of a port under the port-to-lane map (R8, R317). -/
def laneStart (s : State) (p : Nat) : Nat := tget p s.lk.laneOf p

/-- The port that carries a lane. -/
def laneHolder (s : State) (lane : Nat) : Nat :=
  let q := (holder s lane).1
  match s.lk.laneOf.find? fun e => e.2 == q with
  | some e => e.1
  | none => q

/-- A number absorbed by a wider port is unused as a port number (R8). -/
def absorbed (s : State) (p : Nat) : Bool := (holder s p).1 != p

/-- Lanes of a port. -/
def portLanes (s : State) (p : Nat) : Nat := (holder s p).2

/-- Port modes (R31). -/
inductive PortMode where
  | fabric | ethernet | disabled
  deriving DecidableEq, Repr

def modeOfCode : Nat → PortMode
  | 0 => .fabric
  | 1 => .ethernet
  | _ => .disabled

/-- The mode of a port (PORT_MODE_Tt). -/
def portMode (s : State) (p : Nat) : PortMode :=
  modeOfCode (bitsOf (regActive s 0x08 (sliceOf p) (0x40 + 4 * tileOf p) 0) (2 * laneOf p + 1) (2 * laneOf p))

/-- A port that exists under the widths and is not disabled. -/
def portEnabled (s : State) (p : Nat) : Bool := !absorbed s p && portMode s p != .disabled

/-- Every enabled port, rising. -/
def enabledPorts (s : State) : List Nat := (List.range nPorts).filter (portEnabled s)

/-- Dimension code of a port (R107). -/
def dimCode (s : State) (p : Nat) : Nat :=
  bitsOf (regActive s 0x0B (sliceOf p) (4 * tileOf p) 0) (4 * laneOf p + 3) (4 * laneOf p)

/-- A port that leads to a neighbour spine: a code from 0x0 to 0xD. -/
def isSpinePort (s : State) (p : Nat) : Bool := decide (dimCode s p ≤ 0xD)

def isDownPort (s : State) (p : Nat) : Bool := dimCode s p == 0xE

def portLink (s : State) (p : Nat) : PortLink := tget {} s.lk.ports p

def setPortLink (s : State) (p : Nat) (l : PortLink) : State :=
  { s with lk := { s.lk with ports := tset {} s.lk.ports p l } }

/-- An up port, at full width or degraded (LK_STATE). -/
def portUp (s : State) (p : Nat) : Bool :=
  match (portLink s p).phase with
  | .up | .degraded => true
  | _ => false

/-- Does a port carry frames: it is up, or it is past step 4 of training and runs its key exchange (R341)? -/
def portCarries (s : State) (p : Nat) : Bool :=
  portUp s p || ((portLink s p).phase == .training && (portLink s p).step == .keying)

/-- Lanes in use: the active lanes of an up port (R256). -/
def activeLanes (s : State) (p : Nat) : Nat := if portUp s p then (portLink s p).active else portLanes s p

def fenceOf (s : State) (p : Nat) : PortFence := tget .none s.haw.portFence p

def portFenced (s : State) (p : Nat) : Bool := fenceOf s p != .none

/-- This spine's number and plane (SH_SELF). -/
def selfSpine (s : State) : Nat := fld s .SH_SELF_SPINE
def selfPlane (s : State) : Nat := fld s .PLANE

/-- The number of dimensions n. -/
def dimsN (s : State) : Nat := fld s .DIMS

/-- Is a dimension twisted (R106)? -/
def twisted (s : State) (d : Nat) : Bool :=
  (flag s .TW_TOP && d + 1 == dimsN s) || (flag s .TW_SUB && d + 2 == dimsN s)

/-- The neighbour of a spine across a dimension (R106). -/
def neighbourOf (s : State) (x d : Nat) : Nat :=
  if twisted s d && x % 2 == 1 then x ^^^ 2 ^ d ^^^ 2 ^ (d - 2) else x ^^^ 2 ^ d

/-- The slice copies' bits of a spine (R312). -/
def spineBits (s : State) (x : Nat) : SpineBits := tget {} s.haw.spines x

/-- A port toward a spine in probation, or one that passed it and that FENCE_CLEAR has not yet named, stays in quarantine
(R329). -/
def heldApart (s : State) (p : Nat) : Bool :=
  isSpinePort s p &&
    let b := spineBits s (neighbourOf s (selfSpine s) (dimCode s p))
    b.probation || b.cleared

/-- What a port that is not up reads as: planned with a neighbour, or not (R316, R318). -/
def downCab (s : State) (p : Nat) : Cab :=
  if flag s .DISC_MODE then .discovery else if (tfind s.haw.plan p).isSome then .awaiting else .unplanned

/-- Quarantined ports carry only DISCOVERY, and so does a port whose identity is awaited (R316). -/
def quarantined (s : State) (p : Nat) : Bool :=
  heldApart s p ||
    match tget Cab.discovery s.haw.cab p with
    | .quarantined | .swap | .awaiting => true
    | _ => false

/-- A port in a bundle: up, unfenced, unquarantined, of that dimension code (R107, R316). -/
def inBundle (s : State) (d p : Nat) : Bool :=
  dimCode s p == d && portUp s p && !portFenced s p && !quarantined s p && portMode s p == .fabric

/-- The ports that are up, rising. -/
def upPorts (s : State) : List Nat := (s.lk.ports.map (·.1)).filter (fun p => decide (p < nPorts) && portUp s p)

/-- The bundle of a dimension, in ascending order (R107). -/
def bundle (s : State) (d : Nat) : List Nat := (upPorts s).filter (inBundle s d)

/-- The ports whose dimension code is d, up or not. -/
def portsOfDim (s : State) (d : Nat) : List Nat :=
  (List.range nPorts).filter fun p => dimCode s p == d && !absorbed s p

/-- The address of a spine of this plane (R42, R43). -/
def spineAddr (s : State) (x : Nat) : Nat := selfPlane s * 2 ^ 29 + x * 2 ^ 15

/-- Plane and number of the spine that the DISCOVERY received on a port names; none for an endpoint (R314). Log 165 (DEDUCED). -/
def discPeer (s : State) (p : Nat) : Option (Nat × Nat) :=
  match (tget {} s.haw.ids p).disc with
  | some b => if beAt b 2 2 % 16384 == 0x3FFF then none else some (beAt b 1 1 % 8, beAt b 2 2 % 16384)
  | none => none

/-- Does a port lead to another spine? A port without a dimension does when its peer has said so (R40, R107). -/
def leadsToSpine (s : State) (p : Nat) : Bool := isSpinePort s p || (dimCode s p == 0xF && (discPeer s p).isSome)

/-- The address fields of R42. -/
def addrPlane (a : Nat) : Nat := bitsOf a 31 29
def addrSpine (a : Nat) : Nat := bitsOf a 28 15
def addrDown (a : Nat) : Nat := bitsOf a 14 5
def addrEnd (a : Nat) : Nat := bitsOf a 4 0

/-- The port register copy of LK_CFG that a port's configuration lies in (R259). -/
def lkCfg (s : State) (f : Fld) (p : Nat) : Nat :=
  fldAt s { f with blk := if isOptical p then 0x21 else 0x20 } (sliceOf p) 0 p

/-- Fabric-mode FEC and reach of a port. -/
def fecOf (s : State) (p : Nat) : Nat := lkCfg s .FEC p
def reachOf (s : State) (p : Nat) : Nat := lkCfg s .REACH p

/-- MAC link address of a port: the module base address plus the port number (R33, R380). -/
def macBase : Nat :=
  Config.fusedMac.toNat / 2048 % 2 ^ 29 * 2048 + Config.fusedMac.toNat / 2 ^ 42 * 2 ^ 42

def portMac (p : Nat) : Nat := macBase + p

/-- The replica of Laurel that a half reads. -/
def replica (s : State) (half : Nat) : Replica := if half == 0 then s.laurel.r0 else s.laurel.r1

/-- The port that a down-port field maps to (R137); a word that fails parity maps to nothing (R149). -/
def downPortOf (s : State) (half field : Nat) : Option Nat :=
  match tfind (replica s half).dp field with
  | some e => if e.bad || field == 0 || !bitAt e.val 15 then none else some (bitsOf e.val 10 0)
  | none => none

/-- The down-port field that maps to a port, in the map as Heath has loaded it (R44, R137): no lookup of a frame. -/
def fieldOfPort (s : State) (p : Nat) : Option Nat :=
  match s.laurel.r0.dp.find? (fun e => bitAt e.2.val 15 && bitsOf e.2.val 10 0 == p) with
  | some e => some e.1
  | none => none

end Sys2Proof.Machine
end

