-- ==== Sys2Proof/Machine/Ops.lean ====
section
/-!
DEFINITION. Machine/Ops.lean: the operations every subsystem shares: raising an event (counters, thresholds, rings,
alerts, evidence), and the outcomes of a command.
-/

namespace Sys2Proof.Machine

open Sys2Proof

/-- The outcome of a command. -/
abbrev Res := Host.Outcome State Fault Refusal

/-- An event at a port: no such event exists at a number that is no port. Log 2 (DESIGN CHOICE). -/
def atPort (p : Nat) (t : State) : Res := if p < nPorts then .next t else .fault .noSuchUnit

/-- An event at one of `n` units. -/
def atUnit (u n : Nat) (t : State) : Res := if u < n then .next t else .fault .noSuchUnit

/-- What a ring record says beside its event (Table 18.6): kind of arguments, partition, ARG0 to ARG2. -/
structure Rec where
  akind : Nat := 3
  part : Nat := 0
  args : List Nat := []
  deriving DecidableEq, Repr

/-- The record of a frame. -/
def recFrame (h : Ffh) : Rec := { akind := 0, part := h.part, args := [h.src, h.dst, h.layer * 65536 + h.oper] }

/-- The record of a collective or token. -/
def recColl (part collId chunk layer oper : Nat) : Rec :=
  { akind := 1, part := part, args := [collId, chunk, layer * 65536 + oper] }

/-- The record of a store unit. -/
def recStore (part unit queue : Nat) : Rec := { akind := 2, part := part, args := [unit, queue, 0] }

/-- The record of a value. -/
def recVal (v : Nat) (part : Nat := 0) : Rec := { akind := 3, part := part, args := [v, 0, 0] }

/-- The 32-bit event source (R383). -/
def sourceOf (e : Ev) (scope : Nat) : Nat := e.evt * 2 ^ 20 + scope

/-- Is a source one that Table 18.2 and Table 18.1 allow (R383)? -/
def sourceValid (src : Nat) : Bool :=
  match evAll.find? (fun e => e.evt == src / 2 ^ 20) with
  | some e => decide (src % 2 ^ 20 < scopeRange e.kind)
  | none => false

/-- The slice that holds a lane (kind L). -/
def sliceOfLane (l : Nat) : Nat := if l < 1024 then l / 64 else if l < 1280 then (l - 1024) / 16 else l - 1280

/-- Unit path (block × 2^8 + instance) of the ring that records an event (R13, R394). Units with no register
instance of their own record in the ring of block 0x00. Log 13 (DESIGN CHOICE). -/
def ringOf (e : Ev) (scope : Nat) : Nat :=
  let blk := e.evt / 32
  match e.kind with
  | .p =>
    if blk == 0x20 then (if scope < 1024 then 0x21 else 0x20) * 256 + sliceOf scope
    else if blk == 0x08 || blk == 0x09 || blk == 0x0B || blk == 0x22 then blk * 256 + sliceOf scope
    else if blk == 0x0A || blk == 0x10 then blk * 256 + halfOf scope
    else blk * 256
  | .l => (if blk == 0x22 then 0x22 else if scope < 1024 then 0x21 else 0x20) * 256 + sliceOfLane scope
  | .h => blk * 256 + scope
  | .e => if scope < 16 then 0x18 * 256 + scope else 0x19 * 256 + (scope - 16)
  | .a => 0x19 * 256 + scope
  | .r => 0x22 * 256 + scope / 144
  | .n => 0x22 * 256 + scope / 38
  | .x => 0x23 * 256
  | .g =>
    if scope ≥ 343 then 0x19 * 256 + 8 * (scope - 343)
    else if scope ≥ 327 then 0x18 * 256 + (scope - 327)
    else if scope ≥ 167 then 0x08 * 256 + (scope - 167) / 10
    else if scope ≥ 165 then 0x1A * 256 + (scope - 165)
    else if scope == 164 then 0x23 * 256
    else if scope ≥ 162 then 0x10 * 256 + (scope - 162)
    else 0
  | .c => 0x03 * 256
  | .o => 0
  | .u | .y => blk * 256
  | .m => if blk == 0x0B || blk == 0x10 then 0 else blk * 256

/-- The time region an event is stamped in (R301): its pipeline, engine, array group or Tilth; the hub otherwise.
Log 14 (DEDUCED). -/
def regionOf (e : Ev) (scope : Nat) : Nat :=
  match e.kind with
  | .p => if e.evt / 32 == 0x20 then 2 + tileNo scope else 167 + tileNo scope
  | .e => if scope < 16 then 327 + scope else 343 + (scope - 16) / 8
  | .a => 343 + scope / 8
  | .h => if e.evt / 32 == 0x1A then 165 + scope else 1
  | .g => scope
  | _ => 1

/-- The current quality of a stamp taken in a region. -/
def qualOf (s : State) (region : Nat) : Nat := qualIn s (flag s .ROOT_EN) region

/-- The bytes of a ring record (Table 18.6). -/
def ringBytes (r : RingRec) : List Byte :=
  beBytes 8 r.time ++ beBytes 1 (r.qual * 64 + r.akind * 16) ++ beBytes 3 r.rseq ++ beBytes 4 r.source ++
    beBytes 2 r.part ++ zeroBytes 2 ++ beBytes 4 (r.args.getD 0 0) ++ beBytes 4 (r.args.getD 1 0) ++
    beBytes 4 (r.args.getD 2 0)

/-- Write a record into a ring, over its oldest when 256 are held (R394). -/
def ringPush (s : State) (path : Nat) (r : RingRec) : State :=
  let g := tget ({} : Ring) s.st.rings path
  let recs := (if g.recs.length < 256 then g.recs else g.recs.drop 1) ++ [{ r with rseq := g.rseq }]
  { s with st := { s.st with rings := tset {} s.st.rings path { recs := recs, rseq := (g.rseq + 1) % 2 ^ 24 } } }

def ctrOf (s : State) (src : Nat) : Nat := tget 0 s.st.ctr src

/-- Is a source a slot account (R390)? Its entry in the counters is the RAW instant of its last reset. -/
def slotSource (src : Nat) : Bool := src / 2 ^ 22 == 0x180

/-- What a counter reads: a slot account counts the slots since its last reset. -/
def ctrRead (s : State) (src : Nat) : Nat :=
  if slotSource src then (Config.slotCount src s.raw - Config.slotCount src (ctrOf s src)) % 2 ^ 64 else ctrOf s src

/-- Add to a counter, modulo 2^64 (R385). -/
def ctrAdd (s : State) (src n : Nat) : State :=
  { s with st := { s.st with ctr := tset 0 s.st.ctr src ((ctrOf s src + n) % 2 ^ 64) } }

/-- The alert bucket refilled to now: 1,000 per second with a burst of 64, in units of 10^-6 alert (R389). -/
def alertLevel (s : State) : Nat := min (64 * 1000000) (s.st.alertTokens + nsOfTicks (s.raw - s.st.alertAt))

/-- The payload of an alert (Table 18.3). -/
def alertPayload (kind qual aseq source time value arg : Nat) : List Byte :=
  beBytes 1 1 ++ beBytes 1 kind ++ beBytes 1 (qual * 64) ++ zeroBytes 1 ++ beBytes 4 aseq ++ beBytes 4 source ++
    beBytes 8 time ++ beBytes 8 value ++ beBytes 4 arg

/-- The evidence class of an event (Table 14.5). LINK_DEGRADED and LR_REPLAY_LIMIT count as evidence where their
rules raise them, unless the port is under a boundary fence. -/
def evidenceClass (e : Ev) : Option Nat :=
  if e = .kaoResidueErr || e = .kaoShadowMismatch || e = .marlRowErr then some 0
  else if e = .marlColErr then some 1
  else if e = .loamUe || e = .marlWUe then some 2
  else if e = .loamQuadDegraded then some 3
  else if e = .sieveDouble || e = .sieveLeak || e = .sieveChargeFix then some 4
  else if e = .wakeLate then some 5
  else if e = .laurelParity then some 6
  else if e = .prvCombBoth then some 7
  else if e = .linkDegraded || e = .lrReplayLimit then some 8
  else if e = .yewBeatMiss then some 9
  else none

/-- One piece of evidence of a class (R319); a SCORE that falls below FENCE_SCORE makes a proposal due (R320). -/
def evidence (s : State) (cls : Nat) : State :=
  let n := s.haw.score - fldSel s .WEIGHT cls
  let low := decide (fld s .FENCE_SCORE ≤ s.haw.score) && decide (n < fld s .FENCE_SCORE)
  { s with haw := { s.haw with score := n, selfDue := s.haw.selfDue || low } }

/-- Does an event at this place count as evidence? No event toward a boundary-fenced port does (Table 14.2). -/
def countsAsEvidence (s : State) (e : Ev) (scope : Nat) : Bool :=
  match e.kind with
  | .p => fenceOf s scope != .boundary
  | _ => true

/-- Is a partition's record of an event let into a running trace (R397)? The trace takes event records when bit 2 of
TMODE is set; with PF = 1 only those of its partition. -/
def traceTakesEvent (p : List Byte) (part : Nat) : Bool :=
  let b0 := beAt p 0 1
  bitAt b0 2 && (!bitAt b0 4 || beAt p 4 2 % 4096 == part)

/-- Stage a trace record, or lose it and count TRACE_DROP when staging is full (R397). -/
def traceStage (s : State) (r : List Byte) : State :=
  match s.st.trace with
  | none => s
  | some t =>
    let room := beAt t.params 20 4 * 256
    if t.stagedBytes + r.length ≤ room then
      { s with st := { s.st with trace := some { t with staged := t.staged ++ [r], stagedBytes := t.stagedBytes + r.length } } }
    else
      let s1 := { s with st := { s.st with
        trace := some { t with lostSince := t.lostSince + 1 }
        traceDrops := min (s.st.traceDrops + 1) (2 ^ 32 - 1) } }
      ctrAdd s1 (sourceOf .traceDrop 0) 1

/-- Record an event in its ring and in a running trace, unless rings are frozen or the event is marked ‡ and RING_ALL
is 0 (R394, R395, R396). -/
def record (s : State) (e : Ev) (scope : Nat) (r : Rec) : State :=
  if e.gated && !flag s .RING_ALL then s
  else
    let rr : RingRec := { time := nowNs s, qual := qualOf s (regionOf e scope), akind := r.akind, rseq := 0,
                          source := sourceOf e scope, part := r.part, args := r.args }
    let s1 := if flag s .FREEZE then s else ringPush s (ringOf e scope) rr
    match s.st.trace with
    | none => s1
    | some t => if traceTakesEvent t.params r.part then traceStage s1 (beBytes 1 2 ++ zeroBytes 3 ++ ringBytes rr) else s1

/-- Count an event and record it. -/
def bump (s : State) (e : Ev) (scope n : Nat) (r : Rec) : State := record (ctrAdd s (sourceOf e scope) n) e scope r

/-- Send an alert, or count ALERT_DROP when the bucket is empty or no owner is set (R389). Log 143 (DESIGN CHOICE). -/
def sendAlert (s : State) (kind source value arg : Nat) : State :=
  let level := alertLevel s
  match s.holly.ownerKey, decide (1000000 ≤ level) with
  | some key, true =>
    let n := (s.st.aseq + 1) % 2 ^ 32
    let s1 := { s with st := { s.st with aseq := n, alertTokens := level - 1000000, alertAt := s.raw } }
    let pay := alertPayload kind (qualOf s 1) n source (nowNs s) value arg
    let s2 := emit s1 (.msix 4)
    if flag s .ST_ALERT_CTRL_EN then
      emit s2 (.alert (fld s .MG1) (flag s .V6) ((List.range 4).map fun w => fldAt s .ADDR 0 w 0)
        (fld s .ST_ALERT_CTRL_UDP_PORT) pay ((hmac384 key pay).take 16))
    else s2
  | _, _ =>
    bump { s with st := { s.st with alertTokens := level, alertAt := s.raw } } .alertDrop 0 1 {}

/-- Fire a source's armed threshold when its counter has come to it (R388). -/
def checkThreshold (s : State) (src arg : Nat) : State :=
  match tfind s.st.thr src with
  | some t =>
    if !t.fired && decide (t.value ≤ ctrRead s src) then
      let s1 := { s with st := { s.st with thr := tins s.st.thr src { t with fired := true } } }
      sendAlert (bump s1 .ctrThresh 0 1 (recVal src)) 0x01 src (ctrRead s src) arg
    else s
  | none => s

/-- Freeze the rings on the first alarm while FREEZE_ON_ALARM is 1 (R395). -/
def alarmFreeze (s : State) : State :=
  if flag s .FREEZE_ON_ALARM && !flag s .FREEZE then
    let s1 := setFld s .FREEZE 1
    bump { s1 with st := { s1.st with frozenT := now32 s } } .ringFreeze 0 1 {}
  else s

/-- Raise an event `n` times at a place: its counter, its ring, its threshold, its alarm and its evidence
(R384, R388, R389, R394, R319). -/
def raiseN (s : State) (e : Ev) (scope n : Nat) (r : Rec := {}) : State :=
  if n = 0 then s
  else
    let s2 := bump s e scope n r
    let s3 := checkThreshold s2 (sourceOf e scope) (r.args.getD 0 0)
    let s4 :=
      if e.alarm then
        alarmFreeze (sendAlert s3 0x02 (sourceOf e scope) (ctrOf s3 (sourceOf e scope)) (r.args.getD 0 0))
      else s3
    let s5 := [sourceOf .ctrThresh 0, sourceOf .alertDrop 0, sourceOf .ringFreeze 0].foldl (fun t q => checkThreshold t q 0) s4
    match evidenceClass e with
    | some k => if countsAsEvidence s e scope then evidence s5 k else s5
    | none => s5

/-- Raise an event once. -/
def raise (s : State) (e : Ev) (scope : Nat) (r : Rec := {}) : State := raiseN s e scope 1 r

/-- Raise an event at each of several places. -/
def raiseEach (s : State) (e : Ev) (scopes : List Nat) (r : Rec := {}) : State :=
  scopes.foldl (fun t p => raise t e p r) s

/-- Fire the armed thresholds of slot accounts, which move with time alone. -/
def slotThresholds (s : State) : State :=
  (s.st.thr.filter fun e => slotSource e.1).foldl (fun t e => checkThreshold t e.1 0) s

/-- One tick of RAW passes, while the always-on island runs (R287, R403). -/
def tick (s : State) : State :=
  if s.pwr.aon then slotThresholds { s with raw := (s.raw + 1) % 2 ^ 64 } else s

/-- The reset of a counter in this very cycle. Log 180 (DEDUCED). -/
def resetNow (s : State) (src : Nat) : Option CtrReset := s.st.resets.find? fun r => r.src == src && r.at_ == s.raw

/-- Set a counter to zero: PREV takes its value, and the tag is the resetting command's, or none. A threshold rearms
(R386, R388). -/
def ctrReset (s : State) (src : Nat) (tag : Option (Nat × Nat)) : State :=
  let v := ctrRead s src
  let old := match resetNow s src with | some r => r.tag | none => tfind s.st.tag src
  { s with st := { s.st with
      ctr := if slotSource src then tset 0 s.st.ctr src s.raw else tdel s.st.ctr src
      prev := tset 0 s.st.prev src v
      tag := match tag with
        | some t => tins s.st.tag src t
        | none => tdel s.st.tag src
      thr := tadj s.st.thr src (fun t => { t with fired := false })
      resets := (s.st.resets.filter fun r => r.at_ == s.raw && r.src != src) ++ [{ src := src, at_ := s.raw, tag := old }] } }

/-- A counter and its tag as a snapshot or a register read sees them: one in the cycle of a reset sees them as they were before
it (R386). -/
def ctrSeen (s : State) (src : Nat) : Nat × Option (Nat × Nat) :=
  match resetNow s src with
  | some r => (tget 0 s.st.prev src, r.tag)
  | none => (ctrRead s src, tfind s.st.tag src)

end Sys2Proof.Machine
end

