-- ==== Sys2Proof/Machine/Operands.lean ====
section
/-!
DEFINITION. Machine/Operands.lean: the wire forms: the FFH (Table 2.3), the link header (Table 11.5), image headers
(Tables 4.1, 6.6, 16.3) and the lengths of frames on the wire.
-/

namespace Sys2Proof.Machine

open Sys2Proof

/-- A bit as a number, shifted. -/
def bitv (b : Bool) (sh : Nat) : Nat := if b then 2 ^ sh else 0

/-- Bytes 0 to 29 of a header. -/
def ffhHead (h : Ffh) : List Byte :=
  beBytes 1 (h.ver * 16 + h.tc * 2 + bitv h.fence 0) ++
  beBytes 1 (h.epoch * 64 + bitv h.sweep 5 + bitv h.esc 4 + h.ecn * 4 + bitv h.ece 1 + bitv h.mc 0) ++
  beBytes 2 (h.part * 16 + h.fmt) ++ beBytes 4 h.src ++ beBytes 4 h.dst ++ beBytes 4 h.collId ++ beBytes 4 h.chunk ++
  beBytes 2 h.layer ++ beBytes 2 h.oper ++ beBytes 2 h.plen ++
  beBytes 1 (h.kind * 16 + bitv h.scl 3 + bitv h.last 2 + h.rsv) ++ beBytes 1 h.hops ++ beBytes 2 h.sweepId

/-- The 32 bytes of a header as transmitted, HCRC computed anew (R35). -/
def ffhBytes (h : Ffh) : List Byte := ffhHead h ++ beBytes 2 (crc16 (ffhHead h))

/-- Read a header from its 32 bytes (Table 2.3). -/
def ffhParse (b : List Byte) : Ffh :=
  let b0 := beAt b 0 1; let b1 := beAt b 1 1; let w2 := beAt b 2 2; let k := beAt b 26 1
  { ver := bitsOf b0 7 4, tc := bitsOf b0 3 1, fence := bitAt b0 0
    epoch := bitsOf b1 7 6, sweep := bitAt b1 5, esc := bitAt b1 4, ecn := bitsOf b1 3 2, ece := bitAt b1 1, mc := bitAt b1 0
    part := bitsOf w2 15 4, fmt := bitsOf w2 3 0
    src := beAt b 4 4, dst := beAt b 8 4, collId := beAt b 12 4, chunk := beAt b 16 4
    layer := beAt b 20 2, oper := beAt b 22 2, plen := beAt b 24 2
    kind := bitsOf k 7 4, scl := bitAt k 3, last := bitAt k 2, rsv := bitsOf k 1 0
    hops := beAt b 27 1, sweepId := beAt b 28 2, hcrc := beAt b 30 2 }

/-- Does HCRC fit bytes 0 to 29 as received (R35)? -/
def hcrcOk (b : List Byte) : Bool := crc16 (bytesAt b 0 30) == beAt b 30 2

/-- The queue index of a frame: 2 × class + channel (R56). -/
def spaceOf (h : Ffh) : Nat := 2 * h.tc + b2n h.esc

def ekindOf : Nat → EKind
  | 0 => .none | 1 => .loss | 2 => .refused | 3 => .withheld | 4 => .skip | 5 => .open | 6 => .txcMark | _ => .reserved

def ekindCode : EKind → Nat
  | .none => 0 | .loss => 1 | .refused => 2 | .withheld => 3 | .skip => 4 | .open => 5 | .txcMark => 6 | .reserved => 7

/-- The link header (Table 11.5). -/
structure LinkHdr where
  seq : Nat := 0
  aq : Nat := 0
  ack : Nat := 0
  eq : Nat := 0
  eseq : Nat := 0
  ekind : EKind := .none
  replay : Bool := false
  deriving DecidableEq, Repr

def linkHdrBytes (h : LinkHdr) : List Byte :=
  beBytes 2 h.seq ++ beBytes 3 (h.aq * 2 ^ 20 + h.ack * 16 + h.eq) ++ beBytes 2 h.eseq ++
    beBytes 1 (ekindCode h.ekind * 32 + bitv h.replay 4)

def linkHdrParse (b : List Byte) : LinkHdr :=
  let w := beAt b 2 3; let k := beAt b 7 1
  { seq := beAt b 0 2, aq := bitsOf w 23 20, ack := bitsOf w 19 4, eq := bitsOf w 3 0, eseq := beAt b 5 2
    ekind := ekindOf (bitsOf k 7 5), replay := bitAt k 4 }

/-- Signed 16-bit difference of two sequence numbers (R243). -/
def diff16 (a b : Nat) : Int := signedOf 16 (wrapInt 16 ((a : Int) - (b : Int)))

/-- Stored bytes of a frame (R53). -/
def storedBytes (f : StoredFrame) : Nat :=
  match f.mode with
  | .eth => f.data.length
  | _ => 32 + f.data.length

/-- Cells a number of stored bytes occupies (R53). -/
def cellsFor (n : Nat) : Nat := ceilDiv n 256

/-- Wire bytes of a fabric-mode frame with its preamble and gap: 14 + 8 + 32 + PLEN, the GCM tag, the FCS, padded to
64, and 20 (R33; 94 + PLEN with per-hop protection). -/
def fabricWire (plen : Nat) (prot : Bool) : Nat := max 64 (58 + plen + if prot then 16 else 0) + 20

/-- Wire bytes of an Ethernet-mode frame: FCS, padding to 64, preamble and gap. -/
def ethWire (n : Nat) : Nat := max 64 (n + 4) + 20

/-- The time of `n` wire bytes on `w` lanes, in units of 1/200 ns (25 bytes per ns per lane). -/
def wireTime (n w : Nat) : Nat := if w = 0 then 0 else ceilDiv (n * 8) w

/-- FLOW_HASH of rule 3 of R112 and of the UDP source port (R49). -/
def flowHash (h : Ffh) : Nat :=
  let x := h.src ^^^ h.dst ^^^ h.collId
  bitsOf x 31 18 ^^^ bitsOf x 17 4

/-! Images -/

/-- ICRC: CRC-32 over the whole image with the field at bytes 28 to 31 as zero (Table 4.1). -/
def icrcOf (img : List Byte) : Nat := crc32 (img.take 28 ++ zeroBytes 4 ++ img.drop 32)

def icrcOk (img : List Byte) : Bool := beAt img 28 4 == icrcOf img

/-- Read the image source form; a fault in the form itself is BAD_PARAM, a DMA read that fails is INTERNAL (R354).
`dmaLocked` refuses a DMA source before any byte is read. -/
def imgSource (c : Ncp) (off : Nat) (dmaLocked : Bool) (maxLen : Nat) : Except Code (List Byte) :=
  let b := c.body.drop off
  let src := beAt b 0 1
  let ilen := beAt b 4 4
  let addr := beAt b 8 8
  if b.length < 16 || src > 1 || beAt b 1 3 ≠ 0 then .error .badParam
  else if src == 1 && dmaLocked then .error .locked
  else if ilen < 32 || ilen > maxLen then .error .badParam
  else if src == 0 then
    if addr ≠ 0 || b.length ≠ 16 + ilen then .error .badParam else .ok (b.drop 16)
  else if addr % 64 ≠ 0 || b.length ≠ 16 then .error .badParam
  else
    match c.dma with
    | some img => if img.length = ilen then .ok img else .error .internal
    | none => .error .internal

/-- Wire codes of Table 0.5. Log 178 (DEDUCED). -/
def codeNum : Code → Nat
  | .done => 0x00 | .doneRepaired => 0x01 | .donePartial => 0x02 | .orderChanged => 0x03
  | .badOpcode => 0x10 | .badParam => 0x11 | .outOfRange => 0x12 | .locked => 0x13 | .running => 0x14
  | .notAuthorised => 0x15 | .timePast => 0x16 | .conflict => 0x17 | .partitionNotClosed => 0x18
  | .busyTeardown => 0x19 | .noResource => 0x20 | .domainTimeout => 0x21
  | .peerFenced => 0x30 | .memberMismatch => 0x31 | .memberTimeout => 0x32 | .exactnessLost => 0x33
  | .rootLost => 0x34 | .staleEpoch => 0x35 | .holdActive => 0x36 | .internal => 0x40

/-- Codes 0x00 to 0x03 report success (R9). -/
def isSuccess (c : Code) : Bool := decide (codeNum c ≤ 3)

end Sys2Proof.Machine
end

