-- ==== Sys2Proof/Machine/LoamOps.lean ====
section
/-!
DEFINITION. Machine/LoamOps.lean: the operations on Loam: cells, clods, pools, admission, queues, holders, and the
teardown of a partition's frames (R55 to R76).
-/

namespace Sys2Proof.Machine

open Sys2Proof

def nCells : Nat := 4194304

/-- Number of ones of a table's values. -/
def tsum (t : Table Nat) : Nat := t.foldl (fun a e => a + e.2) 0

/-- Retired cells of the module. -/
def retiredCells (s : State) : Nat := tsum s.loam.quadRetired

/-! Pools (Table 3.5) -/

/-- Escape queues enabled on a port (R60, R81). -/
def escClasses (s : State) (p : Nat) : Nat :=
  if absorbed s p then 0 else match portMode s p with | .fabric => 6 | .ethernet => 5 | .disabled => 0

/-- Tiles with an enabled port. -/
def enabledTiles (s : State) : Nat :=
  ((List.range 160).filter fun t =>
    let base := if t % 10 < 8 then 64 * (t / 10) + 8 * (t % 10) else 1024 + 16 * (t / 10) + 8 * (t % 10 - 8)
    (List.range 8).any fun n => portEnabled s (base + n)).length

def bxPort (s : State) (p : Nat) : BxPort := tget {} s.bx.ports p

def setBx (s : State) (p : Nat) (b : BxPort) : State := { s with bx := { s.bx with ports := tset {} s.bx.ports p b } }

def tc7Used (s : State) (p : Nat) : Nat := tget 0 s.loam.tc7Used p

/-- The TC7 reserve of a port (R95): the larger of the active and pending TC7_CELLS and of the cells still charged.
Log 48 (DEDUCED). -/
def tc7Resv (s : State) (p : Nat) : Nat :=
  let b := bxPort s p
  max (max ((b.gl.map (·.tc7Cells)).getD 0) ((b.glPend.map (·.tc7Cells)).getD 0)) (tc7Used s p)

/-- All TC7 reserves. -/
def tc7ResvAll (s : State) : Nat :=
  (s.bx.ports.map fun e => tc7Resv s e.1).foldl (· + ·) 0

/-- Cells of all admission reservations (Table 1.6). -/
def resvCells (s : State) : Nat := s.loam.resvs.foldl (fun a e => a + e.2.cells) 0

/-- Cells that the pools beside the shared pool take (Table 3.5). -/
def reservedCells (s : State) : Nat :=
  let escPorts := ((List.range nPorts).map (escClasses s)).foldl (· + ·) 0
  enabledTiles s * fld s .LAND_RESV + fld s .TC6_RESV + tc7ResvAll s + escPorts * fld s .ESC_RESV + resvCells s

/-- S, the size of the shared pool: what retired cells and the other pools leave. Log 49 (DEDUCED). -/
def sharedSize (s : State) : Nat := nCells - retiredCells s - reservedCells s

/-- The condition of R60 on a state that holds new reserve sizes: the new S covers the shared pool's occupancy. -/
def poolsFit (s : State) : Bool := decide (reservedCells s + s.loam.sharedUsed + retiredCells s ≤ nCells)

/-- D(x) = S × x / 256 (R62), in 1/256 of a cell. -/
def thresholdCells (s : State) (x : Nat) : Nat := sharedSize s * x

def escKey (p tc : Nat) : Nat := 8 * p + tc

/-- Frames take `n` cells of a reservation, whose charge to the partition they carry on (R63). -/
def resvUse (l : Loam) (id n : Nat) : Loam :=
  match tfind l.resvs id with
  | some r => { l with resvs := tins l.resvs id { r with used := r.used + n }, tcharge := tmod 0 l.tcharge r.part (· - n) }
  | none => l

/-- Frames give `n` cells back to a reservation. -/
def resvFree (l : Loam) (id n : Nat) : Loam :=
  match tfind l.resvs id with
  | some r => { l with resvs := tins l.resvs id { r with used := r.used - n }, tcharge := tmod 0 l.tcharge r.part (· + n) }
  | none => l

/-- Has a pool room for `n` cells more (R60)? -/
def roomIn (s : State) (pool : Pool) (n : Nat) : Bool :=
  match pool with
  | .shared => decide (s.loam.sharedUsed + n ≤ sharedSize s)
  | .tc6 _ => decide (s.loam.tc6Used + n ≤ fld s .TC6_RESV)
  | .tc7 p => decide (tc7Used s p + n ≤ tc7Resv s p)
  | .escape p c => decide (tget 0 s.loam.escUsed (escKey p c) + n ≤ fld s .ESC_RESV)
  | .resv id => match tfind s.loam.resvs id with | some r => decide (r.used + n ≤ r.cells) | none => false

/-- Charge `n` cells to a pool. -/
def poolAdd (l : Loam) (pool : Pool) (n : Nat) : Loam :=
  match pool with
  | .shared => { l with sharedUsed := l.sharedUsed + n }
  | .tc6 p => { l with tc6Used := l.tc6Used + n, tc6Port := tmod 0 l.tc6Port p (· + n) }
  | .tc7 p => { l with tc7Used := tmod 0 l.tc7Used p (· + n) }
  | .escape p c => { l with escUsed := tmod 0 l.escUsed (escKey p c) (· + n) }
  | .resv id => resvUse l id n

/-- Return `n` cells to a pool. -/
def poolSub (l : Loam) (pool : Pool) (n : Nat) : Loam :=
  match pool with
  | .shared => { l with sharedUsed := l.sharedUsed - n }
  | .tc6 p => { l with tc6Used := l.tc6Used - n, tc6Port := tmod 0 l.tc6Port p (· - n) }
  | .tc7 p => { l with tc7Used := tmod 0 l.tc7Used p (· - n) }
  | .escape p c => { l with escUsed := tmod 0 l.escUsed (escKey p c) (· - n) }
  | .resv id => resvFree l id n

/-! Cells -/

def quadOf (c : Nat) : Nat := c / 16384

/-- The lowest number from `cur` that is no key. Log 50 (DESIGN CHOICE). -/
def lowestFree {α : Type} : Table α → Nat → Nat
  | [], cur => cur
  | (k, _) :: t, cur => if k < cur then lowestFree t cur else if k = cur then lowestFree t (cur + 1) else cur

/-- The quad with the most free cells, the lower number in a tie (R59). -/
def freestQuad (l : Loam) : Nat :=
  let load := fun q => tget 0 l.quadUsed q + tget 0 l.quadRetired q
  (minBy load (List.range 256)).getD 0

/-- Take a free cell for a partition with one holder. -/
def takeCell (l : Loam) (part : Nat) : Nat × Loam :=
  let q := freestQuad l
  let c := lowestFree l.cells (q * 16384)
  (c, { l with cells := tins l.cells c { kind := .held, ref := 1, part := part }
               quadUsed := tmod 0 l.quadUsed q (· + 1)
               tcharge := tmod 0 l.tcharge part (· + 1) })

def takeCells : Nat → Loam → Nat → List Nat × Loam
  | 0, l, _ => ([], l)
  | n + 1, l, part =>
    let r := takeCell l part
    let rest := takeCells n r.2 part
    (r.1 :: rest.1, rest.2)

/-- Link each cell of a frame to the next (NEXT of Table 3.2); that of the last is zero. Log 50 (DESIGN CHOICE). -/
def linkCells (l : Loam) : List Nat → Loam
  | c :: d :: t => linkCells { l with cells := tadj l.cells c (fun r => { r with next := d }) } (d :: t)
  | [c] => { l with cells := tadj l.cells c (fun r => { r with next := 0 }) }
  | [] => l

/-- Free a cell that is held. -/
def freeCell (l : Loam) (c : Nat) : Loam :=
  let r := tget {} l.cells c
  { l with cells := tdel l.cells c
           quadUsed := tmod 0 l.quadUsed (quadOf c) (· - 1)
           tcharge := tmod 0 l.tcharge r.part (· - 1) }

/-- Retire a cell until reset (R57). -/
def retireCell (l : Loam) (c : Nat) : Loam :=
  let r := tget {} l.cells c
  let held := r.kind = .held
  { l with cells := tins l.cells c { kind := .retired }
           quadUsed := if held then tmod 0 l.quadUsed (quadOf c) (· - 1) else l.quadUsed
           quadRetired := if r.kind = .retired then l.quadRetired else tmod 0 l.quadRetired (quadOf c) (· + 1)
           tcharge := if held then tmod 0 l.tcharge r.part (· - 1) else l.tcharge }

/-! Clods. Clod key: stack × 2^22 + clod. -/

def clodsPerStack : Nat := 4194304

/-- The lowest free clod of a stack. -/
def freeClodOf (l : Loam) (stack : Nat) : Option Nat :=
  let c := lowestFree l.clods (stack * clodsPerStack)
  if c < (stack + 1) * clodsPerStack then some c else none

/-- The stacks of a half in rising order from a first, wrapping (R67). -/
def stacksFrom (half first : Nat) : List Nat := (List.range 6).map fun i => 6 * half + (first + i) % 6

/-- Is a stack enabled for spill and hold clods (Table 3.12)? -/
def stackOn (s : State) (stack : Nat) : Bool := bitAt (fldI s .STACK_EN (stack / 6)) (stack % 6)

/-- A free clod for spill or hold in the stacks of a half, from a first stack on. -/
def findClod (s : State) (half first : Nat) : Option Nat :=
  ((stacksFrom half first).filter (stackOn s)).findSome? (freeClodOf s.loam)

/-- Take a clod. -/
def takeClod (l : Loam) (c : Nat) (kind : ClodKind) (part owner used : Nat) : Loam :=
  { l with clods := tins l.clods c { kind := kind, part := part, owner := owner, used := used }
           scharge := tmod 0 l.scharge part (· + 1) }

/-- Free a clod. -/
def freeClod (l : Loam) (c : Nat) : Loam :=
  let r := tget {} l.clods c
  { l with clods := tdel l.clods c, scharge := tmod 0 l.scharge r.part (· - 1) }

/-- One cell of a clod is gone; an empty clod is freed. -/
def clodMinus (l : Loam) (c : Nat) : Loam :=
  match tfind l.clods c with
  | some r => if r.used ≤ 1 then freeClod l c else { l with clods := tins l.clods c { r with used := r.used - 1 } }
  | none => l

/-- Clods of a kind in a half. -/
def clodsOf (s : State) (half : Nat) (kind : ClodKind) : Nat :=
  tcount (fun k r => r.kind = kind && k / clodsPerStack / 6 == half) s.loam.clods

/-! Frames -/

def frameOf (s : State) (fid : Nat) : Option StoredFrame := tfind s.loam.frames fid

/-- Topsoil cells of a frame. -/
def topCells (f : StoredFrame) : List Nat := f.places.filterMap fun | .top c => some c | .sub _ => none

/-- The cells a frame occupies, wherever they lie. -/
def frameCells (f : StoredFrame) : Nat := f.places.length

/-! Spill-out on and off (R66) -/

/-- Spill-out starts when the shared pool's occupancy reaches D(SPILL_ON) and stops below D(SPILL_OFF). -/
def noteSpill (s : State) : State :=
  let o := 256 * s.loam.sharedUsed
  let on := if thresholdCells s (fld s .SPILL_ON) ≤ o then true
            else if o < thresholdCells s (fld s .SPILL_OFF) then false else s.loam.spilling
  if on == s.loam.spilling then s
  else { s with loam := { s.loam with spilling := on, openClod := if on then s.loam.openClod else [] } }

/-! Epochs (R37, R111) -/

/-- d of R37. -/
def epochDiff (s : State) (e : Nat) : Nat := (s.sh.epoch + 4 - e) % 4

/-- A frame of the previous table's epoch is held or routed: the quiet interval starts anew (R111). Log 72 (DEDUCED). -/
def noteOld (s : State) (e : Nat) : State :=
  if epochDiff s e == 1 then { s with sh := { s.sh with quietFrom := some s.raw } } else s

/-- Store a frame's bytes in `n` cells of a pool, with `refs` holders. -/
def storeFrame (s : State) (f : StoredFrame) (n refs : Nat) : Nat × State :=
  let r := takeCells n s.loam f.part
  let l1 := linkCells r.2 r.1
  let l2 := { l1 with cells := r.1.foldl (fun t c => tadj t c (fun x => { x with ref := refs })) l1.cells }
  let l3 := poolAdd l2 f.pool n
  let fid := l3.nextFid
  (fid, noteSpill { s with loam := { l3 with
            frames := tins l3.frames fid { f with places := r.1.map .top, refs := refs }
            nextFid := fid + 1 } })

/-- Write the number of holders of a frame into it and its cell records (REF of Table 3.2). -/
def setRefs (s : State) (fid refs : Nat) : State :=
  match frameOf s fid with
  | none => s
  | some f =>
    { s with loam := { s.loam with
        frames := tins s.loam.frames fid { f with refs := refs }
        cells := (topCells f).foldl (fun t c => tadj t c (fun x => { x with ref := refs })) s.loam.cells } }

/-- Set the places a stored frame is to be queued at. -/
def setDests (s : State) (fid : Nat) (d : List (Nat × QEnt)) : State :=
  { s with loam := { s.loam with frames := tadj s.loam.frames fid (fun f => { f with dests := d }) } }

/-- Change a stored frame's header. -/
def setFfh (s : State) (fid : Nat) (g : Ffh → Ffh) : State :=
  { s with loam := { s.loam with frames := tadj s.loam.frames fid (fun f => { f with ffh := g f.ffh }) } }

/-- Free every cell and clod of a frame and forget it. -/
def dropCells (s : State) (fid : Nat) : State :=
  match frameOf s fid with
  | none => s
  | some f =>
    let tops := topCells f
    let l1 := tops.foldl freeCell s.loam
    let l2 := f.places.foldl (fun l p => match p with | .sub c => clodMinus l c | .top _ => l) l1
    let l3 := poolSub l2 f.pool tops.length
    let s1 := { s with loam := { l3 with frames := tdel l3.frames fid } }
    noteSpill (if f.mode == .eth then s1 else noteOld s1 f.ffh.epoch)

/-- One reference on a frame's cells goes; the last frees them (R18, R70). -/
def releaseCells (s : State) (fid : Nat) : State :=
  match frameOf s fid with
  | none => s
  | some f => if f.refs ≤ 1 then dropCells s fid else setRefs s fid (f.refs - 1)

/-- Forget a frame: its cells are freed, or, when it shares another's, its reference on them is. -/
def dropFrame (s : State) (fid : Nat) : State :=
  match (frameOf s fid).bind (·.shares) with
  | none => dropCells s fid
  | some p => releaseCells { s with loam := { s.loam with frames := tdel s.loam.frames fid } } p

/-- One holder releases a frame; the last release frees its cells (R18, R70). -/
def releaseRef (s : State) (fid : Nat) : State :=
  match frameOf s fid with
  | none => s
  | some f => if f.refs ≤ 1 then dropFrame s fid else setRefs s fid (f.refs - 1)

/-! Queues -/

def qKey (p i : Nat) : Nat := 16 * p + i

def queueOf (s : State) (u : Nat) : List QEnt := tget [] s.loam.queues u

def setQueue (s : State) (u : Nat) (q : List QEnt) : State :=
  { s with loam := { s.loam with queues := tset [] s.loam.queues u q } }

def enqueue (s : State) (u : Nat) (e : QEnt) : State := setQueue s u (queueOf s u ++ [e])

/-- Cells of a queue. -/
def queueCells (s : State) (u : Nat) : Nat :=
  ((queueOf s u).map fun e => match frameOf s e.fid with | some f => frameCells f | none => 0).foldl (· + ·) 0

/-! Admission (Table 3.6) -/

/-- What admission decides. -/
inductive Admission where
  | accept (pool : Pool)
  | refuse (resvMiss : Option Nat)
  | withhold
  deriving DecidableEq, Repr

/-- Is a partition under its Topsoil quota (R63)? -/
def underTQuota (s : State) (part : Nat) : Bool := decide (tget 0 s.loam.tcharge part < fldSel s .TQUOTA part)

/-- The admission of an arriving frame of `n` cells (Table 3.6). `eg` is its egress port, of a multicast frame its first copy's; a
frame consumed by the spine has none, and a TC7 one of those is judged on the shared pool. Log 174 (DESIGN CHOICE). -/
def admission (s : State) (tc : Nat) (esc : Bool) (n inPort : Nat) (eg : Option Nat) (part : Nat) : Admission :=
  let S := sharedSize s
  let O := s.loam.sharedUsed
  match tc, eg with
  | 7, some p => if tc7Used s p + n ≤ tc7Resv s p then .accept (.tc7 p) else .refuse (some p)
  | 6, _ =>
    if s.loam.tc6Used + n ≤ fld s .TC6_RESV && tget 0 s.loam.tc6Port inPort < fld s .TC6_PORT_MAX then .accept (.tc6 inPort)
    else .withhold
  | _, _ =>
    if esc then
      match eg with
      | some p =>
        if tget 0 s.loam.escUsed (escKey p tc) + n ≤ fld s .ESC_RESV then .accept (.escape p tc)
        else if O + n ≤ S then .accept .shared else .withhold
      | none => if O + n ≤ S then .accept .shared else .withhold
    else if tc = 5 || tc = 7 then (if O + n ≤ S then .accept .shared else .withhold)
    else if tc = 0 then
      (if 256 * O < thresholdCells s (fld s .DROP_TC0) && underTQuota s part then .accept .shared else .refuse none)
    else
      (if 256 * O < thresholdCells s (fld s .DROP_BULK) && underTQuota s part then .accept .shared else .refuse none)

/-! Reservations (R21, R63) -/

/-- Reserve cells and clods for a partition, or nothing at all. Device reservations (partition 0) carry no quota. -/
def reserve (s : State) (part cells clods : Nat) : Option (Nat × State) :=
  let tooMuch := part ≠ 0 &&
    (fldSel s .TQUOTA part < tget 0 s.loam.tcharge part + cells ||
     fldSel s .SQUOTA part < tget 0 s.loam.scharge part + clods)
  if tooMuch || sharedSize s < s.loam.sharedUsed + cells then none
  else
    let id := s.loam.nextResv
    some (id, { s with loam := { s.loam with
      resvs := tins s.loam.resvs id { part := part, cells := cells, clods := clods }
      nextResv := id + 1
      tcharge := tmod 0 s.loam.tcharge part (· + cells)
      scharge := tmod 0 s.loam.scharge part (· + clods) } })

/-- Release a reservation; what frames still hold of it is charged to the shared pool. -/
def unreserve (s : State) (id : Nat) : State :=
  match tfind s.loam.resvs id with
  | none => s
  | some r =>
    { s with loam := { s.loam with
        resvs := tdel s.loam.resvs id
        frames := tmap (fun _ f => if f.pool == .resv id then { f with pool := .shared } else f) s.loam.frames
        sharedUsed := s.loam.sharedUsed + r.used
        tcharge := tmod 0 s.loam.tcharge r.part (· - (r.cells - r.used))
        scharge := tmod 0 s.loam.scharge r.part (· - r.clods) } }

/-! Spill (R65 to R68) -/

/-- A cell of a queue: its position there, its frame and index in the frame, where it lies, and what R65 and R67 ask of its frame. -/
structure QCell where
  pos : Nat
  fid : Nat
  idx : Nat
  place : Place
  single : Bool
  half : Nat
  part : Nat
  deriving DecidableEq, Repr

/-- Position of the last spilled cell of a list of places, counted from 1; 0 when none is spilled. -/
def lastSub : List Place → Nat → Nat → Nat
  | [], _, best => best
  | .sub _ :: t, i, _ => lastSub t (i + 1) (i + 1)
  | .top _ :: t, i, best => lastSub t (i + 1) best

/-- The cells of a frame in a queue. A multicast frame's are never single, however many of its copies are left. -/
def queuedCells (s : State) (fid : Nat) : List QCell :=
  match frameOf s fid with
  | none => []
  | some f =>
    let single := f.refs == 1 && f.shares.isNone && !f.ffh.mc && decide (f.dests.length ≤ 1)
    (List.range f.places.length).map fun i =>
      { pos := 0, fid := fid, idx := i, place := f.places.getD i (.top 0), single := single, half := f.inHalf, part := f.part }

/-- The cells of a queue in order. -/
def queuePlaces (s : State) (u : Nat) : List QCell :=
  let l := (queueOf s u).flatMap fun e => queuedCells s e.fid
  ((List.range l.length).zip l).map fun x => { x.2 with pos := x.1 }

/-- Is a partition under its Subsoil quota (R63)? -/
def underSQuota (s : State) (part : Nat) : Bool := decide (tget 0 s.loam.scharge part < fldSel s .SQUOTA part)

/-- The eligible cells of a queue (R63, R65): in the tail segment, after at least HEAD_WIN cells, one holder, of a
partition under its Subsoil quota. -/
def eligibleCells (s : State) (u : Nat) : List QCell :=
  let all := queuePlaces s u
  let skip := max (lastSub (all.map (·.place)) 0 0) (fld s .HEAD_WIN)
  (all.drop skip).filter fun c => c.single && underSQuota s c.part

/-- Only adaptive queues of TC0 to TC5 spill (R65). -/
def spillable (u : Nat) : Bool := decide (u % 16 < 12) && u % 2 == 0

/-- The cells that follow one another from a position on, of one half (R67) and, as a clod has one PART, one partition. -/
def spillRun (half part : Nat) : Nat → List QCell → List QCell
  | _, [] => []
  | at_, c :: t => if c.pos == at_ && c.half == half && c.part == part then c :: spillRun half part (at_ + 1) t else []

/-- The queue with the most eligible cells that arrived in a half; ties to the lower number (R66). -/
def spillQueue (s : State) (half : Nat) : Option Nat :=
  let cand := (s.loam.queues.map (·.1)).filter fun u => spillable u
  let score := fun u => ((eligibleCells s u).filter fun c => c.half == half).length
  match minBy (fun u => nCells - score u) cand with
  | some u => if score u = 0 then none else some u
  | none => none

/-- Change where a cell of a frame lies; its Topsoil cells are linked anew. -/
def setPlace (s : State) (fid i : Nat) (p : Place) : State :=
  match frameOf s fid with
  | none => s
  | some f =>
    let g := { f with places := setNth f.places i p }
    { s with loam := linkCells { s.loam with frames := tins s.loam.frames fid g } (topCells g) }

/-- Move one Topsoil cell of a frame into a clod that is already taken. -/
def moveDown (s : State) (clod : Nat) (fid i : Nat) : State :=
  match frameOf s fid with
  | none => s
  | some f =>
    match f.places.getD i (.sub 0) with
    | .sub _ => s
    | .top c =>
      let l := poolSub (freeCell s.loam c) f.pool 1
      setPlace (noteSpill { s with loam := l }) fid i (.sub clod)

/-- The cells of a frame that lie in clods. -/
def subCells (f : StoredFrame) : Nat := f.places.length - (topCells f).length

/-- Is there room in Topsoil to read a frame back (R60)? Log 175 (DESIGN CHOICE). -/
def canReadBack (s : State) (f : StoredFrame) : Bool := subCells f == 0 || roomIn s f.pool (subCells f)

/-- Read every cell of a frame that lies in a clod back into Topsoil (R19, R68, R71). -/
def readBackFrame (s : State) (fid : Nat) (only : Option Nat) : State :=
  match frameOf s fid with
  | none => s
  | some f =>
    (List.range f.places.length).foldl (fun t i =>
      match f.places.getD i (.top 0) with
      | .top _ => t
      | .sub c =>
        if only.getD c ≠ c then t
        else
          let r := takeCell (clodMinus t.loam c) f.part
          let l := poolAdd { r.2 with cells := tadj r.2.cells r.1 (fun x => { x with ref := f.refs }) } f.pool 1
          setPlace { t with loam := l } fid i (.top r.1)) s

/-! Sieve's view of a partition in teardown -/

def inTeardown (s : State) (part : Nat) : Bool := s.haw.pstate == .teardown && s.haw.part == part

end Sys2Proof.Machine
end

