-- ==== Sys2Proof/Machine/LaurelOps.lean ====
section
/-!
DEFINITION. Machine/LaurelOps.lean: lookups in Laurel's tables (R130 to R149), the learn requests they raise, and the
delivery of trapped frames to Heath.
-/

namespace Sys2Proof.Machine

open Sys2Proof

/-- What a lookup finds, and the places it read that fail parity: (TKIND, index) (R149). -/
structure Look (α : Type) where
  hit : Option α
  bads : List (Nat × Nat) := []

/-- TKIND numbers of Table 6.7. -/
def tkFexc : Nat := 1
def tkGroup : Nat := 2
def tkExpert : Nat := 3
def tkDport : Nat := 4
def tkLocal : Nat := 5
def tkV4 : Nat := 6
def tkV6 : Nat := 7
def tkNh : Nat := 8
def tkMac : Nat := 9
def tkVlan : Nat := 10
def tkAcl : Nat := 11

/-! Exact match (R133, R134) -/

def fexcKey (part dst tcw : Nat) : Nat := 1 * 2 ^ 92 + part * 2 ^ 80 + dst * 2 ^ 48 + tcw * 2 ^ 44
def groupKey (part group : Nat) : Nat := 2 * 2 ^ 92 + part * 2 ^ 80 + group * 2 ^ 64
def expertKey (part layer oper expert : Nat) : Nat :=
  3 * 2 ^ 92 + part * 2 ^ 80 + layer * 2 ^ 64 + oper * 2 ^ 48 + expert * 2 ^ 39

/-- The entry of an exact-match key, with its index. -/
def exactFind (r : Replica) (key : Nat) : Option (Nat × ExactEnt) := r.exact.find? fun e => e.2.key == key

def exactLook (r : Replica) (tkind key : Nat) : Look Nat :=
  match exactFind r key with
  | none => { hit := none }
  | some (i, e) => if e.bad then { hit := none, bads := [(tkind, i)] } else { hit := some e.res }

/-- Fabric exceptions: the class-specific entry wins over the entry for any class (R134). -/
def fexcLook (r : Replica) (part dst tc : Nat) : Look Nat :=
  let a := exactLook r tkFexc (fexcKey part dst tc)
  let b := exactLook r tkFexc (fexcKey part dst 8)
  { hit := a.hit.orElse fun _ => b.hit, bads := a.bads ++ b.bads }

/-- The group record of a multicast group (R135). -/
def groupLook (r : Replica) (part group : Nat) : Look (List Byte) :=
  let a := exactLook r tkGroup (groupKey part group)
  match a.hit with
  | none => { hit := none, bads := a.bads }
  | some g =>
    let i := bitsOf g 16 0
    match tfind r.recs i with
    | none => { hit := some (zeroBytes 192) }
    | some e => if e.bad then { hit := none, bads := [(tkGroup, i)] } else { hit := some e.bytes }

/-- Ports of a 160-byte map, rising: bit 7 − (p mod 8) of byte ⌊p / 8⌋ stands for port Pp (R135). -/
def portsOfMap (b : List Byte) : List Nat :=
  (List.range nPorts).filter fun p => bitAt (beAt b (p / 8) 1) (7 - p % 8)

/-- The number whose bit p stands for port Pp, of a 160-byte map. -/
def mapToNat (b : List Byte) : Nat := (portsOfMap b).foldl (fun a p => a + 2 ^ p) 0

def groupPorts (b : List Byte) : List Nat := portsOfMap (b.take 160)
def groupDims (b : List Byte) : List Nat := onesOf 14 (beAt b 160 2)
def groupMver (b : List Byte) : Nat := beAt b 162 2

/-! Hash tables (R138, R141) -/

/-- H_w of key bytes (R138). -/
def hashOf (salt way : Nat) (key : List Byte) : Nat :=
  crc32cFrom ((if way == 0 then 0xFFFFFFFF else 0x13579BDF) ^^^ salt) key

/-- Bucket bits, key bytes of a family of Table 6.4. -/
def bucketBits (tk : Nat) : Nat := if tk == tkV4 then 16 else if tk == tkV6 then 15 else 14
def keyLen (tk : Nat) : Nat := if tk == tkV4 then 7 else if tk == tkV6 then 19 else 10

def bucketOf (s : State) (tk way key : Nat) : Nat :=
  hashOf (fld s .SALT) way (beBytes (keyLen tk) key) % 2 ^ bucketBits tk

def slotKey (way bucket slot : Nat) : Nat := (way * 65536 + bucket) * 16 + slot

/-- INDEX of PAR_LAST for a slot (Table 6.9). -/
def slotIndex (tk k : Nat) : Nat :=
  let way := k / (65536 * 16)
  let bucket := k / 16 % 65536
  way * 2 ^ bucketBits tk * 9 + bucket * 9 + k % 16

/-- The 18 places of a key. -/
def placesOf (s : State) (tk key : Nat) : List Nat :=
  [0, 1].flatMap fun w => let b := bucketOf s tk w key; (List.range 9).map (slotKey w b)

/-- Where a key is held among the places of a hash table, and the places that fail parity. -/
def hashFind {α : Type} (t : Table α) (places : List Nat) (bad : α → Bool) (hit : α → Bool) : Option (Nat × α) × List Nat :=
  let read := places.filterMap fun k => (tfind t k).map fun e => (k, e)
  (read.find? (fun e => !bad e.2 && hit e.2), (read.filter (fun e => bad e.2)).map (·.1))

/-- The key number of a prefix: partition, length, and the address with every bit past the length zero (Table 6.4). -/
def prefixKey (v6 : Bool) (part len addr : Nat) : Nat :=
  let bits := if v6 then 128 else 32
  (part * 256 + len) * 2 ^ bits + addr / 2 ^ (bits - len) * 2 ^ (bits - len)

def prefixTable (r : Replica) (v6 : Bool) : Table PrefixEnt := if v6 then r.v6 else r.v4

def prefixTk (v6 : Bool) : Nat := if v6 then tkV6 else tkV4

/-- The lengths in use in any partition, the longest first: the length filter (R141). -/
def lengthsInUse (r : Replica) (v6 : Bool) : List Nat :=
  ((List.range (if v6 then 129 else 33)).filter fun n => (prefixTable r v6).any fun e => e.2.len == n).reverse

/-- Longest-prefix match (R141): the next-hop index. -/
def prefixLook (s : State) (r : Replica) (v6 : Bool) (part addr : Nat) : Look Nat :=
  (lengthsInUse r v6).foldl (fun acc n =>
    match acc.hit with
    | some _ => acc
    | none =>
      let key := prefixKey v6 part n addr
      let f := hashFind (prefixTable r v6) (placesOf s (prefixTk v6) key) (·.bad) (fun e => e.key == key)
      { hit := f.1.map (·.2.nh), bads := acc.bads ++ f.2.map fun k => (prefixTk v6, slotIndex (prefixTk v6) k) })
    { hit := none }

def macKey (part vid mac : Nat) : Nat := (part * 65536 + vid) * 2 ^ 48 + mac

/-- MAC lookup: the place and the slot. -/
def macLook (s : State) (r : Replica) (key : Nat) : Look (Nat × MacEnt) :=
  let f := hashFind r.mac (placesOf s tkMac key) (·.bad) (fun e => e.key == key)
  { hit := f.1, bads := f.2.map fun k => (tkMac, slotIndex tkMac k) }

def nhLook (r : Replica) (i : Nat) : Look NhEnt :=
  match tfind r.nh i with
  | none => { hit := some { act := 0, port := 0, vid := 0, dmac := 0 } }
  | some e => if e.bad then { hit := none, bads := [(tkNh, i)] } else { hit := some e }

def vlanLook (r : Replica) (vid : Nat) : Look VlanEnt :=
  match tfind r.vlan vid with
  | none => { hit := some { members := 0, untag := 0 } }
  | some e => if e.bad then { hit := none, bads := [(tkVlan, vid)] } else { hit := some e }

/-- The local addresses (R49): is an address one of them? -/
def localLook (r : Replica) (v6 : Bool) (addr : Nat) : Look Nat :=
  let range := r.locals.filter fun e => if v6 then decide (16 ≤ e.1) else decide (e.1 < 16)
  { hit := (range.find? fun e => !e.2.bad && e.2.val == addr).map (·.1)
    bads := (range.filter (·.2.bad)).map fun e => (tkLocal, e.1) }

/-! Parity (R149) -/

/-- Count the parity failures of a lookup in a half and keep the last. -/
def parityHits (s : State) (half : Nat) (bads : List (Nat × Nat)) : State :=
  bads.foldl (fun t b =>
    let upd := fun (r : Replica) => { r with parLast := b.1 * 2 ^ 28 + b.2, parCount := (r.parCount + 1) % 2 ^ 32 }
    let t1 := if half == 0 then { t with laurel := { t.laurel with r0 := upd t.laurel.r0 } }
              else { t with laurel := { t.laurel with r1 := upd t.laurel.r1 } }
    raise t1 .laurelParity half (recVal b.2)) s

/-- Read a VLAN's entry for a frame that leaves a port, for the parity of the read (R149). -/
def readVlan (s : State) (p vid : Nat) : State :=
  let half := halfOf p
  parityHits s half (vlanLook (replica s half) vid).bads

/-- The down-port map read for a frame, with the parity failure that the read finds. -/
def dportLook (s : State) (half field : Nat) : Look Nat :=
  match tfind (replica s half).dp field with
  | none => { hit := none }
  | some e => if e.bad then { hit := none, bads := [(tkDport, field)] } else { hit := downPortOf s half field }

/-! Token buckets of 1,000 frames/s with a burst of 16 (R133, R51), in units of 10^-6 frame -/

/-- What a bucket kept as (tokens, instant) holds now; one never used is full. -/
def slowBucket (s : State) (b : Option (Nat × Nat)) : Nat :=
  match b with
  | none => 16 * 1000000
  | some (t, at_) => min (16 * 1000000) (t + nsOfTicks (s.raw - at_))

/-- Deliver a frame to Heath under the trap bucket of its ingress port (R133); none when the bucket cannot cover it. -/
def trapToHeath (s : State) (port : Nat) (bytes : List Byte) : Option State :=
  let level := slowBucket s (tfind s.laurel.trap port)
  if level < 1000000 then none
  else some { s with laurel := { s.laurel with
    trap := tins s.laurel.trap port (level - 1000000, s.raw)
    trapped := s.laurel.trapped ++ [(port, bytes)] } }

/-- Does the LLDP bucket of a port cover a frame (R51)? The state with the frame taken. -/
def lldpTake (s : State) (port : Nat) : Option State :=
  let level := slowBucket s (tfind s.laurel.lldp port)
  if level < 1000000 then none
  else some { s with laurel := { s.laurel with lldp := tins s.laurel.lldp port (level - 1000000, s.raw) } }

/-! Learning (R143 to R146) -/

/-- A learn request, or LEARN_QUEUE_FULL (R143). -/
def learnRequest (s : State) (half key port : Nat) : State :=
  if s.laurel.learnQ.length < 4096 then
    { s with laurel := { s.laurel with learnQ := s.laurel.learnQ ++ [{ half := half, key := key, port := port }] } }
  else raise s .learnQueueFull half

/-- Learned entries charged to a port. -/
def lrnCount (s : State) (port : Nat) : Nat := tget 0 s.laurel.lrnCount port

/-- Is one more learned entry beyond the limit of a port (R144)? -/
def lrnExcess (s : State) (port : Nat) : Bool := decide (fldSel s .LRN_MAX port < lrnCount s port + 1)

/-- Change both replicas (R20). -/
def mapReplicas (s : State) (g : Replica → Replica) : State :=
  { s with laurel := { s.laurel with r0 := g s.laurel.r0, r1 := g s.laurel.r1 } }

end Sys2Proof.Machine
end

