-- ==== Sys2Proof/Machine/Windows.lean ====
section
/-!
DEFINITION. Machine/Windows.lean: gate lists at an instant, TC7 windows, departures (R85 to R87, R96, R249, R416),
policers and shapers (R101, R102), and calendar queues (R81, R84). Instants within a fabric-time second are counted in
units of 1/200 ns, in which a byte on w lanes takes 8 / w units.
-/

namespace Sys2Proof.Machine

open Sys2Proof

/-- Local time in units of 1/200 ns. -/
def nowU (s : State) : Nat := stamp s * 25 / 8192

/-- The instant `lead` RAW ticks before now, in units of 1/200 ns: t_in of R96. -/
def inU (s : State) (lead : Nat) : Nat := stampBefore s lead * 25 / 8192

/-- The gate list in force on a port at an instant (R94): a pending one from its takeover on, before the active one's the list it
replaced. -/
def listAt (b : BxPort) (t : Nat) : Option GateList :=
  let act := match b.gl with
    | some g => if g.takeover * 200 ≤ t then some g else b.glOld
    | none => none
  match b.glPend with
  | some g => if g.takeover * 200 ≤ t then some g else act
  | none => act

def cycleNs (g : GateList) : Nat := g.entries.foldl (fun a e => a + e.dur) 0

/-- The entry in force `phase` units into a list, and how many units of it are left. -/
def entryIn : List GateEntry → Nat → Option (GateEntry × Nat)
  | [], _ => none
  | e :: t, phase => if phase < e.dur * 200 then some (e, e.dur * 200 - phase) else entryIn t (phase - e.dur * 200)

/-- The gates while no gate list is in force (R85). -/
def openGates : GateEntry := { dur := 0, gates := 0x7F, owner := none }

/-- The next takeover of a port after an instant. -/
def nextSwitch (b : BxPort) (t : Nat) : Option Nat :=
  minBy id ((b.gl.toList ++ b.glPend.toList).filterMap fun g => if t < g.takeover * 200 then some (g.takeover * 200) else none)

/-- The gates at an instant and the instant up to which they hold (none: for good). -/
def segAt (b : BxPort) (t : Nat) : GateEntry × Option Nat :=
  let switch := nextSwitch b t
  match listAt b t with
  | none => (openGates, switch)
  | some g =>
    match entryIn g.entries ((t - g.takeover * 200) % (cycleNs g * 200)) with
    | some (e, left) => (e, some (match switch with | some y => min y (t + left) | none => t + left))
    | none => (openGates, switch)

/-- Does a test hold of the gates at every instant of [t, e)? -/
def holdsThrough (b : BxPort) (ok : GateEntry → Bool) (e : Nat) : Nat → Nat → Bool
  | 0, _ => false
  | fuel + 1, t =>
    if e ≤ t then true
    else
      let g := segAt b t
      ok g.1 && (match g.2 with | none => true | some x => holdsThrough b ok e fuel x)

/-- Is the gate of a class open from t to e (R87)? While the TC7 gate is open every other gate is closed (R86). -/
def gateOpen (b : BxPort) (tc t e : Nat) : Bool :=
  holdsThrough b (fun g => bitAt g.gates tc && (tc == 7 || !bitAt g.gates 7)) e 2100 t

/-- Does [t, e) lie in one TC7 window that a port owns (R86, R96)? -/
def inWindow (b : BxPort) (owner t e : Nat) : Bool :=
  holdsThrough b (fun g => bitAt g.gates 7 && g.owner == some owner) e 2100 t

/-- Is a TC7 window open at an instant (R82)? -/
def tc7Open (b : BxPort) (t : Nat) : Bool := bitAt (segAt b t).1.gates 7

/-- As many stretches of a port's gates as lie between two instants, or more. -/
def stretchesIn (b : BxPort) (t stop : Nat) : Nat :=
  ([b.gl, b.glPend, b.glOld].map fun o => match o with
    | some g => g.entries.length * ((stop - t) / (cycleNs g * 200) + 2)
    | none => 1).foldl (· + ·) 3

/-- The stretches of a port's gates from an instant up to another. -/
def segsFrom (b : BxPort) (stop : Nat) : Nat → Nat → List (Nat × Nat × GateEntry)
  | 0, _ => []
  | fuel + 1, t =>
    if stop ≤ t then []
    else
      let g := segAt b t
      match g.2 with
      | none => [(t, stop, g.1)]
      | some x => (t, x, g.1) :: segsFrom b stop fuel x

def segsTo (b : BxPort) (t stop : Nat) : List (Nat × Nat × GateEntry) := segsFrom b stop (stretchesIn b t stop) t

/-- Join consecutive stretches of one owner's open TC7 gate into windows. -/
def joinWindows (owner : Nat) : List (Nat × Nat × GateEntry) → List (Nat × Nat)
  | [] => []
  | (a, e, g) :: t =>
    let rest := joinWindows owner t
    if bitAt g.gates 7 && g.owner == some owner then
      match rest with
      | (a2, e2) :: r2 => if a2 = e then (a, e2) :: r2 else (a, e) :: rest
      | [] => [(a, e)]
    else rest

/-- The windows of an owner that begin between two instants. -/
def windowsTo (b : BxPort) (owner t stop : Nat) : List (Nat × Nat) := joinWindows owner (segsTo b t stop)

/-- Does [t, e) overlap an admitted departure? -/
def overlaps (b : BxPort) (t e : Nat) : Bool := b.deps.any fun d => decide (d.start < e) && decide (t < d.stop)

/-- The earliest start of a free interval of `len` units in one of an owner's windows before an instant. -/
def freeStart (b : BxPort) (owner t stop len : Nat) : Option Nat :=
  let ends := b.deps.map (·.stop)
  (windowsTo b owner t stop).findSome? fun w =>
    minBy id ((w.1 :: ends).filter fun x => decide (w.1 ≤ x) && decide (x + len ≤ w.2) && !overlaps b x (x + len))

/-- Has a list a TC7 window of an owner? -/
def hasWindow (owner : Nat) (g : GateList) : Bool := g.entries.any fun e => bitAt e.gates 7 && e.owner == some owner

/-- The gate list in force, when it has a window of an owner (R249, R416). -/
def listWith (b : BxPort) (owner t : Nat) : Option GateList := (listAt b t).filter (hasWindow owner)

/-- The start of a TC7 replay (R249): through the rest of this cycle of the list in force and all of the next; none when the frame
is abandoned. -/
def replayStart (b : BxPort) (owner t len : Nat) : Option Nat :=
  (listWith b owner t).bind fun g =>
    let cyc := cycleNs g * 200
    freeStart b owner t (t + (cyc - (t - g.takeover * 200) % cyc) + cyc) len

/-- The start of a TC7 frame of the spine's own (R416): past every admitted departure the next cycles are free, so a start not found
there does not exist under the lists loaded. -/
def ownStart (b : BxPort) (t len : Nat) : Option Nat :=
  let far := (b.deps.map (·.stop)).foldl max ((nextSwitch b t).getD t)
  let cyc := ((b.gl.toList ++ b.glPend.toList).map cycleNs).foldl max 0
  freeStart b 0x7FF t (far + 2 * cyc * 200) len

/-! Wire bytes of a stored frame on a port -/

/-- Is per-hop protection on for a port's link (R341)? -/
def protOn (s : State) (p : Nat) : Bool := fldSel s .PROT_EN p == 1

/-- Bytes that MACsec adds to an Ethernet frame of a port. -/
def macsecBytes (s : State) (p : Nat) : Nat := if ((tget {} s.holly.macsec p).curTx).isSome then 32 else 0

/-- The virtual link a fabric frame takes on an Ethernet-mode port (R50). -/
def vlinkFor (s : State) (p : Nat) (h : Ffh) : Option (Nat × VLink) :=
  s.lk.vlinks.find? fun e => e.2.port == p && e.2.peerAddr == h.dst && !h.mc

/-- The VLAN tag of a datagram: the VID of its next hop, unless the VLAN untags the port (R50, R140). -/
def hopTag (s : State) (n : NhEnt) : Option Nat :=
  match (vlanLook (replica s (halfOf n.port)) n.vid).hit with
  | some e => if bitAt e.untag n.port then none else some n.vid
  | none => some n.vid

/-- Header bytes of a datagram on a virtual link: Ethernet with its tag, IP, UDP (Table 2.9). -/
def udpHeads (s : State) (v : VLink) : Nat :=
  14 + (if (v.hop.bind (hopTag s)).isSome then 4 else 0) + (if v.v6 then 40 else 20) + 8

/-- Wire bytes of a frame leaving a port, preamble and gap included (Tables 2.2, 2.9, R53). An Ethernet frame that MACsec
protects is 32 bytes longer. -/
def wireBytes (s : State) (p : Nat) (f : StoredFrame) : Nat :=
  match f.mode with
  | .eth => ethWire (f.data.length + macsecBytes s p)
  | _ =>
    if portMode s p == .ethernet then
      let heads := match vlinkFor s p f.ffh with | some v => udpHeads s v.2 | none => 14 + 20 + 8
      ethWire (heads + 8 + 32 + f.ffh.plen + (if protOn s p then 16 else 0) + macsecBytes s p)
    else fabricWire f.ffh.plen (protOn s p)

/-- Longest run of ns, among consecutive entries, in which the gate of a class is open. -/
def openRun (tc : Nat) : List GateEntry → Nat → Nat → Nat
  | [], _, best => best
  | e :: t, run, best =>
    let r := if bitAt e.gates tc then run + e.dur else 0
    openRun tc t r (max best r)

/-- The longest cyclic run of open entries of a class, at most a whole cycle (Table 4.5). -/
def cyclicRun (tc : Nat) (l : List GateEntry) : Nat :=
  min (openRun tc (l ++ l) 0 0) (l.foldl (fun a e => a + e.dur) 0)

/-- The largest frame of a port with its preamble and gap (Table 4.5). -/
def largestFrame (s : State) (p : Nat) : Nat := match portMode s p with | .ethernet => 9236 | _ => 8254

/-- Does the largest frame of a port fit a run of ns on `w` lanes, at 25 bytes per ns and lane? -/
def frameFits (s : State) (p w run : Nat) : Bool := decide (largestFrame s p ≤ run * 25 * w)

/-! Calendars -/

/-- Is a queue index enabled on a port (R81)? -/
def queueEnabled (s : State) (p i : Nat) : Bool :=
  !absorbed s p && (match portMode s p with
    | .fabric => decide (i < 14)
    | .ethernet => decide (i < 10)
    | .disabled => false)

def enabledQueues (s : State) (p : Nat) : List Nat := (List.range 14).filter (queueEnabled s p)

/-- The reset calendar (R84). -/
def resetCalendar : List (List Nat) :=
  (List.range 14).map fun k => [13 - k, (26 - k) % 14, (25 - k) % 14, (24 - k) % 14]

def slotsOf (b : BxPort) : List (List Nat) := match b.cal with | some c => c.slots | none => resetCalendar

/-! Policers and shapers. Registers of the pair (port, class): copy class × 65,536 + port of PQ_SEL. -/

def pqIdx (p tc : Nat) : Nat := tc * 65536 + p

def pqFld (s : State) (f : Fld) (p tc : Nat) : Nat := fldAt s f (sliceOf p) 0 (pqIdx p tc)

/-- What a bucket holds at an instant; one whose rate was never written holds its reset fill (Table 4.11). Log 8 (DESIGN CHOICE). -/
def bucketNow (o : Option Bucket) (rate burst t : Nat) : Nat :=
  match o with
  | none => min (burst * 8000) (9236 * 8000)
  | some b => min (burst * 8000) (b.tokens + rate * (t - b.at_))

/-- Judge a frame of `len` stored bytes at the policer of its port and class (R101): does it conform, and the state
with the bucket updated. -/
def police (s : State) (p tc len t : Nat) : Bool × State :=
  if pqFld s .PEN p tc == 0 then (true, s)
  else
    let b := bxPort s p
    let have_ := bucketNow (tfind b.pol tc) (pqFld s .POL_RATE_RATE p tc) (pqFld s .POL_BURST_BURST p tc) t
    let ok := decide (len * 8000 ≤ have_)
    (ok, setBx s p { b with pol := tins b.pol tc { tokens := if ok then have_ - len * 8000 else have_, at_ := t } })

/-- Credit of the shaper of a port and class, in 1/8,000 byte. -/
def shapeLevel (s : State) (p tc : Nat) : Nat :=
  bucketNow (tfind (bxPort s p).shp tc) (pqFld s .SHP_RATE_RATE p tc) (pqFld s .SHP_BURST_BURST p tc) (nowNs s)

/-- Does the shaper let a frame of `wire` bytes go (R102)? -/
def shaperOk (s : State) (p tc wire : Nat) : Bool :=
  tc == 7 || pqFld s .SEN p tc == 0 || decide (wire * 8000 ≤ shapeLevel s p tc)

/-- Take a sent frame's wire bytes from the shaper. -/
def shaperTake (s : State) (p tc wire : Nat) : State :=
  if tc == 7 || pqFld s .SEN p tc == 0 then s
  else
    let b := bxPort s p
    setBx s p { b with shp := tins b.shp tc { tokens := shapeLevel s p tc - wire * 8000, at_ := nowNs s } }

/-! TC7 admission (R96, R97) -/

/-- What judges a TC7 copy: the failing check, in the order of R96. -/
inductive Tc7Fault where
  | window | overlap | reserve
  deriving DecidableEq, Repr

/-- The 520 ns of R96 in units of 1/200 ns. -/
def tc7Delay : Nat := 520 * 200

/-- Is a TC7 frame longer than 176 ns at its ingress port (R97)? Wire bytes from preamble to FCS. -/
def tc7TooLong (wire lanes : Nat) : Bool := decide (4400 * lanes < wire - 12)

/-- Judge a TC7 copy toward an egress port (R96): `len` is the length of X in 1/200 ns, `n` its cells. -/
def tc7Judge (s : State) (p owner tin len n : Nat) : Option Tc7Fault :=
  let b := bxPort s p
  let a := tin + tc7Delay
  if !inWindow b owner a (a + len) then some .window
  else if overlaps b a (a + len) then some .overlap
  else if tc7Used s p + n ≤ tc7Resv s p then none
  else some .reserve

/-- Length of X: first bit to the end of the gap on the egress port. Log 159 (DESIGN CHOICE). -/
def txTime (s : State) (p wire : Nat) : Nat := wireTime wire (activeLanes s p)

/-- Enter an admitted departure. -/
def addDep (s : State) (p : Nat) (d : Departure) : State :=
  let b := bxPort s p
  setBx s p { b with deps := b.deps ++ [d] }

end Sys2Proof.Machine
end

