-- ==== Sys2Proof/Machine/Observe.lean ====
section
/-!
DEFINITION. Machine/Observe.lean: what Strata sees of a frame: the layer matchers (R391) and the frame records of a
trace (R396 to R398).
-/

namespace Sys2Proof.Machine

open Sys2Proof

/-- Count an admitted frame at the matchers it matches (R391). -/
def matchLayers (s : State) (part layer oper stored : Nat) : State :=
  (List.range 64).foldl (fun t j =>
    if fldSel t .ST_LAYER_MATCH_V j == 1 && fldSel t .ST_LAYER_MATCH_PART j == part && fldSel t .LAYER j == layer &&
        (oper &&& fldSel t .OPER_MASK j) == fldSel t .OPER_VAL j then
      raiseN (raise t .layerFrames j (recVal layer part)) .layerBytes j stored (recVal layer part)
    else t) s

/-- What a frame record says of a frame. -/
structure TraceView where
  egress : Bool
  refused : Bool := false
  port : Nat
  timeNs : Nat
  part : Nat
  tc : Nat
  layer : Nat
  oper : Nat
  head : List Byte
  payload : List Byte

/-- Do the filters of Table 18.9 select a frame? -/
def traceSelects (p : List Byte) (v : TraceView) : Bool :=
  let b0 := beAt p 0 1
  bitAt b0 (b2n v.egress) && (!bitAt b0 4 || beAt p 4 2 % 4096 == v.part) && bitAt (beAt p 6 1) v.tc &&
    decide (beAt p 8 2 ≤ v.layer) && decide (v.layer ≤ beAt p 10 2) &&
    (v.oper &&& beAt p 14 2) == beAt p 12 2 &&
    decide (beAt p 16 2 ≤ v.port) && decide (v.port ≤ beAt p 18 2)

/-- May a trace capture payload of a partition (R398)? -/
def mayCapture (s : State) (t : Trace) (part : Nat) : Bool :=
  t.authPart != 0 || part == 0 || (tfind s.holly.bindings part).isNone

/-- A frame record (Table 18.8). Log 85 (DESIGN CHOICE). -/
def frameRecord (s : State) (t : Trace) (v : TraceView) : List Byte :=
  let cap := if mayCapture s t v.part then min (beAt t.params 2 2) v.payload.length else 0
  let padded := 4 * ceilDiv cap 4
  beBytes 1 1 ++ beBytes 1 (bitv v.egress 7 + bitv v.refused 6 + qualOf s 1) ++ beBytes 2 v.port ++ beBytes 8 v.timeNs ++
    beBytes 2 cap ++ beBytes 2 (48 + padded) ++ padTo 32 (v.head.take 32) ++ padTo padded (v.payload.take cap)

/-- Offer a frame to the running trace: one in 2^SAMPLE_LOG2 of the selected frames of a direction is recorded. -/
def traceFrame (s : State) (v : TraceView) : State :=
  match s.st.trace with
  | none => s
  | some t =>
    if !traceSelects t.params v then s
    else
      let k := b2n v.egress
      let n := tget 0 t.picked k
      let s1 := { s with st := { s.st with trace := some { t with picked := tset 0 t.picked k ((n + 1) % 2 ^ beAt t.params 1 1) } } }
      if n == 0 then traceStage s1 (frameRecord s t v) else s1

/-- The trace view of a fabric-mode frame. -/
def ffhView (egress refused : Bool) (port timeNs : Nat) (h : Ffh) (payload : List Byte) : TraceView :=
  { egress := egress, refused := refused, port := port, timeNs := timeNs, part := h.part, tc := h.tc, layer := h.layer
    oper := h.oper, head := ffhBytes h, payload := payload }

end Sys2Proof.Machine
end

