-- ==== Sys2Proof/Machine/Route.lean ====
section
/-!
DEFINITION. Machine/Route.lean: Shingle's choice of port and channel (R106 to R118), the port-partition map (R310,
R311) and the queueing of frames and copies (R69, R118).
-/

namespace Sys2Proof.Machine

open Sys2Proof

/-! The pinned plan (R108) -/

/-- The twisted dimensions. -/
def twistedDims (s : State) : List Nat := (List.range 14).filter (twisted s)

/-- The plan from spine x to spine t. -/
def planOf (s : State) (x t : Nat) : Nat :=
  let u := x ^^^ t
  if t % 2 == 1 then (twistedDims s).foldl (fun v d => if bitAt u d then v ^^^ 2 ^ (d - 2) else v) u else u

/-- The next pinned dimension of a plan: its lowest set bit. -/
def lowDim (v : Nat) : Option Nat := (onesOf 14 v).head?

def nextDim (s : State) (t : Nat) : Option Nat := lowDim (planOf s (selfSpine s) t)

/-! Epochs and tables (R37, R111) -/

/-- Is a frame of this epoch routable here (check 8 of Table 2.7)? -/
def epochOk (s : State) (e : Nat) : Bool :=
  match epochDiff s e with
  | 0 => true
  | 1 => s.sh.prev.isSome
  | 3 => s.sh.pend.isSome
  | _ => false

/-- The table that routes a frame of an epoch. Log 69 (DEDUCED). -/
def tableFor (s : State) (e : Nat) : Option RouteTable :=
  match epochDiff s e with
  | 0 => s.sh.cur
  | 1 => s.sh.prev.getD none
  | 3 => s.sh.pend
  | _ => none

def entryOf (t : Option RouteTable) (spine : Nat) : Nat := match t with | some x => x.entries.getD spine 0 | none => 0
def entryV (e : Nat) : Bool := bitAt e 0
def entryFirst (e : Nat) : Nat := bitsOf e 31 18
def entryNm (e : Nat) : Nat := bitsOf e 17 4

/-! Scores (R113, R114) -/

/-- Remote occupancy r_d of a class, in cells (R128): a map of this cycle is used from the next one. -/
def remoteOcc (s : State) (d tc : Nat) : Nat :=
  match tfind s.sh.cmapIn d with
  | some m =>
    let map := if m.receivedAt == s.raw then m.before else (m.payload, m.receivedAt)
    if map.1.isEmpty || elapsed s map.2 (ticksOfUs (4 * fld s .CMAP_PERIOD_US)) then 0
    else 64 * beAt map.1 (8 + 8 * tc + 3) 1
  | none => 0

def sprayW (s : State) (d : Nat) : Nat :=
  if d < 8 then bitsOf (regActive s 0x0B 0xFF 0x1C 0) (4 * d + 3) (4 * d)
  else bitsOf (regActive s 0x0B 0xFF 0x20 0) (4 * (d - 8) + 3) (4 * (d - 8))

/-- s_p of R113. -/
def scoreOf (s : State) (p d tc w : Nat) : Nat :=
  16 * (queueCells s (qKey p (2 * tc)) + fld s .REM_W * remoteOcc s d tc / 4) / w

/-- Is the neighbour across a dimension degraded (R321)? -/
def degradedDim (s : State) (d : Nat) : Bool := (tget ({} : SpineBits) s.haw.spines (neighbourOf s (selfSpine s) d)).degraded

/-- SPRAY_W as first hops see it: 0 toward a degraded neighbour while FIRST_MASK offers another (R321). -/
def sprayWeight (s : State) (first d : Nat) : Nat :=
  if degradedDim s d && (onesOf 14 first).any fun x => !degradedDim s x && !(bundle s x).isEmpty then 0 else sprayW s d

/-- The ports of every dimension of a mask with their scores, rising; `first` is FIRST_MASK of the entry. -/
def scored (s : State) (first mask tc pen : Nat) : List (Nat × Nat) :=
  (onesOf 14 mask).flatMap fun d =>
    let w := sprayWeight s first d
    if w == 0 then [] else (bundle s d).map fun p => (p, scoreOf s p d tc w + pen)

/-- The rotating pointer of an ingress slice and class. -/
def sprayPtr (s : State) (slice tc : Nat) : Nat := tget 0 s.sh.spray (8 * slice + tc)

/-- The lowest score; a tie goes to the first tied port at or after the pointer. The pointer then passes it (R113). -/
def chooseScored (s : State) (slice tc : Nat) (cand : List (Nat × Nat)) : Option (Nat × State) :=
  match minBy (·.2) cand with
  | none => none
  | some best =>
    let ptr := sprayPtr s slice tc
    let tied := (cand.filter fun c => c.2 == best.2).map (·.1)
    match minBy (fun p => (p + 1280 - ptr) % 1280) tied with
    | none => none
    | some p => some (p, { s with sh := { s.sh with spray := tset 0 s.sh.spray (8 * slice + tc) ((p + 1) % 1280) } })

/-- Rule 3 of R112: the hashed port of a bundle. -/
def hashPort (s : State) (h : Ffh) (d : Nat) : Option Nat :=
  let b := bundle s d
  if b.isEmpty then none else b[flowHash h % b.length]?

/-- The escape rule of R115: the port of a bundle whose escape queue holds the fewest cells. -/
def escapePort (s : State) (d tc : Nat) : Option Nat := minBy (fun p => queueCells s (qKey p (2 * tc + 1))) (bundle s d)

/-- Frames of rule 3 that are not multicast: TC6, TC7 and sweep markers. -/
def rule3 (h : Ffh) : Bool := h.tc == 6 || h.tc == 7 || h.kind == 8

/-- Where a frame goes. -/
inductive RouteOut where
  | toQueue (u : Nat) (e : QEnt)
  | trap
  | refuse (e : Ev) (scope : Nat)

/-- What the choice of a route knows of a frame's arrival: ingress port for counts, slice, half, whether it travels on
the escape channel, and the dimension it arrived over (15 when over none). -/
structure Arrival where
  port : Nat
  slice : Nat
  half : Nat
  esc : Bool
  dim : Nat

def ent0 : QEnt := { fid := 0 }

/-- The channel an adaptive frame takes on a spine-to-spine port (R115): escape when its queue holds ESC_THRESH. -/
def overThresh (s : State) (p tc : Nat) : Bool :=
  isSpinePort s p && tc != 7 && decide (fld s .ESC_THRESH ≤ queueCells s (qKey p (2 * tc)))

/-- A fabric-mode port of code 0xF carries only frames of KIND 0x9 to 0xD for its neighbour on the link, which the link's
DISCOVERY names (R107). Log 167 (DEDUCED). -/
def unassignedBars (s : State) (p : Nat) (h : Ffh) : Bool :=
  dimCode s p == 0xF && portMode s p == .fabric &&
    !(decide (9 ≤ h.kind) && decide (h.kind ≤ 0xD) && !h.mc && discPeer s p == some (addrPlane h.dst, addrSpine h.dst))

/-- Route by the plan (rules 3 to 5 of R112 with R115 to R117). `keep` holds the frame to its channel (R118). -/
def routeByPlan (s0 : State) (h : Ffh) (a : Arrival) (esc keep : Bool) : RouteOut × State :=
  let s := noteOld s0 h.epoch
  let t := addrSpine h.dst
  let entry := entryOf (tableFor s h.epoch) t
  if !entryV entry then (.refuse .routeUnreach a.port, s)
  else if fld s .HOP_LIMIT ≤ h.hops then (.refuse .routeHopLimit a.port, s)
  else
    match nextDim s t with
    | none => (.refuse .routeNoPort a.port, s)
    | some d =>
      if a.esc && decide (a.dim ≤ 13) && decide (d ≤ a.dim) then (.refuse .escRank a.port, s)
      else
        let escape : RouteOut × State :=
          match (if rule3 h then hashPort s h d else escapePort s d h.tc) with
          | some p => (.toQueue (qKey p (2 * h.tc + 1)) ent0, s)
          | none => (.refuse .routeNoPort a.port, s)
        if esc && h.tc != 7 then escape
        else
          let pick : Option (Nat × State) :=
            if rule3 h then (hashPort s h d).map fun p => (p, s)
            else if h.hops == 0 then
              let nm := if bitAt (fld s .NONMIN) h.tc then scored s (entryFirst entry) (entryNm entry) h.tc (fld s .NM_PEN) else []
              chooseScored s a.slice h.tc (scored s (entryFirst entry) (entryFirst entry) h.tc 0 ++ nm)
            else chooseScored s a.slice h.tc ((bundle s d).map fun p => (p, scoreOf s p d h.tc 1))
          match pick with
          | none => (.refuse .routeNoPort a.port, s)
          | some (p, s1) =>
            if !keep && h.tc != 7 && overThresh s p h.tc then
              if rule3 h then (.toQueue (qKey p (2 * h.tc + 1)) ent0, s1)
              else
                match escapePort s d h.tc with
                | some q => (.toQueue (qKey q (2 * h.tc + 1)) ent0, s1)
                | none => (.toQueue (qKey p (2 * h.tc)) ent0, s1)
            else (.toQueue (qKey p (2 * h.tc)) ent0, s1)

/-- Rules 2 to 5 of R112 for a frame bound for another spine. -/
def routeAway (s : State) (h : Ffh) (a : Arrival) (esc keep : Bool) : RouteOut × State :=
  let l := fexcLook (replica s a.half) h.part h.dst h.tc
  let s1 := parityHits s a.half l.bads
  match l.hit with
  | none => routeByPlan s1 h a esc keep
  | some r =>
    match bitsOf r 31 30 with
    | 1 => (.refuse .fexcDrop a.port, s1)
    | 2 => (.trap, s1)
    | _ =>
      let p := bitsOf r 10 0
      if esc then routeByPlan s1 h a esc keep
      else if !entryV (entryOf (tableFor s1 h.epoch) (addrSpine h.dst)) then (.refuse .routeUnreach a.port, s1)
      else if fld s1 .HOP_LIMIT ≤ h.hops then (.refuse .routeHopLimit a.port, s1)
      else if !portUp s1 p || portFenced s1 p || quarantined s1 p || unassignedBars s1 p h then
        (.refuse .routeNoPort a.port, s1)
      else if !keep && h.tc != 7 && overThresh s1 p h.tc then routeByPlan s1 h { a with esc := false } true true
      else (.toQueue (qKey p (2 * h.tc)) { ent0 with byException := true }, s1)

/-- Rule 1 of R112: a frame for an endpoint behind this spine. Log 70 (DEDUCED). -/
def routeHere (s : State) (h : Ffh) (a : Arrival) (esc : Bool) : RouteOut × State :=
  let l := dportLook s a.half (addrDown h.dst)
  let s1 := parityHits s a.half l.bads
  match l.hit with
  | none => (.refuse .dportMiss a.port, s1)
  | some p =>
    if fld s1 .HOP_LIMIT ≤ h.hops then (.refuse .routeHopLimit a.port, s1)
    else if portFenced s1 p then (.refuse .fencedDst a.port, s1)
    else if !portUp s1 p || unassignedBars s1 p h then (.refuse .routeNoPort a.port, s1)
    else (.toQueue (qKey p (2 * h.tc + b2n (esc && h.tc != 7))) ent0, s1)

/-- The port of a unicast frame (R112). One with ESC = 1 from a port that leads to no spine is adaptive. Log 168 (DESIGN
CHOICE). -/
def routeUnicast (s : State) (h : Ffh) (a : Arrival) : RouteOut × State :=
  if addrSpine h.dst == selfSpine s then routeHere s h a a.esc else routeAway s h a (a.esc && decide (a.dim ≤ 13)) false

/-! The port-partition map (R310) and the egress check (R311) -/

def holdsPart (s : State) : Bool := s.haw.pstate != .none

/-- Does a port lead to a neighbour in probation (R329)? -/
def onProbation (s : State) (p : Nat) : Bool :=
  isSpinePort s p && (spineBits s (neighbourOf s (selfSpine s) (dimCode s p))).probation

/-- Does a port admit a partition and kind (R310)? Log 71 (DEDUCED). -/
def portAdmits (s : State) (p part kind : Nat) : Bool :=
  if portFenced s p then false
  else if quarantined s p then part == 0 && (kind == 0xC || (kind == 0xB && onProbation s p))
  else if portMode s p == .ethernet then holdsPart s && part == s.haw.part
  else if isDownPort s p then
    (holdsPart s && part == s.haw.part) || (part == 0 && (kind == 9 || kind == 0xA || kind == 0xC))
  else if !holdsPart s then part == 0
  else if isSpinePort s p then bitAt s.haw.free (dimCode s p) && (part == s.haw.part || part == 0)
  else s.haw.bypass.contains p && (part == s.haw.part || part == 0)

/-- Does a unicast address lie on a fenced spine or behind a fenced remote down-port (R311)? -/
def dstFenced (s : State) (dst : Nat) : Bool :=
  (spineBits s (addrSpine dst)).fenced || s.haw.rfence.contains (addrSpine dst, addrDown dst)

/-- The egress check of R311. -/
def egressCheck (s : State) (h : Ffh) (a : Arrival) (out : RouteOut) : RouteOut :=
  match out with
  | .toQueue u e =>
    if !h.mc && dstFenced s h.dst then .refuse .fencedDst a.port
    else if portAdmits s (u / 16) h.part h.kind then .toQueue u e
    else .refuse .partEgressDeny (u / 16)
  | o => o

/-! Multicast (R69, R112, R135) -/

/-- The copies of a group record: those queued, and the ports that lose their copy with the event that says so. A frame on
escape keeps its channel toward spines above the dimension it came over (R116), and toward down-ports. Log 168 (DESIGN
CHOICE). -/
def groupCopies (s : State) (h : Ffh) (inPort : Nat) (rec : List Byte) : List (Nat × QEnt) × List (Ev × Nat) :=
  let escFrom : Option Nat := if h.esc && h.tc != 7 && inPort < nPorts && isSpinePort s inPort then some (dimCode s inPort) else none
  let onEsc := fun p => if isSpinePort s p then escFrom.isSome else h.esc && h.tc != 7
  let key := fun p => qKey p (2 * h.tc + b2n (onEsc p))
  let outranked := fun p => isSpinePort s p && (match escFrom with | some r => decide (dimCode s p ≤ r) | none => false)
  let named := (groupPorts rec).filter (· != inPort)
  let n := named.map fun p =>
    if portFenced s p || !portUp s p then Sum.inr (Ev.mcCopyFenced, p)
    else if unassignedBars s p h then Sum.inr (Ev.routeNoPort, p)
    else if outranked p then Sum.inr (Ev.escRank, inPort)
    else if !portAdmits s p h.part h.kind then Sum.inr (Ev.partEgressDeny, p)
    else Sum.inl (key p, { ent0 with named := true })
  let d := (groupDims rec).filterMap fun d =>
    match hashPort s h d with
    | none => some (Sum.inr (Ev.routeNoPort, ((portsOfDim s d).head?).getD inPort))
    | some p =>
      if p == inPort then none
      else if outranked p then some (Sum.inr (Ev.escRank, inPort))
      else if !portAdmits s p h.part h.kind then some (Sum.inr (Ev.partEgressDeny, p))
      else some (Sum.inl (key p, { ent0 with viaDim := some d }))
  ((n ++ d).filterMap fun x => match x with | .inl c => some c | .inr _ => none,
   (n ++ d).filterMap fun x => match x with | .inl _ => none | .inr c => some c)

/-! Sleep: work toward a pipeline is its wake trigger (R27). Domain 7 + 160 … of Table 18.1's kind G. -/

/-- The domain number of a port's port-group pipeline (kind G: 167 to 326). -/
def pipeDomain (p : Nat) : Nat := 167 + tileNo p

/-- A wake trigger of a domain: an asleep domain begins to wake, an awake one restarts its idle timer (R26 to R28). -/
def wakeDomain (s : State) (d : Nat) : State :=
  let p := { s.pwr with lastWork := tset 0 s.pwr.lastWork d s.raw }
  match tget SleepState.awake s.pwr.domains d with
  | .asleep => { s with pwr := { p with domains := tset .awake p.domains d (.waking s.raw) } }
  | _ => { s with pwr := p }

def domainAwake (s : State) (d : Nat) : Bool := tget SleepState.awake s.pwr.domains d == .awake

/-! Queueing -/

/-- Take a marker copy out of those that wait (R122). -/
def unholdCopy (s : State) (fid : Nat) : State :=
  { s with sh := { s.sh with heldCopies := s.sh.heldCopies.filter fun c => c.1 != fid } }

/-- Discard one holder's copy of a frame (R18). -/
def discardCopy (s : State) (fid : Nat) : State := releaseRef (unholdCopy s fid) fid

/-- What a stored frame's arrival was, for routing it again. -/
def arrivalOf (f : StoredFrame) (esc : Bool) : Arrival :=
  { port := f.inPort, slice := if f.inPort < nPorts then sliceOf f.inPort else 8 * f.inHalf, half := f.inHalf
    esc := esc && f.ffh.esc, dim := if esc && f.ffh.esc then f.inDim else 15 }

/-- Route again a copy whose port has gone (R118, R69): its new queue, or the events that end it. A copy that rules 2 to 5 route
anew counts REROUTE_FENCED, whether or not it finds a port. Log 168 (DESIGN CHOICE). -/
def reroute (s : State) (u : Nat) (e : QEnt) (f : StoredFrame) : (Option (Nat × QEnt)) × List (Ev × Nat) × State :=
  let p := u / 16
  let ch := u % 16
  if e.named then (none, [(.mcCopyFenced, p)], s)
  else
    match e.viaDim with
    | some d =>
      match hashPort s f.ffh d with
      | some q => (some (qKey q ch, e), [(.rerouteFenced, p)], s)
      | none => (none, [(.rerouteFenced, p), (.routeNoPort, p)], s)
    | none =>
      if f.mode == .eth || isDownPort s p || addrSpine f.ffh.dst == selfSpine s then (none, [(.routeNoPort, p)], s)
      else
        match routeAway s f.ffh (arrivalOf f (ch % 2 == 1)) (ch % 2 == 1) true with
        | (.toQueue v e2, s1) =>
          (some (v, { e with byException := e2.byException }), [(.rerouteFenced, p)], s1)
        | (.trap, s1) =>
          let sc := if f.inPort < nPorts then f.inPort else p
          match trapToHeath s1 f.inPort (ffhBytes f.ffh ++ f.data) with
          | some s2 => (none, [(.rerouteFenced, p)], s2)
          | none => (none, [(.rerouteFenced, p), (.fexcTrapLimit, sc)], s1)
        | (.refuse ev _, s1) =>
          (none, [(.rerouteFenced, p), (if ev = .fexcDrop then .fexcDrop else .routeNoPort, p)], s1)

/-- The owner whose windows a TC7 frame may leave in: its ingress port, or the spine itself (R249, R416). -/
def tc7Owner (f : StoredFrame) : Nat := match f.mode with | .own => 0x7FF | _ => f.inPort

/-! Sweeps (R119 to R122). Key: SRC, DST, TC, SWEEP_ID. -/

def sweepKey (src dst tc id : Nat) : Nat := ((src * 2 ^ 32 + dst) * 8 + tc) * 65536 + id % 65536

def keyOfFrame (h : Ffh) (id : Nat) : Nat := sweepKey h.src h.dst h.tc id

/-- Change a sweep record. -/
def setSweep (s : State) (k : Nat) (w : Sweep) : State := { s with sh := { s.sh with sweeps := tins s.sh.sweeps k w } }

def dropSweep (s : State) (k : Nat) : State := { s with sh := { s.sh with sweeps := tdel s.sh.sweeps k } }

/-- Does an earlier sweep of the key still hold a fenced frame (R121)? -/
def earlierHeld (s : State) (k : Nat) : Bool :=
  s.sh.sweeps.any fun e => e.1 / 65536 == k / 65536 && e.2.timedOut.isNone && !e.2.fenced.isEmpty &&
    decide (diff16 (e.1 % 65536) (k % 65536) < 0)

/-- Collect a copy of a sweep (R121): its index, and the frames admitted before it. A timed-out slot discards it. -/
def collectCopy (s : State) (h : Ffh) (payload : List Byte) : State :=
  let k := keyOfFrame h h.sweepId
  let idx := beAt payload 1 1
  match tfind s.sh.sweeps k with
  | some w =>
    if w.timedOut.isSome || w.copies.contains idx then s
    else setSweep s k { w with total := beAt payload 0 1, copies := w.copies ++ [idx], lastFid := s.loam.nextFid }
  | none => s

/-- The frames that a marker copy leaves after (R120): those of its SRC, DST and TC that this spine still holds when the copy is
queued, but those behind it on its own link (R247) and the copies of its own sweep. -/
def copyWaitList (s : State) (fid : Nat) (f : StoredFrame) : List Nat :=
  let behind := (tget {} (tget {} s.lk.ends f.rxLink).rx (2 * f.tc + b2n f.ffh.esc)).held.map (·.2)
  (s.loam.frames.filter fun x =>
    x.1 != fid && x.2.mode == .fabric && !x.2.consumed && keyOfFrame x.2.ffh 0 == keyOfFrame f.ffh 0 &&
      !(x.2.ffh.sweep && x.2.ffh.sweepId == f.ffh.sweepId) && !behind.contains x.1).map (·.1)

/-- Does a marker copy still wait for a frame of its key (R120)? -/
def copyWaits (s : State) (e : QEnt) : Bool := e.waits.any fun fid => (frameOf s fid).isSome

/-- A TC7 copy that cannot leave is gone (R99). -/
def dropTc7Copy (s : State) (p fid : Nat) : State := raise (discardCopy s fid) .tc7DepartMiss p

/-- A TC7 copy that no departure of its admission carries, a marker copy or a fenced frame: it leaves in the first window of
its owner that has room. Log 169 (DESIGN CHOICE). -/
def scheduleTc7 (s : State) (p : Nat) (e : QEnt) : State :=
  match frameOf s e.fid with
  | none => s
  | some f =>
    let len := txTime s p (wireBytes s p f)
    if !portUp s p || portFenced s p then dropTc7Copy s p e.fid
    else
      match replayStart (bxPort s p) (tc7Owner f) (nowU s) len with
      | none => raise (discardCopy s e.fid) .tc7WindowMiss p (recFrame f.ffh)
      | some a =>
        wakeDomain (addDep s p { fid := e.fid, start := a, stop := a + len, owner := tc7Owner f, viaDim := e.viaDim })
          (pipeDomain p)

/-- The spine's own TC7 frames that wait for an interval in the TC7 queue of a port (R416): those that a window now has room for. -/
def scheduleOwn (s : State) (p : Nat) : State :=
  (queueOf s (qKey p 14)).foldl (fun t e =>
    match frameOf t e.fid with
    | some f =>
      let len := txTime t p (wireBytes t p f)
      match (if f.mode == .own then ownStart (bxPort t p) (nowU t) len else none) with
      | some a =>
        let t1 := setQueue t (qKey p 14) ((queueOf t (qKey p 14)).filter (· != e))
        wakeDomain (addDep t1 p { fid := e.fid, start := a, stop := a + len, owner := 0x7FF, viaDim := e.viaDim }) (pipeDomain p)
      | none => t
    | none => t) s

/-- The TC7 queue of a port holds the marker copies that still wait (R120). Log 169 (DESIGN CHOICE). -/
def queueTc7 (s : State) (u : Nat) (e : QEnt) (f : StoredFrame) : State :=
  if !f.ffh.sweep then scheduleTc7 s (u / 16) e
  else if portUp s (u / 16) && !portFenced s (u / 16) then enqueue s u e
  else dropTc7Copy s (u / 16) e.fid

/-- The marker copies of a port's TC7 queue that wait no longer are scheduled (R120). -/
def releaseTc7 (s : State) (p : Nat) : State :=
  (queueOf s (qKey p 14)).foldl (fun t e =>
    match frameOf t e.fid with
    | some f =>
      if f.mode == .own || copyWaits t e then t else scheduleTc7 (setQueue t (qKey p 14) ((queueOf t (qKey p 14)).filter (· != e))) p e
    | none => t) s

/-- The TC7 queue of a port that has gone is emptied (R99). -/
def dropTc7Queue (s : State) (p : Nat) : State :=
  (queueOf s (qKey p 14)).foldl (fun t e => dropTc7Copy t p e.fid) (setQueue s (qKey p 14) [])

/-- Is this a KEX frame: in-band NCP of TC6 (R341)? -/
def isKexFrame (h : Ffh) : Bool := h.kind == 9 && h.tc == 6

/-- Put a copy into its queue, or route it again when its port is down or fenced (R118). -/
def enqueueCopy (s : State) (u : Nat) (e : QEnt) : State :=
  match frameOf s e.fid with
  | none => s
  | some f =>
    let p := u / 16
    let open_ := portUp s p || (portCarries s p && isKexFrame f.ffh)
    if open_ && !portFenced s p then wakeDomain (enqueue s u e) (pipeDomain p)
    else
      let r := reroute s u e f
      let s1 := r.2.1.foldl (fun t x => raise t x.1 x.2 (recFrame f.ffh)) r.2.2
      match r.1 with
      | some (v, e2) => wakeDomain (enqueue s1 v e2) (pipeDomain (v / 16))
      | none => discardCopy s1 e.fid

/-- Queue a copy of a frame. -/
def queueCopy (s : State) (f : StoredFrame) (u : Nat) (e : QEnt) : State :=
  if u % 16 < 14 then enqueueCopy s u e else queueTc7 s u e f

/-- The sweep that holds a fenced frame (R121). -/
def sweepHolding (s : State) (fid : Nat) : Option (Nat × Sweep) := s.sh.sweeps.find? fun e => e.2.fenced.contains fid

/-- Take a fenced frame out of its sweep's record; the record goes with the last. -/
def unfence (s : State) (k : Nat) (w : Sweep) (fid : Nat) : State :=
  let rest := w.fenced.filter (· != fid)
  if rest.isEmpty then dropSweep s k else setSweep s k { w with fenced := rest }

/-- Queue a frame to all its places, hand it to the spine's own units, or collect it as a marker copy (R121, R247). A fenced
frame stays in its sweep until that is complete. -/
def queueFrame (s : State) (fid : Nat) : State :=
  match frameOf s fid with
  | none => s
  | some f =>
    if f.consumed then { s with loam := { s.loam with inbox := s.loam.inbox ++ [(fid, f.inPort)] } }
    else if f.ffh.sweep && f.dests.isEmpty then releaseRef (collectCopy s f.ffh f.data) fid
    else
      let waits := if f.ffh.sweep then copyWaitList s fid f else []
      match sweepHolding s fid with
      | some (k, w) =>
        if w.done && !earlierHeld s k then
          f.dests.foldl (fun t d => queueCopy t f d.1 { d.2 with fid := fid }) (unfence s k w fid)
        else s
      | none => f.dests.foldl (fun t d => queueCopy t f d.1 { d.2 with fid := fid, waits := waits }) s

/-- Route again every frame queued toward a port that has gone down or been fenced: queues in ascending index, frames
in queue order (R118). TC7 frames stay under R99. -/
def rerouteAll (s : State) (p : Nat) : State :=
  (List.range 14).foldl (fun t i =>
    let u := qKey p i
    let q := queueOf t u
    q.foldl (fun t2 e => enqueueCopy t2 u e) (setQueue t u [])) s

end Sys2Proof.Machine
end

