-- ==== Sys2Proof/Machine/PrivetBase.lean ====
section
/-!
DEFINITION. Machine/PrivetBase.lean: lanes, rings and lines (R260 to R264), optical control messages and migrations
(R269 to R274).
-/

namespace Sys2Proof.Machine

open Sys2Proof

/-! Numbers -/

def engineOf (lane : Nat) : Nat := lane / 64
def fibreOf (lane : Nat) : Nat := lane % 64 / 16
def baseLine (lane : Nat) : Nat := lane % 16

/-- Line value of a dark lane (Table 12.9). -/
def darkLine : Nat := 0x1F

def txLineOf (s : State) (lane : Nat) : Nat := tget (baseLine lane) s.prv.txLine lane
def rxLineOf (s : State) (lane : Nat) : Nat := tget (baseLine lane) s.prv.rxLine lane

def setTxLine (s : State) (lane l : Nat) : State :=
  { s with prv := { s.prv with txLine := tset (baseLine lane) s.prv.txLine lane l } }
def setRxLine (s : State) (lane l : Nat) : State :=
  { s with prv := { s.prv with rxLine := tset (baseLine lane) s.prv.rxLine lane l } }

/-- SCOPE of a ring (Table 18.1). -/
def ringNo (eng dir fib line : Nat) : Nat := ((eng * 2 + dir) * 4 + fib) * 18 + line
def ringEngine (r : Nat) : Nat := r / 144
def ringDir (r : Nat) : Nat := r / 72 % 2
def ringFibre (r : Nat) : Nat := r / 18 % 4
def ringLine (r : Nat) : Nat := r % 18

/-- SCOPE of a comb line (Table 18.1). -/
def lineNo (eng comb line : Nat) : Nat := (eng * 2 + comb) * 19 + line

def combOf (s : State) (eng : Nat) : Nat := b2n (s.prv.standby.contains eng)

/-- The 16 lanes of a fibre. -/
def fibreLanes (eng fib : Nat) : List Nat := (List.range 16).map fun i => 64 * eng + 16 * fib + i

def ringOf' (s : State) (r : Nat) : OptRing := tget {} s.prv.rings r
def setRing (s : State) (r : Nat) (x : OptRing) : State := { s with prv := { s.prv with rings := tset {} s.prv.rings r x } }

def steered (s : State) (eng fib : Nat) : Bool := bitAt (fldI s .STEER_EN eng) fib
def spareDis (s : State) (eng fib : Nat) : Bool := bitAt (fldI s .SPARE_DIS eng) fib

/-- The lane that a ring carries: the lane of its fibre on its line, or one that migrates to it (R262, R271). -/
def laneOfRing (s : State) (r : Nat) : Option Nat :=
  let tx := ringDir r == 0
  (fibreLanes (ringEngine r) (ringFibre r)).find? fun n =>
    (if tx then txLineOf s n else rxLineOf s n) == ringLine r ||
      s.prv.migs.any fun m => m.tx == tx && m.lane == n && m.toLine == ringLine r && m.step == .ready

/-- The rings of a lane in the two directions. -/
def txRing (s : State) (lane : Nat) : Nat := ringNo (engineOf lane) 0 (fibreOf lane) (txLineOf s lane)
def rxRing (s : State) (lane : Nat) : Nat := ringNo (engineOf lane) 1 (fibreOf lane) (rxLineOf s lane)

/-- Does a fibre carry an enabled port? -/
def fibreInUse (s : State) (eng fib : Nat) : Bool := (fibreLanes eng fib).any fun n => portEnabled s (laneHolder s n)

/-- STATE of PRV_RING: a modulator whose line carries no lane's data is squelched (R262). Log 124 (DEDUCED). -/
def ringState (s : State) (r : Nat) : Nat :=
  match (ringOf' s r).phase with
  | .off => if s.pwr.hubUp && fibreInUse s (ringEngine r) (ringFibre r) then 1 else 0
  | .parked => 4
  | .failed => 5
  | .locked =>
    if ringDir r == 1 then 2
    else
      match laneOfRing s r with
      | some n => let p := laneHolder s n; if portEnabled s p && !portFenced s p then 2 else 3
      | none => 3

/-- The temperature of an engine's photonic die, in 0.1 K. Dies are numbered in the order of Table 1.3. -/
def engineTemp (s : State) (eng : Nat) : Int := dieTemp s (17 + 2 * eng)

/-- Window centre at the current die temperature (R266). -/
def ringCentre (s : State) (r : Nat) : Nat :=
  let x := ringOf' s r
  ((x.centre : Int) - (fld s .HEAT_SLOPE : Int) * (engineTemp s (ringEngine r) - x.tempAt) / 10).toNat

/-! Acquisition (R264) -/

def insertNat (x : Int) : List Int → List Int
  | [] => [x]
  | y :: t => if x ≤ y then x :: y :: t else y :: insertNat x t

def sortInts (l : List Int) : List Int := l.foldl (fun a x => insertNat x a) []

/-- Twice the median: the sum of the two middle values, or twice the middle one. -/
def median2 (l : List Int) : Int :=
  let q := sortInts l
  let n := q.length
  if n = 0 then 0 else q.getD ((n - 1) / 2) 0 + q.getD (n / 2) 0

/-- The peaks of a sweep: heater power in µW, rising, and peak power in 0.01 dB. The heater power that puts the ring on
its line, by the method of R264; none when the sweep fails. Log 123 (DESIGN CHOICE). -/
def sweepTarget (peaks : List (Nat × Int)) (line : Nat) : Option Nat :=
  let hs := peaks.map fun p => (p.1 : Int)
  let steps := (hs.zip (hs.drop 1)).map fun p => p.2 - p.1
  let s2 := median2 steps
  let p2 := median2 (peaks.map (·.2))
  let isMarker := fun (i : Nat) =>
    let below := p2 - 2 * (peaks.getD i (0, 0)).2
    let st := 8 * steps.getD i 0
    decide (i < steps.length) && decide (400 ≤ below) && decide (below ≤ 800) && decide (7 * s2 ≤ st) && decide (st ≤ 9 * s2)
  let markers := (List.range peaks.length).filter isMarker
  let stepsOk := (List.range steps.length).all fun i =>
    isMarker i || (decide (3 * s2 ≤ 8 * steps.getD i 0) && decide (8 * steps.getD i 0 ≤ 5 * s2))
  match markers with
  | [] => none
  | m :: rest =>
    let gapOk := match rest with | n :: _ => n == m + 19 | [] => true
    if !stepsOk || !gapOk then none
    else
      let t2 := 2 * hs.getD m 0 - ((line : Int) + 1) * s2
      some (((if t2 < 4000 then t2 + 20 * s2 else t2) / 2).toNat)

/-! Optical control messages (Table 12.6) -/

def optMsg (otype id laneId : Nat) (emerg : Bool) (fromLine toLine tsw : Nat) : List Byte :=
  let b := beBytes 1 (otype * 16) ++ beBytes 1 id ++ beBytes 2 laneId ++ beBytes 1 (bitv emerg 7 + fromLine) ++
    beBytes 1 toLine ++ zeroBytes 2 ++ beBytes 4 tsw ++ zeroBytes 2
  b ++ beBytes 2 (crc16 b)

/-- A received message whose HCRC fits. -/
def optOk (msg : List Byte) : Bool := msg.length == 16 && crc16 (msg.take 14) == beAt msg 14 2

def optId (msg : List Byte) : Nat := beAt msg 1 1
def optLane (msg : List Byte) : Nat := beAt msg 2 2 % 2048
def optEmerg (msg : List Byte) : Bool := bitAt (beAt msg 4 1) 7
def optFrom (msg : List Byte) : Nat := beAt msg 4 1 % 32
def optTo (msg : List Byte) : Nat := beAt msg 5 1 % 32
def optTsw (msg : List Byte) : Nat := beAt msg 8 4

def sendOpt (s : State) (lane : Nat) (msg : List Byte) : State := emit s (.optical (laneHolder s lane) msg)

/-- The migration of a lane in a direction. -/
def migOf (s : State) (tx : Bool) (lane : Nat) : Option Mig := s.prv.migs.find? fun m => m.tx == tx && m.lane == lane

def dropMig (s : State) (tx : Bool) (lane : Nat) : State :=
  { s with prv := { s.prv with migs := s.prv.migs.filter fun m => !(m.tx == tx && m.lane == lane) } }

/-- Keep a migration, in place of any other of its lane and direction. -/
def putMig (s : State) (m : Mig) : State :=
  let t := dropMig s m.tx m.lane
  { t with prv := { t.prv with migs := t.prv.migs ++ [m] } }

/-- Is a line of a transmit fibre free of lanes and migrations? -/
def txLineFree (s : State) (eng fib line : Nat) : Bool :=
  (fibreLanes eng fib).all fun n => txLineOf s n != line &&
    (match migOf s true n with | some m => m.toLine != line | none => true)

/-- Is a receiver of a fibre free (step 2 of Table 12.7)? -/
def rxLineFree (s : State) (eng fib line : Nat) : Bool :=
  (fibreLanes eng fib).all fun n => rxLineOf s n != line &&
    (match migOf s false n with | some m => m.toLine != line || m.step == .switched || m.step == .asked | none => true)

/-- The lowest spare line that is free on a lane's transmit fibre (R269). -/
def freeSpare (s : State) (lane : Nat) : Option Nat := [16, 17].find? (txLineFree s (engineOf lane) (fibreOf lane))

/-- May a lane migrate at all (R269)? Log 127 (DEDUCED). -/
def mayMigrate (s : State) (lane : Nat) : Bool :=
  let p := laneHolder s lane
  portUp s p && portMode s p == .fabric && !steered s (engineOf lane) (fibreOf lane) && !spareDis s (engineOf lane) (fibreOf lane)

/-- Step 1 of Table 12.7: MIG_REQ leaves and PRV_LINE_MIGRATE counts. -/
def sendMigReq (s : State) (m : Mig) : State :=
  let msg := optMsg 1 m.id m.laneId m.emerg m.fromLine m.toLine 0
  let s1 := putMig s { m with step := .asked, since := s.raw, msg := msg, sentAt := s.raw }
  let eng := engineOf m.lane
  sendOpt (raise s1 .prvLineMigrate (lineNo eng (combOf s eng) m.fromLine) (recVal m.lane)) m.lane msg

/-- Start a migration of a lane to a line. -/
def startMig (s : State) (lane toLine : Nat) (emerg : Bool) : State :=
  let id := s.prv.nextMig
  sendMigReq { s with prv := { s.prv with nextMig := (id + 1) % 256 } }
    { tx := true, lane := lane, laneId := lane, id := id, emerg := emerg, fromLine := txLineOf s lane, toLine := toLine
      step := .asked, since := s.raw }

/-- Has the transmitting end's switch time passed, so that an abort is ignored (R272)? -/
def migPastSwitch (s : State) (m : Mig) : Bool := m.step == .switched || (m.step == .ready && m.at_ != 0 && reached s m.at_)

/-- End a migration that has not switched, with MIG_ABORT (R272). -/
def abortMig (s : State) (m : Mig) : State :=
  if migPastSwitch s m then s
  else
    let s1 := dropMig s m.tx m.lane
    let s2 := if m.step == .scheduled && m.tx then s1
              else sendOpt s1 m.lane (optMsg 5 m.id m.laneId m.emerg m.fromLine m.toLine 0)
    if m.tx then raise s2 .prvMigAbort m.lane (recVal m.lane) else s2

/-- Abort the migrations that a test accepts. -/
def abortMigs (s : State) (p : Mig → Bool) : State := (s.prv.migs.filter p).foldl abortMig s

/-- A port goes down or is fenced: the migrations of its lanes end (R272, Table 12.8). -/
def fenceLanes (s : State) (p : Nat) : State := abortMigs s fun m => laneHolder s m.lane == p

end Sys2Proof.Machine
end

