-- ==== Sys2Proof/Machine/LinkOps.lean ====
section
/-!
DEFINITION. Machine/LinkOps.lean: the two ends of a link and of a virtual link: sequence spaces, settling,
acknowledgments, events, replays (R242 to R251, R258), per-hop keys (R341, R342), and a link going down (R241).
-/

namespace Sys2Proof.Machine

open Sys2Proof

/-- First number of the virtual links: link 2,048 + v is virtual link v. -/
def vlinkBase : Nat := 2048

def endOf (s : State) (l : Nat) : LinkEnd := tget {} s.lk.ends l

def setEnd (s : State) (l : Nat) (e : LinkEnd) : State := { s with lk := { s.lk with ends := tset {} s.lk.ends l e } }

/-- The port a link or virtual link runs over. -/
def linkPort (s : State) (l : Nat) : Nat :=
  if l < vlinkBase then l else match tfind s.lk.vlinks (l - vlinkBase) with | some v => v.port | none => 0

/-- Does a link carry frames: a fabric-mode port that is up or exchanges keys, or a virtual link that exists. -/
def linkLive (s : State) (l : Nat) : Bool :=
  if l < vlinkBase then portCarries s l && portMode s l == .fabric else (tfind s.lk.vlinks (l - vlinkBase)).isSome

/-- Does a link carry traffic now? A virtual link does not while its port is down or fenced (R24). -/
def linkOpen (s : State) (l : Nat) : Bool :=
  linkLive s l && (decide (l < vlinkBase) || (portUp s (linkPort s l) && !portFenced s (linkPort s l)))

/-! Keys (R341, R342) -/

def linkKeys (s : State) (l : Nat) : LinkKeys := tget {} s.holly.links l

def setKeys (s : State) (l : Nat) (k : LinkKeys) : State :=
  { s with holly := { s.holly with links := tset {} s.holly.links l k } }

/-- Is a link protected (R341)? -/
def linkProt (s : State) (l : Nat) : Bool := protOn s (linkPort s l)

/-- A protected link with no key carries only KEX frames (R341). -/
def linkUnkeyed (s : State) (l : Nat) : Bool := linkProt s l && (linkKeys s l).txKey.isNone

/-- Seal a frame that leaves on a link: the next transmit counter under the current key (R342). -/
def sealTx (s : State) (l : Nat) : Option Seal × State :=
  let k := linkKeys s l
  match linkProt s l, k.txKey with
  | true, some key => (some { keyId := key, counter := k.txc }, setKeys s l { k with txc := k.txc + 1 })
  | _, _ => (none, s)

/-- Candidate window W (R342). -/
def keyWindow (l : Nat) : Nat := if l < vlinkBase then 16 else 64

/-- The mark extended to 64 bits: the value nearest to E whose low 32 bits equal it (R342). -/
def extendMark (e m : Nat) : Nat :=
  let base := e / 2 ^ 32 * 2 ^ 32 + m
  if base + 2 ^ 31 < e then base + 2 ^ 32 else if e + 2 ^ 31 < base ∧ 2 ^ 32 ≤ base then base - 2 ^ 32 else base

/-- Does a counter lie among the candidates of a receiver (R342)? -/
def candidate (w e : Nat) (mark : Option Nat) (c : Nat) : Bool :=
  (decide (e ≤ c) && decide (c < e + w)) ||
  (match mark with
   | some m => let x := extendMark e m; decide (x ≤ c) && decide (c < x + w)
   | none => false)

/-- Open a received frame (R342, R343): does it pass, and the receiver's new place. A frame that passes under a new
key retires the old one. -/
def openRx (s : State) (l : Nat) (sealed : Option Seal) : Bool × State :=
  let k := linkKeys s l
  let w := keyWindow l
  match sealed with
  | none => (false, s)
  | some q =>
    if k.rxKey == some q.keyId && candidate w k.rxE k.mark q.counter then
      (true, setKeys s l { k with rxE := q.counter + 1 })
    else if k.nextRx == some q.keyId && candidate w 0 k.mark q.counter then
      (true, setKeys s l { k with rxKey := k.nextRx, nextRx := none, rxE := q.counter + 1, mark := none })
    else (false, s)

/-! Receiving (R243, R245, R247) -/

def rxOf (e : LinkEnd) (q : Nat) : RxSpace := tget {} e.rx q
def txOf (e : LinkEnd) (q : Nat) : TxSpace := tget {} e.tx q
def setRx (e : LinkEnd) (q : Nat) (r : RxSpace) : LinkEnd := { e with rx := tset {} e.rx q r }
def setTx (e : LinkEnd) (q : Nat) (t : TxSpace) : LinkEnd := { e with tx := tset {} e.tx q t }

/-- Has a sequence number been settled at the receiver? -/
def settledRx (r : RxSpace) (n : Nat) : Bool := decide (diff16 n r.ack < 0) || r.above.contains n

/-- Advance ACK over settled numbers. -/
def advanceAck : Nat → Nat → List Nat → Nat × List Nat
  | 0, a, above => (a, above)
  | fuel + 1, a, above => if above.contains a then advanceAck fuel ((a + 1) % 65536) (above.filter (· != a)) else (a, above)

/-- Settle a number (R245). -/
def settleNum (r : RxSpace) (n : Nat) : RxSpace :=
  if settledRx r n then r
  else
    let x := advanceAck (r.above.length + 1) r.ack (n :: r.above)
    { r with ack := x.1, above := x.2 }

/-- Note an event to send, ahead of any repeat (R246). -/
def noteEvent (e : LinkEnd) (k : EKind) (q n : Nat) : LinkEnd := { e with events := e.events ++ [{ kind := k, space := q, seq := n }] }

/-- Note that the ACK of a space is to be reported (R245). -/
def noteAck (e : LinkEnd) (q : Nat) : LinkEnd := if e.ackDirty.contains q then e else { e with ackDirty := e.ackDirty ++ [q] }

/-- The skipped numbers of a gap, at most eight (R246). -/
def gapNums (r : RxSpace) (n : Nat) : List Nat :=
  let h : Nat := match r.highest with | some x => (x + 1) % 65536 | none => 0
  let d := diff16 n h
  if d ≤ 0 then [] else (List.range (min 8 d.toNat)).map fun i => (h + i) % 65536

/-- Note the arrival of a number: the highest received, and LOSS for each number of a gap (R246). -/
def noteArrival (e : LinkEnd) (q n : Nat) : LinkEnd :=
  let r := rxOf e q
  let gap := (gapNums r n).filter fun m => !settledRx r m
  let higher := match r.highest with | some x => decide (0 < diff16 n x) | none => true
  let e1 := gap.foldl (fun x m => noteEvent x .loss q m) e
  if higher then setRx e1 q { r with highest := some n } else e1

/-- Is a number below n unsettled (R247)? -/
def gapBefore (r : RxSpace) (n : Nat) : Bool := decide (0 ≤ diff16 n (settleNum r n).ack)

def insertHeld (h : Nat × Nat) : List (Nat × Nat) → List (Nat × Nat)
  | [] => [h]
  | x :: t => if diff16 h.1 x.1 < 0 then h :: x :: t else x :: insertHeld h t

/-- Queue a frame that has waited for its order: a multicast frame is replicated by the record in place now (R135). -/
def queueHeld (s : State) (fid : Nat) : State :=
  match frameOf s fid with
  | none => s
  | some f =>
    if !(f.ffh.mc && f.dests.isEmpty) then queueFrame s fid
    else
      let l := groupLook (replica s f.inHalf) f.part (bitsOf f.ffh.dst 15 0)
      let s1 := parityHits s f.inHalf l.bads
      match l.hit with
      | none => raise (releaseRef s1 fid) .mcNoGroup f.inPort (recFrame f.ffh)
      | some r =>
        let g := groupCopies s1 f.ffh f.inPort r
        let s2 := g.2.foldl (fun t x => raise t x.1 x.2 (recFrame f.ffh)) s1
        if g.1.isEmpty then releaseRef s2 fid
        else queueFrame (setRefs (setDests s2 fid g.1) fid g.1.length) fid

/-- Queue the held frames of a space that no unsettled number precedes, in SEQ order (R247). -/
def releaseHeldN : Nat → State → Nat → Nat → State
  | 0, s, _, _ => s
  | fuel + 1, s, l, q =>
    let e := endOf s l
    let r := rxOf e q
    match r.held with
    | [] => s
    | h :: t =>
      if diff16 h.1 r.ack < 0 then releaseHeldN fuel (queueHeld (setEnd s l (setRx e q { r with held := t })) h.2) l q else s

def releaseHeld (s : State) (l q : Nat) : State := releaseHeldN (rxOf (endOf s l) q).held.length s l q

/-- Settle a received number of a space and queue what it releases (R245, R247). -/
def settleRx (s : State) (l q n : Nat) : State :=
  let e := endOf s l
  releaseHeld (setEnd s l (noteAck (setRx e q (settleNum (rxOf e q) n)) q)) l q

/-- A frame admitted under a number waits for the numbers before it. Spaces 14 and 15 are never held (R247). -/
def holdRx (s : State) (l q n fid : Nat) : State :=
  if 14 ≤ q then queueFrame s fid
  else
    let e := endOf s l
    let r := rxOf e q
    setEnd s l (setRx e q { r with held := insertHeld (n, fid) r.held })

/-- An admitted frame: settled, and queued once every number before it is settled. -/
def admitRx (s : State) (l q n fid : Nat) : State := settleRx (holdRx s l q n fid) l q n

/-! Settling and abandoning sent frames (R245, R248) -/

/-- Unsettled frames of a link. -/
def unsettled (e : LinkEnd) : Nat := (e.tx.map fun x => x.2.open_.length).foldl (· + ·) 0

/-- Unsettled frames beyond what each space is guaranteed. -/
def unsettledAbove (e : LinkEnd) (g : Nat) : Nat := (e.tx.map fun x => x.2.open_.length - g).foldl (· + ·) 0

/-- Is the window open to a first transmission of a space (R244, R258)? -/
def windowOpen (s : State) (l q : Nat) : Bool :=
  let e := endOf s l
  if l < vlinkBase then
    decide ((txOf e q).open_.length < 64) || decide (unsettledAbove e 64 + 1024 < 4096 * activeLanes s l)
  else decide ((txOf e q).open_.length < 32) || decide (unsettledAbove e 32 + 512 < 1024)

/-- A frame's hold ends on a link: its reference is released (R18, R70). A departed TC7 interval goes with it. -/
def releaseHold (s : State) (fid : Nat) : State := releaseRef s fid

/-- Remember the acknowledgment delay of a virtual link's frame: RTO is the largest of the last 64 plus the margin
(R258). -/
def noteDelay (s : State) (l : Nat) (r : TxRec) : State :=
  if l < vlinkBase then s
  else
    match tfind s.lk.vlinks (l - vlinkBase) with
    | none => s
    | some v =>
      let ds := (v.ackDelays ++ [nsOfTicks (s.raw - r.firstTx)]).drop ((v.ackDelays.length + 1) - 64)
      let v2 := { v with ackDelays := ds, rtoNs := ds.foldl max 0 + fld s .RETRY_MARGIN_NS }
      { s with lk := { s.lk with vlinks := tins s.lk.vlinks (l - vlinkBase) v2 } }

/-- Note the last acknowledgment of a link: a down-port in sink discard leaves it (R74). -/
def noteSinkAck (s : State) (l : Nat) : State :=
  let e := endOf s l
  setEnd { s with haw := { s.haw with sinkFrom := tdel s.haw.sinkFrom (linkPort s l) } } l { e with lastAckAt := s.raw }

/-- ACK = a for a space: every number below a is settled (R245). -/
def ackTx (s : State) (l q a : Nat) : State :=
  let e := endOf s l
  let t := txOf e q
  let done := t.open_.filter fun r => decide (diff16 r.seq a < 0)
  let e1 := setTx e q { t with open_ := t.open_.filter (fun r => !decide (diff16 r.seq a < 0))
                               skips := t.skips.filter (fun n => !decide (diff16 n a < 0)) }
  let s0 := setEnd s l e1
  let s1 := setEnd s0 l { e1 with blocked := e1.blocked.filter fun i => !windowOpen s0 l i }
  if done.isEmpty then s1
  else done.foldl (fun x r => releaseHold (noteDelay x l r) r.fid) (noteSinkAck s1 l)

/-- Find a sent frame. -/
def findTx (s : State) (l q n : Nat) : Option TxRec := (txOf (endOf s l) q).open_.find? fun r => r.seq == n

/-- Change a sent frame's record. -/
def modTx (s : State) (l q n : Nat) (g : TxRec → TxRec) : State :=
  let e := endOf s l
  let t := txOf e q
  setEnd s l (setTx e q { t with open_ := t.open_.map fun r => if r.seq == n then g r else r })

/-- Abandon a sent number: SKIP is announced until ACK passes it (R248). The hold is the caller's to release. -/
def skipTx (s : State) (l q n : Nat) : State :=
  let e := endOf s l
  let t := txOf e q
  setEnd s l (noteEvent (setTx e q { t with open_ := t.open_.filter (fun r => r.seq != n)
                                            skips := if t.skips.contains n then t.skips else t.skips ++ [n] }) .skip q n)

/-- SKIP received: settle the number without admitting anything (R248, R251). -/
def skipRx (s : State) (l q n : Nat) : State :=
  if settledRx (rxOf (endOf s l) q) n then s
  else settleRx (raise s .lrSkip (linkPort s l)) l q n

/-! A link going down (R241, R258) -/

/-- The frames a link has sent and not settled: discarded, their holds released (R241). -/
def discardSent (s : State) (l : Nat) : State :=
  let e := endOf s l
  let recs := e.tx.flatMap fun t => t.2.open_
  recs.foldl (fun x r => raise (releaseHold x r.fid) .lrLinkDownDrop (linkPort s l)) (setEnd s l { e with tx := [] })

/-- The unsettled numbers below the highest received: the gaps abandoned (R241). -/
def gapCount (r : RxSpace) : Nat :=
  match r.highest with
  | some h => ((diff16 h r.ack + 1) - (r.above.length : Int)).toNat
  | none => 0

/-- Queue every frame held for order at once and abandon the gaps (R241). -/
def abandonGaps (s : State) (l : Nat) : State :=
  let e := endOf s l
  e.rx.foldl (fun t x =>
    let t1 := raiseN t .lrGapAbandon (linkPort s l) (gapCount x.2)
    x.2.held.foldl (fun y h => queueHeld y h.2) t1) (setEnd s l { e with rx := [] })

/-- Destroy a link's keys (R341). -/
def dropKeys (s : State) (l : Nat) : State := { s with holly := { s.holly with links := tdel s.holly.links l } }

/-- The retry state of a link at its start: every space at zero, nothing held (Table 11.3 step 5, R258). The count of
replays is kept (LK_REPLAYS counts since reset). Log 119 (DEDUCED). -/
def freshEnd (s : State) (l : Nat) : State := setEnd s l { replays := (endOf s l).replays }

/-- A TC7 departure that cannot leave (R99): its frame is discarded; the number of a replay is abandoned by SKIP (R248). A replay
whose number its link has settled or given up is only forgotten. -/
def dropDeparture (s : State) (p : Nat) (d : Departure) : State :=
  let b := bxPort s p
  let s1 := setBx s p { b with deps := b.deps.filter fun x => x != d }
  match d.replay with
  | none => raise (releaseRef s1 d.fid) .tc7DepartMiss p
  | some n =>
    match findTx s1 d.link 14 n with
    | some _ => raise (releaseHold (skipTx s1 d.link 14 n) d.fid) .tc7DepartMiss p
    | none => s1

/-- The spares that carry lanes of a port are idle again: the port trains on its own lanes, and its spare with them (R238, R254).
Log 173 (DEDUCED). -/
def freeSpares (s : State) (p : Nat) : State :=
  let others := fun (t : Table Nat) => t.filter fun e => laneHolder s e.2 != p
  { s with lk := { s.lk with spares := others s.lk.spares, spareAsked := others s.lk.spareAsked } }

/-- A link at its end (R241, R341): sent frames discarded, held frames queued, spaces zeroed, keys destroyed. -/
def emptyLink (s : State) (p : Nat) : State := dropKeys (freshEnd (abandonGaps (discardSent s p) p) p) p

/-- A training attempt that ends in its key exchange: its frames are discarded, those queued routed again. -/
def stopKeying (s : State) (p : Nat) : State :=
  if (portLink s p).phase == .training && (portLink s p).step == .keying then
    let s1 := emptyLink s p
    rerouteAll (setPortLink s1 p { portLink s1 p with step := .signal }) p
  else s

/-- A port goes down (R241): its lanes' migrations end (R272), sent frames discarded, held frames queued, queued frames routed again, its TC7 departures
discarded (R99), `LINK_DOWN` raised, keys destroyed. Training starts again while the port is enabled. -/
def linkDown (s : State) (p : Nat) : State :=
  if !portUp s p then s
  else
    let s2 := freeSpares (emptyLink (fenceLanes s p) p) p
    let l := portLink s2 p
    let phase := if portEnabled s2 p && !portFenced s2 p then LinkPhase.training else LinkPhase.down
    let s2b := { s2 with haw := { s2.haw with waitFrom := tins s2.haw.waitFrom p s2.raw, cab := tset .discovery s2.haw.cab p (downCab s2 p) } }
    let s3 := setPortLink s2b p { l with phase := phase, step := .signal, active := 0, laneOk := 0, refAt := s2.raw }
    let s4 := rerouteAll s3 p
    let s5 := dropTc7Queue ((bxPort s4 p).deps.foldl (fun t d => dropDeparture t p d) s4) p
    raise s5 .linkDown p

/-- A virtual link is released (R258): its unsettled frames are discarded, its held frames queued. -/
def vlinkDown (s : State) (v : Nat) : State :=
  let l := vlinkBase + v
  let s1 := dropKeys (abandonGaps (discardSent s l) l) l
  { s1 with lk := { s1.lk with ends := tdel s1.lk.ends l, vlinks := tdel s1.lk.vlinks v } }

/-- The replay limit is passed (R250, R258): the link goes down, or the virtual link is released. -/
def replayLimit (s : State) (l : Nat) : State :=
  let s1 := raise s .lrReplayLimit (linkPort s l)
  if l < vlinkBase then linkDown s1 l else vlinkDown s1 (l - vlinkBase)

end Sys2Proof.Machine
end

