-- ==== Sys2Proof/Machine/Ingress.lean ====
section
/-!
DEFINITION. Machine/Ingress.lean: an arriving fabric-mode frame or FFH-over-UDP datagram from the sequence check to its
queue (Tables 1.5, 2.7, R41, R61, R62, R96), sweep markers and fenced frames at arrival (R119 to R123), and the echo
and the throttle (R125, R126).
-/

namespace Sys2Proof.Machine

open Sys2Proof

/-! Table 2.7 -/

/-- Is a FMT code one of Table 7.1 (R155)? -/
def fmtDefined (f : Nat) : Bool := decide (f ≤ 9) || f == 0xE || f == 0xF

/-- Is a class allowed for a kind (Table 2.4)? A marker has the class of its flow. -/
def tcAllowed (kind tc : Nat) : Bool :=
  match kind with
  | 0 => tc != 6
  | 1 | 2 | 3 | 4 | 5 => tc == 5 || tc == 7
  | 6 => tc == 5 || tc == 6
  | 8 => true
  | 9 | 10 | 11 | 12 | 13 => tc == 6
  | _ => false

/-- An address with down-port field 0 and a non-zero endpoint field is reserved (R42). -/
def addrReserved (a : Nat) : Bool := addrDown a == 0 && addrEnd a != 0

/-- Is a header well-formed (R36, R42, R43, R45)? `len` is the received payload length. A marker whose PLEN is not 16 is
malformed. Log 166 (DESIGN CHOICE). -/
def wellFormed (h : Ffh) (len : Nat) : Bool :=
  tcAllowed h.kind h.tc && (h.sweep == (h.kind == 8)) && !(h.sweep && h.fence) && h.rsv == 0 && h.plen == len &&
  decide (h.plen ≤ 8160) && (!(decide (1 ≤ h.kind) && decide (h.kind ≤ 5)) || fmtDefined h.fmt) && h.part != 0xFFF &&
  !addrReserved h.src &&
  (if h.mc then bitsOf h.dst 28 16 == 0 else !addrReserved h.dst) &&
  (!(decide (9 ≤ h.kind) && decide (h.kind ≤ 13)) || bitsOf h.dst 14 0 == 0) &&
  (h.kind != 8 || h.plen == 16)

/-- The source check on a down-port (R44): SRC's field is looked up in the map of the port's half. -/
def sourceOk (s : State) (p src : Nat) : Bool :=
  (fieldOfPort s p).isNone ||
    (addrPlane src == selfPlane s && addrSpine src == selfSpine s && (dportLook s (halfOf p) (addrDown src)).hit == some p)

/-- The parity failures that the source check of a frame finds (R149). -/
def sourceBads (s : State) (p : Nat) (h : Ffh) (len : Nat) : List (Nat × Nat) :=
  if (fieldOfPort s p).isNone || h.ver != 1 || !wellFormed h len || addrPlane h.dst != selfPlane s then []
  else (dportLook s (halfOf p) (addrDown h.src)).bads

/-- Does the arriving port admit the frame's partition (check 7)? -/
def ingressAdmits (s : State) (p : Nat) (h : Ffh) : Bool := portAdmits s p h.part h.kind

/-- The first failing check of checks 2 to 8 of Table 2.7. -/
def headerCheck (s : State) (p : Nat) (h : Ffh) (len : Nat) : Option Ev :=
  if h.ver != 1 then some .ffhBadVer
  else if !wellFormed h len then some .ffhMalformed
  else if addrPlane h.dst != selfPlane s then some .ffhWrongPlane
  else if !sourceOk s p h.src then some .ffhSrcSpoof
  else if portFenced s p || s.haw.partFence.contains h.part then some .ffhFenced
  else if !ingressAdmits s p h then some .ffhBadPart
  else if !epochOk s h.epoch then some .ffhStaleEpoch
  else none

/-! Echo and throttle (R125, R126). Throttles are keyed 8 × port + class. -/

def thrOf (s : State) (p tc : Nat) : Throttle := tget {} s.sh.thr (8 * p + tc)

def setThr (s : State) (p tc : Nat) (t : Throttle) : State :=
  { s with sh := { s.sh with thr := tset {} s.sh.thr (8 * p + tc) t } }

/-- Tokens of a throttle now, in 1/8,000 byte: R/65,536 of the port's rate of 25 bytes per ns and lane. -/
def thrLevel (s : State) (p : Nat) (t : Throttle) : Nat :=
  min (9236 * 8000) (t.tokens + nsOfTicks (s.raw - t.tokensAt) * t.r * activeLanes s p * 200000 / 65536)

/-- A throttle without an increase of this cycle, which an echo of the same cycle cancels (R126). -/
def undoIncrease (s : State) (t : Throttle) : Throttle :=
  match t.lastInc with
  | some (at_, r) => if at_ = s.raw then { t with r := r, lastInc := none } else t
  | none => t

/-- An echo reaches this spine for an endpoint behind a port (R126): R falls, at most once per ECE_HOLD_NS, and the
increase timer restarts. -/
def applyEcho (s : State) (p tc : Nat) : State :=
  let t := undoIncrease s (thrOf s p tc)
  let hold := ticksOfNs (fld s .ECE_HOLD_NS)
  let ready := match t.lastDec with | some x => elapsed s x hold | none => true
  if ready then
    let t1 := { t with tokens := if t.r = 65536 then 9236 * 8000 else thrLevel s p t, tokensAt := s.raw }
    setThr s p tc { t1 with r := max (fld s .R_MIN) (t.r - t.r * fld s .MD / 256), lastDec := some s.raw, aiFrom := s.raw }
  else setThr s p tc { t with aiFrom := s.raw }

/-- Does the throttle of a down-port and class admit a frame (R126)? The state with its bytes taken. Log 54 (DEDUCED). -/
def throttleTake (s : State) (p tc wire : Nat) : Option State :=
  let t := thrOf s p tc
  if t.r = 65536 || !isDownPort s p then some s
  else
    let have_ := thrLevel s p t
    if wire * 8000 ≤ have_ then some (setThr s p tc { t with tokens := have_ - wire * 8000, tokensAt := s.raw }) else none

/-- A frame from a down-port takes the echo that waits for it (R125): its ECE bit, and the table without the entry. -/
def takeEcho (s : State) (p : Nat) (h : Ffh) : Bool × State :=
  let half := halfOf p
  let l := tget [] s.sh.echo half
  match findIdx (fun (e : EchoEnt) => e.port == p && e.src == h.dst && e.tc == h.tc) 0 l with
  | some (i, _) => (true, { s with sh := { s.sh with echo := tset [] s.sh.echo half (l.eraseIdx i) } })
  | none => (false, s)

/-! What the spine's own units say of a frame they take -/

/-- What Tilth, Kaolin, Marl or Heath say of a frame addressed to the spine before it is admitted. -/
inductive Verdict where
  | accept
  | refuse (e : Ev) (scope : Nat)
  | withhold (e : Ev) (scope : Nat)
  | discard (e : Ev) (scope : Nat)
  | consume

/-- The units as the ingress stages meet them: whether they take a frame that is not addressed to the spine (R220,
R222), their verdict on one they take, whether they refuse one that passes, what they note of it, and what Hawthorn takes from a trapped LLDP frame. -/
structure Units where
  intercepts : State → Nat → Ffh → Bool
  judge : State → StoredFrame → Verdict × State
  passes : State → Nat → Ffh → Option (Ev × Nat) × State
  note : State → StoredFrame → State
  lldp : State → Nat → List Byte → State

/-- Does the spine consume the frame (R43, R125, R199, R202, R222, R314)? A `TIME` frame of a port that leads to a spine or
to an endpoint is its own whatever its DST (R294). Log 166 (DESIGN CHOICE). -/
def consumes (s : State) (p : Nat) (h : Ffh) (fromEnd : Bool) : Bool :=
  let here := addrSpine h.dst == selfSpine s
  let own := here && bitsOf h.dst 14 0 == 0
  if h.mc then false
  else
    match h.kind with
    | 9 | 11 | 13 => own
    | 10 => own || isSpinePort s p || isDownPort s p
    | 12 => true
    | 1 | 3 | 6 => own
    | 4 => own && fromEnd && bitsOf h.oper 11 3 == 0
    | 5 => here
    | 0 => here && h.plen == 0 && h.ece
    | _ => false

/-! Sweeps at arrival -/

/-- Sweep slots in use in a half (R122): held copies by sweep, and the sweeps collected or waited for here. -/
def sweepSlots (s : State) (half : Nat) : Nat :=
  let groups := (s.sh.heldCopies.filter fun c => c.2.2 == half).map (fun c => c.2.1)
  groups.eraseDups.length + tcount (fun _ (w : Sweep) => w.half == half && !(w.done && w.fenced.isEmpty)) s.sh.sweeps

def sweepRoom (s : State) (half : Nat) : Bool := decide (sweepSlots s half < 4096)

/-- Fabric time as a 64-bit count, for sweep timers in RAW ticks. -/
def sweepTmo (s : State) : Nat := ticksOfUs (fld s .SWEEP_TMO_US)

/-- The path-class set P of a marker at its source spine (R119). -/
def sweepClasses (s : State) (h : Ffh) : List Nat :=
  let t := addrSpine h.dst
  let tabs := [s.sh.cur, s.sh.pend, s.sh.prev.getD none]
  let masks := tabs.map fun x =>
    let e := entryOf x t
    entryFirst e ||| (if bitAt (fld s .NONMIN) h.tc then entryNm e else 0)
  let low := match nextDim s t with | some d => 2 ^ d | none => 0
  onesOf 14 (masks.foldl (· ||| ·) low)

/-- A marker payload (Table 2.6). -/
def markerPayload (total index mask : Nat) : List Byte :=
  beBytes 1 total ++ beBytes 1 index ++ beBytes 2 mask ++ zeroBytes 12

/-- A copy reaches its destination spine (R121): its sweep has a record, or takes a slot. None when no slot is free. -/
def openSweep (s : State) (half : Nat) (h : Ffh) : Option State :=
  let k := keyOfFrame h h.sweepId
  match tfind s.sh.sweeps k with
  | some _ => some s
  | none => if sweepRoom s half then some (setSweep s k { half := half, started := s.raw }) else none

/-- Have all copies of a sweep arrived, and every frame of the key admitted before the last been acknowledged (R121)? Frames
of a later sweep number are none of them. -/
def sweepReady (s : State) (k : Nat) (w : Sweep) : Bool :=
  w.done || (decide (0 < w.total) && w.copies.length == w.total && w.timedOut.isNone &&
    s.loam.frames.all fun e =>
      !(decide (e.1 < w.lastFid) && e.2.mode == .fabric && !e.2.consumed &&
        keyOfFrame e.2.ffh 0 / 65536 == k / 65536 && decide (diff16 e.2.ffh.sweepId (k % 65536) ≤ 0)))

/-- Does a frame wait for a gap of its link (R247)? -/
def heldForOrder (s : State) (fid : Nat) : Bool :=
  match frameOf s fid with
  | some f => (endOf s f.rxLink).rx.any fun x => x.2.held.any (·.2 == fid)
  | none => false

/-- A sweep that is complete releases its fenced frames, in sweep order (R121): those that wait for a gap follow when it is
settled (R247). One that holds none yet is kept as done. -/
def releaseSweep (s : State) (k : Nat) : State :=
  match tfind s.sh.sweeps k with
  | none => s
  | some w =>
    if w.timedOut.isSome || !sweepReady s k w || earlierHeld s k then s
    else
      let held := w.fenced.filter (heldForOrder s)
      if held.isEmpty && !w.fenced.isEmpty then w.fenced.foldl queueFrame (dropSweep s k)
      else (w.fenced.filter fun f => !heldForOrder s f).foldl queueFrame (setSweep s k { w with done := true, fenced := held })

/-! Outcomes of a received frame -/

/-- The frame as a trace sees it at ingress. -/
def traceIn (s : State) (refused : Bool) (p lead : Nat) (h : Ffh) (payload : List Byte) : State :=
  traceFrame s (ffhView false refused p (stampBefore s lead / 65536) h payload)

/-- A received frame with what the stages know of it. -/
structure RxCtx where
  link : Nat
  port : Nat
  seq : Nat
  lead : Nat
  wire : Nat
  h : Ffh
  payload : List Byte

/-- Refuse a frame (R41): counted, reported for information, settled. -/
def refuseRx (s : State) (c : RxCtx) (e : Ev) (scope : Nat) : State :=
  let s1 := traceIn (raise s e scope (recFrame c.h)) true c.port c.lead c.h c.payload
  let q := spaceOf c.h
  settleRx (setEnd s1 c.link (noteEvent (endOf s1 c.link) .refused q c.seq)) c.link q c.seq

/-- Withhold a frame (R62): counted, WITHHELD raised, not settled. -/
def withholdRx (s : State) (c : RxCtx) (e : Ev) (scope : Nat) : State :=
  let s1 := traceIn (raise s e scope (recFrame c.h)) true c.port c.lead c.h c.payload
  setEnd s1 c.link (noteEvent (endOf s1 c.link) .withheld (spaceOf c.h) c.seq)

/-- The frame as Loam would hold it. -/
def frameOfRx (s : State) (c : RxCtx) (pool : Pool) : StoredFrame :=
  { mode := .fabric, ffh := c.h, data := c.payload, tc := c.h.tc, pool := pool, part := c.h.part, inPort := c.port
    inHalf := halfOf c.port, arrivedAt := s.raw, inDim := dimCode s c.port, rxLink := c.link
    rxStamp := stampBefore s c.lead }

/-- Cells of a received fabric frame (R53). -/
def cellsOfRx (c : RxCtx) : Nat := cellsFor (32 + c.h.plen)

/-- What every admitted frame does: the quiet interval (R111), matchers (R391) and trace. -/
def noteAdmitted (s : State) (c : RxCtx) : State :=
  traceIn (matchLayers (noteOld s c.h.epoch) c.h.part c.h.layer c.h.oper (32 + c.h.plen)) false c.port c.lead c.h c.payload

/-- Loam's answer to a refusal or a withhold of Table 3.6. Log 52 (DEDUCED). -/
def loamTurnsAway (s : State) (c : RxCtx) (a : Admission) : State :=
  match a with
  | .refuse (some eg) => refuseRx (raise s .tc7ResvMiss eg (recFrame c.h)) c .loamDrop c.port
  | .refuse none => refuseRx s c .loamDrop c.port
  | _ => withholdRx s c .loamWithhold c.port

/-- Admit a frame that the spine itself consumes. -/
def admitOwn (s : State) (c : RxCtx) (units : Units) : State :=
  let f := { frameOfRx s c .shared with consumed := true }
  match units.judge s f with
  | (.refuse e sc, s1) => refuseRx s1 c e sc
  | (.withhold e sc, s1) => withholdRx s1 c e sc
  | (.discard e sc, s1) =>
    settleRx (raise (noteAdmitted s1 c) e sc (recFrame c.h)) c.link (spaceOf c.h) c.seq
  | (.consume, s1) => settleRx (noteAdmitted s1 c) c.link (spaceOf c.h) c.seq
  | (.accept, s1) =>
    match admission s1 c.h.tc c.h.esc (cellsOfRx c) c.port none c.h.part with
    | .accept pool =>
      let r := storeFrame s1 { f with pool := pool } (cellsOfRx c) 1
      admitRx (noteAdmitted r.2 c) c.link (spaceOf c.h) c.seq r.1
    | a => loamTurnsAway s1 c a

/-- Admit a TC7 frame toward its copies (R96): each unfenced copy is judged; none fails, or the frame is refused on the
lowest-numbered failing copy. Log 51 (DESIGN CHOICE). -/
def admitTc7 (s : State) (c : RxCtx) (units : Units) (copies : List (Nat × QEnt)) : State :=
  if tc7TooLong c.wire (activeLanes s c.port) then refuseRx s c .tc7TooLong c.port
  else if copies.isEmpty then settleRx (noteAdmitted s c) c.link (spaceOf c.h) c.seq
  else
    let n := cellsOfRx c
    let tin := inU s c.lead
    let f := frameOfRx s c .shared
    let judged := copies.map fun d =>
      let p := d.1 / 16
      (p, tc7Judge s p c.port tin (txTime s p (wireBytes s p f)) n)
    match minBy (·.1) (judged.filter fun j => j.2.isSome) with
    | some (p, some .window) => refuseRx s c .tc7WindowMiss p
    | some (p, some .overlap) => refuseRx s c .tc7Overlap p
    | some (p, _) => refuseRx (raise s .tc7ResvMiss p (recFrame c.h)) c .loamDrop c.port
    | none =>
      let charge := (minBy id (copies.map fun d => d.1 / 16)).getD 0
      let r := storeFrame s { f with pool := .tc7 charge } n copies.length
      let s1 := copies.foldl (fun t d =>
        let p := d.1 / 16
        let a := tin + tc7Delay
        wakeDomain (addDep t p { fid := r.1, start := a, stop := a + txTime t p (wireBytes t p f), owner := c.port
                                 viaDim := d.2.viaDim }) (pipeDomain p)) r.2
      settleRx (units.note (noteAdmitted s1 c) f) c.link (spaceOf c.h) c.seq

/-- Admit a frame toward its queues. -/
def admitTo (s : State) (c : RxCtx) (units : Units) (copies : List (Nat × QEnt)) : State :=
  if c.h.tc == 7 then admitTc7 s c units copies
  else
    let eg := match copies with | d :: _ => some (d.1 / 16) | [] => none
    match admission s c.h.tc c.h.esc (cellsOfRx c) c.port eg c.h.part with
    | .accept pool =>
      if copies.isEmpty then settleRx (noteAdmitted s c) c.link (spaceOf c.h) c.seq
      else
        let f := { frameOfRx s c pool with dests := copies }
        let r := storeFrame s f (cellsOfRx c) copies.length
        admitRx (units.note (noteAdmitted r.2 c) f) c.link (spaceOf c.h) c.seq r.1
    | a => loamTurnsAway s c a

/-- The places of the copies of a marker (R119): index, dimension, queue. A port above ESC_THRESH sends its copy on escape
(R115). -/
def copyPlaces (s : State) (h : Ffh) (ds : List Nat) : List (Nat × Nat × Option Nat) :=
  ((List.range ds.length).zip ds).map fun x =>
    (x.1, x.2, (hashPort s h x.2).map fun p => qKey p (2 * h.tc + b2n (overThresh s p h.tc)))

/-- Loam's answer for one of `n` copies of a marker, one cell each: those of TC7 and of escape queues charge pools of their own
ports. -/
def copyAdmitted (s : State) (c : RxCtx) (n u : Nat) : Admission :=
  let esc := u % 2 == 1
  admission s c.h.tc esc (if c.h.tc == 7 || esc then 1 else n) c.port (some (u / 16)) c.h.part

/-- Loam's answer for every copy of a marker: the first that is turned away decides. -/
def copiesAdmitted (s : State) (c : RxCtx) (us : List Nat) : Admission :=
  us.foldl (fun a u => match a with | .accept _ => copyAdmitted s c us.length u | o => o) (.accept .shared)

/-- Store one copy of a marker, to be queued in its turn (R247); one that finds no port, or a port that does not admit it, is
lost. -/
def issueCopy (s0 : State) (c : RxCtx) (n total grp : Nat) (t : State) (x : Nat × Nat × Option Nat) : State :=
  match x.2.2 with
  | none => raise t .routeNoPort c.port (recFrame c.h)
  | some u =>
    if !portAdmits t (u / 16) c.h.part c.h.kind then raise t .partEgressDeny (u / 16) (recFrame c.h)
    else
      let pool := match copyAdmitted s0 c n u with | .accept q => q | _ => .shared
      let f := { frameOfRx t c pool with data := markerPayload total x.1 (2 ^ x.2.1)
                                         dests := [(u, { ent0 with viaDim := some x.2.1 })] }
      let r := storeFrame t f 1 1
      holdRx { r.2 with sh := { r.2.sh with heldCopies := r.2.sh.heldCopies ++ [(r.1, grp, halfOf c.port)] } }
        c.link (spaceOf c.h) c.seq r.1

/-- A frame that an exception delivers to Heath, under the bucket of its port (R133). -/
def trapRx (s : State) (c : RxCtx) : State :=
  match trapToHeath s c.port (ffhBytes c.h ++ c.payload) with
  | some s1 => settleRx (noteAdmitted s1 c) c.link (spaceOf c.h) c.seq
  | none => refuseRx s c .fexcTrapLimit c.port

/-- Issue the copies of an endpoint's marker at its source spine (R119): one per dimension of P. An exception's refusal and
delivery apply to it (R133), and so do R117 and R311. -/
def issueCopies (s : State) (c : RxCtx) : State :=
  let half := halfOf c.port
  let l := fexcLook (replica s half) c.h.part c.h.dst c.h.tc
  let s0 := parityHits s half l.bads
  let act := match l.hit with | some r => bitsOf r 31 30 | none => 0
  let places := copyPlaces s0 c.h (sweepClasses s0 c.h)
  let us := places.filterMap (·.2.2)
  if act == 1 then refuseRx s0 c .fexcDrop c.port
  else if act == 2 then trapRx s0 c
  else if !entryV (entryOf (tableFor s0 c.h.epoch) (addrSpine c.h.dst)) then refuseRx s0 c .routeUnreach c.port
  else if fld s0 .HOP_LIMIT ≤ c.h.hops then refuseRx s0 c .routeHopLimit c.port
  else if dstFenced s0 c.h.dst then refuseRx s0 c .fencedDst c.port
  else if !sweepRoom s0 half then refuseRx s0 c .sweepNoSlot c.port
  else
    match copiesAdmitted s0 c us with
    | .accept _ =>
      let s1 := places.foldl (issueCopy s0 c us.length places.length s0.loam.nextFid) s0
      settleRx (noteAdmitted s1 c) c.link (spaceOf c.h) c.seq
    | a => loamTurnsAway s0 c a

/-- A sweep marker (R119 to R123). -/
def markerRx (s : State) (c : RxCtx) : State :=
  let half := halfOf c.port
  let q := spaceOf c.h
  let here := addrSpine c.h.dst == selfSpine s
  if c.h.mc then settleRx (raise s .sweepMc c.port (recFrame c.h)) c.link q c.seq
  else if here && (fieldOfPort s c.port).isSome then
    let k := keyOfFrame c.h c.h.sweepId
    match tfind s.sh.sweeps k with
    | some w =>
      settleRx (noteAdmitted (if w.timedOut.isSome then s else setSweep s k { w with done := true }) c) c.link q c.seq
    | none =>
      if sweepRoom s half then
        settleRx (noteAdmitted (setSweep s k { half := half, started := s.raw, done := true }) c) c.link q c.seq
      else refuseRx s c .sweepNoSlot c.port
  else if here then
    match openSweep s half c.h with
    | none => refuseRx s c .sweepNoSlot c.port
    | some s1 =>
      if !gapBefore (rxOf (endOf s1 c.link) q) c.seq then
        settleRx (collectCopy (noteAdmitted s1 c) c.h c.payload) c.link q c.seq
      else
        match admission s1 c.h.tc c.h.esc 1 c.port none c.h.part with
        | .accept pool =>
          let r := storeFrame s1 (frameOfRx s1 c pool) (cellsOfRx c) 1
          admitRx (noteAdmitted r.2 c) c.link q c.seq r.1
        | o => loamTurnsAway s1 c o
  else if (fieldOfPort s c.port).isSome then issueCopies s c
  else
    let a : Arrival := { port := c.port, slice := sliceOf c.port, half := half, esc := c.h.esc, dim := dimCode s c.port }
    match routeAway s c.h a (c.h.esc && decide (a.dim ≤ 13)) false with
    | (.toQueue u e, s1) =>
      match egressCheck s1 c.h a (.toQueue u e) with
      | .refuse ev sc => refuseRx s1 c ev sc
      | _ =>
        if !sweepRoom s1 half then refuseRx s1 c .sweepNoSlot c.port
        else
          match admission s1 c.h.tc c.h.esc 1 c.port (some (u / 16)) c.h.part with
          | .accept pool =>
            let fid := s1.loam.nextFid
            let r := storeFrame s1 { frameOfRx s1 c pool with dests := [(u, e)] } (cellsOfRx c) 1
            let s2 := { r.2 with sh := { r.2.sh with heldCopies := r.2.sh.heldCopies ++ [(fid, fid, half)] } }
            admitRx (noteAdmitted s2 c) c.link q c.seq fid
          | o => loamTurnsAway s1 c o
    | (.refuse ev sc, s1) => refuseRx s1 c ev sc
    | (.trap, s1) => trapRx s1 c

/-- A fenced frame at its destination spine (R121, R122): held until the sweep before it is complete. Log 73 (DEDUCED). -/
def fencedRx (s : State) (c : RxCtx) (u : Nat) (e : QEnt) : State :=
  let half := halfOf c.port
  let k := keyOfFrame c.h (c.h.sweepId + 65535)
  let w := (tfind s.sh.sweeps k).getD { half := half, started := s.raw }
  if w.timedOut.isSome then settleRx s c.link (spaceOf c.h) c.seq
  else if (tfind s.sh.sweeps k).isNone && !sweepRoom s half then refuseRx s c .sweepNoSlot c.port
  else
    match admission s c.h.tc c.h.esc (cellsOfRx c) c.port (some (u / 16)) c.h.part with
    | .accept pool =>
      let r := storeFrame s { frameOfRx s c pool with dests := [(u, e)] } (cellsOfRx c) 1
      let s1 := noteAdmitted (setSweep r.2 k { w with fenced := w.fenced ++ [r.1] }) c
      releaseSweep (admitRx s1 c.link (spaceOf c.h) c.seq r.1) k
    | o => loamTurnsAway s c o

/-- A unicast frame for an endpoint: routed, checked, admitted. An echo for an endpoint here acts first (R125, R126). -/
def unicastRx (s : State) (c : RxCtx) (units : Units) : State :=
  let a : Arrival := { port := c.port, slice := sliceOf c.port, half := halfOf c.port, esc := c.h.esc
                       dim := dimCode s c.port }
  let out := routeUnicast s c.h a
  match egressCheck out.2 c.h a out.1 with
  | .refuse e sc => refuseRx out.2 c e sc
  | .trap => trapRx out.2 c
  | .toQueue u e =>
    let here := addrSpine c.h.dst == selfSpine s
    let s1 := if here && c.h.ece then applyEcho out.2 (u / 16) c.h.tc else out.2
    if here && c.h.fence then fencedRx s1 c u e else admitTo s1 c units [(u, e)]

/-- Admit a multicast frame that waits for its order: it is replicated when it is queued (R135, R247). -/
def admitLater (s : State) (c : RxCtx) (units : Units) (first : Nat) : State :=
  match admission s c.h.tc c.h.esc (cellsOfRx c) c.port (some first) c.h.part with
  | .accept pool =>
    let f := frameOfRx s c pool
    let r := storeFrame s f (cellsOfRx c) 1
    admitRx (units.note (noteAdmitted r.2 c) f) c.link (spaceOf c.h) c.seq r.1
  | a => loamTurnsAway s c a

/-- A multicast frame (R69, R135). -/
def multicastRx (s : State) (c : RxCtx) (units : Units) : State :=
  let half := halfOf c.port
  let l := groupLook (replica s half) c.h.part (bitsOf c.h.dst 15 0)
  let s1 := parityHits s half l.bads
  match l.hit with
  | none => refuseRx s1 c .mcNoGroup c.port
  | some r =>
    if fld s .HOP_LIMIT ≤ c.h.hops then refuseRx s1 c .routeHopLimit c.port
    else
      let g := groupCopies s1 c.h c.port r
      match g.1 with
      | d :: _ =>
        if c.h.tc != 7 && gapBefore (rxOf (endOf s1 c.link) (spaceOf c.h)) c.seq then admitLater s1 c units (d.1 / 16)
        else admitTo (g.2.foldl (fun t x => raise t x.1 x.2 (recFrame c.h)) s1) c units g.1
      | [] => admitTo (g.2.foldl (fun t x => raise t x.1 x.2 (recFrame c.h)) s1) c units []

/-- An echo acts on the port of the endpoint it is for (R125, R126). -/
def echoHere (s : State) (half dst tc : Nat) : State :=
  let l := dportLook s half (addrDown dst)
  let s1 := parityHits s half l.bads
  match l.hit with | some p => applyEcho s1 p tc | none => s1

/-- An echo frame consumed by the spine of its DST (R125). -/
def echoRx (s : State) (c : RxCtx) : State :=
  settleRx (noteAdmitted (echoHere s (halfOf c.port) c.h.dst c.h.tc) c) c.link (spaceOf c.h) c.seq

/-- Steps 3 to 6 of Table 1.5 for a frame that has passed the sequence check. -/
def stagesRx (s0 : State) (c : RxCtx) (units : Units) : State :=
  let s := parityHits s0 (halfOf c.port) (sourceBads s0 c.port c.h c.payload.length)
  match headerCheck s c.port c.h c.payload.length with
  | some e => refuseRx s c e c.port
  | none =>
    let pol := police s c.port c.h.tc (32 + c.h.plen) (stampBefore s c.lead / 65536)
    if !pol.1 then refuseRx pol.2 c .policeDrop c.port
    else
      let fromEnd := isDownPort s c.port || decide (vlinkBase ≤ c.link)
      let ec := if isDownPort s c.port then takeEcho pol.2 c.port c.h else (false, pol.2)
      let c1 := if ec.1 then { c with h := { c.h with ece := true } } else c
      match throttleTake ec.2 c.port c.h.tc c.wire with
      | none => withholdRx ec.2 c1 .throttleWithhold c.port
      | some s1 =>
        if c.h.kind == 0 && consumes s1 c.port c1.h fromEnd then echoRx s1 c1
        else if consumes s1 c.port c1.h fromEnd || units.intercepts s1 c.port c1.h then admitOwn s1 c1 units
        else if c.h.sweep then markerRx s1 c1
        else if c.h.mc then multicastRx s1 c1 units
        else
          match units.passes s1 (halfOf c.port) c1.h with
          | (some x, s2) => refuseRx s2 c1 x.1 x.2
          | (none, s2) => unicastRx s2 c1 units

/-- The link header's event at the sender (R246, R248, R342). -/
def eventRx (s : State) (l : Nat) (k : EKind) (q n seq : Nat) : State :=
  match k with
  | .loss =>
    match findTx s l q n with
    | some _ => modTx s l q n fun r => { r with replayAt := some s.raw, lossDue := true, withholds := 0 }
    | none => s
  | .withheld =>
    match findTx s l q n with
    | some _ =>
      modTx s l q n fun r =>
        { r with replayAt := some (s.raw + ticksOfNs (fld s .WITHHOLD_NS)), withholds := r.withholds + 1 }
    | none => s
  | .skip => skipRx s l q n
  | .txcMark => setKeys s l { linkKeys s l with mark := some (seq * 65536 + n) }
  | _ => s

/-- Has a frame been replayed REPLAY_MAX times for loss already (R250)? -/
def replaysSpent (s : State) (l q n : Nat) : Bool :=
  match findTx s l q n with
  | some r => decide (fld s .REPLAY_MAX ≤ r.lossReplays)
  | none => false

/-- LOSS received (R246, R250). -/
def lossRx (s : State) (l q n : Nat) : State :=
  if replaysSpent s l q n then replayLimit s l else eventRx s l .loss q n 0

/-- ACK and event of a received link header. TXC_MARK counts only where it is carried: in a control block (R242). Log 171
(DESIGN CHOICE). -/
def headerRx (s : State) (l : Nat) (h : LinkHdr) (block : Bool) : State :=
  let s1 := ackTx s l h.aq h.ack
  match h.ekind with
  | .loss => lossRx s1 l h.eq h.eseq
  | .txcMark => if block then eventRx s1 l .txcMark h.eq h.eseq h.seq else s1
  | k => eventRx s1 l k h.eq h.eseq h.seq

/-- A frame on a link from its sequence check on: HCRC, stages (Table 1.5). -/
def frameRx (s : State) (l p : Nat) (hdr : LinkHdr) (ffh payload : List Byte) (ce : Bool) (lead wire : Nat)
    (units : Units) : State :=
  let h0 := ffhParse ffh
  let h := if ce then { h0 with ecn := 3 } else h0
  let q := spaceOf h
  if settledRx (rxOf (endOf s l) q) hdr.seq then raise s .lrDup p (recFrame h)
  else
    let s1 := setEnd s l (noteArrival (endOf s l) q hdr.seq)
    if !hcrcOk ffh then
      let s2 := raise s1 .ffhCrcErr p (recFrame h)
      setEnd s2 l (noteEvent (endOf s2 l) .loss q hdr.seq)
    else
    let c : RxCtx := { link := l, port := p, seq := hdr.seq, lead := lead, wire := wire, h := h, payload := payload }
    if fld s1 .LAND_RESV < cellsFor (32 + payload.length) then raise s1 .loamLandFull p (recFrame h)
    else stagesRx s1 c units

end Sys2Proof.Machine
end

