-- ==== Sys2Proof/Machine/Ecc.lean ====
section
/-!
DEFINITION. Machine/Ecc.lean: a frame discarded with all its copies (R57, R76), and errors found at the read of a cell
or clod (R57).
-/

namespace Sys2Proof.Machine

open Sys2Proof

/-- Remove a frame's copies from every egress queue. -/
def unqueue (s : State) (fid : Nat) : State :=
  (s.loam.queues.map (·.1)).foldl (fun t u => setQueue t u ((queueOf t u).filter fun e => e.fid != fid)) s

/-- Abandon a frame's number on every link that has sent it and waits for its settlement (R248). -/
def abandonSent (s : State) (fid : Nat) : State :=
  s.lk.ends.foldl (fun t e => e.2.tx.foldl (fun t2 q => (q.2.open_.filter fun r => r.fid == fid).foldl
    (fun t3 r => skipTx t3 e.1 q.1 r.seq) t2) t) s

/-- Forget a frame wherever it waits: reception order, departures, sweeps, marker copies and the spine's own units. -/
def unwait (s : State) (fid : Nat) : State :=
  let ends := tmap (fun _ (e : LinkEnd) => { e with rx := tmap (fun _ r => { r with held := r.held.filter fun h => h.2 != fid }) e.rx }) s.lk.ends
  let ports := tmap (fun _ (b : BxPort) => { b with deps := b.deps.filter fun d => d.fid != fid }) s.bx.ports
  let sweeps := tmap (fun _ (w : Sweep) => { w with fenced := w.fenced.filter (· != fid) }) s.sh.sweeps
  { s with lk := { s.lk with ends := tfilter (fun _ e => e != {}) ends }
           bx := { s.bx with ports := tfilter (fun _ b => b != {}) ports }
           sh := { s.sh with sweeps := sweeps, heldCopies := s.sh.heldCopies.filter fun c => c.1 != fid }
           loam := { s.loam with inbox := s.loam.inbox.filter fun e => e.1 != fid } }

/-- Discard a frame with every copy of it: queues, link holds, departures and waits. -/
def discardFrame (s : State) (fid : Nat) : State := dropFrame (unwait (abandonSent (unqueue s fid) fid) fid) fid

/-- Discard a frame and those that share its cells. Log 61 (DEDUCED). -/
def discardAll (s : State) (fid : Nat) : State :=
  discardFrame (((s.loam.frames.filter fun e => e.2.shares == some fid).map (·.1)).foldl discardFrame s) fid

/-- Take one place out of a frame. -/
def forgetPlace (s : State) (fid : Nat) (x : Place) : State :=
  { s with loam := { s.loam with frames := tadj s.loam.frames fid fun f => { f with places := f.places.filter (· != x) } } }

/-- An uncorrectable cell: counted, retired until reset; a quad with more than 64 retired cells is reported (R57). -/
def retireTop (s : State) (fid c : Nat) : State :=
  match frameOf s fid with
  | none => s
  | some f =>
    let q := quadOf c
    let s1 := raise s .loamUe 0 (recStore f.part c 0)
    let s2 := forgetPlace { s1 with loam := retireCell (poolSub s1.loam f.pool 1) c } fid (.top c)
    if tget 0 s.loam.quadRetired q == 64 then raise s2 .loamQuadDegraded 0 (recStore f.part c 0) else s2

/-- An uncorrectable clod: counted, retired; the frames with cells in it. -/
def retireSub (s : State) (c : Nat) : List Nat × State :=
  let fids := (s.loam.frames.filter fun e => e.2.places.contains (.sub c)).map (·.1)
  let r := tget {} s.loam.clods c
  let s1 := raise s .loamUe 0 (recStore r.part c r.owner)
  let s2 := fids.foldl (fun t f => forgetPlace t f (.sub c)) s1
  let l := { s2.loam with clods := tins s2.loam.clods c { kind := .retired }, scharge := tmod 0 s2.loam.scharge r.part (· - 1)
                          openClod := tfilter (fun _ x => x != c) s2.loam.openClod }
  (fids, { s2 with loam := l })

/-- The error that a place carries. -/
def placeErr (s : State) : Place → Nat
  | .top c => (tget ({} : CellRec) s.loam.cells c).err
  | .sub c => (tget ({} : ClodRec) s.loam.clods c).err

/-- A corrected error of a place is counted, and gone (R57). -/
def correct (s : State) (x : Place) : State :=
  let s1 := raise s .loamCe 0 (recStore 0 (match x with | .top c => c | .sub c => c) 0)
  match x with
  | .top c => { s1 with loam := { s1.loam with cells := tadj s1.loam.cells c fun r => { r with err := 0 } } }
  | .sub c => { s1 with loam := { s1.loam with clods := tadj s1.loam.clods c fun r => { r with err := 0 } } }

/-- Read places of a frame: corrected errors are counted; an uncorrectable one discards the frame, and all frames of an
uncorrectable clod, and retires the unit (R57). Is the frame whole? -/
def readPlaces (s : State) (fid : Nat) (places : List Place) : Bool × State :=
  match frameOf s fid with
  | none => (false, s)
  | some f =>
    let s1 := (places.filter fun x => placeErr s x == 1).eraseDups.foldl correct s
    let bad := (places.filter fun x => placeErr s x == 2).eraseDups
    if bad.isEmpty then (true, s1)
    else
      let own := f.shares.getD fid
      (false, bad.foldl (fun t x =>
        match x with
        | .top c => discardAll (retireTop t own c) own
        | .sub c => let r := retireSub t c; r.1.foldl discardAll r.2) s1)

/-- Read all of a frame. -/
def readFrame (s : State) (fid : Nat) : Bool × State :=
  readPlaces s fid (match frameOf s fid with | some f => f.places | none => [])

end Sys2Proof.Machine
end

