-- ==== Sys2Proof/Machine/EthIngress.lean ====
section
/-!
DEFINITION. Machine/EthIngress.lean: Ethernet-mode frames from the wire to their queues (R51, R52, R143 to R148), and
FFH over UDP at arrival (R48 to R50, R258).
-/

namespace Sys2Proof.Machine

open Sys2Proof

/-- What the parser reads of an Ethernet-mode frame. `l3` is the offset of the layer-3 header. -/
structure EthView where
  dmac : Nat
  smac : Nat
  tagged : Bool
  pcp : Nat
  tagVid : Nat
  etype : Nat
  l3 : Nat
  deriving DecidableEq, Repr

/-- Parse a single C-tag (EtherType 0x8100); any other tag is an unknown EtherType (Table 2.10). -/
def ethParse (b : List Byte) : EthView :=
  let t := beAt b 12 2
  if t == 0x8100 then
    let tci := beAt b 14 2
    { dmac := beAt b 0 6, smac := beAt b 6 6, tagged := true, pcp := bitsOf tci 15 13, tagVid := bitsOf tci 11 0
      etype := beAt b 16 2, l3 := 18 }
  else
    { dmac := beAt b 0 6, smac := beAt b 6 6, tagged := false, pcp := 0, tagVid := 0, etype := t, l3 := 14 }

def isV4 (v : EthView) : Bool := v.etype == 0x0800
def isV6 (v : EthView) : Bool := v.etype == 0x86DD

/-- Source and destination addresses, IP protocol and layer-4 ports, where the frame carries them; ECN, the offset of
the layer-4 header, and whether it follows a bare IP header, whole: no IPv4 options and no fragment. -/
structure IpView where
  v6 : Bool
  l4 : Nat
  bare : Bool
  ecn : Nat
  src : Nat
  dst : Nat
  proto : Nat
  sport : Nat
  dport : Nat
  ttl : Nat
  deriving DecidableEq, Repr

def ipParse (b : List Byte) (v : EthView) : Option IpView :=
  if isV4 v then
    let ihl := 4 * (beAt b v.l3 1 % 16)
    some { v6 := false, l4 := v.l3 + ihl, bare := ihl == 20 && beAt b (v.l3 + 6) 2 % 16384 == 0
           ecn := beAt b (v.l3 + 1) 1 % 4, src := beAt b (v.l3 + 12) 4, dst := beAt b (v.l3 + 16) 4, proto := beAt b (v.l3 + 9) 1
           sport := beAt b (v.l3 + ihl) 2, dport := beAt b (v.l3 + ihl + 2) 2, ttl := beAt b (v.l3 + 8) 1 }
  else if isV6 v then
    some { v6 := true, l4 := v.l3 + 40, bare := true, ecn := bitsOf (beAt b (v.l3 + 1) 1) 5 4, src := beAt b (v.l3 + 8) 16, dst := beAt b (v.l3 + 24) 16, proto := beAt b (v.l3 + 6) 1
           sport := beAt b (v.l3 + 40) 2, dport := beAt b (v.l3 + 42) 2, ttl := beAt b (v.l3 + 7) 1 }
  else none

/-! ACL (R148). The layout of a rule's 48 bytes is the model's own: byte 0 V, action, flags and family; 1 protocol; 2 port;
4 VID; 6 EtherType; 8 and 9 prefix lengths; 10 and 12 layer-4 ports; 16 source and 32 destination address. -/

/-- Does an address of a width match a prefix? -/
def prefixMatches (width len want have_ : Nat) : Bool := have_ / 2 ^ (width - len) == want / 2 ^ (width - len)

/-- Does a rule match a frame: every field it specifies (R148)? Log 81 (DESIGN CHOICE). -/
def aclMatches (r : List Byte) (port vid : Nat) (v : EthView) (ip : Option IpView) : Bool :=
  let b0 := beAt r 0 1
  let fam := bitsOf b0 1 0
  let rport := beAt r 2 2 % 2048
  let rvid := beAt r 4 2 % 4096
  let ret := beAt r 6 2
  let needIp := fam != 0 || beAt r 8 1 != 0 || beAt r 9 1 != 0 || bitAt b0 4 || bitAt b0 3 || bitAt b0 2
  bitAt b0 7 && (rport == 0x7FF || rport == port) && (rvid == 0xFFF || rvid == vid) && (ret == 0 || ret == v.etype) &&
    (!needIp ||
      match ip with
      | none => false
      | some x =>
        let w := if x.v6 then 128 else 32
        (fam == 0 || (fam == 1 && !x.v6) || (fam == 2 && x.v6)) &&
        (beAt r 8 1 == 0 || prefixMatches w (beAt r 8 1) (beAt r 16 16 % 2 ^ w) x.src) &&
        (beAt r 9 1 == 0 || prefixMatches w (beAt r 9 1) (beAt r 32 16 % 2 ^ w) x.dst) &&
        (!bitAt b0 4 || beAt r 1 1 == x.proto) &&
        (!bitAt b0 3 || beAt r 10 2 == x.sport) && (!bitAt b0 2 || beAt r 12 2 == x.dport))

/-- The action of the first matching rule in index order: 0 permit, 1 deny, 2 deliver to Heath. -/
def aclLook (r : Replica) (port vid : Nat) (v : EthView) (ip : Option IpView) : Look Nat :=
  { hit := (r.acl.find? fun e => !e.2.bad && aclMatches e.2.bytes port vid v ip).map fun e => bitsOf (beAt e.2.bytes 0 1) 6 5
    bads := (r.acl.filter fun e => e.2.bad).map fun e => (tkAcl, e.1) }

/-! Forwarding -/

/-- Decrement the TTL or hop limit of the IP header, with the IPv4 checksum (R51). -/
def ipHop (b : List Byte) (v : EthView) : List Byte :=
  if isV4 v then
    let c := beAt b (v.l3 + 10) 2 + 0x100
    let c2 := if c < 65536 then c else c - 65535
    b.take (v.l3 + 8) ++ beBytes 1 (beAt b (v.l3 + 8) 1 - 1) ++ bytesAt b (v.l3 + 9) 1 ++ beBytes 2 c2 ++ b.drop (v.l3 + 12)
  else b.take (v.l3 + 7) ++ beBytes 1 (beAt b (v.l3 + 7) 1 - 1) ++ b.drop (v.l3 + 8)

/-- Set the addresses of the Ethernet header. -/
def setMacs (b : List Byte) (dmac smac : Nat) : List Byte := beBytes 6 dmac ++ beBytes 6 smac ++ b.drop 12

/-- Where an Ethernet-mode frame goes. -/
inductive EthOut where
  | ports (l : List Nat) (bytes : List Byte) (vid : Nat)
  | heath
  | drop (e : Option Ev)

/-- Flood within a VLAN: its members but the ingress port (R147). -/
def floodPorts (v : VlanEnt) (p : Nat) : List Nat := (onesOf nPorts v.members).filter (· != p)

/-- Switch or route a frame (R132, R140, R141). The partition is that of the ingress port. Log 80 (PRESUMED). -/
def ethForward (s : State) (half p part vid : Nat) (v : EthView) (vl : VlanEnt) (b : List Byte) : EthOut × State :=
  match (if v.dmac == portMac p then ipParse b v else none) with
  | some ip =>
    let l := prefixLook s (replica s half) ip.v6 part ip.dst
    let s1 := parityHits s half l.bads
    match l.hit with
    | none => (.drop (some .l3Miss), s1)
    | some i =>
      let n := nhLook (replica s1 half) i
      let s2 := parityHits s1 half n.bads
      match n.hit with
      | none => (.drop (some .l3Miss), s2)
      | some nh =>
        if nh.act == 1 then (.drop none, s2)
        else if nh.act == 2 then (.heath, s2)
        else if ip.ttl ≤ 1 then (.drop (some .ethTtl), s2)
        else (.ports [nh.port] (setMacs (ipHop b v) nh.dmac (portMac nh.port)) nh.vid, s2)
  | none =>
    let l := macLook s (replica s half) (macKey part vid v.dmac)
    let s1 := parityHits s half l.bads
    match l.hit with
    | some (_, e) => (if e.port == p then .drop none else .ports [e.port] b vid, s1)
    | none => (.ports (floodPorts vl p) b vid, raise s1 .l2Flood p)

/-- What learning says of a frame: forward it or discard it (R143 to R146). -/
def learnFrom (s : State) (half p key : Nat) : Bool × State :=
  let l := macLook s (replica s half) key
  let s1 := parityHits s half l.bads
  let ask := fun (t : State) =>
    if !flag t .LEARN_EN || fldSel t .LRN_MAX p == 0 then (true, t)
    else if lrnExcess t p then
      if fldSel t .LRN_EXCESS p == 1 then (true, raise t .learnFlood p) else (false, raise t .learnDrop p)
    else (true, learnRequest t half key p)
  match l.hit with
  | none => ask s1
  | some (_, e) =>
    if e.port == p then
      if e.static || e.stamp == s.laurel.age then (true, s1)
      else
        let fresh := fun (r : Replica) => { r with mac := tmap (fun _ x => if x.key == key then { x with stamp := s.laurel.age } else x) r.mac }
        (true, mapReplicas s1 fresh)
    else if e.static then (true, raise s1 .learnStaticConflict p)
    else ask s1

/-- Store an admitted Ethernet-mode frame toward its ports. TC7 frames depart by their windows (R96). -/
def ethAdmit (s : State) (p part tc vid lead : Nat) (b : List Byte) (ports : List Nat) : State :=
  let n := cellsFor b.length
  let f : StoredFrame :=
    { mode := .eth, ffh := { tc := tc, part := part }, data := b, tc := tc, pool := .shared, part := part, inPort := p
      inHalf := halfOf p, arrivedAt := s.raw, vid := vid, rxStamp := stampBefore s lead }
  let view : TraceView :=
    { egress := false, port := p, timeNs := stampBefore s lead / 65536, part := part, tc := tc, layer := 0, oper := 0
      head := b.take 32, payload := b.drop 32 }
  let s0 := traceFrame s view
  if tc == 7 then
    if tc7TooLong (ethWire b.length) (activeLanes s p) then raise s .tc7TooLong p
    else
      let live := ports.filter fun q => !portFenced s q
      let tin := inU s lead
      let judged := live.map fun q => (q, tc7Judge s q p tin (txTime s q (wireBytes s q f)) 36)
      match minBy (·.1) (judged.filter fun j => j.2.isSome) with
      | some (q, some .window) => raise s .tc7WindowMiss q
      | some (q, some .overlap) => raise s .tc7Overlap q
      | some (q, _) => raise (raise s .tc7ResvMiss q) .loamDrop p
      | none =>
        if live.isEmpty then s0
        else
          let r := storeFrame s0 { f with pool := .tc7 ((minBy id live).getD 0) } n live.length
          live.foldl (fun t q =>
            let a := tin + tc7Delay
            wakeDomain (addDep t q { fid := r.1, start := a, stop := a + txTime t q (wireBytes t q f), owner := p })
              (pipeDomain q)) r.2
  else
    match admission s tc false 36 p ports.head? part with
    | .accept pool =>
      if ports.isEmpty then s0
      else
        let r := storeFrame s0 { f with pool := pool, dests := ports.map fun q => (qKey q (2 * tc), ent0) } n ports.length
        queueFrame r.2 r.1
    | _ => raise s .loamDrop p

/-- What the parser of an Ethernet-mode port takes out of the stream (R32, R51), with the state after it: none when the
frame goes on. -/
def ethScreen (s : State) (p : Nat) (b : List Byte) (units : Units) : Option State :=
  let v := ethParse b
  if b.length + 4 < 64 || 9216 < b.length + 4 then some (raise s .ethSize p)
  else if v.etype == fld s .ETYPE || beAt b 12 2 == fld s .ETYPE then some (raise s .frmBadEtype p)
  else if v.etype == 0x8808 then some (raise s .ethPause p)
  else if v.etype == 0x88CC then
    match lldpTake s p with
    | some s1 => some (units.lldp { s1 with laurel := { s1.laurel with trapped := s1.laurel.trapped ++ [(p, b)] } } p b)
    | none => some s
  else none

/-- The local-address lookup, the first of R132: is a frame an FFH-over-UDP datagram for this spine (Table 2.1), UDP to a
local FFH address and the FFH UDP port behind a bare IP header (Table 2.9)? -/
def ffhUdp (s : State) (p : Nat) (b : List Byte) : Option IpView × State :=
  match ipParse b (ethParse b) with
  | none => (none, s)
  | some x =>
    let l := localLook (replica s (halfOf p)) x.v6 x.dst
    (if l.hit.isSome && x.bare && x.proto == 17 && x.dport == fld s .UDP_DPORT then some x else none,
     parityHits s (halfOf p) l.bads)

/-- An Ethernet-mode frame that is no datagram for this spine: the checks of its port, then the lookups of R132. -/
def ethStages (s : State) (p lead : Nat) (b : List Byte) : State :=
  let v := ethParse b
  let half := halfOf p
  let part := s.haw.part
  if quarantined s p then s
  else if !holdsPart s then raise s .partNone p
  else if s.haw.partFence.contains part then raise s .ffhFenced p
  else
    let tc := bitsOf (regActive s 0x08 (sliceOf p) 0x80 0) (3 * v.pcp + 2) (3 * v.pcp)
    let pol := police s p tc b.length (stampBefore s lead / 65536)
    let vid := if v.tagged && v.tagVid != 0 then v.tagVid else fldSel s .PVID p
    if !pol.1 then raise pol.2 .policeDrop p
    else if fld s .LAND_RESV < cellsFor b.length then raise pol.2 .loamLandFull p
    else
      let acl := aclLook (replica pol.2 half) p vid v (ipParse b v)
      let s1 := parityHits pol.2 half acl.bads
      match acl.hit with
      | some 1 => raise s1 .aclDeny p
      | some 2 => match trapToHeath s1 p b with | some s2 => s2 | none => raise s1 .fexcTrapLimit p
      | _ =>
        let vl := vlanLook (replica s1 half) vid
        let s2 := parityHits s1 half vl.bads
        match vl.hit with
        | none => raise s2 .vlanIngress p
        | some m =>
          if !bitAt m.members p then raise s2 .vlanIngress p
          else
            let ln := learnFrom s2 half p (macKey part vid v.smac)
            if !ln.1 then ln.2
            else
              match ethForward ln.2 half p part vid v m b with
              | (.drop (some e), s3) => raise s3 e p
              | (.drop none, s3) => s3
              | (.heath, s3) => match trapToHeath s3 p b with | some s4 => s4 | none => raise s3 .fexcTrapLimit p
              | (.ports l out nvid, s3) => ethAdmit s3 p part tc nvid lead out l

/-! MACsec at arrival (R344) -/

def macsecOf (s : State) (p : Nat) : MacsecPort := tget {} s.holly.macsec p

/-- Has a secure association been installed on the port since it was last disabled (R344)? -/
def macsecOn (m : MacsecPort) : Bool := m.installed

/-- Does a received frame pass MACsec: unprotected ports take every frame, protected ones only frames under an installed
receive association, whose packet number has not been passed? -/
def macsecPass (s : State) (p : Nat) (q : Option Seal) : Option State :=
  let m := macsecOf s p
  if !macsecOn m then (if q.isNone then some s else none)
  else
    match q with
    | none => none
    | some x =>
      match m.rx.find? fun e => e.2.key == x.keyId with
      | none => none
      | some (i, a) =>
        if x.counter < a.pn then none
        else
          let m2 := { m with rx := tins m.rx i { a with pn := x.counter + 1 } }
          some { s with holly := { s.holly with macsec := tset {} s.holly.macsec p m2 } }

/-! FFH over UDP -/

/-- The virtual link of a peer (R50): keyed by its IP address. -/
def vlinkOf (s : State) (v6 : Bool) (ip : Nat) : Option (Nat × VLink) :=
  s.lk.vlinks.find? fun e => e.2.peerIp == ip && e.2.v6 == v6

/-- The next hop of a peer in the partition of a port, when its action is forward (R50). -/
def peerNextHop (s : State) (p : Nat) (v6 : Bool) (ip : Nat) : Option NhEnt × State :=
  let half := halfOf p
  let l := prefixLook s (replica s half) v6 s.haw.part ip
  let s1 := parityHits s half l.bads
  match l.hit with
  | none => (none, s1)
  | some i =>
    let n := nhLook (replica s1 half) i
    let s2 := parityHits s1 half n.bads
    match n.hit with
    | some nh => (if nh.act == 0 then some nh else none, s2)
    | none => (none, s2)

/-- Repeat the prefix lookup of every virtual link's peer (R50). -/
def refreshHops (s : State) : State :=
  s.lk.vlinks.foldl (fun t e =>
    let n := peerNextHop t e.2.port e.2.v6 e.2.peerIp
    { n.2 with lk := { n.2.lk with vlinks := tadj n.2.lk.vlinks e.1 fun v => { v with hop := n.1 } } }) s

/-- The number a datagram opens or resets: its peer's virtual link, or a free one (R48, R50). -/
def vlinkNumber (s : State) (x : IpView) : Option Nat :=
  match vlinkOf s x.v6 x.src with
  | some (v, _) => some v
  | none => tfree s.lk.vlinks 4096 0

/-- Open or reset the virtual link of a datagram to a local address (R50, R258): its number, none when a condition fails, and
the state after the lookups. Log 83 (DEDUCED). -/
def openVlink (s : State) (d : UdpFfh) (x : IpView) : Option Nat × State :=
  let h := ffhParse d.inner.ffh
  let p := d.port
  let dp := dportLook s (halfOf p) (addrDown h.src)
  let nh := peerNextHop (parityHits s (halfOf p) dp.bads) p x.v6 x.src
  let okSrc := addrPlane h.src == selfPlane s && addrSpine h.src == selfSpine s && dp.hit == some p
  match nh.1, vlinkNumber nh.2 x with
  | some n, some v =>
    if !okSrc then (none, nh.2)
    else
      let s1 := match tfind nh.2.lk.vlinks v with | some _ => vlinkDown nh.2 v | none => nh.2
      let e : VLink := { peerIp := x.src, v6 := x.v6, localIp := x.dst, peerAddr := h.src, port := p
                         lastSeen := s.raw, rtoNs := 1000000, hop := some n }
      (some v, { s1 with lk := { s1.lk with vlinks := tins s1.lk.vlinks v e, ends := tdel s1.lk.ends (vlinkBase + v) } })
  | _, _ => (none, nh.2)

/-- A sealed frame on a link without protection: its HCRC fails over the ciphertext, and the space that LOSS names is read
from it (R35, R41). -/
def unreadable (s : State) (l p : Nat) (hdr : LinkHdr) : State :=
  let q := takeFree (raise s .ffhCrcErr p) 16
  setEnd q.2 l (noteEvent (endOf q.2 l) .loss q.1 hdr.seq)

/-- A datagram on a virtual link: per-hop authentication, link header, stages. IP ECN 0b11 sets FFH ECN (R49). -/
def udpRx (s : State) (v : Nat) (d : UdpFfh) (ecn : Nat) (units : Units) : State :=
  let l := vlinkBase + v
  let p := d.port
  let hdr := linkHdrParse d.inner.linkHdr
  let s0 := match tfind s.lk.vlinks v with
    | some e => { s with lk := { s.lk with vlinks := tins s.lk.vlinks v { e with lastSeen := s.raw } } }
    | none => s
  let wire := ethWire (d.hdr.length + 8 + 32 + d.inner.payload.length + if d.inner.sealedAs.isSome then 16 else 0)
  if d.inner.ffh.isEmpty then headerRx s0 l hdr true
  else
    let body := fun (t : State) =>
      let t1 := headerRx t l hdr false
      if linkLive t1 l then frameRx t1 l p hdr d.inner.ffh d.inner.payload (ecn == 3) d.inner.lead wire units else t1
    if !protOn s0 p then (if d.inner.sealedAs.isNone then body s0 else unreadable s0 l p hdr)
    else if (linkKeys s0 l).rxKey.isNone then
      if d.inner.sealedAs.isNone && isKexFrame (ffhParse d.inner.ffh) then body s0 else raise s0 .hollyTagFail p
    else
      match openRx s0 l d.inner.sealedAs with
      | (true, s1) => body s1
      | (false, s1) => raise s1 .hollyTagFail p

end Sys2Proof.Machine
end

