-- ==== Sys2Proof/Machine/Egress.lean ====
section
/-!
DEFINITION. Machine/Egress.lean: a frame leaving a port: link headers, per-hop protection and datagram building, marking
(R124), the choice of a queue (R82, R83), first transmissions, replays and escape moves (R115, R246, R248), TC7
departures (R98, R99, R249, R416), and the frames the spine generates.
-/

namespace Sys2Proof.Machine

open Sys2Proof

/-! Headers -/

/-- The space and ACK that the next header reports: a changed one first (R245). -/
def ackReportOf (e : LinkEnd) : Nat × Nat × LinkEnd :=
  match e.ackDirty with
  | q :: t => (q, (rxOf e q).ack, { e with ackDirty := t })
  | [] => (0, (rxOf e 0).ack, e)

/-- The link header of the next frame or control block: one event, in the order raised, and one ACK (R246). -/
def nextHeader (e : LinkEnd) (seq : Nat) (replay : Bool) : LinkHdr × LinkEnd :=
  let a := ackReportOf e
  let h : LinkHdr := { seq := seq, aq := a.1, ack := a.2.1, replay := replay }
  match a.2.2.events with
  | v :: t => ({ h with eq := v.space, eseq := v.seq, ekind := v.kind }, { a.2.2 with events := t })
  | [] => (h, a.2.2)

/-! The FFH as transmitted (R40) -/

/-- HOPS counts transmissions to another spine; ESC names the channel; ECN carries a mark. -/
def ffhOut (s : State) (p : Nat) (h : Ffh) (esc marked : Bool) : Ffh :=
  { h with esc := esc, ecn := if marked then 3 else h.ecn, hops := if leadsToSpine s p then (h.hops + 1) % 256 else h.hops }

/-! ECN (R124) -/

/-- One step of the port's Galois LFSR with feedback 0x8020_0003. Log 31 (DESIGN CHOICE). -/
def lfsrStep (x : Nat) : Nat := if x % 2 == 1 then (x / 2) ^^^ 0x80200003 else x / 2

/-- Decide a mark: Q cells against KMIN and KMAX, with the generator's next 16 bits between them. -/
def ecnDecide (s : State) (p tc : Nat) : Bool × State :=
  let q := queueCells s (qKey p (2 * tc)) + queueCells s (qKey p (2 * tc + 1))
  let kmin := 16 * fldAt s .KMIN 0xFF tc 0
  let kmax := 16 * fldAt s .KMAX 0xFF tc 0
  if q < kmin then (false, s)
  else if kmax ≤ q then (true, s)
  else
    let b := bxPort s p
    let x := lfsrStep (b.lfsr.getD ((fld s .ECN_SEED ^^^ p) % 2 ^ 32))
    let r := x % 65536
    (decide (r * 256 * (kmax - kmin) < fldAt s .PMAX 0xFF tc 0 * (q - kmin) * 65536), setBx s p { b with lfsr := some x })

/-- The congestion-map sums of a port and class (R127). -/
def noteSent (s : State) (p tc wire : Nat) (marked : Bool) : State :=
  { s with sh := { s.sh with cmapAcc := tmod {} s.sh.cmapAcc (8 * p + tc) fun a =>
      { busy := a.busy + txTime s p wire, marks := a.marks + b2n marked } } }

/-- Mark a frame at the start of its transmission: TC0 to TC5, ECN 0b01 or 0b10 (R124). -/
def markFrame (s : State) (p : Nat) (h : Ffh) : Bool × State :=
  if h.tc ≤ 5 && (h.ecn == 1 || h.ecn == 2) then
    let d := ecnDecide s p h.tc
    if d.1 then (true, raise d.2 .ecnMark p (recFrame h)) else d
  else (false, s)

/-- Form an echo for a frame with ECN 0b11 delivered to a down-port (R125). -/
def formEcho (s : State) (p : Nat) (h : Ffh) : State :=
  let half := halfOf p
  let l := tget [] s.sh.echo half
  let e : EchoEnt := { src := h.src, dst := h.dst, tc := h.tc, part := h.part, port := p, at_ := s.raw }
  if l.length < 4096 then { s with sh := { s.sh with echo := tset [] s.sh.echo half (l ++ [e]) } }
  else
    raise { s with sh := { s.sh with echo := tset [] s.sh.echo half (l.drop 1 ++ [e]) } } .eceEvict p (recFrame h)

/-! Putting a frame on a link -/

/-- The destination MAC learned from HELLO (R239). -/
def peerMac (s : State) (p : Nat) : Nat := beAt (portLink s p).hello 0 6

/-- The link a fabric frame takes on a port: the port's own, or the virtual link to its DST while that peer has a next hop
(R50). -/
def linkFor (s : State) (p : Nat) (h : Ffh) : Option Nat :=
  if portMode s p == .ethernet then (vlinkFor s p h).bind fun e => if e.2.hop.isSome then some (vlinkBase + e.1) else none
  else some p

/-- Seal an Ethernet frame under MACsec (R344): none when the port's association has stopped. -/
def macsecSeal (s : State) (p : Nat) : Option (Option Seal × State) :=
  let m := macsecOf s p
  if !macsecOn m then some (none, s)
  else
    match m.curTx with
    | none => none
    | some i =>
      match tfind m.tx i with
      | none => none
      | some a =>
        if m.stopped then none
        else
          let limit := if a.xpn then 2 ^ 64 - 1 else 2 ^ 32 - 1
          let stop := decide (limit ≤ a.pn)
          let m2 := { m with tx := tins m.tx i { a with pn := a.pn + 1 }, stopped := stop }
          let s1 := { s with holly := { s.holly with macsec := tset {} s.holly.macsec p m2 } }
          some (some { keyId := a.key, counter := a.pn }, if stop then raise s1 .macsecPnExhausted p else s1)

/-- Emit a frame on a fabric-mode port, with what step 9 regenerates around the FFH and the payload: MAC addresses,
EtherType, padding and FCS (R33). -/
def emitFrame (s : State) (p : Nat) (lh ffh payload : List Byte) (sl : Option Seal) : State :=
  let mac := beBytes 6 (peerMac s p) ++ beBytes 6 (portMac p) ++ beBytes 2 (fld s .ETYPE)
  let pad := if sl.isNone then zeroBytes (6 - payload.length) else []
  let fcs := if sl.isNone then (beBytes 4 (crc32 (mac ++ lh ++ ffh ++ payload ++ pad))).reverse else []
  emit s (.frame p mac lh ffh payload pad fcs sl)

/-- Emit a datagram on a virtual link with the headers of R49 and R50, to the next hop of its peer and under the MACsec of
the egress port. `h` gives the flow, the class and the mark. -/
def emitUdp (s : State) (v : Nat) (e : VLink) (h : Ffh) (lh ffh payload : List Byte) (sl : Option Seal) : State :=
  match e.hop with
  | none => s
  | some n =>
    match macsecSeal s n.port with
    | none => s
    | some (ms, s1) =>
      let s2 := readVlan { s1 with lk := { s1.lk with vlinks := tins s1.lk.vlinks v { e with lastSeen := s.raw } } } n.port n.vid
      emit s2 (.udp v
        { port := n.port, vid := hopTag s n, dmac := n.dmac, smac := portMac n.port, v6 := e.v6, df := !e.v6
          srcIp := e.localIp, dstIp := e.peerIp, sport := 0xC000 + flowHash h, dport := fld s .UDP_DPORT, dscp := 8 * h.tc
          ecn := h.ecn, ttl := fld s .IP_TTL, csum := e.v6 || flag s .UDP_CSUM4, shim := lh, ffh := ffh, payload := payload }
        sl ms)

/-- Emit one frame on a link with its header fields (R33, R49, R50). -/
def emitOn (s : State) (l seq : Nat) (replay : Bool) (h : Ffh) (payload : List Byte) : State :=
  let hd := nextHeader (endOf s l) seq replay
  let s1 := setEnd s l hd.2
  let sl := sealTx s1 l
  let lh := linkHdrBytes hd.1
  if l < vlinkBase then emitFrame sl.2 l lh (ffhBytes h) payload sl.1
  else
    match tfind s.lk.vlinks (l - vlinkBase) with
    | none => sl.2
    | some v => emitUdp sl.2 (l - vlinkBase) v h lh (ffhBytes h) payload sl.1

/-- Send a link control block, or on a virtual link a datagram that ends after the shim (R242, R245, R342). -/
def sendControlBlock (s : State) (l : Nat) (hd : LinkHdr) : State :=
  let lh := linkHdrBytes hd
  if l < vlinkBase then emit s (.lcb l (lh ++ beBytes 2 (crc16 lh)))
  else
    match tfind s.lk.vlinks (l - vlinkBase) with
    | none => s
    | some v => emitUdp s (l - vlinkBase) v {} lh [] [] none

/-- The trace view of a frame leaving. -/
def traceOut (s : State) (p : Nat) (h : Ffh) (payload : List Byte) : State :=
  traceFrame s (ffhView true false p (nowNs s) h payload)

/-- Set the transmitter busy for a frame of `wire` bytes. -/
def occupy (s : State) (p wire : Nat) : State :=
  let b := bxPort s p
  setBx s p { b with freeAt := nowU s + txTime s p wire }

/-- Note the first bit of a `TIME` frame at the transmit fibre face, or that it leaves again (R294). -/
def noteTimeTx (s : State) (p : Nat) (f : StoredFrame) (again : Bool) : State :=
  if f.mode != .own || f.ffh.kind != 0xA then s
  else
    let y := tget ({} : YewPort) s.yew.ports p
    let q := beAt f.data 2 2
    let sent := if again then y.sent.map fun e => if e.1 == q then (e.1, e.2.1, true) else e
                else (y.sent ++ [(q, stamp s, false)]).drop (y.sent.length + 1 - 8)
    { s with yew := { s.yew with ports := tset {} s.yew.ports p { y with sent := sent } } }

/-- A first transmission of a fabric frame on a link: it takes the next number of its space (R243) and its cells stay
held (R18). -/
def sendFirst (s : State) (l p i : Nat) (e : QEnt) (f : StoredFrame) : State :=
  let m := markFrame s p f.ffh
  let h := ffhOut s p f.ffh (i % 2 == 1) m.1
  let en := endOf m.2 l
  let t := txOf en i
  let r : TxRec := { seq := t.next, fid := e.fid, firstTx := s.raw, lastTx := s.raw, marked := m.1, viaDim := e.viaDim
                     byException := e.byException, named := e.named }
  let s1 := setEnd m.2 l (setTx en i { t with next := (t.next + 1) % 65536, open_ := t.open_ ++ [r] })
  let s2 := emitOn s1 l t.next false h f.data
  let wire := wireBytes s p f
  let s3 := noteSent (shaperTake (occupy s2 p wire) p f.tc wire) p f.tc wire m.1
  let s4 := if isDownPort s p && h.ecn == 3 then formEcho s3 p f.ffh else s3
  traceOut (unholdCopy (noteTimeTx s4 p f false) e.fid) p h f.data

/-- A replay of a sent frame: its number, REPLAY = 1, its cells back in Topsoil first (R71, R246). -/
def sendReplay (s : State) (l p i : Nat) (r : TxRec) (f : StoredFrame) : State :=
  let s0 := noteTimeTx (readBackFrame s r.fid none) p f true
  let h := ffhOut s0 p f.ffh (i % 2 == 1) r.marked
  let s1 := modTx s0 l i r.seq fun x =>
    { x with lastTx := s.raw, replayAt := none, lossDue := false, lossReplays := x.lossReplays + b2n x.lossDue }
  let s2 := setEnd s1 l { endOf s1 l with replays := (endOf s1 l).replays + 1 }
  let s3 := emitOn s2 l r.seq true h f.data
  let wire := wireBytes s p f
  raise (noteSent (shaperTake (occupy s3 p wire) p f.tc wire) p f.tc wire false) .lrReplay p (recFrame f.ffh)

/-- Set CE on an ECN-capable IP packet of an Ethernet-mode frame, with the IPv4 checksum (R51, R124). -/
def setIpCe (b : List Byte) : List Byte :=
  let v := ethParse b
  if isV4 v then
    let tos := beAt b (v.l3 + 1) 1
    let add := 3 - tos % 4
    let c := beAt b (v.l3 + 10) 2
    let c2 := if add ≤ c then c - add else c + 65535 - add
    b.take (v.l3 + 1) ++ beBytes 1 (tos + add) ++ bytesAt b (v.l3 + 2) 8 ++ beBytes 2 c2 ++ b.drop (v.l3 + 12)
  else
    let w := beAt b (v.l3 + 1) 1
    b.take (v.l3 + 1) ++ beBytes 1 (w / 64 * 64 + 0x30 + w % 16) ++ b.drop (v.l3 + 2)

/-- The IP ECN field of an Ethernet-mode frame; 0 where it has none. -/
def ipEcnOf (b : List Byte) : Nat :=
  let v := ethParse b
  if isV4 v then beAt b (v.l3 + 1) 1 % 4
  else if isV6 v then bitsOf (beAt b (v.l3 + 1) 1) 5 4
  else 0

/-- An Ethernet-mode frame as it leaves a port: tagged with its VID, or untagged where the VLAN says so (R147). -/
def tagFor (s : State) (p vid : Nat) (b : List Byte) : List Byte :=
  let v := ethParse b
  let bare := b.take 12 ++ b.drop (if v.tagged then 16 else 12)
  let untag := match (vlanLook (replica s (halfOf p)) vid).hit with | some e => bitAt e.untag p | none => false
  if untag then bare else bare.take 12 ++ beBytes 2 0x8100 ++ beBytes 2 (v.pcp * 8192 + vid) ++ bare.drop 12

/-- Send an Ethernet-mode frame: no retry, so its cells are released at once (R51). -/
def sendEth (s00 : State) (p : Nat) (e : QEnt) (f : StoredFrame) : State :=
  let s := readVlan s00 p f.vid
  match macsecSeal s p with
  | none => s
  | some (sl, s0) =>
    let capable := ipEcnOf f.data == 1 || ipEcnOf f.data == 2
    let m := if capable && f.tc ≤ 5 then ecnDecide s0 p f.tc else (false, s0)
    let s1 := if m.1 then raise m.2 .ecnMark p else m.2
    let out := tagFor s p f.vid (if m.1 then setIpCe f.data else f.data)
    let wire := wireBytes s p f
    let s2 := noteSent (shaperTake (occupy (emit s1 (.eth p out sl)) p wire) p f.tc wire) p f.tc wire m.1
    let view : TraceView := { egress := true, port := p, timeNs := nowNs s, part := f.part, tc := f.tc, layer := 0, oper := 0
                              head := out.take 32, payload := out.drop 32 }
    releaseRef (traceFrame s2 view) e.fid

/-! Escape moves and TC7 replays -/

/-- May a sent frame that is withheld move to the escape channel (R115): adaptive, toward a spine, one destination? -/
def mayEscape (s : State) (l i : Nat) (r : TxRec) (f : StoredFrame) : Bool :=
  decide (l < vlinkBase) && i % 2 == 0 && decide (i < 14) && isSpinePort s l && !f.ffh.mc &&
    decide (fld s .ESC_RETRIES ≤ r.withholds)

/-- Move a withheld frame to the escape queue of its class toward the next pinned dimension (R115, R248). A frame of
rule 3 stays on the port that the hash chose. With no port up there the frame stays as it is. Log 63 (DEDUCED), log 168
(DESIGN CHOICE). -/
def moveToEscape (s : State) (l i : Nat) (r : TxRec) (f : StoredFrame) : State :=
  let d := match r.viaDim with | some d => some d | none => nextDim s (addrSpine f.ffh.dst)
  let port :=
    if (rule3 f.ffh && !r.byException) || r.viaDim.isSome then some l
    else d.bind fun x => if rule3 f.ffh then hashPort s f.ffh x else escapePort s x f.tc
  match port with
  | none => s
  | some p =>
    let s1 := skipTx s l i r.seq
    let s2 := raise s1 .escMove l (recFrame f.ffh)
    enqueueCopy s2 (qKey p (i + 1)) { fid := r.fid, viaDim := r.viaDim }

/-- Abandon a TC7 frame that cannot be replayed (R249). -/
def abandonTc7 (s : State) (l i : Nat) (r : TxRec) : State :=
  raise (releaseHold (skipTx s l i r.seq) r.fid) .lrTc7Replay (linkPort s l)

/-- Schedule the replay of a TC7 frame in the first window that has room for it, or abandon it (R249). -/
def replayTc7 (s : State) (l i : Nat) (r : TxRec) : State :=
  match frameOf s r.fid with
  | none => s
  | some f =>
    let p := linkPort s l
    let len := txTime s p (wireBytes s p f)
    if (bxPort s p).deps.any fun d => d.fid == r.fid && d.replay == some r.seq then s
    else match replayStart (bxPort s p) (tc7Owner f) (nowU s) len with
    | none => abandonTc7 s l i r
    | some a =>
      let d : Departure := { fid := r.fid, start := a, stop := a + len, owner := tc7Owner f, link := l, replay := some r.seq
                             viaDim := r.viaDim }
      raise (addDep s p d) .lrTc7Replay p (recFrame f.ffh)

/-! The choice of a queue (R82, R83) -/

/-- What a queue would send next. -/
inductive Head where
  | replay (l : Nat) (r : TxRec) (f : StoredFrame)
  | first (l : Nat) (e : QEnt) (f : StoredFrame)
  | eth (e : QEnt) (f : StoredFrame)
  | lost (e : QEnt) (f : StoredFrame)

/-- The links whose queues a port carries: its own, or the virtual links that run over it. -/
def linksOf (s : State) (p : Nat) : List Nat :=
  if portMode s p == .ethernet then (s.lk.vlinks.filter fun e => e.2.port == p).map fun e => vlinkBase + e.1 else [p]

/-- The replay that is due in a space of a port. -/
def dueReplay (s : State) (p i : Nat) : Option (Nat × TxRec) :=
  (linksOf s p).findSome? fun l =>
    ((txOf (endOf s l) i).open_.find? fun r => match r.replayAt with | some t => decide (t ≤ s.raw) | none => false).map
      fun r => (l, r)

/-- The head of queue i of a port: a due replay goes ahead of first transmissions (R246). A protected link with no key
carries only KEX frames (R341). -/
def headOf (s : State) (p i : Nat) : Option Head :=
  match dueReplay s p i with
  | some (l, r) => (frameOf s r.fid).map fun f => .replay l r f
  | none =>
    match queueOf s (qKey p i) with
    | [] => none
    | e :: _ =>
      match frameOf s e.fid with
      | none => none
      | some f =>
        match f.mode with
        | .eth => some (.eth e f)
        | _ =>
          match linkFor s p f.ffh with
          | none => some (.lost e f)
          | some l =>
            if (linkUnkeyed s l && !isKexFrame f.ffh) || copyWaits s e then none else some (.first l e f)

def headFrame : Head → StoredFrame
  | .replay _ _ f => f
  | .first _ _ f => f
  | .eth _ f => f
  | .lost _ f => f

/-- Is a queue's first transmission stopped by the window (R244)? -/
def windowStops (s : State) (i : Nat) : Head → Bool
  | .first l _ _ => !windowOpen s l i
  | _ => false

/-- Is queue i eligible (R82)? -/
def eligible (s : State) (p i : Nat) : Bool :=
  queueEnabled s p i &&
  match headOf s p i with
  | none => false
  | some hd =>
    let f := headFrame hd
    let wire := wireBytes s p f
    let b := bxPort s p
    !windowStops s i hd && canReadBack s f && !b.coverLost.contains f.tc && gateOpen b f.tc (nowU s) (nowU s + txTime s p wire) && shaperOk s p f.tc wire

/-- A queue that the window blocks: counted once until it is unblocked (R244). -/
def blockQueue (s : State) (l i : Nat) : State :=
  let e := endOf s l
  if e.blocked.contains i then s
  else raise (setEnd s l { e with blocked := i :: e.blocked }) .lrWindowFull (linkPort s l)

/-- Count queues that have become blocked by the window (R244). -/
def noteBlocked (s : State) (p : Nat) : State :=
  (List.range 14).foldl (fun t i =>
    match headOf t p i with
    | some (.first l e f) => if windowStops t i (.first l e f) then blockQueue t l i else t
    | _ => t) s

/-- Is a down-port in sink discard (R74)? -/
def sinkDiscard (s : State) (p : Nat) : Bool := (tfind s.haw.sinkFrom p).isSome

def popQueue (s : State) (p i : Nat) : State := setQueue s (qKey p i) ((queueOf s (qKey p i)).drop 1)

/-- Send the head of queue i of a port, whose cells have been read. In sink discard it is discarded instead (R74); a
withheld frame whose retries are spent moves to escape (R115). -/
def sendRead (s : State) (p i : Nat) : State :=
  match headOf s p i with
  | none => s
  | some (.replay l r f) =>
    if sinkDiscard s p then
      raise (releaseHold (skipTx s l i r.seq) r.fid) .sinkStallDrop p (recFrame f.ffh)
    else if mayEscape s l i r f then moveToEscape s l i r f
    else sendReplay s l p i r f
  | some (.first l e f) =>
    let s1 := readBackFrame (popQueue s p i) e.fid none
    if sinkDiscard s p then raise (discardCopy s1 e.fid) .sinkStallDrop p (recFrame f.ffh)
    else sendFirst s1 l p i e f
  | some (.eth e f) => sendEth (readBackFrame (popQueue s p i) e.fid none) p e f
  | some (.lost e f) => raise (discardCopy (popQueue s p i) e.fid) .udpNoVlink p (recFrame f.ffh)

/-- The frame of a head. -/
def headFid : Head → Nat
  | .replay _ r _ => r.fid
  | .first _ e _ => e.fid
  | .eth e _ => e.fid
  | .lost e _ => e.fid

/-- Read the cells of the head of a queue and send it; a frame that is not whole is gone (R57). -/
def sendHead (s : State) (p i : Nat) : State :=
  match headOf s p i with
  | none => s
  | some hd =>
    match readFrame s (headFid hd) with
    | (true, s1) => sendRead s1 p i
    | (false, s1) => s1

/-- Starvation counts after a queue has been served (R83). Log 179 (DESIGN CHOICE). -/
def noteService (s : State) (p served : Nat) (elig : List Nat) : State :=
  let b := bxPort s p
  let starve := elig.foldl (fun t i => if i == served then t else tmod 0 t i (· + 1)) (tdel b.starve served)
  let lim := fld s .STARVE_LIMIT
  let newly := elig.filter fun i => i != served && decide (lim ≤ tget 0 starve i) && !b.starved.contains i
  let s1 := setBx s p { b with starve := starve, starved := (b.starved.filter (· != served)) ++ newly }
  raiseN s1 .calStarve p newly.length

/-- The first eligible queue of the four slots at the pointer, with the slot that supplied it (R82). -/
def slotScan (slots : List (List Nat)) (elig : List Nat) (k : Nat) : Nat → Option (Nat × Nat)
  | 0 => none
  | fuel + 1 =>
    match (slots.getD (k % slots.length) []).find? (elig.contains ·) with
    | some i => some (i, k % slots.length)
    | none => slotScan slots elig (k + 1) fuel

/-- Does a transmit opportunity occur now (R82)? A sleeping pipeline has none. -/
def opportunity (s : State) (p : Nat) : Bool :=
  let b := bxPort s p
  portCarries s p && !portFenced s p && domainAwake s (pipeDomain p) && decide (b.freeAt ≤ nowU s) && !tc7Open b (nowU s)

/-- The queue that the calendar chooses among the eligible ones, with the slot that supplies it; a starved queue goes first
(R82, R83). -/
def calChoice (s : State) (p : Nat) (elig : List Nat) : Option (Nat × Option Nat) :=
  let b := bxPort s p
  match elig.find? (b.starved.contains ·) with
  | some i => some (i, none)
  | none => (slotScan (slotsOf b) elig b.slot 4).map fun x => (x.1, some x.2)

/-- The eligible queues of a port. Log 66 (DEDUCED). -/
def eligibleQueues (s : State) (p : Nat) : List Nat := (List.range 14).filter (eligible s p)

/-- Take a transmit opportunity (R82, R83). -/
def transmit (s : State) (p : Nat) : State :=
  if !opportunity s p then s
  else
    let s0 := noteBlocked s p
    let elig := eligibleQueues s0 p
    let n := (slotsOf (bxPort s0 p)).length
    match calChoice s0 p elig with
    | some (i, none) => sendHead (noteService s0 p i elig) p i
    | some (i, some k) =>
      let s1 := noteService s0 p i elig
      sendHead (setBx s1 p { bxPort s1 p with slot := (k + 1) % n }) p i
    | none => setBx s0 p { bxPort s0 p with slot := ((bxPort s0 p).slot + 4) % n }

/-! TC7 departures (R98, R99) -/

/-- The earliest departure of a port among those of the spine itself or of the others. -/
def nextDeparture (s : State) (p : Nat) (own : Bool) : Option Departure :=
  minBy (·.start) ((bxPort s p).deps.filter fun d => (d.owner == 0x7FF) == own)

/-- Forget a departure. -/
def forgetDep (s : State) (p : Nat) (d : Departure) : State :=
  let b := bxPort s p
  setBx s p { b with deps := b.deps.filter fun x => !(x.fid == d.fid && x.start == d.start) }

/-- Send a TC7 frame of a link at its departure. In sink discard it is discarded instead (R74); a first transmission that the
window stops (R244) or whose link has no key (R341) cannot leave (R99). -/
def departOn (s : State) (l p : Nat) (d : Departure) (f : StoredFrame) : State :=
  match d.replay with
  | none =>
    if sinkDiscard s p then raise (discardCopy s d.fid) .sinkStallDrop p (recFrame f.ffh)
    else if linkUnkeyed s l then dropDeparture s p d
    else if !windowOpen s l 14 then dropDeparture (blockQueue s l 14) p d
    else sendFirst s l p 14 { fid := d.fid, viaDim := d.viaDim } f
  | some n =>
    match findTx s l 14 n with
    | some r =>
      if sinkDiscard s p then raise (releaseHold (skipTx s l 14 n) r.fid) .sinkStallDrop p (recFrame f.ffh)
      else sendReplay s l p 14 r f
    | none => s

/-- Send a TC7 frame at its departure, or discard it when it cannot leave then (R99): its port down or fenced, its
pipeline not awake, its instant more than 2 ns past. -/
def departTc7 (s : State) (p : Nat) (own : Bool) : State :=
  match nextDeparture s p own with
  | none => s
  | some d =>
    let now := nowU s
    if now + 400 < d.start then s
    else
      match frameOf s d.fid with
      | none => forgetDep s p d
      | some f =>
        let late := decide (d.start + 400 < now)
        if !portUp s p || portFenced s p || !domainAwake s (pipeDomain p) || late || !canReadBack s f then
          dropDeparture (forgetDep s p d) p d
        else if !(readFrame s d.fid).1 then raise (readFrame s d.fid).2 .tc7DepartMiss p
        else
          let s1 := forgetDep (readFrame s d.fid).2 p d
          match f.mode with
          | .eth => sendEth s1 p { fid := d.fid } f
          | _ =>
            match linkFor s p f.ffh with
            | none => raise (discardCopy s1 d.fid) .udpNoVlink p (recFrame f.ffh)
            | some l => departOn s1 l p d f

/-! Frames the spine consumes and generates -/

/-- Take a frame of a kind that the ingress stages have handed over, and keep its cells: its consumer reads them. -/
def takeHeld (s : State) (fid kind : Nat) : Option (StoredFrame × State) :=
  match s.loam.inbox.find? fun e => e.1 == fid, frameOf s fid with
  | some _, some f =>
    if f.ffh.kind != kind then none
    else some (f, { s with loam := { s.loam with inbox := s.loam.inbox.filter fun e => e.1 != fid } })
  | _, _ => none

/-- Drop a frame so taken: its cells are read for the last time (R57) and freed. -/
def dropHeld (s : State) (fid : Nat) : State :=
  match readFrame s fid with
  | (true, s1) => releaseRef s1 fid
  | (false, s1) => s1

/-- Take such a frame, read its cells (R57) and free them; else the state without it. -/
def takeKind (s : State) (fid kind : Nat) : Except State (StoredFrame × State) :=
  match takeHeld s fid kind with
  | none => .error s
  | some (f, s0) =>
    match readFrame s0 fid with
    | (true, s1) => .ok (f, releaseRef s1 fid)
    | (false, s1) => .error s1

/-- The pool that a frame of the spine's own takes: the one named, else the shared pool, where it has room (R60). Log 175 (DESIGN
CHOICE). -/
def ownPool (s : State) (pool : Pool) (n : Nat) : Option Pool :=
  if roomIn s pool n then some pool else if roomIn s .shared n then some .shared else none

/-- Store a frame of the spine's own toward its queues. One that no pool has room for is dropped. Log 175 (DESIGN CHOICE). -/
def spawnTo (s : State) (h : Ffh) (payload : List Byte) (pool : Pool) (dests : List (Nat × QEnt)) : State :=
  match dests with
  | [] => s
  | d :: _ =>
    let n := cellsFor (32 + payload.length)
    match ownPool s pool n with
    | none => raise s .loamDrop (d.1 / 16) (recFrame h)
    | some q =>
      let h2 := { h with ver := 1, plen := payload.length, epoch := s.sh.epoch }
      let f : StoredFrame := { mode := .own, ffh := h2, data := payload, tc := h.tc, pool := q, part := h.part
                               inPort := 0x7FF, inHalf := 0, arrivedAt := s.raw, dests := dests }
      let r := storeFrame s f n dests.length
      queueFrame r.2 r.1

/-- Send a frame that shares the cells of a stored one: its header is generated anew, its payload is the stored frame's
(R18, R202). -/
def spawnShare (s : State) (src : Nat) (h : Ffh) (dest : Nat × QEnt) : State :=
  match frameOf s src with
  | none => s
  | some f =>
    let fid := s.loam.nextFid
    let c : StoredFrame := { f with mode := .own, ffh := { h with ver := 1, plen := f.data.length, epoch := s.sh.epoch }, tc := h.tc
                                    refs := 1, dests := [dest], consumed := false, shares := some src, inPort := 0x7FF
                                    arrivedAt := s.raw }
    let s1 := setRefs s src (f.refs + 1)
    queueFrame { s1 with loam := { s1.loam with frames := tins s1.loam.frames fid c, nextFid := fid + 1 } } fid

/-- Send a frame of the spine's own on a port's TC6 queue. Log 53 (DEDUCED). -/
def spawnControl (s : State) (p : Nat) (h : Ffh) (payload : List Byte) : State :=
  if (portUp s p || (portCarries s p && isKexFrame { h with tc := 6 })) && !portFenced s p then
    spawnTo s { h with tc := 6 } payload (.tc6 0x7FF) [(qKey p 12, ent0)] else s

/-- The arrival of a frame that the spine generates, for routing it: its pointer is that of the first slice of its half. Log 168
(DESIGN CHOICE). -/
def ownArrival (half : Nat) : Arrival := { port := 0x7FF, slice := 8 * half, half := half, esc := false, dim := 15 }

/-- A TC7 frame of the spine's own on a port (R416): it departs in a window owned by 0x7FF, for which it waits in the TC7 queue;
without one in the list in force, or without reserve, it leaves in TC5, charged to a pool. -/
def spawnTc7 (s : State) (h : Ffh) (payload : List Byte) (pool : Pool) (u : Nat) (e : QEnt) : State :=
  let p := u / 16
  let n := cellsFor (32 + payload.length)
  let h7 := { h with ver := 1, plen := payload.length, epoch := s.sh.epoch }
  let asTc5 := fun (t : State) => spawnTo t { h with tc := 5 } payload pool [(qKey p 10, e)]
  let f : StoredFrame := { mode := .own, ffh := h7, data := payload, tc := 7, pool := .tc7 p, part := h.part
                           inPort := 0x7FF, inHalf := 0, arrivedAt := s.raw }
  if (listWith (bxPort s p) 0x7FF (nowU s)).isNone then asTc5 (raise s .tc7WindowMiss p (recFrame h))
  else if tc7Resv s p < tc7Used s p + n then asTc5 (raise s .tc7ResvMiss p (recFrame h))
  else
    let r := storeFrame s f n 1
    scheduleOwn (enqueue r.2 (qKey p 14) { e with fid := r.1 }) p

/-- A frame of the spine's own that an exception delivers to Heath, under a bucket of its own (R133). Log 175 (DESIGN CHOICE). -/
def trapOwn (s : State) (h : Ffh) (payload : List Byte) : State :=
  match trapToHeath s 0x7FF (ffhBytes h ++ payload) with
  | some s1 => s1
  | none => raise s .fexcTrapLimit 0 (recFrame h)

/-- Send a frame of the spine's own to a unicast address, its cells out of a pool: routed like any other; one that finds no port is
dropped with the event of its refusal. -/
def spawnUnicast (s : State) (half : Nat) (h : Ffh) (payload : List Byte) (pool : Pool := .shared) : State :=
  let h2 := { h with epoch := s.sh.epoch, mc := false }
  let a := ownArrival half
  let out := routeUnicast s h2 a
  match egressCheck out.2 h2 a out.1 with
  | .toQueue u e => if h.tc == 7 then spawnTc7 out.2 h payload pool u e else spawnTo out.2 h payload (if h.tc == 6 then .tc6 0x7FF else pool) [(u, e)]
  | .refuse ev sc => raise out.2 ev (if sc < nPorts then sc else u0) (recFrame h2)
  | .trap => trapOwn out.2 h2 payload
where
  u0 : Nat := 0

/-- Send a frame of the spine's own to a multicast group: one set of cells for every copy (R69). -/
def spawnGroup (s : State) (half : Nat) (h : Ffh) (payload : List Byte) (group : Nat) (pool : Pool := .shared) : State :=
  let h2 := { h with epoch := s.sh.epoch, mc := true, dst := selfPlane s * 2 ^ 29 + group }
  let l := groupLook (replica s half) h2.part group
  let s1 := parityHits s half l.bads
  match l.hit with
  | none => raise s1 .mcNoGroup 0 (recFrame h2)
  | some rec =>
    let g := groupCopies s1 h2 0x7FF rec
    let s2 := g.2.foldl (fun t x => raise t x.1 x.2 (recFrame h2)) s1
    if h.tc == 7 then g.1.foldl (fun t d => spawnTc7 t h2 payload pool d.1 d.2) s2
    else spawnTo s2 h2 payload pool g.1

end Sys2Proof.Machine
end

