-- ==== Sys2Proof/Machine/Answer.lean ====
section
/-!
DEFINITION. Machine/Answer.lean: how Heath answers a command: keys and tags (R347, R352), the reply and its cache
(R353, R357, R358), the transports back (R355, R356), and the checks that every command shares (R361 to R363).
-/

namespace Sys2Proof.Machine

open Sys2Proof

/-- INDEX of a reply that names nothing (Table 16.2). -/
def noIndex : Nat := 0xFFFFFFFF

/-- A check that fails: what the reply then says. -/
structure Bad where
  code : Code
  step : Nat := 0
  index : Nat := noIndex
  results : List Byte := []
  deriving DecidableEq, Repr

/-- Fail a check. -/
def failWith {α : Type} (code : Code) (step : Nat := 0) (index : Nat := noIndex) : Except Bad α :=
  .error { code := code, step := step, index := index }

/-- Require a condition. -/
def need (ok : Bool) (code : Code) (step : Nat := 0) (index : Nat := noIndex) : Except Bad Unit :=
  if ok then .ok () else failWith code step index

/-- Check every element with its position, from `i` on. -/
def eachOk {α : Type} (f : Nat → α → Except Bad Unit) : Nat → List α → Except Bad Unit
  | _, [] => .ok ()
  | i, x :: t => match f i x with | .ok _ => eachOk f (i + 1) t | .error b => .error b

/-- Turn a code into a failed check of a step. -/
def atStep {α : Type} (step : Nat) : Except Code α → Except Bad α
  | .ok a => .ok a
  | .error c => failWith c step

/-! Keys -/

/-- The key class of a command: 0 owner, the partition of a tenant key, 0x1000 untagged. -/
def classOf : Authority → Nat
  | .owner => 0
  | .tenant p => p
  | .untagged => 0x1000

def partOf : Authority → Nat
  | .tenant p => p
  | _ => 0

/-- The tenant command key of a bound partition (Table 15.3). -/
def tenantKey (s : State) (part : Nat) : Option (List Byte) :=
  (tfind s.holly.bindings part).map fun b => hkdfExpand b.pms (ascii "NZ1280 tck" ++ beBytes 2 part) 48

/-- The key that a message's PART selects (R347). -/
def keyOfPart (s : State) (part : Nat) : Option (List Byte) := if part == 0 then s.holly.ownerKey else tenantKey s part

def keyOfAuth (s : State) : Authority → Option (List Byte)
  | .owner => s.holly.ownerKey
  | .tenant p => tenantKey s p
  | .untagged => none

/-- The first 16 bytes of a header (Table 16.1). -/
def ncpHead (flags op seq part len : Nat) : List Byte :=
  beBytes 1 0x10 ++ beBytes 1 flags ++ beBytes 2 op ++ beBytes 4 seq ++ beBytes 2 part ++ zeroBytes 2 ++ beBytes 4 len

/-- A message: header, tag, body. UNAUTH is bit 6 of the flags. -/
def ncpMsg (key : Option (List Byte)) (flags op seq part : Nat) (body : List Byte) : List Byte :=
  match key with
  | some k =>
    let h := ncpHead flags op seq part body.length
    h ++ (hmac384 k (h ++ body)).take 16 ++ body
  | none => ncpHead (flags + 0x40) op seq part body.length ++ zeroBytes 16 ++ body

/-- The unit of a transport in bytes, header included (Table 16.4). -/
def unitOf : Transport → Nat
  | .udp .. => 8192
  | .mailbox _ => 16384
  | .inband .. => 8160

/-- The messages of a reply: one, or fragments with their prefixes when it exceeds the unit (R355). -/
def replyMsgs (key : Option (List Byte)) (via : Transport) (trunc : Bool) (op seq part : Nat) (body : List Byte) :
    List (List Byte) :=
  let flags := 0x80 + bitv trunc 4
  if 32 + body.length ≤ unitOf via then [ncpMsg key flags op seq part body]
  else
    let n := unitOf via - 40
    let pieces := chunksOf n (body.length / n + 1) body
    (List.range pieces.length).map fun i =>
      ncpMsg key (flags + 0x20) op seq part (beBytes 4 (i * n) ++ beBytes 4 body.length ++ pieces.getD i [])

/-! Measurements -/

/-- Extend a measurement by an item (R337). -/
def extendMeas (m item : List Byte) : List Byte := sha384 (m ++ sha384 item)

/-- A load of a bound partition extends its measurement 8, by its image and by the programs it names (Table 15.1). -/
def extendMeas8 (s : State) (part : Nat) (items : List (List Byte)) : State :=
  { s with holly := { s.holly with bindings := tadj s.holly.bindings part (fun b => { b with meas8 := items.foldl extendMeas b.meas8 }) } }

/-! Transports -/

/-- Write the next message of a mailbox slot into its reply window: never while READY is set (R356). -/
def mbxPump (s : State) (k : Nat) : State :=
  let m := tget {} s.ncp.mbx k
  match m.waiting with
  | [] => s
  | msg :: t =>
    if m.ready then s
    else
      let m2 := { m with waiting := t, reply := msg, len := msg.length, ready := true, busy := !t.isEmpty }
      emit (emit { s with ncp := { s.ncp with mbx := tset {} s.ncp.mbx k m2 } } (.reply (.mailbox k) msg)) (.msix k)

/-- A frame of the spine's own that answers in-band: on a link that is not up or carries only KEX frames it leaves on that port,
else it is routed to the command's source (Table 16.4). -/
def inbandReply (s : State) (port src : Nat) (msg : List Byte) : State :=
  let h : Ffh := { tc := 6, part := 0, src := spineAddr s (selfSpine s), dst := src, kind := 9 }
  if !portUp s port || linkUnkeyed s ((linkFor s port h).getD port) then spawnControl s port h msg else spawnUnicast s (halfOf port) h msg

/-- Send the messages of a reply on their transport. A slot number of 4 or more stands for a slot that PERST_N has cleared:
its replies are dropped (R404). -/
def deliver (s : State) (via : Transport) (msgs : List (List Byte)) : State :=
  match via with
  | .udp .. => msgs.foldl (fun t m => emit t (.reply via m)) s
  | .mailbox k =>
    if 4 ≤ k then s
    else
    let m := tget {} s.ncp.mbx k
    mbxPump { s with ncp := { s.ncp with mbx := tset {} s.ncp.mbx k { m with waiting := m.waiting ++ msgs } } } k
  | .inband port src => msgs.foldl (fun t m => inbandReply t port src m) s

/-! Replies -/

/-- The body of a reply: status block and results (Table 16.2). -/
def replyBody (code : Code) (step index : Nat) (results : List Byte) : List Byte :=
  beBytes 1 (codeNum code) ++ beBytes 1 step ++ zeroBytes 2 ++ beBytes 4 index ++ results

/-- Keep a reply for its sequence number, cut to 248 bytes; the last 64 are kept, of accepted numbers (R358). The opcode goes before it. -/
def cacheReply (s : State) (cls seq op : Nat) (body : List Byte) : State :=
  match tfind s.ncp.seqs cls with
  | none => s
  | some q =>
    let entry := beBytes 1 (b2n (decide (248 < body.length))) ++ beBytes 2 op ++ body.take 248
    let cache := if q.seen.contains seq then (q.cache.filter fun e => e.1 != seq) ++ [(seq, entry)] else q.cache
    { s with ncp := { s.ncp with seqs := tins s.ncp.seqs cls { q with cache := cache.drop (cache.length - 64) } } }

/-- Answer a command: its counts, the class's last status, the cache, and the reply (R353). Log 11 (DEDUCED). -/
def finish (s : State) (c : Ncp) (op : Nat) (code : Code) (step index : Nat) (results : List Byte) : State :=
  let cls := classOf c.auth
  let body := replyBody code step index results
  let s1 := { s with ncp := { s.ncp with
    cmds := (s.ncp.cmds + 1) % 2 ^ 32
    rejects := if isSuccess code then s.ncp.rejects else (s.ncp.rejects + 1) % 2 ^ 32
    last := tins s.ncp.last cls (codeNum code, op)
    running := s.ncp.running.filter fun r => !(r.cls == cls && r.opcode == op && r.seq == c.seq && r.via == c.via) } }
  let s2 := match c.auth with | .untagged => s1 | _ => cacheReply s1 cls c.seq op body
  deliver s2 c.via (replyMsgs (keyOfAuth s c.auth) c.via false op c.seq (partOf c.auth) body)

/-- Run a command: its results and effects, or the failed check and nothing else (R4). Nothing runs while the hub is in
reset. -/
def runCmd (s : State) (c : Ncp) (op : Nat) (r : Except Bad (List Byte × State)) : Res :=
  if !s.pwr.hubUp then .next s
  else
    match r with
    | .ok (res, s1) => .next (finish s1 c op .done 0 noIndex res)
    | .error b => .next (finish s c op b.code b.step b.index b.results)

/-- Run a command whose reply comes later. -/
def runLong (s : State) (c : Ncp) (op : Nat) (r : Except Bad State) : Res :=
  if !s.pwr.hubUp then .next s
  else
    match r with
    | .ok s1 => .next s1
    | .error b => .next (finish s c op b.code b.step b.index b.results)

/-! Authority (Tables 15.4, 16.5; R362) -/

def tearingDown (s : State) (part : Nat) : Bool := s.haw.pstate == .teardown && s.haw.part == part

/-- The owner's command. -/
def needOwner (c : Ncp) : Except Bad Unit := need (c.auth == .owner) .notAuthorised

/-- A tenant's command: its partition. A partition in teardown answers BUSY_TEARDOWN. -/
def needTenant (s : State) (c : Ncp) : Except Bad Nat :=
  match c.auth with
  | .tenant p => if tearingDown s p then failWith .busyTeardown else .ok p
  | _ => failWith .notAuthorised

/-- A command of the owner or of a tenant. -/
def needKeyed (s : State) (c : Ncp) : Except Bad Unit :=
  match c.auth with
  | .owner => .ok ()
  | .tenant p => if tearingDown s p then failWith .busyTeardown else .ok ()
  | .untagged => failWith .notAuthorised

/-- The body must have exactly the length of the command's parameters. Log 157 (DEDUCED). -/
def needLen (c : Ncp) (n : Nat) : Except Bad Unit := need (c.body.length == n) .badParam

/-! Images -/

/-- Read and check the common header of an image (Table 4.1 and its variants): MAGIC, ILEN and ICRC. -/
def readImage (c : Ncp) (off magic step : Nat) (dmaLocked : Bool) : Except Bad (List Byte) := do
  let img ← atStep step (imgSource c off dmaLocked 16777216)
  need (beAt img 0 4 == magic && beAt img 12 4 == img.length && icrcOk img) .badParam step
  return img

/-- The time check of R92 and R293: the takeover as a 64-bit instant. -/
def checkTime (s : State) (t32 step : Nat) : Except Bad Nat := do
  let d := diff32 t32 (now32 s)
  need s.yew.stepped .timePast step
  need (!decide (d < (fld s .LEAD_US * 1000 : Nat))) .timePast step
  need (!decide (2000000000 < d)) .outOfRange step
  return expand32 s t32

/-- May a pending item of takeover T be replaced or cancelled (R93)? -/
def replaceable (s : State) (t : Option Nat) : Bool :=
  match t with
  | none => true
  | some x => decide (nowNs s + fld s .LEAD_US * 1000 ≤ x)

end Sys2Proof.Machine
end

