-- ==== Sys2Proof/Machine/Num.lean ====
section
/-!
DEFINITION. Machine/Num.lean: Number Formats and Exact Arithmetic: element formats and payloads (R155 to R160), rounding
and conversion (R161, R162), the 320-bit accumulator and the 96-bit partial (R164 to R169), ordered FP32 (R170), and
stochastic rounding (R171, R172).
-/

namespace Sys2Proof.Machine

open Sys2Proof

/-! Formats (Table 7.1) -/

/-- A floating format: width, fraction bits, bias, encoding of the largest finite magnitude, whether it has Inf, and its
canonical NaN (Table 7.2). -/
structure FloatFmt where
  width : Nat
  frac : Nat
  bias : Nat
  maxBits : Nat
  hasInf : Bool
  nanBits : Option Nat

/-- The floating format of a FMT code. -/
def floatFmt (f : Nat) : FloatFmt :=
  match f with
  | 0 => ⟨32, 23, 127, 0x7F7FFFFF, true, some 0x7FC00000⟩
  | 1 => ⟨16, 7, 127, 0x7F7F, true, some 0x7FC0⟩
  | 2 => ⟨16, 10, 15, 0x7BFF, true, some 0x7E00⟩
  | 3 => ⟨8, 3, 7, 0x7E, false, some 0x7F⟩
  | 4 => ⟨8, 2, 15, 0x7B, true, some 0x7E⟩
  | 5 => ⟨6, 2, 3, 0x1F, false, none⟩
  | 6 => ⟨6, 3, 1, 0x1F, false, none⟩
  | _ => ⟨4, 1, 1, 0x7, false, none⟩

/-- Bits of an element of a FMT code. -/
def fmtWidth (f : Nat) : Nat :=
  match f with
  | 8 => 8 | 9 => 32 | 0xE => 320 | 0xF => 96 | _ => (floatFmt f).width

/-- The value of a floating encoding (R156). -/
def floatVal (f : FloatFmt) (x : Nat) : Val :=
  let neg := bitAt x (f.width - 1)
  let mag := x % 2 ^ (f.width - 1)
  let ex := mag / 2 ^ f.frac
  let fr := mag % 2 ^ f.frac
  if f.hasInf && ex == 2 ^ (f.width - 1 - f.frac) - 1 then (if fr == 0 then .inf neg else .nan)
  else if !f.hasInf && f.nanBits == some mag then .nan
  else if mag == 0 then .zero neg
  else if ex == 0 then .fin neg fr 1 (1 - (f.bias : Int) - (f.frac : Int))
  else .fin neg (2 ^ f.frac + fr) 1 ((ex : Int) - (f.bias : Int) - (f.frac : Int))

/-- An integer as a value; zero is +0. -/
def intVal (i : Int) : Val := if i = 0 then .zero false else .fin (decide (i < 0)) i.natAbs 1 0

/-- The value of an element of a FMT code below 0xA. -/
def valOf (f x : Nat) : Val :=
  if f == 8 then intVal (signedOf 8 x) else if f == 9 then intVal (signedOf 32 x) else floatVal (floatFmt f) x

/-! Exact arithmetic on values -/

def Val.isNeg : Val → Bool
  | .nan => false | .inf n => n | .zero n => n | .fin n _ _ _ => n

def Val.negate : Val → Val
  | .nan => .nan | .inf n => .inf (!n) | .zero n => .zero (!n) | .fin n m d e => .fin (!n) m d e

def Val.abs : Val → Val
  | .nan => .nan | .inf _ => .inf false | .zero _ => .zero false | .fin _ m d e => .fin false m d e

/-- The exact product. -/
def Val.mul : Val → Val → Val
  | .nan, _ => .nan
  | _, .nan => .nan
  | .inf _, .zero _ => .nan
  | .zero _, .inf _ => .nan
  | .inf a, y => .inf (a != y.isNeg)
  | x, .inf b => .inf (x.isNeg != b)
  | .zero a, y => .zero (a != y.isNeg)
  | x, .zero b => .zero (x.isNeg != b)
  | .fin a m d e, .fin b m2 d2 e2 => .fin (a != b) (m * m2) (d * d2) (e + e2)

/-- m × 2^s as numerator and denominator over d. -/
def scaled (m d : Nat) (s : Int) : Nat × Nat :=
  if 0 ≤ s then (m * 2 ^ s.toNat, d) else (m, d * 2 ^ (-s).toNat)

/-- The exact sum; a sum of zero is +0 unless both are −0. -/
def Val.add : Val → Val → Val
  | .nan, _ => .nan
  | _, .nan => .nan
  | .inf a, .inf b => if a == b then .inf a else .nan
  | .inf a, _ => .inf a
  | _, .inf b => .inf b
  | .zero a, .zero b => .zero (a && b)
  | .zero _, y => y
  | x, .zero _ => x
  | .fin a m d e, .fin b m2 d2 e2 =>
    let lo := min e e2
    let x : Int := (m * d2 * 2 ^ (e - lo).toNat : Nat)
    let y : Int := (m2 * d * 2 ^ (e2 - lo).toNat : Nat)
    let t := (if a then -x else x) + (if b then -y else y)
    if t = 0 then .zero false else .fin (decide (t < 0)) t.natAbs (d * d2) lo

/-- Exact quotient by a count (R168): Inf and NaN pass. -/
def Val.over (v : Val) (n : Nat) : Val :=
  match v with
  | .fin a m d e => .fin a m (d * n) e
  | x => x

/-- The total order of R168 on values that are not NaN. -/
def Val.lt : Val → Val → Bool
  | .inf true, .inf true => false
  | .inf true, _ => true
  | _, .inf true => false
  | .inf false, _ => false
  | _, .inf false => true
  | .zero a, .zero b => a && !b
  | .zero _, .fin b _ _ _ => !b
  | .fin a _ _ _, .zero _ => a
  | .fin a m d e, .fin b m2 d2 e2 =>
    match Val.add (.fin a m d e) (.fin (!b) m2 d2 e2) with
    | .fin n _ _ _ => n
    | _ => false
  | _, _ => false

/-- Greatest and least; NaN wins in both. -/
def Val.max (a b : Val) : Val :=
  match a, b with
  | .nan, _ => .nan
  | _, .nan => .nan
  | _, _ => if a.lt b then b else a

def Val.min (a b : Val) : Val :=
  match a, b with
  | .nan, _ => .nan
  | _, .nan => .nan
  | _, _ => if b.lt a then b else a

/-! Rounding (R161, R162, R171) -/

/-- A rounding: its mode, SR_BITS, and the generator's output for this element. -/
structure Rnd where
  mode : Nat := 0
  bits : Nat := 12
  r : Nat := 0
  deriving DecidableEq, Repr

def rne : Rnd := {}

/-- The result of a conversion: its bits, and whether it counts FMT_SAT or FMT_NAN_ZERO. -/
structure Conv where
  bits : Nat
  sat : Bool := false
  nanZero : Bool := false
  deriving DecidableEq, Repr

/-- Is the magnitude n + rest / den rounded up? -/
def roundUp (g : Rnd) (neg : Bool) (n rest den : Nat) : Bool :=
  match g.mode with
  | 0 => decide (den < 2 * rest) || (2 * rest == den && n % 2 == 1)
  | 1 => false
  | 2 => rest != 0 && !neg
  | 3 => rest != 0 && neg
  | _ => decide (2 ^ g.bits ≤ rest * 2 ^ g.bits / den + g.r)

/-- The exponent of the leading bit of m / d. -/
def leadExp (m d : Nat) : Int :=
  let a : Int := (Nat.log2 m : Int) - (Nat.log2 d : Int)
  let x := scaled m d (-a)
  if x.2 ≤ x.1 then a else a - 1

/-- Convert to a floating format (R162, Table 7.5). -/
def toFloat (f : FloatFmt) (g : Rnd) (v : Val) : Conv :=
  let sign := fun (n : Bool) => bitv n (f.width - 1)
  let infBits := f.maxBits + 1
  match v with
  | .nan => match f.nanBits with | some b => { bits := b } | none => { bits := 0, nanZero := true }
  | .inf n => if f.hasInf then { bits := sign n + infBits } else { bits := sign n + f.maxBits, sat := true }
  | .zero n => { bits := sign n }
  | .fin n m d e =>
    let low : Int := 1 - (f.bias : Int) - (f.frac : Int)
    let q := max (leadExp m d + e - (f.frac : Int)) low
    let x := scaled m d (e - q)
    let t := x.1 / x.2
    let rest := x.1 % x.2
    let base := (q - low).toNat * 2 ^ f.frac
    let b := base + t + b2n (roundUp g n t rest x.2)
    if f.maxBits < b then
      let toInf := f.hasInf && (g.mode == 0 || g.mode == 4 || (g.mode == 2 && !n) || (g.mode == 3 && n))
      if toInf then { bits := sign n + infBits } else { bits := sign n + f.maxBits, sat := true }
    else { bits := sign n + b, sat := base + t == f.maxBits && rest != 0 }

/-- Convert to a two's-complement integer of `w` bits (R162). -/
def toInt (w : Nat) (g : Rnd) (v : Val) : Conv :=
  let lim := fun (n : Bool) => if n then 2 ^ (w - 1) else 2 ^ (w - 1) - 1
  let put := fun (n : Bool) (x : Nat) => wrapInt w (if n then -(x : Int) else (x : Int))
  match v with
  | .nan => { bits := 0, nanZero := true }
  | .inf n => { bits := put n (lim n), sat := true }
  | .zero _ => { bits := 0 }
  | .fin n m d e =>
    let x := scaled m d e
    let t := x.1 / x.2
    let rest := x.1 % x.2
    let k := t + b2n (roundUp g n t rest x.2)
    if lim n < k then { bits := put n (lim n), sat := true }
    else { bits := put n k, sat := t == lim n && rest != 0 }

/-- Convert a value to a format below 0xA. -/
def convert (f : Nat) (g : Rnd) (v : Val) : Conv :=
  if f == 8 then toInt 8 g v else if f == 9 then toInt 32 g v else toFloat (floatFmt f) g v

/-- RN of R201: FP32 by RNE. -/
def enc32 (v : Val) : Nat := (toFloat (floatFmt 0) rne v).bits
def dec32 (x : Nat) : Val := floatVal (floatFmt 0) x

/-- A value rounded to FP32 by RNE, and whether that changed it. -/
def round32 (v : Val) : Val × Bool :=
  let r := dec32 (enc32 v)
  match v, r with
  | .fin .., .fin .. => (r, (match v.add r.negate with | .zero _ => false | _ => true))
  | .fin .., _ => (r, true)
  | _, _ => (r, false)

/-! The stochastic-rounding generator (R172) -/

def srMix (z0 : Nat) : Nat :=
  let z1 := (z0 ^^^ (z0 / 2 ^ 30)) * 0xBF58476D1CE4E5B9 % 2 ^ 64
  let z2 := (z1 ^^^ (z1 / 2 ^ 27)) * 0x94D049BB133111EB % 2 ^ 64
  z2 ^^^ (z2 / 2 ^ 31)

def srBase (seed coll chunk : Nat) : Nat := srMix (seed ^^^ srMix (coll * 2 ^ 32 + chunk))

/-- The b-bit output for element i of a result. -/
def srOut (base b i : Nat) : Nat :=
  let s0 := base ^^^ srMix (i % 1024 + 0x10000)
  srMix ((s0 + (i / 1024 + 1) * 0x9E3779B97F4A7C15) % 2 ^ 64) / 2 ^ (64 - b)

/-- How an operation rounds element i of its result. -/
structure Rounding where
  mode : Nat
  bits : Nat
  seed : Nat
  coll : Nat
  chunk : Nat

def Rounding.at (r : Rounding) (i : Nat) : Rnd :=
  if r.mode == 4 then { mode := 4, bits := r.bits, r := srOut (srBase r.seed r.coll r.chunk) r.bits i }
  else { mode := r.mode }

/-! The exact accumulator (R164, R165, R167) -/

def accMod : Nat := 2 ^ 298

/-- Add an integer to SUM. -/
def Accum.plus (a : Accum) (i : Int) : Accum := { a with sum := (((a.sum : Int) + i) % (accMod : Int)).toNat }

/-- The integer a × 2^149 of a finite value that FP32 or INT32 holds. -/
def unitsOf (neg : Bool) (m : Nat) (e : Int) : Int :=
  let x := scaled m 1 (e + 149)
  let n : Int := (x.1 / x.2 : Nat)
  if neg then -n else n

/-- An addend enters the accumulator (steps 3 to 5 of R165); `inexact` when step 2 rounded it. -/
def Accum.enter (a : Accum) (v : Val) (inexact : Bool) : Accum :=
  let b := { a with inexact := a.inexact || inexact, nzSeen := a.nzSeen || v != .zero true }
  match v with
  | .nan => { b with nan := true }
  | .inf false => { b with pinf := true }
  | .inf true => { b with ninf := true }
  | .zero _ => b
  | .fin n m _ e => b.plus (unitsOf n m e)

/-- Absorb another accumulator: SUM modulo 2^298, flags by OR. -/
def Accum.absorb (a b : Accum) : Accum :=
  { nan := a.nan || b.nan, pinf := a.pinf || b.pinf, ninf := a.ninf || b.ninf, inexact := a.inexact || b.inexact
    nzSeen := a.nzSeen || b.nzSeen, sum := (a.sum + b.sum) % accMod }

/-- The 320 bits of an accumulator, and back. -/
def Accum.toBits (a : Accum) : Nat :=
  bitv a.nan 319 + bitv a.pinf 318 + bitv a.ninf 317 + bitv a.inexact 316 + bitv a.nzSeen 315 + a.sum

def Accum.ofBits (x : Nat) : Accum :=
  { nan := bitAt x 319, pinf := bitAt x 318, ninf := bitAt x 317, inexact := bitAt x 316, nzSeen := bitAt x 315
    sum := x % accMod }

/-- The final value (R167). Log 88 (DEDUCED). -/
def Accum.final (a : Accum) : Val :=
  if a.nan || (a.pinf && a.ninf) then .nan
  else if a.pinf then .inf false
  else if a.ninf then .inf true
  else if a.sum == 0 then .zero (!a.nzSeen)
  else let i := signedOf 298 a.sum; .fin (decide (i < 0)) i.natAbs 1 (-149)

/-- The partial of an accumulator (R169); none when it cannot be formed exactly. -/
def Accum.partial? (a : Accum) : Option Nat :=
  let spec := if a.nan || (a.pinf && a.ninf) then 3 else if a.pinf then 1 else if a.ninf then 2 else 0
  let head := bitv a.inexact 95 + bitv a.nzSeen 94 + spec * 2 ^ 92
  if spec != 0 then some head
  else
    let i := signedOf 298 a.sum
    let fitsAt := fun (e : Nat) =>
      decide (-((2 ^ 79 : Nat) : Int) ≤ i / ((2 ^ e : Nat) : Int)) && decide (i / ((2 ^ e : Nat) : Int) < ((2 ^ 79 : Nat) : Int))
    match (List.range 219).find? fitsAt with
    | none => none
    | some e => if i % ((2 ^ e : Nat) : Int) = 0 then some (head + e * 2 ^ 80 + wrapInt 80 (i / ((2 ^ e : Nat) : Int))) else none

/-- Absorb a partial (R169). -/
def Accum.absorbPartial (a : Accum) (x : Nat) : Accum :=
  let spec := bitsOf x 93 92
  let b := { a with inexact := a.inexact || bitAt x 95, nzSeen := a.nzSeen || bitAt x 94 }
  match spec with
  | 0 => b.plus (signedOf 80 x * ((2 ^ bitsOf x 87 80 : Nat) : Int))
  | 1 => { b with pinf := true }
  | 2 => { b with ninf := true }
  | _ => { b with nan := true }

/-- Are the reserved bits of a 0xE or 0xF element clear (R158)? -/
def exactElemOk (f x : Nat) : Bool :=
  if f == 0xE then bitsOf x 314 298 == 0
  else if f == 0xF then
    bitsOf x 91 88 == 0 && decide (bitsOf x 87 80 ≤ 218) && (bitsOf x 93 92 == 0 || bitsOf x 87 0 == 0)
  else true

/-- The value of an element of any format (Table 7.1): a 0xE or 0xF element has the value of the accumulator it describes. -/
def elemVal (f x : Nat) : Val :=
  if f == 0xE then (Accum.ofBits x).final
  else if f == 0xF then (({} : Accum).absorbPartial x).final
  else valOf f x

/-! The residue check (R189), modulo p = 2^61 − 1 -/

def resP : Nat := 2 ^ 61 - 1

def intRes (i : Int) : Nat := (i % (resP : Int)).toNat

/-- The residue of an exact value × 2^k; that of zero, and of a value that is not finite, is 0. -/
def Val.res (v : Val) (k : Int) : Nat :=
  match v with
  | .fin n m _ e =>
    let r := m % resP * 2 ^ ((e + k) % 61).toNat % resP
    if n then (resP - r) % resP else r
  | _ => 0

/-- The five flags of an accumulator. -/
def Accum.flags (a : Accum) : Nat := a.toBits / 2 ^ 315

/-- What the channel takes of an addend: A, and its flags. -/
def chanOf (v : Val) (inexact : Bool) : Nat × Nat := (v.res 149, (({} : Accum).enter v inexact).flags)

/-- The same of a 0xF element: A is SIG × 2^E mod p. -/
def chanOfPartial (x : Nat) : Nat × Nat :=
  let a := ({} : Accum).absorbPartial x
  (if bitsOf x 93 92 == 0 then intRes (signedOf 80 x * ((2 ^ bitsOf x 87 80 : Nat) : Int)) else 0, a.flags)

/-- The channel adds (i + 1) × A for every addend of a chunk from position `off` on, and keeps the flags of each element. -/
def chanAdd (off : Nat) (xs : List (Nat × Nat)) (c : Nat × List Nat) : Nat × List Nat :=
  ((xs.mapIdx fun j x => (off + j + 1) * x.1).foldl (· + ·) c.1 % resP,
   c.2.mapIdx fun i g => if off ≤ i then (match xs[i - off]? with | some x => g ||| x.2 | none => g) else g)

/-- Does the lane state agree with the channel: F with C, and every element's flags? -/
def residueOk (as : List Accum) (c : Nat × List Nat) : Bool :=
  (as.mapIdx fun i a => (i + 1) * intRes (signedOf 298 a.sum)).foldl (· + ·) 0 % resP == c.1 && as.map Accum.flags == c.2

/-! Payloads (R39, R157 to R159) -/

/-- A parsed payload: format, element codes, the row scales (none without a preamble), and whether they are E8M0. -/
structure Tensor where
  fmt : Nat
  elems : List Nat
  scales : List Val
  e8 : Bool := false
  deriving DecidableEq, Repr

/-- The elements in a byte string (R157); none when it holds no whole number of them. -/
def elemsOf (f : Nat) (b : List Byte) : Option (List Nat) :=
  let n := b.length
  match f with
  | 5 | 6 =>
    if n % 3 != 0 then none
    else some ((List.range (n / 3)).flatMap fun j => let w := beAt b (3 * j) 3; [bitsOf w 23 18, bitsOf w 17 12, bitsOf w 11 6, bitsOf w 5 0])
  | 7 => some (b.flatMap fun x => [x.toNat / 16, x.toNat % 16])
  | _ =>
    let w := fmtWidth f / 8
    if n % w != 0 then none else some ((List.range (n / w)).map fun i => beAt b (w * i) w)

/-- Bytes of elements (R157), padded with zero elements to whole bytes. -/
def packElems (f : Nat) (l : List Nat) : List Byte :=
  match f with
  | 5 | 6 =>
    (chunksOf 4 (l.length + 1) l).flatMap fun q =>
      beBytes 3 (q.getD 0 0 * 2 ^ 18 + q.getD 1 0 * 2 ^ 12 + q.getD 2 0 * 64 + q.getD 3 0)
  | 7 => (chunksOf 2 (l.length + 1) l).flatMap fun q => beBytes 1 (q.getD 0 0 * 16 + q.getD 1 0)
  | _ => l.flatMap fun x => beBytes (fmtWidth f / 8) x

/-- Payload faults of Table 7.3. -/
inductive PayFault where
  | rows | scale | exact
  deriving DecidableEq, Repr

/-- The value of an E8M0 scale (R159). -/
def e8m0 (x : Nat) : Val := if x == 0xFF then .nan else .fin false 1 1 ((x : Int) - 127)

/-- Parse a payload, without any trailer (R157, R158). -/
def parsePayload (f : Nat) (scl : Bool) (b : List Byte) : Except PayFault Tensor :=
  if scl && (f == 0xE || f == 0xF || decide (1 < beAt b 2 1)) then .error .scale
  else
    let rows := if scl then beAt b 0 2 else 0
    let w := if beAt b 2 1 == 0 then 1 else 4
    let head := if scl then 4 * ceilDiv (4 + rows * w) 4 else 0
    if b.length < head || (scl && rows == 0) then .error .rows
    else
      match elemsOf f (b.drop head) with
      | none => .error .rows
      | some es =>
        if scl && es.length % rows != 0 then .error .rows
        else if !es.all (exactElemOk f) then .error .exact
        else
          .ok { fmt := f, elems := es, e8 := scl && w == 1
                scales := (List.range rows).map fun r => if w == 1 then e8m0 (beAt b (4 + r) 1) else dec32 (beAt b (4 + 4 * r) 4) }

/-- The row scale of element i; none when the payload has no scales. -/
def Tensor.scaleAt (t : Tensor) (i : Nat) : Option Val :=
  if t.scales.isEmpty then none else t.scales[i / (t.elems.length / t.scales.length)]?

/-- The addend of an element under a row scale and weights: steps 1 and 2 of R165. -/
def addendOf (x : Val) (factors : List Val) : Val × Bool :=
  if factors.isEmpty then (x, false) else round32 (factors.foldl Val.mul x)

/-- The addends of a payload. -/
def Tensor.addends (t : Tensor) (weights : List Val) : List (Val × Bool) :=
  (List.range t.elems.length).map fun i => addendOf (elemVal t.fmt (t.elems.getD i 0)) ((t.scaleAt i).toList ++ weights)

/-! Microscaling blocks to row scales (R160) -/

/-- The elements of a payload with their block scales. -/
def Tensor.blocks (t : Tensor) : List (Val × Option Val) :=
  (List.range t.elems.length).map fun i => (elemVal t.fmt (t.elems.getD i 0), t.scaleAt i)

/-- An output row from the elements of its microscaling blocks: their values over the largest block scale; an element without a
scale has the scale 1. A NaN block scale makes a row of NaN. -/
def mxRow (xs : List (Val × Option Val)) : List Val :=
  if xs.any (·.2 == some .nan) then xs.map fun _ => Val.nan
  else
    let exp := fun (v : Option Val) => match v with | some (.fin _ _ _ e) => e | _ => 0
    let exps := xs.map fun x => exp x.2
    let top := exps.foldl max (exps.headD 0)
    xs.map fun x => x.1.mul (.fin false 1 1 (exp x.2 - top))

/-- Does an output format hold a value exactly? -/
def heldBy (fmt : Nat) (v : Val) : Bool :=
  match v, valOf fmt (convert fmt rne v).bits with
  | .nan, _ => true
  | .inf a, .inf b => a == b
  | .inf _, _ => false
  | x, y => match y.add x.negate with | .zero _ => true | _ => false

/-! User programs (R187) -/

/-- The fields of an instruction. -/
structure KInstr where
  op : Nat
  d : Nat
  a : Nat
  b : Nat
  imm : Nat
  deriving DecidableEq, Repr

def kInstr (x : Nat) : KInstr :=
  { op := bitsOf x 63 56, d := bitsOf x 55 53, a := bitsOf x 52 50, b := bitsOf x 49 47, imm := bitsOf x 31 0 }

/-- One instruction on the registers (FP32 encodings), for an element and its row scale. -/
def kExec (x s : Val) (v : List Nat) (i : KInstr) : List Nat :=
  let g := fun n => dec32 (v.getD n 0)
  let put := fun (y : Val) => setNth v i.d (enc32 y)
  match i.op with
  | 1 => put x
  | 2 => put (x.mul s)
  | 3 => setNth v i.d i.imm
  | 4 => put ((g i.a).add (g i.b))
  | 5 => put ((g i.a).mul (g i.b))
  | 6 => put (((g i.a).mul (g i.b)).add (g i.d))
  | 7 => put ((g i.a).max (g i.b))
  | 8 => put ((g i.a).min (g i.b))
  | 9 => put (g i.a).abs
  | 10 => put (g i.a).negate
  | 11 => put (((g i.a).min (dec32 i.imm).abs).max (dec32 i.imm).abs.negate)
  | _ => v

/-- A program's result for an element: the register its OUT names. -/
def kRun (p : List Nat) (x s : Val) : Val :=
  let is := p.map kInstr
  let v := is.foldl (kExec x s) (List.replicate 8 0)
  match is.getLast? with
  | some i => dec32 (v.getD i.a 0)
  | none => .zero false

/-- The registers an instruction reads. -/
def kReads (i : KInstr) : List Nat :=
  match i.op with
  | 4 | 5 | 7 | 8 => [i.a, i.b]
  | 6 => [i.a, i.b, i.d]
  | 9 | 10 | 11 | 12 => [i.a]
  | _ => []

/-- Step 4 of R188: OUT last and only there, no register read before it is written. -/
def kStructOk : List Nat → List KInstr → Bool
  | _, [] => false
  | w, [i] => i.op == 12 && (kReads i).all w.contains
  | w, i :: t => i.op != 12 && (kReads i).all w.contains && kStructOk (i.d :: w) t

/-! exp and the sigmoid, evaluated exactly and rounded once (R201) -/

/-- exp(|x|) × 2^P by its series, in fixed point; below by at most `terms` × the sum in units of the last place.
Log 87 (DEDUCED). -/
def expSeries (x prec : Nat) : Nat → Nat → Nat → Nat → Nat
  | 0, _, _, acc => acc
  | fuel + 1, n, term, acc =>
    let t := term * x / 2 ^ prec / n
    if t = 0 then acc else expSeries x prec fuel (n + 1) t (acc + t)

/-- exp(|v|) in units of 2^-1024, for |v| of at most 200. -/
def expAbs (m d : Nat) (e : Int) : Nat :=
  let x := scaled m d (e + 1024)
  expSeries (x.1 / x.2) 1024 4096 1 (2 ^ 1024) (2 ^ 1024)

/-- Is |v| above 200? -/
def beyond200 (m d : Nat) (e : Int) : Bool := let x := scaled m d e; decide (200 * x.2 < x.1)

/-- exp as a value that rounds to FP32 as the exact exp does: |v| above 200 lies beyond FP32 both ways. -/
def expVal (v : Val) : Val :=
  match v with
  | .nan => .nan
  | .inf n => if n then .zero false else .inf false
  | .zero _ => .fin false 1 1 0
  | .fin n m d e =>
    if beyond200 m d e then (if n then .fin false 1 1 (-200) else .fin false 1 1 200)
    else if n then .fin false (2 ^ 1024) (expAbs m d e) 0 else .fin false (expAbs m d e) (2 ^ 1024) 0

/-- 1 / (1 + exp(−v)), likewise. -/
def sigmoidVal (v : Val) : Val :=
  match v with
  | .nan => .nan
  | .inf n => if n then .zero false else .fin false 1 1 0
  | .zero _ => .fin false 1 2 0
  | .fin n m d e =>
    if beyond200 m d e then (if n then .fin false 1 1 (-200) else .fin false 1 1 0)
    else
      let x := expAbs m d e
      if n then .fin false (2 ^ 1024) (x + 2 ^ 1024) 0 else .fin false x (x + 2 ^ 1024) 0

/-- A quotient of FP32 values, exact. -/
def Val.div : Val → Val → Option Val
  | .fin a m d e, .fin b m2 d2 e2 => some (.fin (a != b) (m * d2) (d * m2) (e - e2))
  | .zero a, .fin b _ _ _ => some (.zero (a != b))
  | _, _ => none

end Sys2Proof.Machine
end

