-- ==== Sys2Proof/Machine/KaoOps.lean ====
section
/-!
DEFINITION. Machine/KaoOps.lean: Kaolin: engines, lane files and paging (R175 to R178), conversion counts (R162), check records
(R192), and marked chunks (R191).
-/

namespace Sys2Proof.Machine

open Sys2Proof

def kEng (s : State) (k : Nat) : KEngine := tget {} s.kao.engines k

def setKEng (s : State) (k : Nat) (e : KEngine) : State := { s with kao := { s.kao with engines := tset {} s.kao.engines k e } }

/-- Is an engine awake? Work for one that sleeps starts its wake and waits in its cells (R27, R178). -/
def engineAwake (s : State) (k : Nat) : Bool := domainAwake s (327 + k)

/-- Enabled groups of an engine (R176). -/
def groupsOn (s : State) (k : Nat) : Nat := popCount 16 (fldI s .GROUP_EN k)

/-- Lane-file entries per lane that a chunk takes: its logical lanes run in rotation on the enabled ones (R176). -/
def laneEntries (s : State) (k len : Nat) : Nat := ceilDiv len 1024 * ceilDiv 16 (max 1 (groupsOn s k))

def residentEntries (e : KEngine) : Nat := (e.resident.map (·.2.2)).foldl (· + ·) 0

/-! A chunk in an engine is named by its stream and its number. The stream of a collective is `PART` × 2^32 + `COLL_ID`; that
of token k carries (k + 1) × 2^64 above its `PART` and `COLL_ID`. -/

def streamColl (x : Nat) : Nat := x % 2 ^ 32
def streamPart (x : Nat) : Nat := x / 2 ^ 32 % 4096

def recStream (stream chunk : Nat) : Rec := recColl (streamPart stream) (streamColl stream) chunk 0 0

/-- Page out the least recently used chunks until `need` entries are free (R177). Log 90 (DESIGN CHOICE). -/
def pageOut (k need : Nat) : Nat → State → State
  | 0, s => s
  | n + 1, s =>
    let e := kEng s k
    if residentEntries e + need ≤ 128 then s
    else
      match e.resident with
      | [] => s
      | v :: t => pageOut k need n (raise (setKEng s k { e with resident := t }) .kaoPageOut k (recStream v.1 v.2.1))

/-- An addend arrives for a chunk: it is made resident, and the most recently used (R177). Log 177 (DESIGN CHOICE). -/
def touchChunk (s : State) (k coll chunk len : Nat) (opening : Bool) : State :=
  let e := kEng s k
  let rest := e.resident.filter fun r => !(r.1 == coll && r.2.1 == chunk)
  let s1 := wakeDomain s (327 + k)
  if rest.length < e.resident.length then
    setKEng s1 k { e with resident := rest ++ e.resident.filter fun r => r.1 == coll && r.2.1 == chunk }
  else
    let need := laneEntries s k len
    let s2 := pageOut k need 129 s1
    let e2 := kEng s2 k
    let s3 := setKEng s2 k { e2 with resident := e2.resident ++ [(coll, chunk, need)] }
    if opening then s3 else raise s3 .kaoPageIn k (recStream coll chunk)

/-- A chunk closes: its entries are free. -/
def closeChunk (s : State) (k coll chunk : Nat) : State :=
  let e := kEng s k
  setKEng s k { e with resident := e.resident.filter fun r => !(r.1 == coll && r.2.1 == chunk) }

/-- Exact addends enter the lanes. -/
def noteAdds (s : State) (k n : Nat) : State :=
  let e := kEng s k
  setKEng s k { e with adds := (e.adds + n) % 2 ^ 64 }

/-- Count what conversions report (R162): E scope of an engine or array. -/
def countConv (s : State) (scope : Nat) (cs : List Conv) (r : Rec := {}) : State :=
  raiseN (raiseN s .fmtSat scope (cs.filter (·.sat)).length r) .fmtNanZero scope (cs.filter (·.nanZero)).length r

/-- Count a payload fault (Table 7.3). -/
def countPayFault (s : State) (scope : Nat) (x : PayFault) (r : Rec := {}) : State :=
  raise s (match x with | .rows => .fmtRowMismatch | .scale => .fmtBadScale | .exact => .fmtBadExact) scope r

/-! Check records (R192). Core die of half h is die h; VCORE and VMARL of half h are rails h and 2 + h (from 0). -/

def dieTemp64 (s : State) (die : Nat) : Int := dieTemp s die * 64 / 10

def railMv (s : State) (rail nominal : Nat) : Nat := (tget (nominal, 0) s.pwr.rails rail).1

/-- Engines of a half that hold work. -/
def busyEngines (s : State) (half : Nat) : Nat :=
  ((List.range 8).map fun j => bitv (!(kEng s (8 * half + j)).resident.isEmpty) j).foldl (· + ·) 0

/-- Marl groups of a half with an open token on one of their tiles. -/
def busyGroups (s : State) (half : Nat) : Nat :=
  let mops := (s.marl.tokens.filter fun e => e.2.half == half).map (·.2.mop)
  ((List.range 8).map fun g =>
    bitv (s.marl.tiles.any fun t => t.array / 8 == 8 * half + g && mops.contains t.mop) g).foldl (· + ·) 0

def kaoRecord (s : State) (k kind other coll chunk : Nat) : CheckRec :=
  let h := k / 8
  { kind := kind, other := other, coll := streamColl coll, chunk := chunk, temp := dieTemp64 s h, volt := railMv s h 750
    marlBusy := busyGroups s h, engBusy := busyEngines s h
    unitBusy := if (kEng s k).resident.isEmpty then 0 else fldI s .GROUP_EN k, time := now32 s }

/-- A residue check fails on an engine (R190). Log 91 (DESIGN CHOICE). -/
def residueFails (s : State) (k coll chunk : Nat) : State :=
  let e := kEng s k
  let s1 := setKEng s k { e with residueErr := satAdd 16 e.residueErr 1, log := kaoRecord s k 1 0 coll chunk }
  raise s1 .kaoResidueErr k (recStream coll chunk)

/-! Marked chunks (R191) -/

/-- An engine opens a chunk with these lanes; every SHADOW_INTERVAL-th is marked. -/
def openOnEngine (s : State) (k coll chunk : Nat) (lanes : List Lane) : Bool × State :=
  let e := kEng s k
  if !flag s .SHADOW_EN then (false, s)
  else if fld s .SHADOW_INTERVAL ≤ e.opened + 1 then
    (true, setKEng s k { e with opened := 0, shadows := e.shadows ++ [{ coll := coll, chunk := chunk, lanes := lanes }] })
  else (false, setKEng s k { e with opened := e.opened + 1 })

def shadowOf (s : State) (k coll chunk : Nat) : Option ShadowRun :=
  (kEng s k).shadows.find? fun r => r.coll == coll && r.chunk == chunk

def modShadow (s : State) (k coll chunk : Nat) (g : ShadowRun → ShadowRun) : State :=
  let e := kEng s k
  setKEng s k { e with shadows := e.shadows.map fun r => if r.coll == coll && r.chunk == chunk then g r else r }

/-- The input cells of an added piece: released, or kept for the partner of a marked chunk. -/
def releaseInputs (s : State) (k coll chunk : Nat) (fids : List Nat) : State :=
  match shadowOf s k coll chunk with
  | some _ => modShadow s k coll chunk fun r => { r with fids := r.fids ++ fids }
  | none => fids.foldl releaseRef s

/-- Forget a shadow run: the references it holds are released. -/
def endShadow (s : State) (k : Nat) (r : ShadowRun) : State :=
  let e := kEng s k
  r.fids.foldl releaseRef (setKEng s k { e with shadows := e.shadows.filter fun x => !(x.coll == r.coll && x.chunk == r.chunk) })

/-- A shadow run is abandoned. -/
def skipShadow (s : State) (k : Nat) (r : ShadowRun) : State :=
  raise (endShadow s k r) .kaoShadowSkip k (recStream r.coll r.chunk)

/-- The partner of a marked chunk adds what the primary adds. -/
def shadowAdd (s : State) (k coll chunk : Nat) (g : List Lane → List Lane) : State :=
  modShadow s k coll chunk fun r => { r with lanes := g r.lanes }

/-- The final read of a marked chunk, from these lanes. -/
def readShadow (s : State) (k coll chunk : Nat) (lanes : List Lane) : State :=
  modShadow s k coll chunk fun r => { r with readAt := some s.raw, primary := lanes }

/-- An open chunk is discarded without a final read: a shadow run of it ends. -/
def dropRun (s : State) (k coll chunk : Nat) : State :=
  match shadowOf s k coll chunk with
  | some r => if r.readAt.isNone then endShadow s k r else s
  | none => s

/-! Programs (R186) -/

def kProg (s : State) (n : Nat) : List Nat := match tfind s.kao.progs n with | some p => p.instrs | none => []

end Sys2Proof.Machine
end

