-- ==== Sys2Proof/Machine/MarlOps.lean ====
section
/-!
DEFINITION. Machine/MarlOps.lean: Marl: operators and tiles (R195 to R198), tokens and combine records (R199 to R205),
products (R200, R206, R207) and weight errors (R208, R209).
-/

namespace Sys2Proof.Machine

open Sys2Proof

/-! Reservations with clods -/

/-- Clods of a half, those of its own stacks first, then the other half's, outside the retry pools (R71, R219). STACK_EN
is for spill and hold clods only (Table 3.12). -/
def takeClods (kind : ClodKind) (part owner half : Nat) : Nat → State → Option (List Nat × State)
  | 0, s => some ([], s)
  | n + 1, s =>
    let pick := fun (h : Nat) =>
      if (s.loam.clods.filter fun e => e.1 / clodsPerStack / 6 == h && e.2.kind != .hold).length + fldI s .RETRY_POOL h < 6 * clodsPerStack
      then (stacksFrom h 0).findSome? (freeClodOf s.loam) else none
    match (pick half).orElse fun _ => pick (1 - half) with
    | none => none
    | some c =>
      (takeClods kind part owner half n { s with loam := takeClod s.loam c kind part owner 16 }).map fun r => (c :: r.1, r.2)

/-- Reserve cells and clods for a partition, all or nothing (R21): the clods are taken at once, under the reservation's number
(Table 3.2). -/
def reserveUnits (s : State) (part cells clods : Nat) (kind : ClodKind) (half : Nat) : Option (Nat × State) :=
  match reserve s part cells clods with
  | none => none
  | some _ =>
    match reserve s part cells 0 with
    | none => none
    | some (id, s1) =>
      (takeClods kind part (id % 2 ^ 24) half clods s1).map fun r =>
        (id, { r.2 with loam := { r.2.loam with resvs := tadj r.2.loam.resvs id fun x => { x with clodIds := r.1 } } })

/-- Release a reservation and its clods. -/
def releaseUnits (s : State) (id : Nat) : State :=
  let all := match tfind s.loam.resvs id with | some r => r.clodIds | none => []
  let ids := all.filter fun c => (tget ({} : ClodRec) s.loam.clods c).kind != .retired
  unreserve { s with loam := ids.foldl freeClod s.loam } id

/-! Operators (Table 9.2) -/

def mopOf (s : State) (id : Nat) : Option Mop := tfind s.marl.mops id

def mKind (m : Mop) : Nat := beAt m.header 5 1
def mWfmt (m : Mop) : Nat := beAt m.header 7 1 % 16
def mPart (m : Mop) : Nat := beAt m.header 8 2 % 4096
def mLayer (m : Mop) : Nat := beAt m.header 10 2
def mRop (m : Mop) : Nat := beAt m.header 12 1 % 16
def mH (m : Mop) : Nat := beAt m.header 14 2
def mE (m : Mop) : Nat := beAt m.header 16 2
def mK (m : Mop) : Nat := beAt m.header 18 1
def mGate (m : Mop) : Nat := bitsOf (beAt m.header 19 1) 7 6
def mExclude (m : Mop) : Bool := bitAt (beAt m.header 19 1) 5
def mGateOut (m : Mop) : Bool := bitAt (beAt m.header 19 1) 4
def mOfmt (m : Mop) : Nat := bitsOf (beAt m.header 20 1) 7 4
def mRmode (m : Mop) : Nat := beAt m.header 20 1 % 8
def mSrBits (m : Mop) : Nat := beAt m.header 21 1
def mPieceElems (m : Mop) : Nat := beAt m.header 22 2
def mGateScale (m : Mop) : Nat := beAt m.header 24 4
def mSeed (m : Mop) : Nat := beAt m.header 28 8
def mMaxTokens (m : Mop) : Nat := beAt m.header 36 2
def mOutLayer (m : Mop) : Nat := beAt m.header 38 2
def mOutOper (m : Mop) : Nat := beAt m.header 40 2
def mImgId (m : Mop) : Nat := beAt m.header 48 8

def setMop (s : State) (id : Nat) (m : Mop) : State := { s with marl := { s.marl with mops := tins s.marl.mops id m } }

/-- The router of a key (R199). -/
def routerOf (s : State) (part layer rop : Nat) : Option (Nat × Mop) :=
  s.marl.mops.find? fun e => mKind e.2 == 1 && mPart e.2 == part && mLayer e.2 == layer && mRop e.2 == rop

/-! Tiles (R195, R198) -/

/-- The 16-byte words of a page of weight SRAM, each under its own SECDED (R195). -/
def pageWords : Nat := 2048

/-- The number of a word of a page. -/
def weightWord (page word : Nat) : Nat := page * pageWords + word

/-- The errors that stand once a page has been written anew, or read. -/
def clearPage (k : Nat) (errs : Table Nat) : Table Nat := tfilter (fun w _ => w / pageWords != k) errs

def mArray (s : State) (a : Nat) : MArray := tget {} s.marl.arrays a
def setArray (s : State) (a : Nat) (x : MArray) : State := { s with marl := { s.marl with arrays := tset {} s.marl.arrays a x } }

/-- Pages of a tile (R195). -/
def tilePages (wfmt : Nat) : Nat := if wfmt == 7 then 1 else if wfmt == 1 then 4 else 2

/-- The free pages of an array. -/
def freePages (l : Marl) (a : Nat) : List Nat :=
  let used := (l.tiles.filter fun t => t.array == a).flatMap (·.pages)
  (List.range 128).filter fun p => !used.contains p && !l.retired.contains (a * 128 + p)

/-- The array of a half with the most free pages among some, the lower number in a tie. -/
def roomiest (l : Marl) (half n : Nat) (ok : Nat → Bool) : Option Nat :=
  let cand := ((List.range 64).map (64 * half + ·)).filter fun a => ok a && decide (n ≤ (freePages l a).length)
  minBy (fun a => 128 - (freePages l a).length) cand

/-- Place a tile (R198). -/
def placeTile (l : Marl) (mop half j n : Nat) : Option Marl :=
  let holds := fun a => l.tiles.any fun t => t.mop == mop && t.array == a
  let a? := (roomiest l half n fun a => !holds a).orElse fun _ => roomiest l half n fun _ => true
  a?.map fun a => { l with tiles := l.tiles ++ [{ mop := mop, half := half, j := j, array := a, pages := (freePages l a).take n }] }

/-- Place tiles in order. -/
def placeAll (mop n : Nat) : List (Nat × Nat) → Marl → Option Marl
  | [], l => some l
  | (half, j) :: t, l => (placeTile l mop half j n).bind (placeAll mop n t)

/-- The tiles of an operator: both halves hold all of them, or half b those of expert block b (R198). -/
def tilePlan (h e : Nat) : List (Nat × Nat) :=
  let hb := h / 256
  let t := hb * ceilDiv e 256
  if t ≤ 64 then [0, 1].flatMap fun half => (List.range t).map fun j => (half, j)
  else (List.range t).map fun j => (j / hb, j)

def isSplit (m : Mop) : Bool := decide (64 < mH m / 256 * ceilDiv (mE m) 256)

/-- The tiles a product in a half reads. -/
def tilesRead (s : State) (id half : Nat) (split : Bool) : List Tile :=
  s.marl.tiles.filter fun t => t.mop == id && (split || t.half == half)

/-- The first array of a product, at which its conversions and faults are counted. -/
def firstArray (s : State) (id half : Nat) (split : Bool) : Nat :=
  match (tilesRead s id half split).head? with | some t => t.array | none => 64 * half

/-- Are the groups of an operator's tiles in a half awake (R27)? -/
def mopAwake (s : State) (id half : Nat) (split : Bool) : Bool :=
  (tilesRead s id half split).all fun t => domainAwake s (343 + t.array / 8)

/-- The groups of an operator's tiles in a half wake (R27). -/
def wakeMop (s : State) (id half : Nat) (split : Bool) : State :=
  ((tilesRead s id half split).map fun t => 343 + t.array / 8).eraseDups.foldl wakeDomain s

/-- Is a tile on a retired page? -/
def tileBroken (s : State) (t : Tile) : Bool := t.pages.any fun p => s.marl.retired.contains (t.array * 128 + p)

/-! Weight errors (R209) -/

def marlRecord (s : State) (a kind mop coll chunk : Nat) : CheckRec :=
  let h := a / 64
  { kind := kind, other := mop, coll := coll, chunk := chunk, temp := dieTemp64 s h, volt := railMv s (2 + h) 700
    marlBusy := busyGroups s h, engBusy := busyEngines s h
    unitBusy := ((List.range 8).map fun i =>
      bitv (s.marl.tiles.any fun t => t.array == a / 8 * 8 + i && s.marl.tokens.any fun e => e.2.mop == t.mop) i).foldl (· + ·) 0
    time := now32 s }

/-- The words of a page whose bits carry an error of a kind. -/
def pageErrs (s : State) (k kind : Nat) : Nat := (s.marl.errs.filter fun e => e.1 / pageWords == k && e.2 == kind).length

/-- A page of a tile read: errors of its words are corrected and counted, and uncorrectable ones retire it, with its operator
failed (R209). -/
def readPage (s : State) (id coll chunk : Nat) (t : Tile) (p : Nat) : State :=
  let k := t.array * 128 + p
  let a := mArray s t.array
  let ces := pageErrs s k 1
  let ues := pageErrs s k 2
  if ces + ues == 0 then s
  else
    let s1 := { s with marl := { s.marl with errs := clearPage k s.marl.errs } }
    let s2 := raiseN (setArray s1 t.array { a with ce := satAdd 16 a.ce ces }) .marlWCe t.array ces (recVal k)
    if ues == 0 then s2
    else
      let s3 := setArray { s2 with marl := { s2.marl with retired := s2.marl.retired ++ [k] } } t.array
        { mArray s2 t.array with ue := satAdd 16 a.ue ues, log := marlRecord s t.array 3 id coll chunk }
      let s4 := raiseN s3 .marlWUe t.array ues (recVal k)
      match mopOf s4 id with
      | some m => if mKind m == 2 then s4 else setMop s4 id { m with failed := true }
      | none => s4

/-- Read the weights of an operator for a product in a half. -/
def readWeights (s : State) (id half coll chunk : Nat) : State :=
  match mopOf s id with
  | none => s
  | some m => (tilesRead s id half (isSplit m)).foldl (fun u t => t.pages.foldl (fun v p => readPage v id coll chunk t p) u) s

/-- Must a product wait for a basis tile to be rewritten (R209)? -/
def basisWaits (s : State) (id half : Nat) : Bool :=
  match mopOf s id with
  | some m => mKind m == 2 && (tilesRead s id half (isSplit m)).any (tileBroken s)
  | none => false

/-- A row check fails at an array (R209). -/
def rowFails (s : State) (a mop coll chunk : Nat) : State :=
  let x := mArray s a
  raise (setArray s a { x with rowErr := satAdd 16 x.rowErr 1, log := marlRecord s a 1 mop coll chunk }) .marlRowErr a (recVal mop)

/-- A column check fails at an array: reported only (R209). -/
def colFails (s : State) (a mop coll chunk : Nat) : State :=
  let x := mArray s a
  raise (setArray s a { x with colErr := satAdd 16 x.colErr 1, log := marlRecord s a 2 mop coll chunk }) .marlColErr a (recVal mop)

/-! Checks of a product (R208), by residues modulo p. Input that is not finite has no residue and takes no part. Log 91 (DESIGN
CHOICE). -/

/-- The weights of an operator by rows. -/
def weightRows (m : Mop) : List (List Nat) := chunksOf (max 1 (mE m)) (m.weights.length + 1) m.weights

/-- The residues of the weights of tile j, by rows; the order of tiles is that of R198. -/
def tileWeights (m : Mop) (j : Nat) : List (List Nat) :=
  let hb := max 1 (mH m / 256)
  (((weightRows m).drop (256 * (j % hb))).take 256).map fun r =>
    ((r.drop (256 * (j / hb))).take 256).map fun w => (valOf (mWfmt m) w).res 0

/-- Σ_e y_e and Σ_e (e + 1) × y_e. -/
def checkSums (ys : List Nat) : Nat × Nat :=
  (ys.foldl (· + ·) 0 % resP, (ys.mapIdx fun e y => (e + 1) * y).foldl (· + ·) 0 % resP)

/-- Σ_h x_h × w_h, by columns. -/
def rowTimes (w : List (List Nat)) (xs : List Nat) : List Nat :=
  match w.zip xs with
  | [] => []
  | (r, x) :: t => (t.foldl (fun acc p => acc.zipWith (fun a b => a + b * p.2) p.1) (r.map (· * x))).map (· % resP)

/-- Add residues, an empty list counting as zeros. -/
def addSums (a b : List Nat) : List Nat := if a.isEmpty then b else a.zipWith (fun x y => (x + y) % resP) b

/-- Does an input block pass the row check of a tile? -/
def rowCheck (t : Tile) (xs ys : List Nat) : Bool :=
  let dot := fun (cs : List Nat) => (cs.zipWith (· * ·) xs).foldl (· + ·) 0 % resP
  checkSums ys == (dot (t.chk.map (·.1)), dot (t.chk.map (·.2)))

/-- A tile takes its block of an input: the tile with its sums, whether the row check passes, and the outcome of the column check
when this input ends its interval. -/
def checkTile (s : State) (m : Mop) (xs : List Val) (t : Tile) : Tile × Bool × Option Bool :=
  let x := (xs.drop (256 * (t.j % max 1 (mH m / 256)))).take 256
  if x.any (fun v => match v with | .nan | .inf _ => true | _ => false) then (t, true, none)
  else
    let rx := x.map (·.res 0)
    let w := tileWeights m t.j
    let ys := rowTimes w rx
    let ok := rowCheck t rx ys
    if !flag s .COL_EN then (t, ok, none)
    else
      let sx := addSums t.sumX rx
      let sy := addSums t.sumY ys
      if t.inputs + 1 < fld s .COL_INTERVAL then ({ t with inputs := t.inputs + 1, sumX := sx, sumY := sy }, ok, none)
      else ({ t with inputs := 0, sumX := [], sumY := [] }, ok, some (rowTimes w sx == sy))

/-- The checks of one row of input: the arrays whose row check fails; failed column checks are reported only (R209). `colBad` are
the arrays in which a fault falsifies this input's sums. -/
def checkRow (mop half coll chunk : Nat) (m : Mop) (colBad : List Nat) (r : List Nat × State) (xs : List Val) : List Nat × State :=
  let s := r.2
  let rs := s.marl.tiles.map fun t =>
    if t.mop == mop && (isSplit m || t.half == half) then let c := checkTile s m xs t; (c.1, some c.2) else (t, none)
  let bad := rs.filterMap fun x => match x.2 with | some (false, _) => some x.1.array | _ => none
  let cols := rs.filterMap fun x =>
    match x.2 with
    | some (_, some ok) => if !ok || colBad.contains x.1.array then some x.1.array else none
    | _ => none
  (r.1 ++ bad, cols.eraseDups.foldl (fun u a => colFails u a mop coll chunk) { s with marl := { s.marl with tiles := rs.map (·.1) } })

/-- The checks of a product over its rows of input: the first array whose row check fails. `rowBad` is an array in which a fault
falsifies the product. -/
def checkRows (s : State) (mop half coll chunk : Nat) (m : Mop) (rows : List (List Val)) (rowBad : Option Nat) (colBad : List Nat) :
    Option Nat × State :=
  let r := rows.foldl (checkRow mop half coll chunk m colBad) ([], s)
  (r.1.head?.orElse fun _ => rowBad.filter fun a => (tilesRead s mop half (isSplit m)).any fun t => t.array == a, r.2)

/-! Products -/

/-- Σ_h x̂_h W[h][e], exact; an empty or vanishing sum is +0. -/
def columnSum (m : Mop) (xs : List Val) (e : Nat) : Val :=
  (List.range xs.length).foldl (fun a h =>
    a.add ((xs.getD h (.zero false)).mul (valOf (mWfmt m) (m.weights.getD (h * mE m + e) 0)))) (.zero false)

/-- The column scale, or 1. -/
def colScale (m : Mop) (e : Nat) : Val :=
  match beAt m.header 13 1 with
  | 0 => e8m0 (m.scales.getD e 0)
  | 1 => dec32 (m.scales.getD e 0)
  | _ => .fin false 1 1 0

/-- b_e + c_e × Σ_h x̂_h W[h][e] before its rounding (R200, R206, R207). -/
def columnVal (m : Mop) (xs : List Val) (e : Nat) : Val :=
  (dec32 (m.biases.getD e 0)).add ((colScale m e).mul (columnSum m xs e))

/-- The element values of a payload with their row scales, unrounded: x̂ of R200. -/
def Tensor.scaledVals (t : Tensor) : List Val :=
  (List.range t.elems.length).map fun i =>
    let x := elemVal t.fmt (t.elems.getD i 0)
    match t.scaleAt i with | some s => x.mul s | none => x

/-! Tokens -/

def setTok (s : State) (k : Nat) (t : Token) : State := { s with marl := { s.marl with tokens := tins s.marl.tokens k t } }

/-- Number of data pieces of a token. -/
def dataPieces (m : Mop) : Nat := ceilDiv (mH m) (mPieceElems m)

/-- Elements of a piece; 0 for one that carries none (R199). -/
def pieceLen (m : Mop) (p : Nat) : Nat := min (mH m) ((p + 1) * mPieceElems m) - p * mPieceElems m

def tokenOf (s : State) (part src coll chunk layer rop : Nat) : Option (Nat × Token) :=
  s.marl.tokens.find? fun e => e.2.part == part && e.2.src == src && e.2.collId == coll && e.2.chunk == chunk &&
    e.2.layer == layer && e.2.rop == rop

/-- Scope of token events: operator and ingress half (Table 18.1). -/
def opScope (mop half : Nat) : Nat := 2 * mop + half

def recTok (t : Token) : Rec := recColl t.part t.collId t.chunk t.layer (t.rop * 4096)

/-- A COLL_CTRL payload (Table 10.7). -/
def ctrlBytes (ctype status fclass arga argb : Nat) (l : List Nat) : List Byte :=
  beBytes 1 ctype ++ beBytes 1 status ++ beBytes 1 (fclass * 16) ++ zeroBytes 1 ++ beBytes 4 arga ++ beBytes 4 argb ++
    beBytes 2 l.length ++ zeroBytes 2 ++ l.flatMap (beBytes 4)

def noArg : Nat := 0xFFFFFFFF

/-- The token notice (R205). -/
def tokenNotice (s : State) (half : Nat) (t : Token) (c : Code) (experts : List Nat) : State :=
  let h : Ffh := { tc := 5, kind := 6, part := t.part, src := spineAddr s (selfSpine s), dst := t.src, collId := t.collId
                   chunk := t.chunk, layer := t.layer, oper := t.rop * 4096, last := true }
  spawnUnicast s half h (ctrlBytes 0x0B (codeNum c) 0 noArg noArg experts)

/-- The engine that combines a token: the model's own choice within the token's half. Log 92 (DEDUCED). -/
def combineEngine (t : Token) : Nat := 8 * t.half + t.chunk % 8

/-- The stream of an open token in its engine. Log 97 (DESIGN CHOICE). -/
def tokStream (k : Nat) (t : Token) : Nat := (k + 1) * 2 ^ 64 + t.part * 2 ^ 32 + t.collId

/-- Forget a token: its record is free, its pieces are released. -/
def dropToken (s : State) (k : Nat) : State :=
  match tfind s.marl.tokens k with
  | none => s
  | some t =>
    let s0 := dropRun s (combineEngine t) (tokStream k t) t.chunk
    let s1 := closeChunk { s0 with marl := { s0.marl with tokens := tdel s0.marl.tokens k } } (combineEngine t) (tokStream k t) t.chunk
    t.pieces.foldl (fun u p => releaseRef u p.2) s1

/-- Abandon a token with a notice (R205). -/
def abandonToken (s : State) (k : Nat) (c : Code) : State :=
  match tfind s.marl.tokens k with
  | none => s
  | some t => tokenNotice (dropToken s k) t.half t c []

/-! Arrival of a stage-0 piece (Table 9.3) -/

/-- A token key as a frame carries it. -/
def keyOfTok (h : Ffh) : List Nat := [h.part, h.src, h.collId, h.chunk, h.layer, bitsOf h.oper 15 12]

/-- Stage-0 frames admitted and not yet taken by Marl, of keys that no open token has. -/
def waitingKeys (s : State) : List (List Nat × Nat) :=
  (s.loam.inbox.filterMap fun e =>
    (frameOf s e.1).bind fun f =>
      if f.ffh.kind == 4 && (tokenOf s f.ffh.part f.ffh.src f.ffh.collId f.ffh.chunk f.ffh.layer (bitsOf f.ffh.oper 15 12)).isNone
      then some (keyOfTok f.ffh, f.inHalf) else none).eraseDups

/-- The tokens of a router, those still in arrival included; another operator has none. -/
def tokensOf (s : State) (id : Nat) (m : Mop) : Nat :=
  if mKind m != 1 then 0
  else
    tcount (fun _ (t : Token) => t.mop == id) s.marl.tokens +
      ((waitingKeys s).filter fun k => k.1.getD 0 0 == mPart m && k.1.getD 4 0 == mLayer m && k.1.getD 5 0 == mRop m).length

/-- Tokens of a half that are assembling. -/
def assembling (s : State) (half : Nat) : Nat :=
  tcount (fun _ (t : Token) => t.half == half && t.phase == .assembling) s.marl.tokens +
    ((waitingKeys s).filter fun k => k.2 == half).length

/-- What Marl says of a stage-0 piece at its arrival: what withholds or discards it. -/
def tokenJudge (s : State) (f : StoredFrame) : Verdict × State :=
  let h := f.ffh
  let rop := bitsOf h.oper 15 12
  match routerOf s h.part h.layer rop with
  | none => (.discard .marlNoOp (opScope 0 f.inHalf), s)
  | some (id, m) =>
    if (tokenOf s h.part h.src h.collId h.chunk h.layer rop).isSome || (waitingKeys s).any (fun k => k.1 == keyOfTok h) then (.accept, s)
    else if mMaxTokens m ≤ tokensOf s id m then (.withhold .marlWindowFull (opScope id f.inHalf), s)
    else if 512 ≤ assembling s f.inHalf then (.withhold .marlAsmFull (opScope id f.inHalf), s)
    else (.accept, s)

/-! Gate weights (R201) -/

/-- Insert an expert by falling logit, the lower number first among equals. -/
def insertLogit (x : Nat × Nat) : List (Nat × Nat) → List (Nat × Nat)
  | [] => [x]
  | y :: t => if (dec32 y.2).lt (dec32 x.2) then x :: y :: t else y :: insertLogit x t

/-- The slots of a token: the k greatest logits (expert, logit). -/
def topK (zs : List Nat) (k : Nat) : List (Nat × Nat) :=
  (((List.range zs.length).zip zs).foldl (fun l x => insertLogit x l) []).take k

/-- RN of an exact sum. -/
def sum32 (l : List Nat) : Nat := enc32 (l.foldl (fun a x => a.add (dec32 x)) (.zero false))

/-- A weight a / S scaled by GATE_SCALE; none where S is zero and the rule states no quotient. -/
def gateWeight (a total scale : Nat) : Option Nat :=
  match (dec32 a).div (dec32 total) with
  | some q => some (enc32 ((dec32 (enc32 q)).mul (dec32 scale)))
  | none => none

/-- The gate weights of the slots, in slot order. -/
def gateWeights (m : Mop) (zs : List Nat) (slots : List (Nat × Nat)) : List (Option Nat) :=
  let zmax := dec32 ((slots.headD (0, 0)).2)
  let e := fun (z : Nat) => enc32 (expVal (dec32 (enc32 ((dec32 z).add zmax.negate))))
  let sg := fun (z : Nat) => enc32 (sigmoidVal (dec32 z))
  if mGate m == 2 then
    let total := sum32 (slots.map fun x => sg x.2)
    slots.map fun x => gateWeight (sg x.2) total (mGateScale m)
  else
    let total := sum32 (if mGate m == 0 then slots.map (fun x => e x.2) else zs.map e)
    slots.map fun x => gateWeight (e x.2) total (mGateScale m)

/-- Give every weight that no rule states a free value. -/
def fillFree : List (Option Nat) → State → List Nat × State
  | [], s => ([], s)
  | some w :: t, s => let r := fillFree t s; (w :: r.1, r.2)
  | none :: t, s => let x := takeFree s (2 ^ 32); let r := fillFree t x.2; (x.1 :: r.1, r.2)

/-! Dispatch (R202) -/

/-- Send a frame that shares the cells of a piece to an endpoint, routed like any other. -/
def sendShared (s : State) (half src : Nat) (h : Ffh) : State :=
  let out := routeUnicast s h (ownArrival half)
  match egressCheck out.2 h (ownArrival half) out.1 with
  | .toQueue u e => spawnShare out.2 src h (u, e)
  | .refuse ev sc => raise out.2 ev sc (recFrame h)
  | .trap => trapOwn out.2 h (match frameOf s src with | some f => f.data | none => [])


/-- Is an endpoint fenced, on its spine or behind its down-port (R311)? -/
def epFenced (s : State) (half dst : Nat) : Bool :=
  dstFenced s dst ||
    (addrSpine dst == selfSpine s && (match downPortOf s half (addrDown dst) with | some p => portFenced s p | none => false))

/-- Exclude a slot that is still expected. -/
def excludeSlot (t : Token) (j : Nat) : Token :=
  { t with expect := t.expect - (if bitAt t.expect j then 2 ^ j else 0)
           excluded := if bitAt t.excluded j then t.excluded else t.excluded + 2 ^ j }

/-- The experts of the excluded slots. -/
def excludedExperts (t : Token) : List Nat := (onesOf 8 t.excluded).map fun j => t.exps.getD j 0

/-! Combine (R184, R185, R204) -/

/-- Has every expected slot all its data pieces? -/
def combineReady (m : Mop) (t : Token) : Bool :=
  t.expect != 0 && (onesOf 8 t.expect).all fun j => (List.range (dataPieces m)).all fun p => t.got.contains (j, p)

/-! What has been added, slot by slot: a slot excluded later leaves the sum, its weight being +0 (R205). -/

/-- A piece of H elements enters a slot at its first position (R165, R184, R189). -/
def SlotSum.add (x : SlotSum) (h off : Nat) (adds : List (Val × Bool)) : SlotSum :=
  let accs := if x.accs.isEmpty then List.replicate h {} else x.accs
  let ch := chanAdd off (adds.map fun v => chanOf v.1 v.2) (x.resid, if x.rflags.isEmpty then List.replicate h 0 else x.rflags)
  { accs := accs.mapIdx fun i a => if off ≤ i then (match adds[i - off]? with | some v => a.enter v.1 v.2 | none => a) else a
    resid := ch.1, rflags := ch.2 }

def SlotSum.plus (a b : SlotSum) : SlotSum :=
  if a.accs.isEmpty then b
  else if b.accs.isEmpty then a
  else { accs := a.accs.zipWith Accum.absorb b.accs, resid := (a.resid + b.resid) % resP, rflags := a.rflags.zipWith (· ||| ·) b.rflags }

/-- The sum over the slots in EXPECT (R203). -/
def tokSum (t : Token) : SlotSum := (onesOf 8 t.expect).foldl (fun a j => a.plus (tget {} t.sums j)) {}

def tokLanes (t : Token) : List Lane := (tokSum t).accs.map .acc

/-- The pool of an operator's output: its reservation (Table 3.5). -/
def mopPool (m : Mop) : Pool := match m.resv with | some id => .resv id | none => .shared

/-- The frames of a combined token (R204). -/
def sendCombined (s : State) (m : Mop) (t : Token) (out : List Nat) : State :=
  let base : Ffh := { tc := t.tc, kind := 4, part := t.part, src := spineAddr s (selfSpine s), dst := t.src, collId := t.collId
                      chunk := t.chunk, layer := mOutLayer m }
  let final := if mGateOut m then 7 else dataPieces m - 1
  let send := fun (u : State) (p fmt : Nat) (l : List Nat) =>
    spawnUnicast u t.half { base with oper := mOutOper m + p, fmt := fmt, last := p == final } (packElems fmt l) (mopPool m)
  let s1 := (List.range (dataPieces m)).foldl (fun u p =>
    send u p (mOfmt m) ((out.drop (p * mPieceElems m)).take (pieceLen m p))) s
  if mGateOut m then
    let ws := (List.range (mK m)).map fun j => if bitAt t.excluded j then 0 else t.ws.getD j 0
    send s1 7 0 (ws ++ (List.range (mK m)).map fun j => enc32 (intVal (t.exps.getD j 0)))
  else s1

/-- Every expected slot is in: the token is finalised and sent, the record released (R184, R204, R205). -/
def completeCombine (s : State) (k : Nat) (m : Mop) (t : Token) : State :=
  let g : Rounding := { mode := mRmode m, bits := mSrBits m, seed := mSeed m, coll := t.collId, chunk := t.chunk }
  let cs := (tokSum t).accs.mapIdx fun i a => convert (mOfmt m) (g.at i) a.final
  let s1 := countConv s (combineEngine t) cs (recTok t)
  let fenced := epFenced s1 t.half t.src
  let s2 := if fenced then raise s1 .marlOutFenced (opScope t.mop t.half) (recTok t) else sendCombined s1 m t (cs.map (·.bits))
  let s3 := dropToken s2 k
  if t.excluded != 0 then tokenNotice s3 t.half t .donePartial (excludedExperts t) else s3

/-- The final read of a combine: the residue check, then the result (R184, R189, R190). `fault` is a wrong sum of the lanes or of
the channel. Log 91 (DESIGN CHOICE). -/
def finishCombine (s : State) (k : Nat) (m : Mop) (t : Token) (fault : Bool) : State :=
  let en := combineEngine t
  let st := tokStream k t
  let x := tokSum t
  let s1 := readShadow s en st t.chunk (tokLanes t)
  if fault || !residueOk x.accs (x.resid, x.rflags) then abandonToken (residueFails s1 en st t.chunk) k .internal
  else completeCombine s1 k m t

/-- Settle a waiting token: complete it when its slots are in, abandon it when none is left. -/
def settleToken (s : State) (k : Nat) : State :=
  match tfind s.marl.tokens k with
  | none => s
  | some t =>
    match t.phase, mopOf s t.mop with
    | .waiting, some m =>
      if t.expect == 0 then abandonToken (raise s .marlExpFenced (opScope t.mop t.half) (recTok t)) k .peerFenced
      else if combineReady m t then finishCombine s k m t false
      else s
    | _, _ => s

/-- The endpoints that a fence reaches: the expected slots toward them end (Table 9.5). -/
def tokenFence (s : State) (hit : Nat → Bool) : State :=
  s.marl.tokens.foldl (fun u e =>
    match tfind u.marl.tokens e.1 with
    | none => u
    | some t =>
      let js := (onesOf 8 t.expect).filter fun j => hit (t.eps.getD j 0)
      if t.phase != .waiting || js.isEmpty then u
      else
        match mopOf u t.mop with
        | none => u
        | some m =>
          let u1 := raiseN u .marlExpFenced (opScope t.mop t.half) js.length (recTok t)
          if mExclude m then
            let t1 := js.foldl excludeSlot t
            settleToken (shadowAdd (setTok u1 e.1 t1) (combineEngine t) (tokStream e.1 t) t.chunk fun _ => tokLanes t1) e.1
          else abandonToken u1 e.1 .peerFenced) s

end Sys2Proof.Machine
end

