-- ==== Sys2Proof/Machine/TilthOps.lean ====
section
/-!
DEFINITION. Machine/TilthOps.lean: Tilth: descriptors (R213, R214), lists and trees (R211, R228), owners, roles and windows
(R220, R223), the frames it sends (R221, R226), and how a collective ends (R225, R226).
-/

namespace Sys2Proof.Machine

open Sys2Proof

/-! Descriptors (Table 10.2) -/

abbrev Desc := List Byte

def dOpc (d : Desc) : Nat := beAt d 1 1 / 16
def dRed (d : Desc) : Nat := beAt d 1 1 % 16
def dFmt (d : Desc) : Nat := beAt d 2 1 / 16
def dOfmt (d : Desc) : Nat := beAt d 2 1 % 16
def dMode (d : Desc) : Nat := bitsOf (beAt d 3 1) 7 6
def dRmode (d : Desc) : Nat := bitsOf (beAt d 3 1) 5 3
def dExclude (d : Desc) : Bool := bitAt (beAt d 3 1) 2
def dSrBits (d : Desc) : Nat := beAt d 4 1
def dProg (d : Desc) : Nat := beAt d 5 1
def dMopV (d : Desc) : Bool := bitAt (beAt d 6 2) 15
def dPost (d : Desc) : Bool := bitAt (beAt d 6 2) 14
def dMop (d : Desc) : Nat := beAt d 7 1
def dColl (d : Desc) : Nat := beAt d 8 4
def dPart (d : Desc) : Nat := beAt d 12 2 % 4096
def dMlist (d : Desc) : Nat := beAt d 14 2
def dMver (d : Desc) : Nat := beAt d 16 2
def dSlist (d : Desc) : Nat := beAt d 18 2
def dRoot (d : Desc) : Nat := beAt d 20 4 % 2 ^ 17
def dCount (d : Desc) : Nat := beAt d 24 8
def dChunk (d : Desc) : Nat := beAt d 32 2
def dWindow (d : Desc) : Nat := beAt d 34 2
def dMgroup (d : Desc) : Nat := beAt d 36 2
def dWaitV (d : Desc) : Bool := bitAt (beAt d 38 2) 15
def dWaitQ (d : Desc) : Nat := bitsOf (beAt d 38 2) 10 4
def dWaitTok (d : Desc) : Nat := beAt d 38 2 % 16
def dWaitVal (d : Desc) : Nat := beAt d 40 2
def dSigV (d : Desc) : Bool := bitAt (beAt d 42 2) 15
def dSigTok (d : Desc) : Nat := beAt d 42 2 % 16
def dFactor (d : Desc) : Nat := beAt d 44 4
def dStart (d : Desc) : Nat := beAt d 48 4
def dTmo (d : Desc) : Nat := beAt d 52 4
def dSeed (d : Desc) : Nat := beAt d 56 8

/-- FPRINT (R214). -/
def fprint (d : Desc) : Nat :=
  let a := crc16 (bytesAt d 1 1 ++ bytesAt d 3 5 ++ bytesAt d 44 4 ++ bytesAt d 56 8)
  a * 2 ^ 48 + crc16 (bytesAt d 2 1) * 2 ^ 32 + crc16 (bytesAt d 24 10) * 2 ^ 16 + crc16 (bytesAt d 12 12)

/-- The lowest class code in which two fingerprints differ (R214). -/
def fclassOf (x y : Nat) : Nat :=
  ((List.range 4).find? fun c => bitsOf x (63 - 16 * c) (48 - 16 * c) != bitsOf y (63 - 16 * c) (48 - 16 * c)).getD 0

/-- A reduction (R220), one that adds exactly, one that runs on a tree. -/
def dReduces (d : Desc) : Bool := dOpc d == 1 || dOpc d == 2
def dSums (d : Desc) : Bool := dReduces d && (dRed d == 0 || dRed d == 3)
def dTree (d : Desc) : Bool := dReduces d && (dMode d == 1 || dMode d == 2)
def dOrdered (d : Desc) : Bool := dReduces d && dMode d == 2
def dExact (d : Desc) : Bool := dSums d && dMode d != 2

/-- Operations whose chunks have one owner node each. -/
def dOwned (d : Desc) : Bool := (dReduces d && dMode d == 0) || dOpc d == 7

/-- Operations whose results go to MGROUP. -/
def dGroups (d : Desc) : Bool := dOpc d == 1 || dOpc d == 5 || dOpc d == 7 || (dOpc d == 3 && dMopV d)

/-! Collectives, lists, nodes -/

def collKey (part id : Nat) : Nat := part * 2 ^ 32 + id

def Coll.key (c : Coll) : Nat := collKey c.part c.id

def collOf (s : State) (k : Nat) : Option Coll := tfind s.tilth.colls k

def setColl (s : State) (c : Coll) : State := { s with tilth := { s.tilth with colls := tins s.tilth.colls c.key c } }

def listOf (s : State) (part id : Nat) : Option TList := tfind s.tilth.lists (part * 65536 + id)

def membersOf (s : State) (c : Coll) : List Nat :=
  match listOf s c.part (dMlist c.desc) with | some l => l.members | none => []

def treeOf (s : State) (c : Coll) : TList :=
  match listOf s c.part (dSlist c.desc) with | some l => l | none => { lver := 0, imgId := 0 }

def memberAddr (s : State) (c : Coll) (r : Nat) : Nat := (membersOf s c).getD r 0

/-- The members behind this spine, by rank. -/
def localMembers (s : State) (c : Coll) : List Nat :=
  let ms := membersOf s c
  (List.range ms.length).filter fun r => addrSpine (ms.getD r 0) == selfSpine s

def noNode : Nat := 0xFFFF

/-- The parent of a node, adoptions included (R228). -/
def TList.parentOf (l : TList) (i : Nat) : Nat :=
  match (l.adopted.filter fun a => a.1 == i).getLast? with
  | some a => a.2
  | none => match l.nodes[i]? with | some n => n.parent | none => noNode

/-- The children of a node: ascending, then the adopted ones in the order of adoption (R211, R232). -/
def TList.childrenOf (l : TList) (i : Nat) : List Nat :=
  let adopted := (l.adopted.map (·.1)).eraseDups
  (((List.range l.nodes.length).filter fun j => !adopted.contains j && l.parentOf j == i) ++ adopted.filter fun j => l.parentOf j == i)

/-- The nodes below a node, itself first. -/
def TList.subtree (l : TList) : Nat → List Nat → List Nat
  | 0, _ => []
  | n + 1, is => if is.isEmpty then [] else is ++ l.subtree n (is.flatMap l.childrenOf)

def nodeSpine (l : TList) (i : Nat) : Nat := match l.nodes[i]? with | some n => n.spine | none => 0

/-- This spine's node. -/
def myNode (s : State) (l : TList) : Option Nat := (findIdx (fun (n : TNode) => n.spine == selfSpine s) 0 l.nodes).map (·.1)

def nodeFenced (s : State) (l : TList) (i : Nat) : Bool := dstFenced s (spineAddr s (nodeSpine l i))

/-- The coordinator: the lowest node that is not fenced (R220). -/
def coordOf (s : State) (l : TList) : Option Nat := (List.range l.nodes.length).find? fun i => !nodeFenced s l i

/-- The node that owns a node's chunks now (R228). -/
def movedTo (t : Table Nat) : Nat → Nat → Nat
  | 0, i => i
  | n + 1, i => match tfind t i with | some j => movedTo t n j | none => i

def ownerOf (c : Coll) (l : TList) (chunk : Nat) : Nat := movedTo c.moved l.nodes.length (chunk % max 1 l.nodes.length)

/-- A member that no longer counts. -/
def isExcluded (c : Coll) (r : Nat) : Bool := c.excluded.contains r

/-! Operators a descriptor names -/

/-- The projection of a reduction. -/
def projOf (s : State) (d : Desc) : Option Mop :=
  if dMopV d && dReduces d then (mopOf s (dMop d)).filter fun m => mKind m == 2 else none

/-- A PRE projection. -/
def preOf (s : State) (d : Desc) : Option Mop := if dPost d then none else projOf s d
def postOf (s : State) (d : Desc) : Option Mop := if dPost d then projOf s d else none

/-- The gather-multiply of an all-gather. -/
def gmulOf (s : State) (d : Desc) : Option Mop :=
  if dMopV d && dOpc d == 3 then (mopOf s (dMop d)).filter fun m => mKind m == 3 else none

/-! Chunks (R220, R223) -/

/-- Chunks of one vector. -/
def vecChunks (d : Desc) : Nat := ceilDiv (dCount d) (max 1 (dChunk d))

/-- Chunks of the collective: those of every member in an all-gather. -/
def chunkCount (d : Desc) (n : Nat) : Nat := if dOpc d == 3 then n * vecChunks d else vecChunks d

/-- Input elements (or bytes) of a chunk. -/
def chunkLen (d : Desc) (chunk : Nat) : Nat :=
  let j := if dOpc d == 3 then chunk % max 1 (vecChunks d) else chunk
  min (dChunk d) (dCount d - j * dChunk d)

/-- Elements of a chunk inside the reduction: after a PRE projection r / H of them (R206). -/
def innerLen (s : State) (d : Desc) (chunk : Nat) : Nat :=
  match preOf s d with | some m => chunkLen d chunk * mE m / max 1 (mH m) | none => chunkLen d chunk

/-- The engines a collective runs on, and the one of a chunk (R219). -/
def chunkEngine (c : Coll) (chunk : Nat) : Nat :=
  let es := onesOf 16 c.engMask
  es.getD ((c.id + chunk) % max 1 es.length) 0

/-- The ranks whose blocks of an all-gather this node must see: those not excluded, and when a product is formed at node 0 only
those of its own subtree. -/
def gatherRanks (s : State) (c : Coll) : List Nat :=
  let ms := membersOf s c
  let l := treeOf s c
  let below := match myNode s l with | some me => (l.subtree (l.nodes.length + 1) [me]).map (nodeSpine l) | none => []
  (List.range ms.length).filter fun r => !isExcluded c r && (!dMopV c.desc || below.contains (addrSpine (ms.getD r 0)))

/-- Chunks below `chunk` that this node works on. -/
def owedBelow (s : State) (c : Coll) (chunk : Nat) : Nat :=
  if dOpc c.desc == 3 then
    let n := vecChunks c.desc
    ((gatherRanks s c).map fun r => min n (chunk - r * n)).foldl (· + ·) 0
  else if dOwned c.desc then
    let l := treeOf s c
    let nn := l.nodes.length
    match myNode s l with
    | none => 0
    | some me =>
      (((List.range nn).filter fun i => movedTo c.moved nn i == me).map fun i => (chunk + nn - 1 - i) / max 1 nn).foldl (· + ·) 0
  else chunk

/-- Does this node work on a chunk? -/
def worksOn (s : State) (c : Coll) (chunk : Nat) : Bool :=
  !dOwned c.desc || myNode s (treeOf s c) == some (ownerOf c (treeOf s c) chunk)

/-- Finished chunks below `chunk` among those that this node works on. -/
def doneBelow (s : State) (c : Coll) (chunk : Nat) : Nat :=
  let ranks := gatherRanks s c
  (c.finished.filter fun x =>
    decide (x < chunk) && (dOpc c.desc != 3 || ranks.contains (x / max 1 (vecChunks c.desc)))).length

/-- Is a chunk among the WINDOW lowest open ones (R223)? -/
def inCollWindow (s : State) (c : Coll) (chunk : Nat) : Bool :=
  decide (owedBelow s c chunk - doneBelow s c chunk < dWindow c.desc)

/-- The members assigned to this node (R224), by rank. -/
def assignedMembers (s : State) (c : Coll) : List Nat :=
  if dOpc c.desc == 7 then [dRoot c.desc]
  else if dTree c.desc then localMembers s c
  else List.range (membersOf s c).length

/-- The members whose pieces a chunk needs on this node, the excluded ones left out (R224). -/
def neededMembers (s : State) (c : Coll) : List Nat := (assignedMembers s c).filter fun r => !isExcluded c r

/-- The child nodes whose partials a chunk needs on this node. A child that is fenced meanwhile stays needed, and holds the chunk
open, until the restart that follows its repair (R224, R228). -/
def neededChildren (s : State) (c : Coll) : List Nat :=
  if !dTree c.desc then []
  else
    let l := treeOf s c
    match myNode s l with
    | none => []
    | some me => (l.childrenOf me).filter fun j => !c.gone.contains j

/-- Keys of pieces: a member's rank, or 2^24 + node. -/
def nodeKey (i : Nat) : Nat := 2 ^ 24 + i

def chunkOf (c : Coll) (chunk : Nat) : Chunk := tget {} c.chunks chunk

def pieceOf (h : Chunk) (k : Nat) : Piece := tget {} h.pieces k

/-- Have all inputs of a chunk arrived on this node (R224)? -/
def inputsIn (s : State) (c : Coll) (chunk : Nat) : Bool :=
  let h := chunkOf c chunk
  (neededMembers s c).all (fun r => (pieceOf h r).done) && (neededChildren s c).all fun j => (pieceOf h (nodeKey j)).done

/-! Frames (R221, Tables 10.5 and 10.7) -/

/-- The header of a frame that a collective sends. -/
def collHdr (s : State) (c : Coll) (kind dst chunk fmt : Nat) : Ffh :=
  { tc := 5, kind := kind, part := c.part, src := spineAddr s (selfSpine s), dst := dst, collId := c.id, chunk := chunk
    layer := c.layer, oper := c.oper, fmt := fmt }

/-- The trailer of Table 10.5. -/
def trailer (fp who : Nat) (node : Bool) (rstat off n : Nat) : List Byte :=
  beBytes 8 fp ++ beBytes 3 who ++ beBytes 1 (bitv node 7 + rstat * 16) ++ beBytes 2 off ++ beBytes 2 n

/-- Elements of a full frame beside a trailer. -/
def frameElems (fmt : Nat) : Nat :=
  let n := 8144 * 8 / fmtWidth fmt
  if fmt == 5 || fmt == 6 then n / 4 * 4 else if fmt == 7 then n / 2 * 2 else n

/-- Cells of a vector in full frames. -/
def vectorCells (fmt n : Nat) : Nat :=
  let full := frameElems fmt
  let cells := fun (k : Nat) => cellsFor (32 + ceilDiv (k * fmtWidth fmt) 8 + 16)
  if n = 0 then cells 0 else n / full * cells full + (if n % full = 0 then 0 else cells (n % full))

/-- Where a vector goes. -/
inductive SendTo where
  | group (g : Nat)
  | addr (a : Nat)

/-- The pool of a collective's output: its reservation (Table 3.5). -/
def collPool (c : Coll) : Pool := match c.resv with | id :: _ => .resv id | [] => .shared

/-- Send one frame of the spine's own. -/
def sendFrame (s : State) (c : Coll) (h : Ffh) (dest : SendTo) (payload : List Byte) : State :=
  match dest with
  | .group g => spawnGroup s c.half h payload g (collPool c)
  | .addr a => spawnUnicast s c.half { h with dst := a } payload (collPool c)

/-- Send a vector in full frames. Log 164 (DEDUCED). -/
def sendVector (s : State) (c : Coll) (kind chunk fmt : Nat) (codes : List Nat) (who : Nat) (node : Bool) (rstat : Nat)
    (dest : SendTo) : State :=
  let full := frameElems fmt
  let rows := if codes.isEmpty then [[]] else chunksOf full (codes.length + 1) codes
  ((List.range rows.length).zip rows).foldl (fun u x =>
    sendFrame u c { collHdr u c kind 0 chunk fmt with last := x.1 + 1 == rows.length } dest
      (packElems fmt x.2 ++ trailer (fprint c.desc) who node rstat (x.1 * full) x.2.length)) s

/-- Send a `COLL_CTRL` frame, a long list in several (Table 10.7). -/
def sendCtrl (s : State) (c : Coll) (dst ctype status fclass arga argb : Nat) (l : List Nat) : State :=
  let parts := if l.isEmpty then [[]] else chunksOf 2036 (l.length + 1) l
  ((List.range parts.length).zip parts).foldl (fun u x =>
    spawnUnicast u c.half { collHdr u c 6 dst 0 0 with last := x.1 + 1 == parts.length } (ctrlBytes ctype status fclass arga argb x.2)) s

/-- Send the same frame to every member that is not fenced. -/
def toMembers (s : State) (c : Coll) (g : State → Nat → State) : State :=
  (membersOf s c).foldl (fun u a => if epFenced u c.half a then u else g u a) s

/-- Send the same frame to every other node that is not fenced. -/
def toNodes (s : State) (c : Coll) (g : State → Nat → State) : State :=
  let l := treeOf s c
  ((List.range l.nodes.length).filter fun i => nodeSpine l i != selfSpine s && !nodeFenced s l i).foldl
    (fun u i => g u (spineAddr u (nodeSpine l i))) s

/-! Ends (R216, R225, R226) -/

/-- A queue hears how a collective ended (R216). -/
def tellQueue (s : State) (c : Coll) (status : Nat) : State :=
  match c.queue with
  | none => s
  | some q =>
    let change := fun (x : TQueue) =>
      if 3 < status then { x with stopped := true, lastStatus := status }
      else if dSigV c.desc then { x with toks := setNth x.toks (dSigTok c.desc) ((x.toks.getD (dSigTok c.desc) 0 + 1) % 65536) }
      else x
    { s with tilth := { s.tilth with queues := tadj s.tilth.queues q change } }

/-- The frames that wait in a chunk. -/
def chunkFids (h : Chunk) : List Nat := h.pieces.flatMap fun p => p.2.fids

/-- Discard an open chunk: its frames, its lane-file entries, and a shadow run that has not had its final read. -/
def discardChunk (s : State) (c : Coll) (chunk : Nat) : State :=
  let en := chunkEngine c chunk
  let s1 := (chunkFids (chunkOf c chunk)).foldl releaseRef s
  dropRun (closeChunk s1 en c.key chunk) en c.key chunk

/-- A collective leaves this spine: its state and its reservations. -/
def removeColl (s : State) (c : Coll) : State :=
  let s1 := c.chunks.foldl (fun u e => discardChunk u c e.1) s
  let s2 := c.resv.foldl releaseUnits s1
  { s2 with tilth := { s2.tilth with colls := tdel s2.tilth.colls c.key } }

/-- A collective ends on this spine with a status. -/
def endColl (s : State) (c : Coll) (status : Nat) : State := tellQueue (removeColl s c) c status

/-- What `COMPLETE` and `ABORT` say of a failure (Table 10.9). -/
structure CFail where
  code : Code
  fclass : Nat := 0
  rank : Nat := noArg
  chunk : Nat := noArg
  ranks : List Nat := []

/-- Tell members and nodes of a failure, and end (R226). Log 106 (DEDUCED). -/
def announceFail (s : State) (c : Coll) (status fclass rank chunk : Nat) (ranks : List Nat) : State :=
  let s1 := toMembers s c fun u a => sendCtrl u c a 3 status fclass rank chunk ranks
  let s2 := toNodes s1 c fun u a => sendCtrl u c a 5 status fclass rank chunk ranks
  endColl s2 c status

/-- A failure found on this spine (R226). -/
def failColl (s : State) (k : Nat) (f : CFail) : State :=
  match collOf s k with
  | none => s
  | some c =>
    let st := codeNum f.code
    let l := treeOf s c
    if c.failed.isSome then s
    else if dOpc c.desc == 6 then
      let s1 := (localMembers s c).foldl (fun u r =>
        let a := memberAddr u c r
        if epFenced u c.half a then u else sendCtrl u c a 3 st f.fclass f.rank f.chunk f.ranks) s
      endColl s1 c st
    else
      match coordOf s l with
      | none => endColl s c st
      | some i =>
        if nodeSpine l i == selfSpine s then announceFail s c st f.fclass f.rank f.chunk f.ranks
        else
          setColl (sendCtrl s c (spineAddr s (nodeSpine l i)) 5 st f.fclass f.rank f.chunk f.ranks) { c with failed := some st }

/-- The qualifier that this node reports (R225). -/
def qualifier (c : Coll) : Nat := if !c.excluded.isEmpty then 2 else if c.reordered then 3 else if c.repaired then 1 else 0

/-- The order DONE_PARTIAL > ORDER_CHANGED > DONE_REPAIRED > DONE. -/
def qualRank (q : Nat) : Nat := if q == 2 then 3 else if q == 3 then 2 else q

def highest (qs : List Nat) : Nat := qs.foldl (fun a q => if qualRank a < qualRank q then q else a) 0

/-- The nodes whose `NODE_DONE` the coordinator waits for: those that hold state and are not fenced. -/
def holders (s : State) (c : Coll) (l : TList) : List Nat :=
  (if dOpc c.desc == 5 then [0] else List.range l.nodes.length).filter fun i => !nodeFenced s l i

/-- The coordinator ends a collective when every node has reported (R225). -/
def tryComplete (s : State) (k : Nat) : State :=
  match collOf s k with
  | none => s
  | some c =>
    let l := treeOf s c
    if c.failed.isSome || !(holders s c l).all fun i => (tfind c.nodeDone i).isSome then s
    else
      let st := highest (c.nodeDone.map (·.2))
      let ranks := c.excluded ++ if st == 2 then c.fencedLate else []
      let s1 := toMembers s c fun u a => sendCtrl u c a 3 st 0 noArg noArg ranks
      endColl (toNodes s1 c fun u a => sendCtrl u c a 4 st 0 noArg noArg []) c st

/-- The blocks of an all-gather that this node must see. -/
def gatherChunks (s : State) (c : Coll) : Nat := (gatherRanks s c).length * vecChunks c.desc

/-- Chunks of an all-gather that this node has seen, among those it must see. -/
def gatherDone (s : State) (c : Coll) : Nat :=
  let ranks := gatherRanks s c
  (c.finished.filter fun x => ranks.contains (x / max 1 (vecChunks c.desc))).length

/-- The product of an all-gather is one chunk above the gathered ones, at node 0. -/
def productChunk (s : State) (c : Coll) : Nat := (membersOf s c).length * vecChunks c.desc

/-- Has this node done everything it owes (R225)? Log 105 (DEDUCED). -/
def owesNothing (s : State) (c : Coll) : Bool :=
  let d := c.desc
  let n := vecChunks d
  match dOpc d with
  | 3 =>
    let p := productChunk s c
    decide (gatherChunks s c ≤ gatherDone s c) && (!dMopV d || myNode s (treeOf s c) != some 0 || c.finished.contains p)
  | 4 => c.kids.all fun e => decide (n ≤ e.2.base) && e.2.digest
  | 5 => c.finished.contains 0
  | _ => decide (owedBelow s c n ≤ c.finished.length)

/-- Report completion, once everything owed is done (R225). A spine that only projects what enters there is finished when
it has passed on all of its members' pieces. -/
def checkDone (s : State) (k : Nat) : State :=
  match collOf s k with
  | none => s
  | some c =>
    let l := treeOf s c
    if c.failed.isSome || c.sentDone || dOpc c.desc == 6 then s
    else
      match myNode s l, coordOf s l with
      | some me, some i =>
        if !owesNothing s c then s
        else
          let c1 := { c with sentDone := true }
          if i == me then tryComplete (setColl s { c1 with nodeDone := tins c1.nodeDone me (qualifier c) }) k
          else setColl (sendCtrl s c (spineAddr s (nodeSpine l i)) 2 (qualifier c) 0 me noArg []) c1
      | none, _ =>
        let rs := (localMembers s c).filter fun r => !isExcluded c r
        if rs.length * vecChunks c.desc ≤ (c.entered.filter fun x => rs.contains (x % 2 ^ 17)).length then endColl s c (qualifier c)
        else s
      | _, none => s

/-! Slowest members (R229) -/

/-- Note a member that was last, in a half's table. -/
def slowNote (t : List SlowEnt) (part mlist rank lagNs : Nat) : List SlowEnt :=
  let same := fun (e : SlowEnt) => e.part == part && e.mlist == mlist && e.rank == rank
  if t.any same then t.map fun e => if same e then { e with count := (e.count + 1) % 2 ^ 32, lagNs := e.lagNs + lagNs } else e
  else if t.length < 64 then t ++ [{ part := part, mlist := mlist, rank := rank, count := 1, lagNs := lagNs }]
  else
    match minBy (fun i => ((t[i]?).map (·.count)).getD 0) (List.range t.length) with
    | some i => setNth t i { part := part, mlist := mlist, rank := rank, count := (((t[i]?).map (·.count)).getD 0 + 1) % 2 ^ 32, lagNs := lagNs }
    | none => t

/-- Record the member whose piece completed a chunk last. -/
def noteSlow (s : State) (k chunk : Nat) : State :=
  match collOf s k with
  | none => s
  | some c =>
    let h := chunkOf c chunk
    match (h.order.filter fun x => decide (x < 2 ^ 24)).getLast? with
    | none => s
    | some r =>
      let lag := nsOfTicks (h.lastAt - h.firstAt)
      let t := slowNote (tget [] s.tilth.slow c.half) c.part (dMlist c.desc) r lag
      setColl { s with tilth := { s.tilth with slow := tset [] s.tilth.slow c.half t } }
        { c with slowCount := tmod 0 c.slowCount r (· + 1), lagMax := max c.lagMax lag }

/-- A chunk is finished on this node; one of a reduction, a barrier or an all-gather is noted (R229). -/
def finishChunk (s : State) (k chunk : Nat) : State :=
  let s1 := match collOf s k with
    | some c => if dOpc c.desc == 7 then s else noteSlow s k chunk
    | none => s
  match collOf s1 k with
  | none => s
  | some c =>
    checkDone (setColl s1 { c with finished := c.finished ++ [chunk], chunks := tdel c.chunks chunk }) k

end Sys2Proof.Machine
end

