-- ==== Sys2Proof/Machine/TilthData.lean ====
section
/-!
DEFINITION. Machine/TilthData.lean: contributions and their pieces (R223, R224, R206), the lanes of a chunk (R180 to R183),
results and partials (R180, R181, R220), gathered blocks, barriers and all-to-alls (R220, R225).
-/

namespace Sys2Proof.Machine

open Sys2Proof

/-! Contributions -/

/-- The trailer of a payload (Table 10.5). -/
structure Trail where
  fp : Nat
  who : Nat
  node : Bool
  off : Nat
  n : Nat

def trailOf (b : List Byte) : Trail :=
  let t := b.drop (b.length - 16)
  { fp := beAt t 0 8, who := beAt t 8 3, node := bitAt (beAt t 11 1) 7, off := beAt t 12 2, n := beAt t 14 2 }

/-- The elements of a contribution, with their first position in the chunk (R157, R221). -/
def contribOf (f : StoredFrame) : Except PayFault (Tensor × Nat) :=
  if f.data.length < 16 then .error .rows
  else
    let t := trailOf f.data
    match parsePayload f.ffh.fmt f.ffh.scl (f.data.take (f.data.length - 16)) with
    | .error x => .error x
    | .ok d => if d.elems.length == t.n then .ok (d, t.off) else .error .rows

/-- The contributions that a piece has in store, by position. -/
def pieceData (s : State) (p : Piece) : List (Tensor × Nat) :=
  p.fids.filterMap fun fid => (frameOf s fid).bind fun f => match contribOf f with | .ok x => some x | .error _ => none

/-- Put tensors into one list of entries by position. -/
def assemble {α : Type} (d : α) (len : Nat) (parts : List (List α × Nat)) : List α :=
  parts.foldl (fun acc p => acc.mapIdx fun i x => if p.2 ≤ i then p.1.getD (i - p.2) x else x) (List.replicate len d)

/-! Lanes (R175, R180 to R183) -/

/-- An addend as it enters a lane: its value, whether step 2 of R165 rounded it, and its code when it is a partial. -/
structure Addend where
  v : Val
  inexact : Bool := false
  code : Nat := 0

def lane0 (d : Desc) : Lane := if dExact d then .acc {} else .empty

def laneAdd (d : Desc) (isPartial : Bool) (l : Lane) (x : Addend) : Lane :=
  match l with
  | .acc a => .acc (if isPartial then a.absorbPartial x.code else a.enter x.v x.inexact)
  | .sum32 b => .sum32 (enc32 ((dec32 b).add (dec32 (enc32 x.v))))
  | .kept v => .kept (if dRed d == 1 then v.max x.v else v.min x.v)
  | .empty => if dOrdered d then .sum32 (enc32 x.v) else .kept x.v

/-- The addends of a contribution, the prologue applied (R165, R186). -/
def contribAddends (s : State) (d : Desc) (isPartial : Bool) (t : Tensor) : List Addend :=
  if isPartial then t.elems.map fun x => { v := if t.fmt == 0 then dec32 x else .zero false, code := x }
  else if dProg d != 0 then
    (List.range t.elems.length).map fun i =>
      { v := kRun (kProg s (dProg d)) (valOf t.fmt (t.elems.getD i 0)) ((t.scaleAt i).getD (.fin false 1 1 0)) }
  else (t.addends []).map fun a => { v := a.1, inexact := a.2 }

/-- Add data to lanes, by position. -/
def addParts (d : Desc) (isPartial : Bool) (parts : List (List Addend × Nat)) (ls : List Lane) : List Lane :=
  parts.foldl (fun ls p => ls.mapIdx fun i l =>
    if p.2 ≤ i then (match p.1[i - p.2]? with | some x => laneAdd d isPartial l x | none => l) else l) ls

/-- The same data in the residue channel (R189). -/
def chanParts (isPartial : Bool) (parts : List (List Addend × Nat)) (c : Nat × List Nat) : Nat × List Nat :=
  parts.foldl (fun c p => chanAdd p.2 (p.1.map fun x => if isPartial then chanOfPartial x.code else chanOf x.v x.inexact) c) c

/-- Open a chunk for its first addend (R177, R191). -/
def openChunk (s : State) (c : Coll) (chunk : Nat) : State × Chunk :=
  let h := chunkOf c chunk
  if !h.lanes.isEmpty then (s, h)
  else
    let n := innerLen s c.desc chunk
    let lanes := List.replicate n (lane0 c.desc)
    let m := openOnEngine s (chunkEngine c chunk) c.key chunk lanes
    (m.2, { h with lanes := lanes, rflags := List.replicate n 0, marked := m.1 })

/-- Add data to a chunk's lanes, to its residue channel, and to its partner's lanes when it is marked. -/
def addToChunk (s : State) (k chunk : Nat) (isPartial : Bool) (parts : List (List Addend × Nat)) (fids : List Nat) : State :=
  match collOf s k with
  | none => s
  | some c =>
    let o := openChunk s c chunk
    let en := chunkEngine c chunk
    let s1 := touchChunk o.1 en k chunk o.2.lanes.length (chunkOf c chunk).lanes.isEmpty
    let ch := if dExact c.desc then chanParts isPartial parts (o.2.resid, o.2.rflags) else (o.2.resid, o.2.rflags)
    let h := { o.2 with lanes := addParts c.desc isPartial parts o.2.lanes, resid := ch.1, rflags := ch.2 }
    let s2 := if dExact c.desc then noteAdds s1 en ((parts.map (·.1.length)).foldl (· + ·) 0) else s1
    let s3 := shadowAdd s2 en k chunk (addParts c.desc isPartial parts)
    releaseInputs (setColl s3 { c with chunks := tset {} c.chunks chunk h }) en k chunk fids

/-- Add a complete piece and let its cells go. -/
def addPiece (s : State) (k chunk key : Nat) : State :=
  match collOf s k with
  | none => s
  | some c =>
    let h := chunkOf c chunk
    let p := pieceOf h key
    let isNode := decide (2 ^ 24 ≤ key)
    let data := if p.codes.isEmpty then pieceData s p else [({ fmt := 0, elems := p.codes, scales := [] }, 0)]
    let parts := data.map fun x => (contribAddends s c.desc isNode x.1, x.2)
    let c1 := { c with chunks := tset {} c.chunks chunk { h with pieces := tins h.pieces key { p with fids := [], codes := [] } } }
    addToChunk (setColl s c1) k chunk isNode parts p.fids

/-- The fixed sequence of ordered mode on this node (R182): the complete piece of a member that is excluded keeps its place (R227). -/
def orderedKeys (s : State) (c : Coll) (chunk : Nat) : List Nat :=
  ((assignedMembers s c).filter fun r => !isExcluded c r || (pieceOf (chunkOf c chunk) r).done) ++ (neededChildren s c).map nodeKey

/-- Add every piece whose turn has come. -/
def addInOrder (k chunk : Nat) : List Nat → State → State
  | [], s => s
  | key :: t, s =>
    match collOf s k with
    | none => s
    | some c =>
      let p := pieceOf (chunkOf c chunk) key
      if !p.done then s else addInOrder k chunk t (if p.fids.isEmpty && p.codes.isEmpty then s else addPiece s k chunk key)

/-- Note that a piece is complete: who, and when. -/
def notePiece (s : State) (k chunk key : Nat) : State :=
  match collOf s k with
  | none => s
  | some c =>
    let h := chunkOf c chunk
    let h1 := { h with order := h.order ++ [key], firstAt := if h.order.isEmpty then s.raw else h.firstAt, lastAt := s.raw }
    setColl s { c with chunks := tset {} c.chunks chunk h1 }

/-! Projection (R206) -/

/-- Project rows of H elements; each output element is rounded once. -/
def projectRows (m : Mop) (round : Nat → Val → Conv) (xs : List Val) : List Conv :=
  let rows := chunksOf (max 1 (mH m)) (xs.length + 1) xs
  ((List.range rows.length).zip rows).flatMap fun r =>
    (List.range (mE m)).map fun e => round (r.1 * mE m + e) (columnVal m r.2 e)

/-- The product of an operator is formed over rows of input: its weights are read, its checks run (R208, R209). The operator as
read, or none when a row check or an uncorrectable error ends it. -/
def runProduct (s : State) (c : Coll) (chunk id : Nat) (rows : List (List Val)) (rowBad : Option Nat) (colBad : List Nat) :
    Option Mop × State :=
  let s1 := readWeights s id c.half c.id chunk
  match mopOf s1 id with
  | none => (none, s1)
  | some m =>
    let r := checkRows s1 id c.half c.id chunk m rows rowBad colBad
    match r.1 with
    | some a => (none, rowFails r.2 a id c.id chunk)
    | none => (if m.failed then none else some m, r.2)

/-- What the product of an operator waits for: none, or the state in which it waits, for its groups to wake (R27) or for a tile of its
basis to be rewritten (R209). -/
def productWaits (s : State) (c : Coll) (chunk : Nat) : Option State :=
  let id := dMop c.desc
  let split := match mopOf s id with | some m => isSplit m | none => false
  if !mopAwake s id c.half split then some (wakeMop s id c.half split)
  else
    let s1 := readWeights s id c.half c.id chunk
    if basisWaits s1 id c.half then some s1 else none

/-- A member's piece, complete where it entered the fabric, is projected: added here, in its turn, or sent on to the owner (R206,
R220). Log 99 (DEDUCED). -/
def projectPiece (s : State) (k chunk rank : Nat) (rowBad : Option Nat) (colBad : List Nat) : State :=
  match collOf s k with
  | none => s
  | some c =>
    let key := 2 ^ 25 + rank
    let h := chunkOf c chunk
    let p := pieceOf h key
    let data := pieceData s p
    let xs := assemble (.zero false) (chunkLen c.desc chunk) (data.map fun x => (x.1.scaledVals, x.2))
    let s1 := p.fids.foldl releaseRef s
    let rows := match mopOf s (dMop c.desc) with | some m => chunksOf (max 1 (mH m)) (xs.length + 1) xs | none => []
    let pr := runProduct s1 c chunk (dMop c.desc) rows rowBad colBad
    match pr.1 with
    | none => failColl pr.2 k { code := .internal, chunk := chunk }
    | some m =>
      let cs := projectRows m (fun _ v => convert 0 rne v) xs
      let ys := cs.map (·.bits)
      let s2 := countConv pr.2 (16 + firstArray pr.2 (dMop c.desc) c.half (isSplit m)) cs (recStream c.key chunk)
      let c1 := { c with entered := c.entered ++ [chunk * 2 ^ 17 + rank] }
      let l := treeOf s c
      if worksOn s c chunk then
        let h1 := { h with pieces := tins (tdel h.pieces key) rank { got := ys.length, codes := ys, done := true } }
        let s3 := notePiece (setColl s2 { c1 with chunks := tset {} c1.chunks chunk h1 }) k chunk rank
        if dOrdered c.desc then
          match collOf s3 k with
          | some c3 => addInOrder k chunk (orderedKeys s3 c3 chunk) s3
          | none => s3
        else addPiece s3 k chunk rank
      else
        let h1 := { h with pieces := tdel h.pieces key }
        let s3 := setColl s2 { c1 with chunks := tset {} c1.chunks chunk h1 }
        checkDone (sendVector s3 c 1 chunk 0 ys rank false 0 (.addr (spineAddr s (nodeSpine l (ownerOf c l chunk))))) k

/-! Gathered blocks (R220) -/

/-- The tree neighbours a gathered chunk goes to, except the one it came from. -/
def gatherTo (s : State) (c : Coll) (cameFrom : Nat) : List Nat :=
  let l := treeOf s c
  match myNode s l with
  | none => []
  | some me =>
    let up := if l.parentOf me == noNode then [] else [l.parentOf me]
    (if dMopV c.desc then up else up ++ l.childrenOf me).filter fun j => j != cameFrom && !nodeFenced s l j

/-- A gathered chunk is whole on this node: passed to the neighbours and to the local members. -/
def passChunk (s : State) (k chunk rank cameFrom : Nat) : State :=
  match collOf s k with
  | none => s
  | some c =>
    let l := treeOf s c
    let me := (myNode s l).getD 0
    let fids := (pieceOf (chunkOf c chunk) rank).fids
    let s1 := (gatherTo s c cameFrom).foldl (fun u j => fids.foldl (fun v fid =>
      match frameOf v fid with
      | none => v
      | some f =>
        let t := trailOf f.data
        let h := { collHdr v c 1 (spineAddr v (nodeSpine l j)) chunk f.ffh.fmt with scl := f.ffh.scl, last := fids.getLast? == some fid }
        spawnUnicast v c.half h (f.data.take (f.data.length - 16) ++ trailer t.fp me true 0 t.off t.n) (collPool c)) u) s
    if dMopV c.desc then
      let keep := myNode s l == some 0
      let s2 := noteSlow s1 k chunk
      match collOf s2 k with
      | none => s2
      | some c2 =>
        let s3 := if keep then s2 else discardChunk s2 c2 chunk
        checkDone (setColl s3 { c2 with finished := c2.finished ++ [chunk], chunks := if keep then c2.chunks else tdel c2.chunks chunk }) k
    else
      let codes := assemble 0 (chunkLen c.desc chunk) ((pieceData s1 (pieceOf (chunkOf c chunk) rank)).map fun x => (x.1.elems, x.2))
      let s2 := ((localMembers s1 c).filter fun r => r != rank && !isExcluded c r).foldl (fun u r =>
        sendVector u c 2 chunk (dOfmt c.desc) codes 1 false (qualifier c) (.addr (memberAddr u c r))) s1
      finishChunk (discardChunk s2 c chunk) k chunk

/-! Contributions at a node -/

/-- A mismatch (Table 10.9). Log 100 (DEDUCED). -/
def mismatch (s : State) (c : Coll) (rank fclass : Nat) : State :=
  failColl (raise s .collMismatch c.half (recColl c.part c.id 0 c.layer c.oper)) c.key
    { code := .memberMismatch, rank := rank, fclass := fclass }

/-- Put a frame to its piece; the piece, when that completes it. -/
def fileFrame (s : State) (c : Coll) (chunk key fid n len : Nat) : Bool × State :=
  let h := chunkOf c chunk
  let p := pieceOf h key
  let p1 : Piece := { got := p.got + n, fids := p.fids ++ [fid], done := p.got + n == len }
  (p1.done, setColl s { c with chunks := tset {} c.chunks chunk { h with pieces := tins h.pieces key p1 } })

/-- Does a contribution enter the fabric here, to be projected first (R206)? -/
def entersHere (s : State) (c : Coll) (h : Ffh) : Bool :=
  (preOf s c.desc).isSome && addrDown h.src != 0 && addrSpine h.src == selfSpine s

/-- Whose piece a contribution is, if this node takes it: the key of the piece, the format and the length it must have. -/
def pieceFor (s : State) (c : Coll) (h : Ffh) (t : Trail) : Option (Nat × Nat × Nat) :=
  let d := c.desc
  let rank := if dOpc d == 3 then h.chunk / max 1 (vecChunks d) else t.who
  let inner := innerLen s d h.chunk
  if t.node then
    if dOpc d == 3 then
      (if isExcluded c rank then none else some (rank, dFmt d, chunkLen d h.chunk))
    else if (neededChildren s c).contains t.who then some (nodeKey t.who, if dMode d == 1 then 0xF else 0, inner)
    else none
  else if entersHere s c h then
    (if isExcluded c rank || !(localMembers s c).contains rank then none else some (2 ^ 25 + rank, dFmt d, chunkLen d h.chunk))
  else if isExcluded c rank || !((if dOpc d == 3 then localMembers s c else neededMembers s c).contains rank) then none
  else if dOpc d == 3 && rank != t.who then none
  else some (rank, if (preOf s d).isSome then 0 else dFmt d, inner)

/-- What the addition or projection of a complete piece waits for (R27, R178, R209): none, or the state in which its last frame stays
in its cells. -/
def pieceWaits (s : State) (c : Coll) (chunk key : Nat) : Option State :=
  let en := chunkEngine c chunk
  let adds := dReduces c.desc && worksOn s c chunk
  if adds && !engineAwake s en then some (wakeDomain s (327 + en))
  else if decide (2 ^ 25 ≤ key) then productWaits s c chunk
  else none

/-- A `COLL_CONTRIB` frame (R223, Table 10.9). -/
def contribIn (s : State) (fid : Nat) (rowBad : Option Nat) (colBad : List Nat) : State :=
  match takeHeld s fid 1 with
  | none => s
  | some (f, s0) =>
    let h := f.ffh
    let k := collKey h.part h.collId
    match collOf s0 k with
    | none => dropHeld s0 fid
    | some c =>
      if c.failed.isSome then dropHeld s0 fid
      else
        let r := readFrame s0 fid
        let en := chunkEngine c h.chunk
        let t := trailOf f.data
        let rank := if t.node then noArg else t.who
        if !r.1 then failColl r.2 k { code := .internal, chunk := h.chunk }
        else if f.data.length < 16 then
          failColl (countPayFault (releaseRef r.2 fid) en .rows (recFrame h)) k { code := .badParam }
        else if t.fp != fprint c.desc then mismatch (releaseRef r.2 fid) c rank (fclassOf t.fp (fprint c.desc))
        else
          match pieceFor r.2 c h t with
          | none => releaseRef r.2 fid
          | some (key, fmt, len) =>
            let p := pieceOf (chunkOf c h.chunk) key
            let passed := decide (2 ^ 25 ≤ key) && c.entered.contains (h.chunk * 2 ^ 17 + t.who)
            if c.finished.contains h.chunk || p.done || passed then releaseRef r.2 fid
            else if h.fmt != fmt then mismatch (releaseRef r.2 fid) c rank 1
            else
              match contribOf f with
              | .error x => failColl (countPayFault (releaseRef r.2 fid) en x (recFrame h)) k { code := .badParam, rank := rank }
              | .ok _ =>
                if decide (len < t.off + t.n) || decide (len < p.got + t.n) then mismatch (releaseRef r.2 fid) c rank 2
                else
                  let q := fileFrame r.2 c h.chunk key fid t.n len
                  if !q.1 then q.2
                  else
                    match pieceWaits s c h.chunk key with
                    | some s2 => s2
                    | none =>
                      if decide (2 ^ 25 ≤ key) then projectPiece q.2 k h.chunk (key - 2 ^ 25) rowBad colBad
                      else
                        let s2 := notePiece q.2 k h.chunk key
                        if dOpc c.desc == 3 then passChunk s2 k h.chunk key (if t.node then t.who else noNode)
                        else if dOpc c.desc == 7 then s2
                        else if dOrdered c.desc then
                          match collOf s2 k with
                          | some c2 => addInOrder k h.chunk (orderedKeys s2 c2 h.chunk) s2
                          | none => s2
                        else addPiece s2 k h.chunk key

/-! Results (R180, R181, R183, R206, R207) -/

/-- Contributions that a finished chunk includes (R168, R221): those added, the complete piece of a member excluded later among them
(R227). On a tree the node knows of its own members'. Log 182 (DEDUCED). -/
def includedIn (s : State) (c : Coll) (chunk : Nat) : Nat :=
  let done := fun (r : Nat) => (pieceOf (chunkOf c chunk) r).done
  if dOpc c.desc == 3 then (membersOf s c).length - c.excluded.length
  else if dTree c.desc then (membersOf s c).length - c.excluded.length + (c.excluded.filter done).length
  else ((chunkOf c chunk).pieces.filter fun p => p.2.done && decide (p.1 < 2 ^ 24)).length

/-- The final value of a lane (R167, R168). Log 101 (UNVERIFIED). -/
def laneVal (d : Desc) (n : Nat) : Lane → Val
  | .acc a => if dRed d == 3 then a.final.over n else a.final
  | .sum32 b => dec32 b
  | .kept v => v
  | .empty => .zero false

/-- The rounding of a collective's results. -/
def collRounding (c : Coll) (chunk : Nat) : Rounding :=
  { mode := dRmode c.desc, bits := dSrBits c.desc, seed := dSeed c.desc, coll := c.id, chunk := chunk }

/-- The lanes of a chunk; a chunk that nothing entered has empty ones. -/
def lanesOf (s : State) (c : Coll) (chunk : Nat) : List Lane :=
  let h := chunkOf c chunk
  if h.lanes.isEmpty then List.replicate (innerLen s c.desc chunk) (lane0 c.desc) else h.lanes

/-- An exact result before its one conversion: a value, a product or not (R165), or a whole accumulator. -/
inductive Exact where
  | val (v : Val) (product : Bool)
  | acc (a : Accum)
  deriving DecidableEq, Repr

/-- As an accumulator: a product that is no FP32 value is rounded first (steps 2 to 5 of R165). -/
def Exact.accum : Exact → Accum
  | .acc a => a
  | .val v true => ({} : Accum).enter (round32 v).1 (round32 v).2
  | .val v false => ({} : Accum).enter v false

def Exact.value : Exact → Val
  | .acc a => a.final
  | .val v _ => v

/-- Convert once into an output format (R162, R167, R169); none for a partial that is not exact. -/
def encodeOne (fmt : Nat) (g : Rnd) (x : Exact) : Option Conv :=
  if fmt == 0xE then some { bits := x.accum.toBits }
  else if fmt == 0xF then x.accum.partial?.map fun b => { bits := b }
  else some (convert fmt g x.value)

/-- Convert the elements of a result; none when one of them is a partial that is not exact. -/
def encodeAll (fmt : Nat) (g : Rounding) (xs : List Exact) : Option (List Conv) :=
  let cs := xs.mapIdx fun i x => encodeOne fmt (g.at i) x
  if cs.any (·.isNone) then none else some (cs.filterMap id)

/-- The elements of a payload in a conversion, under a factor if there is one (R163, R165, R186). -/
def convertVals (t : Tensor) (factor : Option Val) : List Exact :=
  (List.range t.elems.length).map fun i =>
    let x := t.elems.getD i 0
    let fs := (t.scaleAt i).toList ++ factor.toList
    if !fs.isEmpty then .val (fs.foldl Val.mul (elemVal t.fmt x)) true
    else if t.fmt == 0xE then .acc (Accum.ofBits x)
    else if t.fmt == 0xF then .acc (({} : Accum).absorbPartial x)
    else .val (valOf t.fmt x) false

/-- A conversion of microscaling blocks: the chunk is one output row, rounded once where an element cannot be held, and counted
once (R160). Row scales in FP32 are no block scales: what they give is stated nowhere, a free value. Log 88 (DEDUCED). -/
def mxResult (s : State) (c : Coll) (chunk : Nat) (data : List (Tensor × Nat)) : Option (List Conv) × State :=
  let d := c.desc
  let len := chunkLen d chunk
  if data.any fun x => !x.1.scales.isEmpty && !x.1.e8 then
    let fr := fillFree (List.replicate len none) s
    (some (fr.1.map fun x => { bits := x % 2 ^ fmtWidth (dOfmt d) }), fr.2)
  else
    let vs := mxRow (assemble (.zero false, none) len (data.map fun x => (x.1.blocks, x.2)))
    let lost := decide (dOfmt d < 10) && vs.any fun v => !heldBy (dOfmt d) v
    (encodeAll (dOfmt d) (collRounding c chunk) (vs.map fun v => .val v true),
      raiseN s .mxInexact (chunkEngine c chunk) (b2n lost) (recStream c.key chunk))

/-- The codes of a transformed chunk (R186). -/
def transformCodes (s : State) (c : Coll) (chunk : Nat) : Option (List Conv) × State :=
  let d := c.desc
  let data := (neededMembers s c).flatMap fun r => pieceData s (pieceOf (chunkOf c chunk) r)
  if dProg d == 9 then mxResult s c chunk data
  else
    let vals := fun (t : Tensor) =>
      if 16 ≤ dProg d then (contribAddends s d false t).map fun a => Exact.val a.v false
      else convertVals t (if dProg d == 8 then some (dec32 (dFactor d)) else none)
    let xs := assemble (.val (.zero false) false) (chunkLen d chunk) (data.map fun x => (vals x.1, x.2))
    (encodeAll (dOfmt d) (collRounding c chunk) xs, s)

/-- The codes of a result chunk, with the state of the free values it takes; none when a partial is not exact (R169). A 0xE output is
the accumulator itself (R167). -/
def resultCodes (s : State) (c : Coll) (chunk : Nat) : Option (List Conv) × State :=
  let d := c.desc
  if dOpc d == 7 then transformCodes s c chunk
  else
    let ls := lanesOf s c chunk
    let n := includedIn s c chunk
    if ls.any (· == .empty) then
      let fr := fillFree (List.replicate ls.length none) s
      (some (fr.1.map fun x => { bits := x % 2 ^ fmtWidth (dOfmt d) }), fr.2)
    else
      let exact := fun (l : Lane) =>
        match l with
        | .acc a => if dOfmt d == 0xE then Exact.acc a else .val (laneVal d n l) false
        | _ => .val (laneVal d n l) false
      (encodeAll (dOfmt d) (collRounding c chunk) (ls.map exact), s)

/-- The reduced rows of a POST projection, finalised to FP32 in the operation's rounding mode (R167, R206). Stochastic rounding takes
the output of element i of the chunk (R176). Log 99 (DEDUCED). -/
def reducedRows (s : State) (c : Coll) (chunk : Nat) : List Conv :=
  (lanesOf s c chunk).mapIdx fun i l => convert 0 ((collRounding c chunk).at i) (laneVal c.desc (includedIn s c chunk) l)

/-- Where a result chunk goes (Table 10.6). -/
def sendResult (s : State) (c : Coll) (chunk : Nat) (codes : List Nat) : State :=
  let d := c.desc
  let who := includedIn s c chunk
  if dOpc d == 2 then
    let r := chunk * dChunk d * (membersOf s c).length / max 1 (dCount d)
    let a := memberAddr s c r
    if isExcluded c r || epFenced s c.half a then s else sendVector s c 2 chunk (dOfmt d) codes who false (qualifier c) (.addr a)
  else sendVector s c 2 chunk (dOfmt d) codes who false (qualifier c) (.group (dMgroup d))

/-- The partial of a chunk toward the parent; none when it is not exact (R169, R181, R182). -/
def sendPartial (s : State) (c : Coll) (chunk me parent : Nat) : Option State :=
  let ls := lanesOf s c chunk
  let dest := SendTo.addr (spineAddr s (nodeSpine (treeOf s c) parent))
  if dMode c.desc == 1 then
    let ps := ls.map fun l => match l with | .acc a => a.partial? | _ => none
    if ps.any (·.isNone) then none
    else some (sendVector s c 1 chunk 0xF (ps.map (·.getD 0)) me true 0 dest)
  else if ls.any (· == .empty) then
    let fr := fillFree (List.replicate ls.length none) s
    some (sendVector fr.2 c 1 chunk 0 fr.1 me true 0 dest)
  else some (sendVector s c 1 chunk 0 (ls.map fun l => enc32 (laneVal c.desc 1 l)) me true 0 dest)

/-- The final read of a chunk: the shadow run may now compare, the lane-file entries are free. -/
def closeColl (s : State) (c : Coll) (chunk : Nat) : State :=
  let en := chunkEngine c chunk
  let s1 := readShadow s en c.key chunk (chunkOf c chunk).lanes
  closeChunk (releaseInputs s1 en c.key chunk (chunkFids (chunkOf c chunk))) en c.key chunk

/-- The codes of a finished chunk leave, and the chunk is closed. -/
def finishResult (s : State) (c : Coll) (chunk : Nat) (codes : List Nat) : State :=
  finishChunk (closeColl (sendResult s c chunk codes) c chunk) c.key chunk

/-- Finalise a chunk under a POST projection (R206): its conversions to FP32 count at the engine, those of the product at Marl. -/
def finalisePost (s : State) (c : Coll) (chunk : Nat) (rowBad : Option Nat) (colBad : List Nat) : State :=
  match productWaits s c chunk with
  | some s1 => s1
  | none =>
    let d := c.desc
    let fr := if (lanesOf s c chunk).any (· == .empty) then fillFree (List.replicate (lanesOf s c chunk).length none) s
              else ((reducedRows s c chunk).map (·.bits), countConv s (chunkEngine c chunk) (reducedRows s c chunk) (recStream c.key chunk))
    let xs := fr.1.map dec32
    let h := match postOf s d with | some m => max 1 (mH m) | none => 1
    let pr := runProduct fr.2 c chunk (dMop d) (chunksOf h (xs.length + 1) xs) rowBad colBad
    match pr.1 with
    | none => failColl pr.2 c.key { code := .internal, chunk := chunk }
    | some m =>
      let g := collRounding c chunk
      let cs := projectRows m (fun i v => (encodeOne (dOfmt d) (g.at i) (.val v true)).getD { bits := 0 }) xs
      finishResult (countConv pr.2 (16 + firstArray pr.2 (dMop d) c.half (isSplit m)) cs (recStream c.key chunk)) c chunk (cs.map (·.bits))

/-- Finalise a chunk on its owner or root (R180). -/
def finalise (s : State) (c : Coll) (chunk : Nat) (rowBad : Option Nat) (colBad : List Nat) : State :=
  if (postOf s c.desc).isSome then finalisePost s c chunk rowBad colBad
  else
    let rc := resultCodes s c chunk
    match rc.1 with
    | none => failColl rc.2 c.key { code := .exactnessLost, chunk := chunk }
    | some cs => finishResult (countConv rc.2 (chunkEngine c chunk) cs (recStream c.key chunk)) c chunk (cs.map (·.bits))

/-- The product of an all-gather at node 0 (R207). -/
def gatherProduct (s : State) (c : Coll) (chunk : Nat) (rowBad : Option Nat) (colBad : List Nat) : State :=
  match productWaits s c chunk with
  | some s1 => s1
  | none =>
    let d := c.desc
    let n := max 1 (vecChunks d)
    let parts := c.chunks.flatMap fun e =>
      (pieceData s (pieceOf e.2 (e.1 / n))).map fun x => (x.1.scaledVals, e.1 / n * dCount d + e.1 % n * dChunk d + x.2)
    let h := match mopOf s (dMop d) with | some m => mH m | none => 0
    let xs := assemble (.zero false) h parts
    let pr := runProduct s c chunk (dMop d) [xs] rowBad colBad
    match pr.1 with
    | none => failColl pr.2 c.key { code := .internal, chunk := chunk }
    | some m =>
      let g := collRounding c 0
      let cs := projectRows m (fun i v => (encodeOne (dOfmt d) (g.at i) (.val v true)).getD { bits := 0 }) xs
      let s1 := countConv pr.2 (16 + firstArray pr.2 (dMop d) c.half (isSplit m)) cs (recStream c.key 0)
      let s2 := sendVector s1 c 2 0 (dOfmt d) (cs.map (·.bits)) (includedIn s c chunk) false (qualifier c) (.group (dMgroup d))
      let s3 := c.chunks.foldl (fun u e => discardChunk u c e.1) s2
      checkDone (setColl s3 { c with finished := c.finished ++ [chunk], chunks := [] }) c.key

/-- Does the residue check of a chunk pass (R189)? -/
def chunkResidueOk (s : State) (c : Coll) (chunk : Nat) : Bool :=
  let h := chunkOf c chunk
  let as := (lanesOf s c chunk).map fun l => match l with | .acc a => a | _ => {}
  residueOk as (h.resid, if h.rflags.isEmpty then as.map fun _ => 0 else h.rflags)

/-- The inputs of a chunk are complete on this node (R224): the checks run and its result or partial leaves. While its engine sleeps,
the work starts the wake and waits (R178). `fault` is a wrong sum of the lanes or of the channel. Log 91 (DESIGN CHOICE). -/
def inputsComplete (s : State) (k chunk : Nat) (fault : Bool) (rowBad : Option Nat) (colBad : List Nat) : State :=
  match collOf s k with
  | none => s
  | some c =>
    let l := treeOf s c
    let d := c.desc
    let product := dOpc d == 3 && dMopV d && chunk == productChunk s c
    let en := chunkEngine c chunk
    match myNode s l with
    | none => s
    | some me =>
      if c.failed.isSome || c.finished.contains chunk then s
      else if product then
        if me == 0 && decide (gatherChunks s c ≤ gatherDone s c) then gatherProduct s c chunk rowBad colBad else s
      else if !(dReduces d || dOpc d == 7) || decide (chunkCount d (membersOf s c).length ≤ chunk) || !worksOn s c chunk || !inputsIn s c chunk then s
      else if !engineAwake s en then wakeDomain s (327 + en)
      else
        let s0 := if dOrdered d then addInOrder k chunk (orderedKeys s c chunk) s else s
        match collOf s0 k with
        | none => s0
        | some c0 =>
          if dExact d && (fault || !chunkResidueOk s0 c0 chunk) then
            failColl (residueFails s0 en k chunk) k { code := .internal, chunk := chunk }
          else if dTree d && me != 0 then
            match sendPartial s0 c0 chunk me (l.parentOf me) with
            | none => failColl s0 k { code := .exactnessLost, chunk := chunk }
            | some s1 => finishChunk (closeColl s1 c0 chunk) k chunk
          else finalise s0 c0 chunk rowBad colBad

/-! Barriers -/

/-- Every member has arrived at node 0: the one result, and the end (R220). -/
def barrierCheck (s : State) (k : Nat) : State :=
  match collOf s k with
  | none => s
  | some c =>
    if dOpc c.desc != 5 || c.failed.isSome || c.finished.contains 0 || !(neededMembers s c).all c.arrived.contains then s
    else finishChunk (sendVector s c 2 0 0 [] c.arrived.length false (qualifier c) (.group (dMgroup c.desc))) k 0

/-- `ARRIVE` of a member. -/
def arriveIn (s : State) (k rank : Nat) : State :=
  match collOf s k with
  | none => s
  | some c =>
    if dOpc c.desc != 5 || c.failed.isSome || c.arrived.contains rank || !(neededMembers s c).contains rank then s
    else barrierCheck (notePiece (setColl s { c with arrived := c.arrived ++ [rank] }) k 0 rank) k

/-! All-to-all (R225). Blocks are keyed destination × 2^17 + sender; `nodeDone` holds how a destination has ended. -/

/-- The senders whose blocks a destination still misses. -/
def missingBlocks (s : State) (c : Coll) (dst : Nat) : List Nat :=
  (List.range (membersOf s c).length).filter fun r => r != dst && !isExcluded c r && !c.finished.contains (dst * 2 ^ 17 + r)

/-- End a destination. Log 109 (DEDUCED). -/
def endDest (s : State) (c : Coll) (dst : Nat) (st fclass rank chunk : Nat) (ranks : List Nat) : State × Coll :=
  let a := memberAddr s c dst
  let s1 := if epFenced s c.half a then s else sendCtrl s c a 3 st fclass rank chunk ranks
  let c1 := { c with nodeDone := tins c.nodeDone dst st }
  (setColl s1 c1, c1)

/-- Destinations that have every block complete; the collective ends with the last (R225). -/
def a2aCheck (s : State) (k : Nat) : State :=
  match collOf s k with
  | none => s
  | some c =>
    if dOpc c.desc != 6 then s
    else
      let ready := (localMembers s c).filter fun r => (tfind c.nodeDone r).isNone && !isExcluded c r && (missingBlocks s c r).isEmpty
      let r := ready.foldl (fun (u : State × Coll) d => endDest u.1 u.2 d (qualifier u.2) 0 noArg noArg u.2.excluded) (s, c)
      if (localMembers s c).all fun d => isExcluded c d || (tfind r.2.nodeDone d).isSome then
        let fails := (r.2.nodeDone.map (·.2)).filter fun x => decide (3 < x)
        endColl r.1 r.2 (fails.headD (highest (r.2.nodeDone.map (·.2))))
      else r.1

/-- A destination fails. -/
def failDest (s : State) (c : Coll) (dst : Nat) (f : CFail) : State :=
  if (tfind c.nodeDone dst).isSome then s
  else a2aCheck (endDest s c dst (codeNum f.code) f.fclass f.rank f.chunk f.ranks).1 c.key

/-- A block's frame passes toward a local member. -/
def a2aNote (s : State) (f : StoredFrame) : State :=
  let h := f.ffh
  match collOf s (collKey h.part h.collId) with
  | none => s
  | some c =>
    match findIdx (· == h.dst) 0 (membersOf s c) with
    | none => s
    | some (dst, _) =>
      let t := trailOf f.data
      let bk := dst * 2 ^ 17 + t.who
      if dOpc c.desc != 6 || (tfind c.nodeDone dst).isSome || isExcluded c t.who || c.finished.contains bk then s
      else if f.data.length < 16 then failDest (countPayFault s (chunkEngine c 0) .rows (recFrame h)) c dst { code := .badParam }
      else if t.fp != fprint c.desc then
        failDest (raise s .collMismatch c.half (recFrame h)) c dst
          { code := .memberMismatch, rank := t.who, fclass := fclassOf t.fp (fprint c.desc) }
      else
        match contribOf f with
        | .error x => failDest (countPayFault s (chunkEngine c 0) x (recFrame h)) c dst { code := .badParam, rank := t.who }
        | .ok _ =>
          let got := tget 0 c.blocks bk + t.n
          if dRed c.desc == 0 && decide (dCount c.desc < got) then
            failDest (raise s .collMismatch c.half (recFrame h)) c dst { code := .memberMismatch, rank := t.who, fclass := 2 }
          else
            let whole := if dRed c.desc == 0 then got == dCount c.desc else h.last
            let c1 := { c with blocks := tset 0 c.blocks bk got, finished := if whole then c.finished ++ [bk] else c.finished }
            a2aCheck (setColl s c1) c.key

end Sys2Proof.Machine
end

