-- ==== Sys2Proof/Machine/TilthFlow.lean ====
section
/-!
DEFINITION. Machine/TilthFlow.lean: Tilth: descriptor checks and admission (R213, R216 to R219), templates (R217), frames at
ingress (R222), broadcast (R230, R231), fences and repair (R227, R228, R232), deadlines and teardown (R226, R233).
-/

namespace Sys2Proof.Machine

open Sys2Proof

/-! Descriptor checks -/

/-- Are the formats of Table 10.3 kept? -/
def formatsOk (d : Desc) : Bool :=
  match dOpc d with
  | 1 | 2 => decide (dFmt d ≤ 9) && (decide (dOfmt d ≤ 9) || (dOfmt d == 0xE && dMode d != 2))
  | 4 | 5 => dFmt d == 0 && dOfmt d == 0
  | 7 => fmtDefined (dFmt d) && fmtDefined (dOfmt d)
  | _ => dFmt d == dOfmt d && fmtDefined (dFmt d)

/-- RED and MODE of Table 10.3. -/
def variantOk (d : Desc) : Bool :=
  match dOpc d with
  | 1 | 2 => (dRed d == 0 && decide (dMode d ≤ 2)) || (dRed d == 3 && decide (dMode d ≤ 1)) || ((dRed d == 1 || dRed d == 2) && dMode d == 0)
  | 3 | 4 | 5 | 7 => dRed d == 0 && dMode d == 0
  | 6 => decide (dRed d ≤ 1) && dMode d == 0
  | _ => false

/-- PROG, FACTOR and the operator as the operation allows them. -/
def programsOk (d : Desc) : Bool :=
  (if dReduces d then dProg d == 0 || decide (16 ≤ dProg d)
   else if dOpc d == 7 then decide (7 ≤ dProg d) && (decide (dProg d ≤ 9) || decide (16 ≤ dProg d))
   else dProg d == 0) &&
  (dFactor d == 0 || (dOpc d == 7 && dProg d == 8)) &&
  (!dMopV d || dSums d || dOpc d == 3)

/-- Reserved bits, rounding and the fixed fields (Table 10.2). Log 102 (DEDUCED). -/
def fieldsOk (d : Desc) : Bool :=
  d.length == 64 && beAt d 0 1 == 1 && beAt d 3 1 % 4 == 0 && bitsOf (beAt d 6 2) 13 8 == 0 && beAt d 12 2 / 4096 == 0 &&
    beAt d 20 4 / 2 ^ 17 == 0 && bitsOf (beAt d 38 2) 14 11 == 0 && bitsOf (beAt d 42 2) 14 4 == 0 && decide (dRmode d ≤ 4) &&
    (if dRmode d == 4 then decide (4 ≤ dSrBits d) && decide (dSrBits d ≤ 16) else dSrBits d == 0) &&
    (dOpc d != 6 || dSlist d == 0xFFFF) && (dOpc d != 5 || dCount d == 0) && decide (1 ≤ dTmo d)

/-- The part of step 1 of R218 that the descriptor alone decides. -/
def descStatic (d : Desc) : Bool := fieldsOk d && variantOk d && formatsOk d && programsOk d && dChunk d != 0 && dWindow d != 0

/-- The part that the programs, operators and lists of the spine decide. -/
def descLoaded (s : State) (d : Desc) : Bool :=
  let n := match listOf s (dPart d) (dMlist d) with | some l => l.members.length | none => 0
  (decide (dProg d < 16) || (tfind s.kao.progs (dProg d)).isSome) &&
  (!dMopV d ||
    match mopOf s (dMop d) with
    | none => false
    | some m =>
      mPart m == dPart d &&
        (if dReduces d then mKind m == 2 && dChunk d % max 1 (mH m) == 0 && dCount d % max 1 (mH m) == 0
         else mKind m == 3 && (n == 0 || n * dCount d == mH m))) &&
  (dOpc d != 2 || n == 0 || dCount d % (n * dChunk d) == 0)

/-- Step 1 of R218. -/
def descOk (s : State) (d : Desc) : Bool := descStatic d && descLoaded s d

/-! Admission -/

/-- Does this spine hold the collective (Table 10.6)? Log 103 (DEDUCED). -/
def holdsState (s : State) (c : Coll) : Bool :=
  let me := myNode s (treeOf s c)
  let local_ := !(localMembers s c).isEmpty
  match dOpc c.desc with
  | 5 => me == some 0
  | 6 => local_
  | _ => me.isSome || (dOwned c.desc && (preOf s c.desc).isSome && local_)

/-- Bytes of the broadcasts of a partition that the cache already holds (Table 10.4). -/
def broadcastBytes (s : State) (part : Nat) : Nat :=
  ((s.tilth.colls.filter fun e => e.2.part == part && dOpc e.2.desc == 4).map fun e => dCount e.2.desc).foldl (· + ·) 0

/-- Steps 2 to 5 of R218 for a descriptor that has passed step 1: the first failure. -/
def admitErr (s : State) (c : Coll) : Option Code :=
  let d := c.desc
  let ms := membersOf s c
  let l := treeOf s c
  let spines := l.nodes.map (·.spine)
  let lver := match listOf s c.part (dMlist d) with | some x => x.lver | none => 0
  let grp := (groupLook (replica s c.half) c.part (dMgroup d)).hit
  let fencedMember := ms.any (epFenced s c.half)
  let rootLost := dOpc d == 4 && (epFenced s c.half (memberAddr s c (dRoot d)) || nodeFenced s l 0)
  if ms.isEmpty || (dOpc d != 6 && l.nodes.isEmpty) then some .badParam
  else if lver != dMver d || (dGroups d && (match grp with | some g => groupMver g != dMver d | none => true)) then some .memberMismatch
  else if (dTree d || dOpc d == 3 || dOpc d == 4) && ms.any (fun a => !spines.contains (addrSpine a)) then some .conflict
  else if tearingDown s c.part then some .busyTeardown
  else if rootLost then some .rootLost
  else if !dExclude d && fencedMember then some .peerFenced
  else if dOwned d && (List.range l.nodes.length).any (nodeFenced s l) then some .peerFenced
  else if decide (1024 < dWindow d) || decide ((if dOpc d == 4 then 8144 else 16384) < dChunk d) ||
      decide (2 ^ 32 < chunkCount d ms.length) || decide (131072 < ms.length) || decide (16384 < l.nodes.length) ||
      (dOpc d == 4 && decide (128 * 2 ^ 30 < broadcastBytes s c.part + dCount d)) || decide (ms.length ≤ dRoot d) then some .outOfRange
  else if (collOf s c.key).isSome then some .conflict
  else none

/-- Clods of one broadcast chunk (R219). -/
def chunkClods (d : Desc) : Nat := ceilDiv (48 + dChunk d) 4096

/-- Elements of a result chunk: a POST projection leaves E / H of them (R206). -/
def outerLen (s : State) (d : Desc) (chunk : Nat) : Nat :=
  match postOf s d with | some m => chunkLen d chunk * mE m / max 1 (mH m) | none => innerLen s d chunk

/-- Topsoil cells and Subsoil clods that a collective reserves on this spine (R219, R177). -/
def admitSizes (s : State) (c : Coll) : Nat × Nat :=
  let d := c.desc
  let n := (membersOf s c).length
  let bitmap := ceilDiv (ceilDiv n 8) 256
  if dOpc d == 5 then (bitmap + vectorCells 0 0, 0)
  else
    let len := innerLen s d 0
    let kao := if dReduces d || dOpc d == 7 then ceilDiv (40 * len) 256 + vectorCells (dOfmt d) (outerLen s d 0) else 0
    (dWindow d * (kao + bitmap), if dOpc d == 4 then chunkClods d * vecChunks d else 0)

/-- Engines and operator groups wake ahead of START, or at once when that instant has passed (R219). -/
def prewakeColl (s : State) (k : Nat) : State :=
  match collOf s k with
  | none => s
  | some c =>
    if c.prewoken || !reached s (c.start - fld s .TL_PREWAKE_PREWAKE_NS) then s
    else
      let s1 := (onesOf 16 c.engMask).foldl (fun u e => wakeDomain u (327 + e)) s
      let s2 := if dMopV c.desc then
          match mopOf s1 (dMop c.desc) with
          | some m => wakeMop s1 (dMop c.desc) c.half (isSplit m)
          | none => s1
        else s1
      setColl s2 { c with prewoken := true }

/-- The children of a broadcast node: its child nodes and its members but the root (R230). -/
def bcKids (s : State) (c : Coll) : Table BcChild :=
  if dOpc c.desc != 4 then []
  else
    let l := treeOf s c
    let nodes := match myNode s l with | some me => (l.childrenOf me).filter fun j => !nodeFenced s l j | none => []
    let ms := (localMembers s c).filter fun r => r != dRoot c.desc && !isExcluded c r
    (ms ++ nodes.map nodeKey).foldl (fun t k => tins t k {}) []

/-- Read the group record of a descriptor for its MVER (R218), for the parity of the read (R149). -/
def readGroup (s : State) (d : Desc) (half : Nat) : State :=
  if dGroups d then parityHits s half (groupLook (replica s half) (dPart d) (dMgroup d)).bads else s

/-- The fenced nodes of a list. -/
def fencedNodes (s : State) (l : TList) : List Nat := (List.range l.nodes.length).filter (nodeFenced s l)

/-- Admit a descriptor (R216 to R219). A spine without a role ends it at once with DONE (R220). -/
def admitColl (s : State) (d : Desc) (queue : Option Nat) (half layer oper : Nat) : Except Code State :=
  let c0 : Coll := { part := dPart d, id := dColl d, desc := d, layer := layer, oper := oper, queue := queue, half := half
                     engMask := fld s .ENG_MASK, start := expand32 s (dStart d) }
  let c1 := { c0 with excluded := (List.range (membersOf s c0).length).filter fun r => epFenced s half (memberAddr s c0 r) }
  let l := treeOf s c0
  let onTree := dTree d || dOpc d == 3 || dOpc d == 4
  let c := { c1 with repaired := onTree && !l.adopted.isEmpty, reordered := dOrdered d && !l.adopted.isEmpty, kids := bcKids s c1
                     gone := fencedNodes s l }
  if !descOk s d then .error .badParam
  else
    match admitErr s c with
    | some e => .error e
    | none =>
      if !holdsState s c then .ok (tellQueue s c 0)
      else
        let z := admitSizes s c
        match reserveUnits s c.part z.1 z.2 .cache half with
        | none => .error .noResource
        | some (id, s1) => .ok (checkDone (prewakeColl (setColl s1 { c with resv := [id] }) c.key) c.key)

/-- Admitted collectives of a half. -/
def admittedIn (s : State) (half : Nat) : Nat := tcount (fun _ (c : Coll) => c.half == half) s.tilth.colls

/-- The count of a token. -/
def tokenCount (s : State) (q t : Nat) : Nat := match tfind s.tilth.queues q with | some x => x.toks.getD t 0 | none => 0

/-- Is the wait of a descriptor over (R216)? -/
def waitOver (s : State) (d : Desc) : Bool :=
  !dWaitV d || decide (0 ≤ diff16 (tokenCount s (dWaitQ d) (dWaitTok d)) (dWaitVal d))

/-- Admit the head of a queue, or stop the queue (R216, R4). -/
def admitHead (s : State) (q : Nat) : State :=
  match tfind s.tilth.queues q with
  | none => s
  | some x =>
    match x.descs with
    | [] => s
    | d :: rest =>
      if x.stopped || !waitOver s d || 4096 ≤ admittedIn s (q / 64) then s
      else
        let setQ := fun (u : State) (y : TQueue) => { u with tilth := { u.tilth with queues := tins u.tilth.queues q y } }
        let s0 := readGroup s d (q / 64)
        match admitColl (setQ s0 { x with descs := rest }) d (some q) (q / 64) 0 0 with
        | .ok s1 => s1
        | .error e => setQ s0 { x with stopped := true, lastStatus := codeNum e }

/-! Templates (R217) -/

def templateOf (s : State) (part layer oper : Nat) : Option Template :=
  s.tilth.templates.find? fun t => t.part == part && t.layer == layer && t.oper == oper

/-- Admit a collective from the template that a frame names; none when it fails. -/
def admitTemplate (s : State) (h : Ffh) (half : Nat) (t : Template) : Option State :=
  let d := t.desc.take 8 ++ beBytes 4 h.collId ++ bytesAt t.desc 12 36 ++ beBytes 4 (now32 s) ++ t.desc.drop 52
  if 4096 ≤ admittedIn s half then none
  else match admitColl (readGroup s d half) d none half t.layer t.oper with | .ok s1 => some s1 | .error _ => none

/-! Restart (R228) -/

/-- Discard the state of chunks from F on; members send them again, and the tree stands as it is now. Log 107 (DEDUCED). -/
def restartFrom (s : State) (k from_ : Nat) : State :=
  match collOf s k with
  | none => s
  | some c =>
    let s1 := (c.chunks.filter fun e => decide (from_ ≤ e.1)).foldl (fun u e => discardChunk u c e.1) s
    checkDone (setColl s1 { c with
      chunks := tfilter (fun n _ => decide (n < from_)) c.chunks
      finished := c.finished.filter fun n => decide (n < from_)
      entered := c.entered.filter fun n => decide (n / 2 ^ 17 < from_)
      sentDone := false, repaired := true, reordered := c.reordered || dOrdered c.desc, nodeDone := []
      gone := fencedNodes s (treeOf s c), restart := none }) k

/-! Frames at ingress (R222) -/

/-- Does the operation receive a frame of a kind here? -/
def kindTaken (c : Coll) (kind : Nat) : Bool :=
  match kind with
  | 1 => dReduces c.desc || dOpc c.desc == 3 || dOpc c.desc == 7
  | 3 => dOpc c.desc == 4
  | _ => dOpc c.desc != 6

/-- Control types a spine receives as commands of its own (Table 10.8). -/
def ctrlHere (ctype : Nat) : Bool := ctype == 1 || ctype == 2 || ctype == 4 || ctype == 5 || (decide (7 ≤ ctype) && decide (ctype ≤ 10))

/-- The verdict on a frame of an admitted collective. -/
def judgeColl (s : State) (c : Coll) (f : StoredFrame) : Verdict × State :=
  let h := f.ffh
  if !kindTaken c h.kind || (h.kind != 6 && c.failed.isSome) then (.refuse .collUnknown c.half, s)
  else if h.kind == 6 then
    let ct := beAt f.data 0 1
    if ctrlHere ct then (.accept, s)
    else if ct == 6 && beAt f.data 4 4 == noArg then (.consume, restartFrom s c.key (beAt f.data 8 4))
    else (.consume, s)
  else
    let entry := h.kind == 1 && entersHere s c h
    if h.kind == 1 && !entry && !worksOn s c h.chunk then (.refuse .collUnknown c.half, s)
    else if decide (h.chunk < chunkCount c.desc (membersOf s c).length) && worksOn s c h.chunk && !c.finished.contains h.chunk &&
        !inCollWindow s c h.chunk then (.withhold .collWindow c.half, s)
    else (.accept, s)

/-- The verdict on a frame of KIND 0x1, 0x3 or 0x6 that Tilth consumes (R217, R222). -/
def tilthJudge (s : State) (f : StoredFrame) : Verdict × State :=
  let h := f.ffh
  let k := collKey h.part h.collId
  match collOf s k with
  | some c => judgeColl s c f
  | none =>
    match templateOf s h.part h.layer h.oper with
    | none => (.refuse .collUnknown f.inHalf, s)
    | some t =>
      match admitTemplate s h f.inHalf t with
      | none => (.refuse .collTemplateFail f.inHalf, s)
      | some s1 =>
        match collOf s1 k with
        | some c => judgeColl s1 c f
        | none => (.refuse .collUnknown f.inHalf, s1)

/-- Does Tilth take a contribution on its way to another spine, to project it here (R206, R220)? So it does for a collective that a
template is to admit (R217). -/
def tilthIntercepts (s : State) (h : Ffh) : Bool :=
  h.kind == 1 && !h.mc && bitsOf h.dst 14 0 == 0 &&
    match collOf s (collKey h.part h.collId) with
    | some c => entersHere s c h
    | none =>
      match templateOf s h.part h.layer h.oper with
      | some t => (preOf s t.desc).isSome && addrDown h.src != 0 && addrSpine h.src == selfSpine s
      | none => false

/-- An all-to-all contribution toward an endpoint of this spine, of a collective that is not admitted: a template that matches admits
it, else it is refused (R217, R222). Log 181 (DEDUCED). -/
def tilthPasses (s : State) (half : Nat) (h : Ffh) : Option (Ev × Nat) × State :=
  if h.kind == 1 && !h.mc && addrSpine h.dst == selfSpine s && addrDown h.dst != 0 && (collOf s (collKey h.part h.collId)).isNone then
    match templateOf s h.part h.layer h.oper with
    | none => (some (.collUnknown, half), s)
    | some t =>
      match admitTemplate s h half t with
      | none => (some (.collTemplateFail, half), s)
      | some s1 => if (collOf s1 (collKey h.part h.collId)).isNone then (some (.collUnknown, half), s1) else (none, s1)
  else (none, s)

/-! Broadcast (R230, R231) -/

/-- Chunks that this node holds. -/
def lowestMissing (c : Coll) : Nat := ((List.range (c.finished.length + 1)).find? fun n => !c.finished.contains n).getD 0

/-- ARGA bit 31, B and the bitmap of a `BC_ACK` (Table 10.8). -/
def ackWords (c : Coll) : List Nat :=
  let b := lowestMissing c
  (List.range 8).map fun w => ((List.range 32).map fun i => bitv (c.finished.contains (b + 32 * w + i)) i).foldl (· + ·) 0

def ackBit (c : Coll) : Nat := bitv c.digest.isSome 31

/-- Acknowledge to the parent. -/
def ackParent (s : State) (c : Coll) : State :=
  let l := treeOf s c
  match myNode s l with
  | none => s
  | some me =>
    let p := l.parentOf me
    if p == noNode || nodeFenced s l p then s
    else sendCtrl s c (spineAddr s (nodeSpine l p)) 7 0 0 (ackBit c) (lowestMissing c) (ackWords c)

/-- The address of a child. -/
def kidAddr (s : State) (c : Coll) (kid : Nat) : Nat :=
  if kid < 2 ^ 24 then memberAddr s c kid else spineAddr s (nodeSpine (treeOf s c) (kid - 2 ^ 24))

/-- The last 16 bytes of a broadcast chunk (R221). -/
def bcTrailer (c : Coll) (data : List Byte) : List Byte := beBytes 8 (fprint c.desc) ++ beBytes 8 (crc64 data)

def sentKey (kid chunk : Nat) : Nat := kid * 2 ^ 32 + chunk

/-- The digest of the cache in chunk order is compared with the root member's (R231). -/
def verifyDigest (s : State) (k : Nat) : State :=
  match collOf s k with
  | none => s
  | some c =>
    match c.digest with
    | none => s
    | some ws =>
      if c.verified || c.failed.isSome || c.finished.length < vecChunks c.desc then s
      else if sha384 (c.cache.flatMap (·.2)) == ws.flatMap (beBytes 4) then checkDone (setColl s { c with verified := true }) k
      else failColl (raise s .bcDigestErr c.half (recColl c.part c.id 0 c.layer c.oper)) k { code := .internal }

/-- A `BCAST_CHUNK` reaches a node (R230). Log 110 (DEDUCED). -/
def bcastIn (s : State) (fid : Nat) : State :=
  match takeHeld s fid 3 with
  | none => s
  | some (f, s0) =>
    let h := f.ffh
    let k := collKey h.part h.collId
    match collOf s0 k with
    | none => dropHeld s0 fid
    | some c =>
      let data := f.data.take (f.data.length - 16)
      let t := f.data.drop (f.data.length - 16)
      let drop := dropHeld s0 fid
      if dOpc c.desc != 4 || c.failed.isSome then drop
      else
        let r := readFrame s0 fid
        if !r.1 then r.2
        else if f.data.length < 16 then failColl (countPayFault (releaseRef r.2 fid) (chunkEngine c h.chunk) .rows (recFrame h)) k { code := .badParam }
        else if beAt t 0 8 != fprint c.desc then mismatch (releaseRef r.2 fid) c (dRoot c.desc) (fclassOf (beAt t 0 8) (fprint c.desc))
        else if beAt t 8 8 != crc64 data then raise (releaseRef r.2 fid) .bcCrcErr c.half (recFrame h)
        else if c.finished.contains h.chunk then releaseRef r.2 fid
        else if decide (vecChunks c.desc ≤ h.chunk) || data.length != chunkLen c.desc h.chunk then
          mismatch (releaseRef r.2 fid) c (dRoot c.desc) 2
        else
          let s1 := c.kids.foldl (fun u e =>
            sendShared u c.half fid { h with src := spineAddr u (selfSpine u), dst := kidAddr u c e.1, esc := false, hops := 0
                                             tc := 5, epoch := u.sh.epoch }) r.2
          let c1 := { c with
            cache := tins c.cache h.chunk data, finished := c.finished ++ [h.chunk]
            sentAt := c.kids.foldl (fun t e => tins t (sentKey e.1 h.chunk) s.raw) c.sentAt }
          let s2 := setColl (releaseRef s1 fid) c1
          let s3 := if c1.finished.length % 256 == 0 || c1.finished.length == vecChunks c.desc then ackParent s2 c1 else s2
          verifyDigest s3 k

/-- Is a cached chunk readable? A clod found uncorrectable makes its chunk missing again (R230, R57). Log 113 (DEDUCED). -/
def readCache (s : State) (k chunk : Nat) : Option (List Byte) × State :=
  match collOf s k with
  | none => (none, s)
  | some c =>
    let ids := match (c.resv.head?).bind (tfind s.loam.resvs) with | some r => r.clodIds | none => []
    let n := chunkClods c.desc
    let mine := (ids.drop (chunk * n)).take n
    let bad := mine.filter fun q => let r := tget ({} : ClodRec) s.loam.clods q; r.kind == .cache && r.err == 2
    let fixable := mine.filter fun q => let r := tget ({} : ClodRec) s.loam.clods q; r.kind == .cache && r.err == 1
    let s1 := fixable.foldl (fun u q => correct u (.sub q)) s
    if bad.isEmpty then (tfind c.cache chunk, s1)
    else
      let s2 := bad.foldl (fun u q =>
        { raise u .loamUe 0 (recStore c.part q 0) with loam := { (raise u .loamUe 0 (recStore c.part q 0)).loam with
          clods := tins u.loam.clods q { kind := .retired } } }) s1
      (none, setColl s2 { c with cache := tdel c.cache chunk, finished := c.finished.filter (· != chunk), verified := false })

/-- Send a cached chunk to a child. -/
def sendCached (s : State) (k kid chunk : Nat) (count : Bool) : State :=
  match readCache s k chunk with
  | (some data, s1) =>
    match collOf s1 k with
    | none => s1
    | some c =>
      let s2 := spawnUnicast s1 c.half { collHdr s1 c 3 (kidAddr s1 c kid) chunk 0 with last := true } (data ++ bcTrailer c data) (collPool c)
      let s3 := setColl s2 { c with sentAt := tins c.sentAt (sentKey kid chunk) s.raw }
      if count then raise s3 .bcResend c.half (recColl c.part c.id chunk c.layer c.oper) else s3
  | (none, s1) => s1

/-- Send the digest to a child. -/
def sendDigest (s : State) (k kid : Nat) (ws : List Nat) (count : Bool) : State :=
  match collOf s k with
  | none => s
  | some c =>
    let s1 := sendCtrl s c (kidAddr s c kid) 10 0 0 noArg noArg ws
    let s2 := setColl s1 { c with sentAt := tins c.sentAt (sentKey kid noArg) s.raw }
    if count then raise s2 .bcResend c.half (recColl c.part c.id 0 c.layer c.oper) else s2

/-- Was something last sent to a child more than BC_RESEND_US ago? -/
def resendDue (s : State) (c : Coll) (kid chunk : Nat) : Bool :=
  match tfind c.sentAt (sentKey kid chunk) with
  | some t => decide (t + ticksOfUs (fld s .BC_RESEND_US) < s.raw)
  | none => false

/-- Chunks that a child's latest acknowledgment shows missing. -/
def shownMissing (c : Coll) (x : BcChild) : List Nat :=
  if x.bitmap.isEmpty then []
  else
    ((List.range 256).filter fun i => !bitAt (x.bitmap.getD (i / 32) 0) (i % 32) && decide (x.base + i < vecChunks c.desc)).map (x.base + ·)

/-- The parent sends again (R230). -/
def bcResendAll (s : State) (k : Nat) : State :=
  match collOf s k with
  | none => s
  | some c =>
    if dOpc c.desc != 4 || c.failed.isSome then s
    else
      c.kids.foldl (fun u e =>
        let u1 := ((shownMissing c e.2).filter fun n => c.finished.contains n && resendDue s c e.1 n).foldl (fun v n => sendCached v k e.1 n true) u
        match c.digest with
        | some ws => if !e.2.digest && resendDue s c e.1 noArg then sendDigest u1 k e.1 ws true else u1
        | none => u1) s

/-- The child an address belongs to. -/
def kidOf (s : State) (c : Coll) (addr : Nat) : Option Nat := (c.kids.find? fun e => kidAddr s c e.1 == addr).map (·.1)

/-- What a `BC_ACK` or `REPAIR_REQ` says. -/
def ackOf (b : List Byte) : BcChild :=
  { base := beAt b 8 4, bitmap := (List.range 8).map fun i => beAt b (16 + 4 * i) 4, digest := bitAt (beAt b 4 4) 31 }

/-! Fences and repair (R227, R228, R232) -/

/-- The alternates of a node that it may ask: named, and not fenced. -/
def alternates (s : State) (l : TList) (i : Nat) : List Nat :=
  match l.nodes[i]? with
  | none => []
  | some n => [n.alt1, n.alt2].filter fun a => a != noNode && !nodeFenced s l a

/-- The alternates after one that has been asked. -/
def laterAlternates (s : State) (l : TList) (i asked : Nat) : List Nat :=
  let named := match l.nodes[i]? with | some n => [n.alt1, n.alt2] | none => []
  ((named.dropWhile (· != asked)).drop 1).filter fun a => a != noNode && !nodeFenced s l a

/-- Ask an alternate to adopt this node's subtree. -/
def askAlternate (s : State) (c : Coll) (me alt : Nat) : State :=
  let bc := dOpc c.desc == 4
  let l := treeOf s c
  let s1 := sendCtrl s c (spineAddr s (nodeSpine l alt)) 8 0 0 (me + if bc then ackBit c else 0) (if bc then lowestMissing c else 0)
    (if bc then ackWords c else List.replicate 8 0)
  setColl s1 { c with orphan := some { alt := alt, since := s.raw } }

/-- Members that are excluded from here on (R227). -/
def excludeMembers (s : State) (k : Nat) (rs : List Nat) : State :=
  match collOf s k with
  | none => s
  | some c =>
    let open_ := c.chunks.flatMap fun e => (e.2.pieces.filter fun p => !p.2.done && rs.contains (p.1 % 2 ^ 24)).flatMap fun p => p.2.fids
    let keep := fun (p : Nat) (x : Piece) => x.done || !(decide (p < 2 ^ 24) || decide (2 ^ 25 ≤ p)) || !rs.contains (p % 2 ^ 24)
    let chunks := tmap (fun _ (h : Chunk) => { h with pieces := tfilter keep h.pieces }) c.chunks
    let c1 := { c with excluded := c.excluded ++ rs, chunks := chunks, kids := tfilter (fun x _ => !rs.contains x) c.kids }
    let s1 := setColl (open_.foldl releaseRef s) c1
    let s2 := if dOrdered c.desc then chunks.foldl (fun u e => addInOrder k e.1 (orderedKeys u c1 e.1) u) s1 else s1
    checkDone (a2aCheck (barrierCheck s2 k) k) k

/-- Members treated as fenced: the collective fails, or goes on without them. -/
def loseMembers (s : State) (k : Nat) (rs : List Nat) : State :=
  match collOf s k, rs with
  | some c, r :: _ =>
    if dExclude c.desc then excludeMembers s k rs
    else if dOpc c.desc == 6 then
      (localMembers s c).foldl (fun u d => match collOf u k with | some x => failDest u x d { code := .peerFenced, rank := r } | none => u) s
    else failColl s k { code := .peerFenced, rank := r }
  | _, _ => s

/-- The members of the subtrees of some nodes that still count. -/
def subtreeMembers (s : State) (c : Coll) (is : List Nat) : List Nat :=
  let l := treeOf s c
  let spines := (l.subtree (l.nodes.length + 1) is).map (nodeSpine l)
  let ms := membersOf s c
  (List.range ms.length).filter fun r => spines.contains (addrSpine (ms.getD r 0)) && !isExcluded c r

/-- No alternate is left: the members of this node's subtree are treated as fenced (R232). -/
def subtreeLost (s : State) (k : Nat) : State :=
  match collOf s k with
  | none => s
  | some c =>
    match myNode s (treeOf s c) with
    | none => s
    | some me => loseMembers (setColl s { c with orphan := none }) k (subtreeMembers s c [me])

/-- Ask the first alternate left, or give up. -/
def seekParent (s : State) (k : Nat) (alts : List Nat) : State :=
  match collOf s k with
  | none => s
  | some c =>
    match myNode s (treeOf s c), alts with
    | some me, a :: _ => askAlternate s c me a
    | _, _ => subtreeLost s k

/-- The lowest chunk not yet finalised. -/
def lowestOpen (c : Coll) : Nat := lowestMissing c

/-- Another node takes a fenced node's chunks (R228). -/
def moveChunks (s : State) (k i : Nat) : State :=
  match collOf s k with
  | none => s
  | some c =>
    let l := treeOf s c
    let nn := l.nodes.length
    match ((List.range nn).map fun x => (i + 1 + x) % max 1 nn).find? fun j => j != i && !nodeFenced s l j with
    | none => failColl s k { code := .peerFenced }
    | some j =>
      let was := (coordOf s l).getD 0
      let mine := myNode s l == some j
      let c1 := { c with moved := tins c.moved i j, repaired := true
                         entered := c.entered.filter fun x => ownerOf c l (x / 2 ^ 17) != i
                         nodeDone := tdel (tdel c.nodeDone i) j
                         sentDone := c.sentDone && !mine && decide (was < i) }
      let s1 := setColl s c1
      checkDone (if myNode s l == some was then toMembers s1 c1 fun u a => sendCtrl u c1 a 6 0 0 i j [] else s1) k

/-- The nodes that a fence has cut off and an alternate may still adopt, as this spine's copy of the list shows them. -/
def openOrphans (s : State) (l : TList) : List Nat :=
  (List.range l.nodes.length).filter fun j =>
    !nodeFenced s l j && l.parentOf j != noNode && nodeFenced s l (l.parentOf j) && !(alternates s l j).isEmpty

/-- The coordinator sends the `RESTART` it owes, once no orphan is left to adopt, or when every alternate has had its time (R228,
Table 10.10). Log 107 (DEDUCED). -/
def tryRestart (s : State) (k : Nat) : State :=
  match collOf s k with
  | none => s
  | some c =>
    let late := fun (t : Nat) => elapsed s t (ticksOfUs (10 + 2 * fld s .BC_REPAIR_TMO_US))
    match c.restart with
    | none => s
    | some t =>
      if !(openOrphans s (treeOf s c)).isEmpty && !late t then s
      else
        let from_ := if dOpc c.desc == 3 then 0 else lowestOpen c
        let s1 := toMembers s c fun u a => sendCtrl u c a 6 0 0 noArg from_ []
        restartFrom (toNodes s1 c fun u a => sendCtrl u c a 6 0 0 noArg from_ []) k from_

/-- The node seeks a new parent when it has lost its own, or the alternate that it has asked (R232). -/
def seekAfter (s : State) (k i : Nat) : State :=
  match collOf s k with
  | none => s
  | some c =>
    let l := treeOf s c
    match myNode s l with
    | none => s
    | some me =>
      if l.parentOf me == i then
        match c.orphan with
        | some o => if o.alt == i then seekParent s k (laterAlternates s l me i) else s
        | none => seekParent s k (alternates s l me)
      else
        match c.orphan with
        | some o => if o.alt == i then seekParent s k (laterAlternates s l me i) else s
        | none => s

/-- A node of the collective's tree is fenced: its orphans seek a parent, those that have none to ask are lost with their subtrees, and
the coordinator owes a `RESTART` (R228, R232). Log 107 (DEDUCED). Log 108 (DEDUCED). -/
def loseTreeNode (s : State) (k i : Nat) : State :=
  match collOf s k with
  | none => s
  | some c =>
    let l := treeOf s c
    let me := myNode s l
    let lost := (l.childrenOf i).filter fun j => some j != me && !nodeFenced s l j && (alternates s l j).isEmpty
    let s1 := seekAfter (setColl s { c with kids := tdel c.kids (nodeKey i), nodeDone := tdel c.nodeDone i }) k i
    let s2 := match collOf s1 k with | some c1 => loseMembers s1 k (subtreeMembers s1 c1 lost) | none => s1
    if dOpc c.desc == 4 || me != coordOf s l then checkDone s2 k
    else
      match collOf s2 k with
      | none => s2
      | some c2 => tryRestart (setColl s2 { c2 with restart := some s.raw }) k

/-- A node of the collective is fenced (R228). -/
def loseNode (s : State) (k i : Nat) : State :=
  match collOf s k with
  | none => s
  | some c =>
    let d := c.desc
    if c.failed.isSome || dOpc d == 6 then s
    else if i == 0 && dOpc d == 4 then failColl s k { code := .rootLost }
    else if i == 0 && (dTree d || dOpc d == 3 || dOpc d == 5) then failColl s k { code := .peerFenced }
    else if dOwned d then moveChunks s k i
    else if dOpc d == 5 then s
    else loseTreeNode s k i

/-- As far as this node can see, is a member done with: its pieces complete, and every result addressed to it sent (R227)? -/
def memberSettled (s : State) (c : Coll) (r : Nat) : Bool :=
  let d := c.desc
  let n := vecChunks d
  let pieces := c.chunks.filter fun e => (pieceOf e.2 r).done
  let q := n / max 1 (membersOf s c).length
  let mine := (c.finished.filter fun x => decide (r * q ≤ x) && decide (x < (r + 1) * q)).length
  c.sentDone ||
    match dOpc d with
    | 2 => decide (owedBelow s c n ≤ c.finished.length + pieces.length) &&
        (decide (owedBelow s c ((r + 1) * q) - owedBelow s c (r * q) ≤ mine) || (dTree d && myNode s (treeOf s c) != some 0))
    | 4 => decide (n ≤ c.finished.length) && c.digest.isSome
    | 6 => (localMembers s c).all fun x =>
        if x == r then (tfind c.nodeDone x).isSome else isExcluded c x || c.finished.contains (x * 2 ^ 17 + r)
    | _ => owesNothing s c

/-- A fence reaches a collective: of a node's spine, and of the endpoints that `hit` accepts (R227). A coordinator that has done its
own part keeps the fenced ranks, for a completion that another node's part makes DONE_PARTIAL. Log 108 (DEDUCED). -/
def fenceColl (s : State) (k : Nat) (spine : Option Nat) (hit : Nat → Bool) : State :=
  match collOf s k with
  | none => s
  | some c =>
    if c.failed.isSome then s
    else
      let l := treeOf s c
      let ms := membersOf s c
      let rs := (List.range ms.length).filter fun r => hit (ms.getD r 0) && !isExcluded c r
      let rootHit := dOpc c.desc == 4 && rs.contains (dRoot c.desc)
      let node := spine.bind fun x => (findIdx (fun (n : TNode) => n.spine == x) 0 l.nodes).map (·.1)
      if rootHit then failColl s k { code := .rootLost }
      else
        let s0 := setColl s { c with fencedLate := c.fencedLate ++ rs.filter (memberSettled s c) }
        let s1 := if dOpc c.desc == 4 && node == some 0 then s0 else loseMembers s0 k (rs.filter fun r => !memberSettled s c r)
        match node with
        | some i => loseNode s1 k i
        | none => s1

/-- A fence reaches Tilth. -/
def tilthFence (s : State) (spine : Option Nat) (hit : Nat → Bool) : State :=
  s.tilth.colls.foldl (fun u e => fenceColl u e.1 spine hit) s

/-- Record an adoption in the list (R228). -/
def adopt (s : State) (c : Coll) (child parent : Nat) : State :=
  { s with tilth := { s.tilth with
    lists := tadj s.tilth.lists (c.part * 65536 + dSlist c.desc) fun l => { l with adopted := l.adopted ++ [(child, parent)] } } }

/-- The oldest open chunk of this node (Table 10.9). -/
def oldestOpen (s : State) (c : Coll) : Option Nat :=
  let d := c.desc
  let n := vecChunks d
  let done := c.finished.length + 1
  if dOpc d == 3 then
    (gatherRanks s c).findSome? fun r => ((List.range (min n done)).map (r * n + ·)).find? fun x => !c.finished.contains x
  else
    let bound := min n (done * max 1 (treeOf s c).nodes.length)
    (List.range bound).find? fun x => worksOn s c x && !c.finished.contains x

/-- What a deadline finds missing: the chunk and the ranks (Table 10.9). -/
def missingNow (s : State) (c : Coll) : Option Nat × List Nat :=
  let d := c.desc
  match dOpc d with
  | 5 => (some 0, (neededMembers s c).filter fun r => !c.arrived.contains r)
  | 4 => (none, (c.kids.filter fun e => decide (e.1 < 2 ^ 24) && (e.2.base < vecChunks d || !e.2.digest)).map (·.1))
  | _ =>
    match oldestOpen s c with
    | none => (none, [])
    | some x =>
      if dOpc d == 3 then (some x, [x / max 1 (vecChunks d)])
      else (some x, (neededMembers s c).filter fun r => !(pieceOf (chunkOf c x) r).done)

/-- The deadline START + TMO_US passes on this node. -/
def collDeadline (s : State) (k : Nat) : State :=
  match collOf s k with
  | none => s
  | some c =>
    if !reached s (c.start + dTmo c.desc * 1000) then s
    else
      match c.failed with
      | some st => endColl s c st
      | none =>
        let rec_ := recColl c.part c.id 0 c.layer c.oper
        if dOpc c.desc == 6 then
          ((localMembers s c).filter fun d => !isExcluded c d).foldl (fun u d =>
            match collOf u k with
            | none => u
            | some x =>
              let miss := missingBlocks u x d
              failDest u x d { code := .memberTimeout, rank := miss.headD noArg, ranks := miss }) (raise s .collTimeout c.half rec_)
        else
          let l := treeOf s c
          if c.sentDone && myNode s l != coordOf s l then s
          else
            let m := missingNow s c
            failColl (raise s .collTimeout c.half rec_) k
              { code := .memberTimeout, rank := m.2.headD noArg, chunk := m.1.getD noArg, ranks := m.2 }

/-! Teardown (R233) -/

/-- Tilth forgets a partition. -/
def tilthTeardown (s : State) (part : Nat) : State :=
  let s1 := (s.tilth.colls.filter fun e => e.2.part == part).foldl (fun u e => removeColl u e.2) s
  { s1 with tilth := { s1.tilth with
    queues := tfilter (fun _ q => q.part != part) s1.tilth.queues
    templates := s1.tilth.templates.filter fun t => t.part != part
    lists := tfilter (fun k _ => k / 65536 != part) s1.tilth.lists } }

end Sys2Proof.Machine
end

