-- ==== Sys2Proof/Machine/Notice.lean ====
section
/-!
DEFINITION. Machine/Notice.lean: what a fence notice makes Tilth and Marl do (R205, R227, R228, R232).
-/

namespace Sys2Proof.Machine

open Sys2Proof

/-- A spine of the fabric has been fenced. The combine state of a spine that is fenced itself is lost, and no notice is sent (R23,
Table 10.8). -/
def spineNotice (s : State) (spine : Nat) : State :=
  let s1 := if spine == selfSpine s then (s.marl.tokens.map (·.1)).foldl dropToken s else tokenFence s fun a => addrSpine a == spine
  tilthFence s1 (some spine) fun a => addrSpine a == spine

/-- The endpoints behind a down-port of a spine have been fenced. -/
def downNotice (s : State) (spine field : Nat) : State :=
  let hit := fun a => addrSpine a == spine && addrDown a == field
  tilthFence (tokenFence s hit) none hit

end Sys2Proof.Machine
end

