-- ==== Sys2Proof/Machine/PrivetOps.lean ====
section
/-!
DEFINITION. Machine/PrivetOps.lean: a lane that fails (R253 to R255) and wrong-line evidence (R266, R267).
-/

namespace Sys2Proof.Machine

open Sys2Proof

/-! Failing lanes (R253 to R255) -/

/-- The position of a lane number within its port. -/
def lanePos (s : State) (lane : Nat) : Nat := lane - laneStart s (laneHolder s lane)

/-- The largest power of two of the healthy lanes of a port, as a mask (R255). -/
def degradeMask (s : State) (p : Nat) : Nat :=
  let ok := onesOf 8 (portLink s p).laneOk
  let n := if 8 ≤ ok.length then 8 else if 4 ≤ ok.length then 4 else if 2 ≤ ok.length then 2 else ok.length
  (ok.take n).foldl (fun a i => a + 2 ^ i) 0

/-- Has the spare of an electrical lane's slice a place for it (R254)? It serves one failure: a lane whose remap is asked for has
it. The spare trains with the ports of its tile, so it is trained when one of them is up. -/
def spareServes (s : State) (lane : Nat) : Bool :=
  let sl := sliceOf lane
  1024 ≤ lane && tileOf lane == 8 + fldI s .SPARE_TILE sl && (tfind s.lk.spares sl).isNone &&
    (tfind s.lk.spareAsked sl == none || tfind s.lk.spareAsked sl == some lane)

/-- A lane counts as failed (R253): an electrical one goes to the spare of its tile; else the port degrades, when DEG_EN
is 1 and a lane is left, or goes down. -/
def laneDown (s : State) (lane : Nat) : State :=
  let p := laneHolder s lane
  let l := portLink s p
  if !portUp s p then s
  else
    let s1 := setPortLink s p { l with laneOk := l.laneOk &&& (255 - 2 ^ lanePos s lane) }
    if spareServes s lane then
      emit { s1 with lk := { s1.lk with spareAsked := tins s1.lk.spareAsked (sliceOf lane) lane } } (.lanes p 1 (2 ^ lanePos s lane))
    else if lkCfg s .DEG_EN p == 1 && (portLink s1 p).laneOk != 0 then emit s1 (.lanes p 2 (degradeMask s1 p))
    else linkDown s1 p

/-- A lane of an up port fails (R253, R273): an optical lane first migrates to a spare line, or goes on with the migration
that is open (Table 12.8). Log 126 (DEDUCED). -/
def laneFailed (s : State) (lane : Nat) : State :=
  if !portUp s (laneHolder s lane) then s
  else if lane < 1024 then
    match migOf s true lane with
    | some m => putMig s { m with emerg := true }
    | none =>
      match (if mayMigrate s lane then freeSpare s lane else none) with
      | some l => startMig s lane l true
      | none => laneDown s lane
  else laneDown s lane

/-- The drop filter or receiver of a lane has failed: the far end is asked to migrate it (R273). -/
def askMig (s : State) (lane : Nat) : State :=
  let peer := tget lane (portLink s (laneHolder s lane)).peerLane (lanePos s lane)
  if mayMigrate s lane then
    let msg := optMsg 6 0 peer true (rxLineOf s lane) 0 0
    sendOpt (putMig s { tx := false, lane := lane, laneId := peer, id := 0, emerg := true, fromLine := rxLineOf s lane
                        toLine := 0, step := .asked, since := s.raw, msg := msg, sentAt := s.raw }) lane msg
  else laneDown s lane

/-- The lane of a ring that has failed. -/
def ringFailed (s : State) (r : Nat) : State :=
  match laneOfRing s r with
  | none => s
  | some n => if ringDir r == 0 then laneFailed s n else askMig s n

/-- Does a migration involve a ring? -/
def migUses (r : Nat) (m : Mig) : Bool :=
  m.tx == (ringDir r == 0) && engineOf m.lane == ringEngine r && fibreOf m.lane == ringFibre r &&
    (m.fromLine == ringLine r || m.toLine == ringLine r)

/-- Wrong-line evidence against a ring (R266, R267): it relocks, or its lane fails when the evidence recurs within 1 ms
of its relock. Log 125 (DEDUCED). -/
def wrongLine (s : State) (r : Nat) : State :=
  let x := ringOf' s r
  if x.phase != .locked then s
  else if (match x.relockedAt with | some t => !elapsed s t (ticksOfMs 1) | none => false) then ringFailed s r
  else
    let s1 := abortMigs (raise s .prvWrongLine r) (migUses r)
    setRing s1 r { x with phase := .off, tries := 0, onEvidence := true }

end Sys2Proof.Machine
end

