-- ==== Sys2Proof/Machine/HawOps.lean ====
section
/-!
DEFINITION. Machine/HawOps.lean: fences (R312), cabling judgments (R316, R318), floods (R324), votes (R325, R326),
HOLD (R328) and probation (R329).
-/

namespace Sys2Proof.Machine

open Sys2Proof

/-! Fences (R312, R313) -/

/-- Fence a port: the fence is set, and its link goes down under R241. A FAULT fence replaces a BOUNDARY fence. -/
def fencePort (s : State) (p : Nat) (k : PortFence) : State :=
  let s1 := { s with haw := { s.haw with portFence := tset .none s.haw.portFence p k, boundaryAt := tdel s.haw.boundaryAt p } }
  let s2 := linkDown (stopKeying (fenceLanes s1 p) p) p
  setPortLink s2 p { portLink s2 p with phase := .down }

/-- Lift a port fence: the port trains again when it is enabled. -/
def unfencePort (s : State) (p : Nat) : State :=
  if !portFenced s p then s
  else
    let s1 := { s with haw := { s.haw with portFence := tdel s.haw.portFence p, waitFrom := tins s.haw.waitFrom p s.raw } }
    setPortLink s1 p { portLink s1 p with phase := if portEnabled s1 p then .training else .down, step := .signal, refAt := s.raw }

/-- A boundary port of a partition (R311): a fabric-mode port of a dimension outside FREE, or a code-0xF port not in
BYPASS_MAP. -/
def onBoundary (s : State) (free : Nat) (bypass : List Nat) (p : Nat) : Bool :=
  portMode s p == .fabric && ((isSpinePort s p && !bitAt free (dimCode s p)) || (dimCode s p == 0xF && !bypass.contains p))

/-- A port that becomes a boundary port of the partition this spine holds is fenced 10 µs later (R311). -/
def dueBoundary (s : State) (p : Nat) : State :=
  if holdsPart s && portEnabled s p && !portFenced s p && onBoundary s s.haw.free s.haw.bypass p then
    { s with haw := { s.haw with boundaryAt := tins s.haw.boundaryAt p s.raw } }
  else s

def setSpine (s : State) (x : Nat) (g : SpineBits → SpineBits) : State :=
  { s with haw := { s.haw with spines := tmod {} s.haw.spines x g } }

/-- The dimensions across which a spine is a neighbour of this one. -/
def dimsToward (s : State) (x : Nat) : List Nat := (List.range (dimsN s)).filter fun d => neighbourOf s (selfSpine s) d == x

/-- This spine's fabric-mode ports toward a neighbour. -/
def portsToward (s : State) (x : Nat) : List Nat :=
  (dimsToward s x).flatMap fun d => (portsOfDim s d).filter fun p => portMode s p == .fabric

/-! Cabling (R315 to R318) -/

def cabOf (s : State) (p : Nat) : Cab := tget .discovery s.haw.cab p
def setCab (s : State) (p : Nat) (c : Cab) : State := { s with haw := { s.haw with cab := tset .discovery s.haw.cab p c } }

def idOf (s : State) (p : Nat) : PeerId := tget {} s.haw.ids p
def setId (s : State) (p : Nat) (i : PeerId) : State := { s with haw := { s.haw with ids := tset {} s.haw.ids p i } }

/-- The spine number a DISCOVERY names; 0x3FFF for an endpoint. -/
def discSpine (b : List Byte) : Nat := beAt b 2 2 % 16384

/-- The kind of identity a port awaits: its plan entry's, or that of the first identity that arrives (R316). -/
def awaitedKind (s : State) (p : Nat) : Option Nat :=
  match tfind s.haw.plan p with
  | some e => some e.pkind
  | none =>
    let i := idOf s p
    if i.lldp.isSome then some 3
    else match i.disc with
      | some b => some (if discSpine b == 0x3FFF then 2 else 1)
      | none => if i.helloTag.isSome then some 2 else none

/-- Is the identity of the awaited kind complete? -/
def identityComplete (s : State) (p : Nat) : Bool :=
  let i := idOf s p
  match awaitedKind s p with
  | some 1 => i.helloTag.isSome && (match i.disc with | some b => discSpine b != 0x3FFF | none => false)
  | some 2 => i.helloTag.isSome
  | some 3 => i.lldp.isSome
  | _ => false

/-- Does the identity at a port equal a plan entry? -/
def identityMatches (i : PeerId) (e : PlanEnt) : Bool :=
  match e.pkind with
  | 1 => i.helloTag == some e.tag && i.helloPort == e.peerPort &&
      (match i.disc with | some b => discSpine b == e.peerSpine | none => false)
  | 2 => i.helloTag == some e.tag && i.helloPort == e.peerPort
  | _ => i.lldp == some (e.tag, e.pcrc)

/-- The partition row of Table 14.4: a spine neighbour across a free dimension that differs in plane, cube, partition or
admission. -/
def partMismatch (s : State) (p : Nat) : Bool :=
  match (idOf s p).disc with
  | none => false
  | some b =>
    discSpine b != 0x3FFF && holdsPart s && isSpinePort s p && bitAt s.haw.free (dimCode s p) &&
      (beAt b 1 1 % 8 != selfPlane s || bitsOf (beAt b 7 1) 7 4 != dimsN s || bitAt (beAt b 7 1) 3 != flag s .TW_SUB ||
        bitAt (beAt b 7 1) 2 != flag s .TW_TOP || beAt b 8 2 % 4096 != s.haw.part || beAt b 12 4 != s.haw.admitHash)

/-- A judgment: CAB, the other port of a SWAP, and the event that reports it. -/
def judgment (s : State) (p : Nat) : Cab × Nat × Option Ev :=
  let i := idOf s p
  if partMismatch s p then (.quarantined, 0, some .hawPartMismatch)
  else
    match tfind s.haw.plan p with
    | some e =>
      if e.any || identityMatches i e then (.ok, 0, none)
      else
        match s.haw.plan.find? fun x => x.1 != p && cabOf s x.1 != .ok && identityMatches i x.2 with
        | some (q, _) => (.swap, q, some .hawSwap)
        | none => (.quarantined, 0, some .hawQuarantine)
    | none =>
      match s.haw.plan.find? fun x => cabOf s x.1 != .ok && identityMatches i x.2 with
      | some (q, _) => (.swap, q, some .hawSwap)
      | none => (.quarantined, 0, some .hawQuarantine)

/-- Judge a port (R316, R318). A judgment that does not change raises nothing. -/
def judgePort (s : State) (p : Nat) : State :=
  if flag s .DISC_MODE then setCab s p .discovery
  else if !portUp s p then
    if cabOf s p == .absent && (tfind s.haw.plan p).isSome && portEnabled s p && !portFenced s p then s else setCab s p (downCab s p)
  else if !identityComplete s p then setCab s p .awaiting
  else
    let j := judgment s p
    let old := cabOf s p
    let s1 := setCab { s with haw := { s.haw with swapWith := tset 0 s.haw.swapWith p j.2.1 } } p j.1
    match j.2.2 with
    | some e => if old == j.1 && tget 0 s.haw.swapWith p == j.2.1 then s1 else raise s1 e p (recVal j.2.1)
    | none => s1

/-- Judge every enabled port (R318, R315). -/
def judgeAll (s : State) : State := (enabledPorts s).foldl judgePort s

/-- A port has come up: its identity starts anew from HELLO, DISCOVERY is due, and the cabling check begins (Table 11.3
step 5, R314, R316). -/
def hawLinkUp (s : State) (p : Nat) : State :=
  let h := (portLink s p).hello
  let i : PeerId := if h.isEmpty then {} else { helloTag := some (beAt h 12 4), helloPort := beAt h 6 2 % 2048 }
  let s1 := setId s p i
  judgePort { s1 with haw := { s1.haw with discSentAt := tdel s1.haw.discSentAt p, waitFrom := tdel s1.haw.waitFrom p } } p

/-- The `DISCOVERY` payload (Table 14.3). -/
def discPayload (s : State) (p : Nat) (boundary : Bool) : List Byte :=
  beBytes 1 (0x10 + bitv boundary 3) ++ beBytes 1 (selfPlane s) ++ beBytes 2 (selfSpine s) ++ beBytes 2 p ++
    beBytes 1 (fld s .POD_DIMS) ++
    beBytes 1 (dimsN s * 16 + bitv (flag s .TW_SUB) 3 + bitv (flag s .TW_TOP) 2) ++
    beBytes 2 (if holdsPart s then s.haw.part else 0) ++ zeroBytes 2 ++ beBytes 4 (if holdsPart s then s.haw.admitHash else 0) ++
    beBytes 4 (Config.fusedSerial.toNat % 2 ^ 32) ++ zeroBytes 12

/-- Where the DISCOVERY and beats of a port are addressed: the peer spine, or endpoint 0 behind a down-port. On a port
without a dimension the peer spine is the one its DISCOVERY names, and the spine itself until then. -/
def peerAddr (s : State) (p : Nat) : Nat :=
  if isSpinePort s p then spineAddr s (neighbourOf s (selfSpine s) (dimCode s p))
  else match if dimCode s p == 0xF then discPeer s p else none with
    | some x => x.1 * 2 ^ 29 + x.2 * 2 ^ 15
    | none => spineAddr s (selfSpine s) + (fieldOfPort s p).getD 0 * 32

def sendDiscovery (s : State) (p : Nat) (boundary : Bool) : State :=
  let h : Ffh := { tc := 6, kind := 0xC, src := spineAddr s (selfSpine s), dst := peerAddr s p }
  spawnControl { s with haw := { s.haw with discSentAt := tins s.haw.discSentAt p s.raw } } p h (discPayload s p boundary)

/-! HEDGE messages (R323, R324) -/

/-- A HEDGE message (Table 14.6). -/
structure Hedge where
  htype : Nat
  evid : Nat := 0
  degraded : Bool := false
  hold : Bool := false
  part : Nat := 0
  suspect : Nat := 0
  dpV : Bool := false
  dport : Nat := 0
  origin : Nat := 0
  hseq : Nat := 0
  score : Nat := 0
  voters : Nat := 0
  yes : Nat := 0
  vseq : Nat := 0
  t : Nat := 0
  expelled : Nat := 0

def hedgeBytes (h : Hedge) : List Byte :=
  beBytes 1 (0x10 + h.htype) ++ beBytes 1 (h.evid * 32 + bitv h.degraded 4 + bitv h.hold 3) ++ beBytes 2 h.part ++
    beBytes 2 h.suspect ++ beBytes 2 (bitv h.dpV 15 + h.dport) ++ beBytes 2 h.origin ++ beBytes 2 h.hseq ++ beBytes 2 h.score ++
    beBytes 1 (h.voters * 16 + h.yes) ++ beBytes 1 h.vseq ++ beBytes 4 h.t ++ beBytes 3 h.expelled ++ zeroBytes 9

def hedgeParse (b : List Byte) : Hedge :=
  let x := beAt b 1 1
  { htype := beAt b 0 1 % 16, evid := bitsOf x 7 5, degraded := bitAt x 4, hold := bitAt x 3, part := beAt b 2 2 % 4096
    suspect := beAt b 4 2 % 16384, dpV := bitAt (beAt b 6 2) 15, dport := beAt b 6 2 % 1024, origin := beAt b 8 2 % 16384
    hseq := beAt b 10 2, score := beAt b 12 2 % 1024, voters := bitsOf (beAt b 14 1) 7 4, yes := bitsOf (beAt b 14 1) 3 0
    vseq := beAt b 15 1, t := beAt b 16 4, expelled := beAt b 20 3 }

/-- Messages that are consumed and ignored (R323). -/
def hedgeOk (b : List Byte) : Bool :=
  b.length == 32 && beAt b 0 1 / 16 == 1 && decide (1 ≤ beAt b 0 1 % 16) && decide (beAt b 0 1 % 16 ≤ 9) &&
    decide (beAt b 1 1 / 32 ≤ 4)

/-- This spine's partition; 0 when it holds none. -/
def ownPart (s : State) : Nat := if holdsPart s then s.haw.part else 0

/-- SELF_DEGRADED (R320). -/
def selfDegraded (s : State) : Bool := decide (s.haw.score < fld s .DEGRADE_SCORE)

/-- The parts of a message that say who sends it. -/
def hedgeBase (s : State) (htype : Nat) : Hedge :=
  { htype := htype, degraded := selfDegraded s, hold := s.haw.hold, part := ownPart s, origin := selfSpine s
    score := s.haw.score, t := now32 s, expelled := s.haw.expelled.length }

def sendHedge (s : State) (p : Nat) (m : List Byte) : State :=
  let h : Ffh := { tc := 6, kind := 0xB, src := spineAddr s (selfSpine s), dst := peerAddr s p }
  spawnControl s p h m

/-- Send a flooded message on the lowest fitting port of every bundle (R324). `from` is the dimension it arrived over. -/
def floodOut (s : State) (m : List Byte) (fromDim : Nat) : State :=
  let h := hedgeParse m
  (List.range 14).foldl (fun t d =>
    if d == fromDim || neighbourOf t (selfSpine t) d == h.suspect && h.htype != 8 && h.htype != 9 then t
    else
      match (bundle t d).find? fun p => h.part == 0 || portAdmits t p h.part 0xB with
      | some p => sendHedge t p m
      | none => t) s

def noteSeen (s : State) (origin hseq : Nat) : State :=
  { s with haw := { s.haw with seen := (s.haw.seen.filter fun e => !elapsed s e.2.2 (ticksOfMs 10)) ++ [(origin, hseq, s.raw)] } }

def isSeen (s : State) (origin hseq : Nat) : Bool :=
  s.haw.seen.any fun e => e.1 == origin && e.2.1 == hseq && !elapsed s e.2.2 (ticksOfMs 10)

/-- Originate a flooded message. -/
def flood (s : State) (h : Hedge) : State :=
  let n := s.haw.hseq
  let s1 := noteSeen { s with haw := { s.haw with hseq := (n + 1) % 65536 } } (selfSpine s) n
  floodOut s1 (hedgeBytes { h with hseq := n, origin := selfSpine s }) 15

/-- Take a flooded message from the inbox: a repeat is discarded, as is one whose cells cannot be read (R57), and a new one is
forwarded (R324). -/
def floodIn (s : State) (fid htype : Nat) : Option (Hedge × State) :=
  match s.loam.inbox.find? fun e => e.1 == fid, frameOf s fid with
  | some _, some f =>
    let h := hedgeParse f.data
    if f.ffh.kind != 0xB || (hedgeOk f.data && h.htype != htype) then none
    else
      match takeKind s fid 0xB with
      | .error s1 => some ({ h with htype := 0 }, s1)
      | .ok (_, s1) =>
        if !hedgeOk f.data || isSeen s h.origin h.hseq then some ({ h with htype := 0 }, s1)
        else some (h, floodOut (noteSeen s1 h.origin h.hseq) f.data (dimCode s f.inPort))
  | _, _ => none

/-! Silence (R322) -/

def neighOf (s : State) (d : Nat) : Neigh := tget {} s.haw.neigh d
def setNeigh (s : State) (d : Nat) (n : Neigh) : State := { s with haw := { s.haw with neigh := tset {} s.haw.neigh d n } }

/-- BEAT_MISS × BEAT_US in RAW ticks. -/
def silenceTicks (s : State) : Nat := ticksOfUs (fld s .BEAT_MISS * fld s .BEAT_US)

/-- No beat on any port of the bundle for the interval. Log 128 (DEDUCED). -/
def silentDim (s : State) (d : Nat) : Bool := elapsed s (neighOf s d).lastBeat (silenceTicks s)

/-- Every port of the bundle down for the interval; ports under a boundary fence are no evidence (R311). -/
def darkDim (s : State) (d : Nat) : Bool :=
  let ps := (portsOfDim s d).filter fun p => portMode s p == .fabric && fenceOf s p != .boundary
  !ps.isEmpty && ps.all fun p => !portUp s p && elapsed s (tget 0 s.haw.waitFrom p) (silenceTicks s)

/-- Has a neighbour any port here that could carry evidence? -/
def observable (s : State) (d : Nat) : Bool :=
  (portsOfDim s d).any fun p => portMode s p == .fabric && fenceOf s p != .boundary

/-- Is a suspect silent or dark toward this spine? -/
def silentOrDark (s : State) (x : Nat) : Bool := (dimsToward s x).any fun d => observable s d && (silentDim s d || darkDim s d)

/-! Votes (R325, R326) -/

/-- The dimensions whose neighbours vote: the free ones of the partition, or all. -/
def voteDims (s : State) : List Nat := (List.range (dimsN s)).filter fun d => !holdsPart s || bitAt s.haw.free d

/-- The voter set of a suspect: its neighbours, without the suspects of open votes. -/
def voterSet (s : State) (x : Nat) : List Nat :=
  (((voteDims s).map (neighbourOf s x)).eraseDups).filter fun v => v != x && !s.haw.votes.any fun o => o.suspect == v

def voteOn (s : State) (x : Nat) : Option Vote := s.haw.votes.find? fun v => v.suspect == x

def dropVote (s : State) (x : Nat) : State :=
  { s with haw := { s.haw with votes := s.haw.votes.filter fun v => v.suspect != x } }

def putVote (s : State) (v : Vote) : State :=
  let t := dropVote s v.suspect
  { t with haw := { t.haw with votes := t.haw.votes ++ [v] } }

/-- Keep the result of a vote: the last 16 (HAW_LAST_VOTE, HAW_REPORT). -/
def noteResult (s : State) (result evid voters yes suspect : Nat) : State :=
  let l := s.haw.lastVotes ++ [{ result := result, evid := evid, voters := voters, yes := yes, suspect := suspect, at_ := now32 s }]
  { s with haw := { s.haw with lastVotes := l.drop (l.length - 16) } }

/-- B of the partition (R328). -/
def budgetB (s : State) : Nat := if s.haw.devices = 0 then 0 else max 1 (s.haw.devices / fld s .BUDGET_DIV)

/-- Enter HOLD: the alarm HAW_HOLD (R328). -/
def enterHold (s : State) : State :=
  if s.haw.hold then s else raise { s with haw := { s.haw with hold := true } } .hawHold 0 (recVal s.haw.expelled.length (ownPart s))

/-- Count an expulsion of this partition; EXPELLED at B enters HOLD and floods it (R328). -/
def countExpulsion (s : State) (part : Nat) : State :=
  if !holdsPart s || part != s.haw.part then s
  else
    let s1 := { s with haw := { s.haw with expelled := s.haw.expelled ++ [s.raw] } }
    if !s1.haw.hold && decide (budgetB s1 ≤ s1.haw.expelled.length) then
      flood (enterHold s1) { hedgeBase s1 8 with hold := true }
    else s1

/-- A commit at a spine (R325, R328): the suspect is degraded, or its spine fence is set, its neighbours fence their ports
toward it, and Tilth is told. Log 131 (DEDUCED). -/
def applyCommit (s : State) (h : Hedge) : State :=
  let s1 := dropVote s h.suspect
  if h.degraded then raise (setSpine s1 h.suspect fun b => { b with degraded := true }) .hawDegrade 0 (recVal h.suspect h.part)
  else
    let s1b := { s1 with haw := { s1.haw with commitAt := tins s1.haw.commitAt h.suspect s1.raw } }
    let s2 := setSpine s1b h.suspect fun b => { b with fenced := true, weak := h.evid == 2, cleared := false, probation := false }
    let s3 := (portsToward s2 h.suspect).foldl (fun t p => if fenceOf t p == .fault then t else fencePort t p .fault) s2
    let s4 := raise s3 .hawVoteCommit 0 (recVal h.suspect h.part)
    let s5 := if h.evid == 4 then s4 else countExpulsion s4 h.part
    spineNotice s5 h.suspect

/-- Commit at the proposer: the result, the flood, and its own part (R325). In HOLD the commit only degrades, except a
MANUAL one (R328). -/
def commitVote (s : State) (v : Vote) : State :=
  let deg := s.haw.hold && v.evid != 4
  let h : Hedge := { hedgeBase s 5 with evid := v.evid, degraded := deg, part := v.part, suspect := v.suspect
                                        voters := v.voters.length, yes := v.yes.length, vseq := v.vseq }
  let s1 := noteResult (flood s h) (if deg then 3 else 1) v.evid v.voters.length v.yes.length v.suspect
  applyCommit s1 h

/-- Abandon at the proposer. -/
def abandonVote (s : State) (v : Vote) : State :=
  let h : Hedge := { hedgeBase s 6 with evid := v.evid, part := v.part, suspect := v.suspect
                                        voters := v.voters.length, yes := v.yes.length, vseq := v.vseq }
  dropVote (noteResult (flood s h) 2 v.evid v.voters.length v.yes.length v.suspect) v.suspect

def quorum (v : Vote) : Nat := v.voters.length / 2 + 1

/-- Commit on a quorum, abandon when it has become impossible (R325). -/
def settleVote (s : State) (v : Vote) : State :=
  if quorum v ≤ v.yes.length then commitVote s v
  else if v.voters.length < quorum v + v.no.length then abandonVote s v
  else putVote s v

def newVote (s : State) (x evid : Nat) (voters : List Nat) : Vote :=
  { suspect := x, origin := selfSpine s, vseq := s.haw.vseq, evid := evid, part := ownPart s, since := s.raw, mine := true
    voted := true, voters := voters, yes := voters.filter (· == selfSpine s) }

def bumpVseq (s : State) : State := { s with haw := { s.haw with vseq := (s.haw.vseq + 1) % 256 } }

/-- A spine becomes the suspect of a vote: it leaves the voter sets of the other open votes (R325, R326). -/
def leaveOut (s : State) (x : Nat) : State :=
  (s.haw.votes.filter fun v => v.suspect != x && v.voters.contains x).foldl (fun t v =>
    let out := fun (l : List Nat) => l.filter (· != x)
    let w := { v with voters := out v.voters, yes := out v.yes, no := out v.no }
    if w.mine then settleVote t w else putVote t w) s

/-- Propose a fence on evidence that voters judge (DARK, SILENT). -/
def propose (s : State) (x evid : Nat) : State :=
  let v := newVote s x evid (voterSet s x)
  let h : Hedge := { hedgeBase s 2 with evid := evid, suspect := x, vseq := v.vseq }
  settleVote (leaveOut (flood (bumpVseq s) h) x) v

/-- Propose a fence that is committed without votes (SELF, MANUAL). -/
def proposeStrong (s : State) (x evid : Nat) : State :=
  let v := { newVote s x evid (voterSet s x) with yes := [] }
  commitVote (bumpVseq s) v

/-- The spine's own fence, due since SCORE fell below FENCE_SCORE (R320). Log 130 (DEDUCED). -/
def proposeSelf (s : State) : State :=
  if !s.haw.selfDue then s
  else
    let s1 := { s with haw := { s.haw with selfDue := false } }
    if (spineBits s (selfSpine s)).fenced then s1 else proposeStrong s1 (selfSpine s) 0

/-- Does this voter see what a proposal says (Table 14.7)? -/
def votesYes (s : State) (v : Vote) : Bool :=
  silentOrDark s v.suspect || (v.evid == 2 && (spineBits s v.suspect).degraded)

/-- Cast a vote by flooding it. Log 129 (DEDUCED). -/
def castVote (s : State) (v : Vote) (yes : Bool) : State :=
  let h : Hedge := { hedgeBase s (if yes then 3 else 4) with evid := v.evid, part := v.part, suspect := v.suspect, vseq := v.vseq }
  putVote (flood s h) { v with voted := true }

/-! Probation (R329) -/

/-- A neighbour of the suspect turns its FAULT fences toward it into quarantine and watches its beats. -/
def startProbation (s : State) (x : Nat) : State :=
  let ps := portsToward s x
  if ps.isEmpty then s
  else
    let s1 := ps.foldl (fun t p => if fenceOf t p == .fault then unfencePort t p else t) s
    let s2 := setSpine s1 x fun b => { b with probation := true, cleared := false }
    { s2 with haw := { s2.haw with probation := tins s2.haw.probation x { since := s.raw } } }

/-- What a beat says of a probation: a missed beat or a low score fails it. Log 132 (DEDUCED). -/
def probationBeat (s : State) (x score : Nat) : State :=
  match tfind s.haw.probation x with
  | none => s
  | some p =>
    let late := match p.lastBeat with | some t => elapsed s t (ticksOfUs (2 * fld s .BEAT_US) + 1) | none => false
    let q := { p with lastBeat := some s.raw, failed := p.failed || late || decide (score < fld s .DEGRADE_SCORE) }
    { s with haw := { s.haw with probation := tins s.haw.probation x q } }

/-- FENCE_CLEAR of a spine: its bits, and a probation that is being watched (R329, R333). -/
def clearSpine (s : State) (x : Nat) : State :=
  let s1 := setSpine s x fun _ => {}
  { s1 with haw := { s1.haw with probation := tdel s1.haw.probation x } }

/-- The end of a probation at a neighbour. -/
def endProbation (s : State) (x : Nat) : State :=
  match tfind s.haw.probation x with
  | none => s
  | some p =>
    if !elapsed s p.since (ticksOfS (fld s .PROB_S)) then s
    else
      let s1 := { s with haw := { s.haw with probation := tdel s.haw.probation x } }
      let ok := !p.failed && (match p.lastBeat with | some t => !elapsed s t (ticksOfUs (2 * fld s .BEAT_US) + 1) | none => false)
      if ok then raise (setSpine s1 x fun b => { b with probation := false, cleared := true }) .hawProbPass 0 (recVal x)
      else
        let s2 := setSpine s1 x fun b => { b with probation := false }
        raise ((portsToward s2 x).foldl (fun t q => fencePort t q .fault) s2) .hawProbFail 0 (recVal x)

/-! Down-port faults (R327) -/

/-- The remote down-port list holds 8,192 pairs (Table 14.2, R313). -/
def addRfence (s : State) (x field : Nat) : State :=
  if s.haw.rfence.contains (x, field) then s
  else if s.haw.rfence.length < 8192 then { s with haw := { s.haw with rfence := s.haw.rfence ++ [(x, field)] } }
  else raise s .hawRfenceFull 0 (recVal x)

/-- Flood the notice of a down-port fence of this spine. -/
def noticeDown (s : State) (field evid : Nat) : State :=
  downNotice (flood s { hedgeBase s 7 with evid := evid, suspect := selfSpine s, dpV := true, dport := field }) (selfSpine s) field

end Sys2Proof.Machine
end

