-- ==== Sys2Proof/Machine/LinkRows.lean ====
section
/-!
DEFINITION. Machine/LinkRows.lean: training (R238 to R240, R252), lanes (R253 to R256), the events and control blocks of
link-level retry (R242 to R251), per-hop marks (R342), sink stalls (R74) and the release of virtual links (R258).
-/

namespace Sys2Proof.Machine

open Sys2Proof

/-! Training (R238) -/

def nLinks : Nat := vlinkBase + 4096

/-- An event on a link or virtual link: no such event exists at a number that is neither. -/
def atLink (l : Nat) (t : State) : Res := if l < nPorts ∨ (vlinkBase ≤ l ∧ l < nLinks) then .next t else .fault .noSuchUnit

/-- An event on a lane of a port. -/
def atLane (s : State) (p i : Nat) (t : State) : Res := if p < nPorts ∧ i < portLanes s p then .next t else .fault .noSuchUnit

/-- The number of lane i of a port. -/
def laneNum (s : State) (p i : Nat) : Nat := laneStart s p + i

/-- The lane number that carries a lane's data: its own, or the spare of its slice (R254). -/
def carrierLane (s : State) (n : Nat) : Nat :=
  if 1024 ≤ n && tfind s.lk.spares (sliceOf n) == some n then 1280 + sliceOf n else n

/-- An attempt ends; the next begins when signal is present again (R238). -/
def trainFail (s : State) (p : Nat) : State :=
  let s1 := stopKeying s p
  raise (setPortLink s1 p { portLink s1 p with phase := .training, step := .signal, peerLane := [], refAt := s.raw }) .linkTrainFail p

/-- Does Privet report the rings of an optical lane locked: its modulator locked, and its drop filter locked or parked
on its line (R238, R265)? -/
def laneLit (s : State) (n : Nat) : Bool :=
  decide (1024 ≤ n) ||
    ((ringOf' s (txRing s n)).phase == .locked &&
      ((ringOf' s (rxRing s n)).phase == .locked || (ringOf' s (rxRing s n)).phase == .parked))

/-- A parked drop filter locks on the light that reaches it (R265). -/
def lockDrop (s : State) (n : Nat) : State :=
  if 1024 ≤ n then s
  else
    let r := rxRing s n
    setRing s r { ringOf' s r with phase := .locked }

/-- The lanes of a port. -/
def lanesOfPort (s : State) (p : Nat) : List Nat := (List.range (portLanes s p)).map (laneNum s p)

/-- May a training attempt begin on a port? A fenced port's lines are squelched, and a dark lane carries no light. -/
def mayTrain (s : State) (p : Nat) : Bool :=
  portEnabled s p && !portUp s p && !portFenced s p && (portLink s p).step == .signal &&
    (lanesOfPort s p).all fun n => laneLit s n && (decide (1024 ≤ n) || (txLineOf s n != darkLine && rxLineOf s n != darkLine))

/-- The identities in the user field of the alignment markers of a lane (R240): its own, and the one last received on the receive
lane of its number. They are noted where they change. Log 172 (DESIGN CHOICE). -/
def sendMarker (s : State) (p i : Nat) : State :=
  if portMode s p == .fabric then emit s (.marker p i (laneNum s p i) (tfind (portLink s p).lastId i)) else s

/-- Light and lock on every lane of a port: training begins at its markers (R239, R240). -/
def signalPresent (s : State) (p : Nat) : State :=
  if mayTrain s p then
    let s1 := (lanesOfPort s p).foldl lockDrop (wakeDomain s (2 + tileNo p))
    let s2 := setPortLink s1 p { portLink s1 p with phase := .training, step := .markers, refAt := s.raw, peerLane := [] }
    (List.range (portLanes s2 p)).foldl (fun t i => sendMarker t p i) s2
  else s

def execSignalPresent (port : Nat) (s : State) : Res := atPort port (signalPresent s port)

/-- A down-port stays before step 5 until its partition is admitted (R341). Log 114 (DEDUCED). -/
def awaitsAdmission (s : State) (p : Nat) : Bool :=
  (portLink s p).step == .keying && isDownPort s p && !holdsPart s

def execTrainTimeout (port : Nat) (s : State) : Res :=
  atPort port <|
    let l := portLink s port
    if l.phase == .training && l.step != .signal && !awaitsAdmission s port && elapsed s l.refAt (ticksOfMs (fld s .TRAIN_TMO_MS)) then
      trainFail s port
    else s

/-- The HELLO that a port sends (Table 11.4). -/
def helloBytes (s : State) (p : Nat) : List Byte :=
  let b := beBytes 6 (portMac p) ++ beBytes 2 p ++ beBytes 1 (portLanes s p * 16) ++
    beBytes 1 (fecOf s p * 64 + reachOf s p * 32) ++ beBytes 2 (4096 * portLanes s p) ++
    beBytes 4 (Config.fusedSerial.toNat % 2 ^ 32) ++ zeroBytes 14
  b ++ beBytes 2 (crc16 b)

/-- The peer that a steering image expects (R279). -/
def steerPeerOk (s : State) (p : Nat) (msg : List Byte) : Bool :=
  match (portLink s p).steer with
  | some (tag, q) => beAt msg 12 4 == tag && beAt msg 6 2 % 2048 == q
  | none => true

/-- A peer other than the steering image's fails the port and is reported to Hawthorn as unexpected (R279). Log 116 (DEDUCED). -/
def steerMismatch (s : State) (p : Nat) (msg : List Byte) : State :=
  let s1 := setId s p { helloTag := some (beAt msg 12 4), helloPort := beAt msg 6 2 % 2048 }
  trainFail (setCab (raise s1 .prvPeerMismatch p (recVal (beAt msg 12 4))) p .quarantined) p

/-- A HELLO is checked at training; a changed one takes an up link down (R239, R241). -/
def helloIn (s : State) (p : Nat) (msg : List Byte) : State :=
  let l := portLink s p
  if msg.length != 32 || crc16 (msg.take 30) != beAt msg 30 2 || portMode s p != .fabric then s
  else if portUp s p then (if msg == l.hello then s else linkDown s p)
  else if l.phase != .training || l.step != .hello then s
  else if bitsOf (beAt msg 9 1) 7 6 != fecOf s p then trainFail (raise s .linkFecMismatch p) p
  else if bitsOf (beAt msg 9 1) 5 5 != reachOf s p then trainFail (raise s .linkReachMismatch p) p
  else if !steerPeerOk s p msg then steerMismatch s p msg
  else setPortLink s p { l with hello := msg, step := .measured }

def execHelloReceived (port : Nat) (msg : List Byte) (s : State) : Res := atPort port (helloIn s port msg)

/-- Largest round trip of a reach mode in ns (Table 11.6). -/
def rttLimit (reach : Nat) : Nat := if reach == 0 then 6000 else 21500

/-- Frames of a key exchange still unsettled when step 5 zeroes the spaces lose their holds. -/
def clearEnd (s : State) (l : Nat) : State :=
  let recs := (endOf s l).tx.flatMap fun t => t.2.open_
  recs.foldl (fun t r => releaseHold t r.fid) (freshEnd s l)

/-- Step 5 of Table 11.3: the spaces are zero, every lane is active, LINK_UP is raised and the cabling check begins. -/
def comesUp (s : State) (p : Nat) : State :=
  let s1 := clearEnd s p
  let w := portLanes s p
  let s2 := setPortLink s1 p { portLink s1 p with phase := .up, active := w, laneOk := 2 ^ w - 1, idMismatch := 0,
                                                   echoRun := [], idRun := [], step := .signal }
  hawLinkUp (raise (setBx s2 p { bxPort s2 p with coverLost := [] }) .linkUp p) p

/-- The end of training: an Ethernet-mode port comes up after step 2; a fabric-mode port measures its round trip (R252)
and, when protected, waits for its keys (R341). -/
def linkUp (s : State) (p rtt : Nat) : State :=
  let l := portLink s p
  if l.phase != .training then s
  else if portMode s p == .ethernet then
    (if l.step == .markers then comesUp (setPortLink s p { l with hello := [], rtt := 0 }) p else s)
  else
    match l.step with
    | .measured =>
      if rttLimit (reachOf s p) < rtt then trainFail (raise s .linkReachExceeded p (recVal rtt)) p
      else
        let s1 := setPortLink s p { l with rtt := rtt, step := .keying }
        if protOn s p && (linkKeys s p).txKey.isNone then s1 else comesUp s1 p
    | .keying => if protOn s p && (linkKeys s p).txKey.isNone then s else comesUp s p
    | _ => s

def execLinkUp (port rtt : Nat) (s : State) : Res := atPort port (linkUp s port rtt)

/-! Alignment markers (R240, R266) -/

/-- A marker during training: its lane's identity is kept, or an echo of no lane of the port fails the attempt.
Log 115 (DEDUCED). -/
def trainMarker (s : State) (p i laneId echoId : Nat) : State :=
  let l := portLink s p
  if l.step != .markers then s
  else if !(lanesOfPort s p).contains echoId then trainFail (raise s .laneIdMismatch (laneNum s p i) (recVal echoId)) p
  else
    let lanes := tins l.peerLane i laneId
    if (List.range (portLanes s p)).all fun j => (tfind lanes j).isSome then
      emit (setPortLink s p { l with peerLane := lanes, step := .hello }) (.hello p (helloBytes s p))
    else setPortLink s p { l with peerLane := lanes }

/-- Bit i of a mask set or cleared. -/
def putBit (mask i : Nat) (b : Bool) : Nat := if b then mask ||| 2 ^ i else mask - (mask &&& 2 ^ i)

/-- A marker on an up link: four differing echoes in a row are evidence against the modulator, four differing identities
against the drop filter. -/
def upMarker (s : State) (p i laneId echoId : Nat) : State :=
  let l := portLink s p
  let n := laneNum s p i
  let echoBad := echoId != n
  let idBad := laneId != tget laneId l.peerLane i
  let er := if echoBad then tget 0 l.echoRun i + 1 else 0
  let ir := if idBad then tget 0 l.idRun i + 1 else 0
  let s1 := setPortLink s p { l with echoRun := tset 0 l.echoRun i (if er == 4 then 0 else er),
                                     idRun := tset 0 l.idRun i (if ir == 4 then 0 else ir),
                                     idMismatch := putBit l.idMismatch i echoBad }
  if 1024 ≤ n then s1
  else
    let s2 := if er == 4 then wrongLine s1 (txRing s n) else s1
    if ir == 4 then wrongLine s2 (rxRing s n) else s2

/-- Note the LANE_ID received on a lane; the markers sent there echo it from now on (R240). -/
def noteLaneId (s : State) (p i laneId : Nat) : State :=
  let l := portLink s p
  if tfind l.lastId i == some laneId then s
  else sendMarker (setPortLink s p { l with lastId := tins l.lastId i laneId }) p i

def execAlignmentMarker (port lane laneId echoId : Nat) (s : State) : Res :=
  atLane s port lane <|
    if portMode s port != .fabric then s
    else if portUp s port then upMarker (noteLaneId s port lane laneId) port lane laneId echoId
    else if (portLink s port).phase == .training then trainMarker (noteLaneId s port lane laneId) port lane laneId echoId
    else s

/-! Lanes (R253 to R256) -/

/-- A lane of an up port loses lock (R253). -/
def execLaneLockLoss (port lane : Nat) (s : State) : Res :=
  atLane s port lane <|
    if portUp s port && bitAt (portLink s port).laneOk lane then laneFailed s (laneNum s port lane) else s

/-- The corrected symbols of a lane in one millisecond (R237, R253). Log 161 (DESIGN CHOICE). -/
def execLaneErrorPeriod (port lane symbols : Nat) (s : State) : Res :=
  atLane s port lane <|
    if !portUp s port || !bitAt (portLink s port).laneOk lane then s
    else
      let n := laneNum s port lane
      let s1 := raiseN s .fecCeSym (carrierLane s n) symbols (recVal symbols)
      if fld s .LANE_ERR_MAX < symbols then laneFailed s1 n else s1

/-- The stripe of a failed lane moves to the spare of its tile (R254). -/
def spareRemap (s : State) (lane : Nat) : State :=
  let p := laneHolder s lane
  if portUp s p && spareServes s lane then
    let l := portLink s p
    let s1 := setPortLink s p { l with laneOk := putBit l.laneOk (lanePos s lane) true }
    raise { s1 with lk := { s1.lk with spares := tins s1.lk.spares (sliceOf lane) lane
                                       spareAsked := tdel s1.lk.spareAsked (sliceOf lane) } } .laneSpared lane
  else s

def execSpareRemap (slice lane : Nat) (s : State) : Res :=
  if 1024 ≤ lane ∧ lane < 1280 ∧ sliceOf lane = slice then .next (spareRemap s lane) else .fault .noSuchUnit

/-- Classes 0 to 6 whose largest frame fits no open run of the gate list in force (R256). Log 65 (DEDUCED). -/
def uncovered (s : State) (p : Nat) : List Nat :=
  match listAt (bxPort s p) (nowU s) with
  | none => []
  | some g => (List.range 7).filter fun tc => !frameFits s p (activeLanes s p) (cyclicRun tc g.entries)

/-- Note the classes that have lost their cover: each counts once (R256). -/
def noteCover (s : State) (p : Nat) : State :=
  let b := bxPort s p
  let fresh := (uncovered s p).filter fun tc => !b.coverLost.contains tc
  raiseN (setBx s p { b with coverLost := b.coverLost ++ fresh }) .gateCoverLost p fresh.length

/-- Is a mask one that a port can switch to: a power of two of healthy lanes, fewer than it runs on now (R255)?
Log 117 (DEDUCED). -/
def degradeOk (s : State) (p mask : Nat) : Bool :=
  let l := portLink s p
  let n := popCount 8 mask
  portUp s p && lkCfg s .DEG_EN p == 1 && decide (mask < 256) && (mask &&& l.laneOk) == mask &&
    (n == 1 || n == 2 || n == 4) && decide (n < l.active)

def degrade (s : State) (p mask : Nat) : State :=
  if degradeOk s p mask then
    let s1 := setPortLink s p { portLink s p with phase := .degraded, active := popCount 8 mask }
    noteCover (raise s1 .linkDegraded p (recVal mask)) p
  else s

def execDegradeAgree (port mask : Nat) (s : State) : Res := atPort port (degrade s port mask)

/-! Acknowledgments and events (R245 to R251) -/

def execLinkAckReceived (link space ack : Nat) (s : State) : Res :=
  atLink link <| if linkOpen s link then ackTx s link (space % 16) (ack % 65536) else s

/-- TC7 replays that have fallen due wait for a window of their own, or are abandoned (R249). -/
def settleTc7 (s : State) (l : Nat) : State :=
  ((txOf (endOf s l) 14).open_.filter fun r => match r.replayAt with | some t => decide (t ≤ s.raw) | none => false).foldl
    (fun t r => replayTc7 t l 14 r) s

def execLossEvent (link space seq : Nat) (s : State) : Res :=
  atLink link <| if linkOpen s link then settleTc7 (lossRx s link (space % 16) (seq % 65536)) link else s

def execWithheldEvent (link space seq : Nat) (s : State) : Res :=
  atLink link <| if linkOpen s link then eventRx s link .withheld (space % 16) (seq % 65536) 0 else s

/-- WITHHOLD_NS after a WITHHELD event (R246): the frame moves to escape when its retries are spent (R115, R248), waits
for a window in TC7 (R249), or goes ahead of the first transmissions of its queue from now on. -/
def withholdReplay (s : State) (l q n : Nat) : State :=
  match findTx s l q n with
  | none => s
  | some r =>
    match r.replayAt, frameOf s r.fid with
    | some t, some f =>
      if s.raw < t then s
      else if mayEscape s l q r f then moveToEscape s l q r f
      else if q == 14 then replayTc7 s l q r
      else modTx s l q n fun x => { x with replayAt := some s.raw }
    | _, _ => s

def execWithholdReplay (link space seq : Nat) (s : State) : Res :=
  atLink link <| if linkLive s link then withholdReplay s link (space % 16) (seq % 65536) else s

/-- REFUSED informs the sender; ACK settles the frame (R245). -/
def execRefusedEvent (link _space _seq : Nat) (s : State) : Res := atLink link s

def execSkipEvent (link space seq : Nat) (s : State) : Res :=
  atLink link <| if linkOpen s link then skipRx s link (space % 16) (seq % 65536) else s

/-- A control block that carries one event and one ACK. -/
def sendNextBlock (s : State) (l : Nat) : State :=
  let x := nextHeader (endOf s l) 0 false
  sendControlBlock (setEnd s l x.2) l x.1

/-- Send control blocks until no event and no changed ACK waits, at most `n`. -/
def sendBlocks : Nat → State → Nat → State
  | 0, s, _ => s
  | n + 1, s, l =>
    if (endOf s l).events.isEmpty && (endOf s l).ackDirty.isEmpty then s else sendBlocks n (sendNextBlock s l) l

/-- Events first, then the ACK of every space (R245, R246). -/
def ackReport (s : State) (l : Nat) : State :=
  let e := endOf s l
  let all := e.ackDirty ++ (List.range 16).filter fun q => !e.ackDirty.contains q
  sendBlocks (e.events.length + 16) (setEnd s l { e with ackDirty := all }) l

def execAckReport (link : Nat) (s : State) : Res := atLink link <| if linkOpen s link then ackReport s link else s

/-- The abandoned numbers that the far ACK has not passed, announced again (R248). -/
def skipAnnounce (s : State) (l : Nat) : State :=
  let e := endOf s l
  let nums := e.tx.flatMap fun t => t.2.skips.map fun n => (t.1, n)
  let fresh := nums.filter fun x => !e.events.any fun v => v.kind == .skip && v.space == x.1 && v.seq == x.2
  let s1 := setEnd s l (fresh.foldl (fun t x => noteEvent t .skip x.1 x.2) e)
  sendBlocks ((endOf s1 l).events.length) s1 l

def execSkipAnnounce (link : Nat) (s : State) : Res := atLink link <| if linkOpen s link then skipAnnounce s link else s

/-- A mark adds counter candidates (R342). -/
def execTxcMarkEvent (link txc : Nat) (s : State) : Res :=
  atLink link <| if linkOpen s link then setKeys s link { linkKeys s link with mark := some (txc % 2 ^ 32) } else s

/-- A TXC_MARK names the counter of the next frame; it leaves outside TC7 windows (R242, R342). -/
def txcMark (s : State) (l : Nat) : State :=
  let k := linkKeys s l
  if !linkProt s l || k.txKey.isNone || tc7Open (bxPort s (linkPort s l)) (nowU s) then s
  else
    let a := ackReportOf (endOf s l)
    let s1 := setKeys (setEnd s l a.2.2) l { k with markedAt := s.raw }
    sendControlBlock s1 l { seq := k.txc / 65536 % 65536, aq := a.1, ack := a.2.1, eq := 0, eseq := k.txc % 65536, ekind := .txcMark }

def execTxcMarkSend (link : Nat) (s : State) : Res := atLink link <| if linkOpen s link then txcMark s link else s

/-- RTO_NS of a link (R252) or virtual link (R258). -/
def rtoNs (s : State) (l : Nat) : Nat :=
  if l < vlinkBase then (portLink s l).rtt + fld s .RETRY_MARGIN_NS
  else match tfind s.lk.vlinks (l - vlinkBase) with | some v => v.rtoNs | none => 0

/-- Is a sent frame's timeout due: unsettled RTO_NS after its last transmission, and no replay waiting? Log 118 (DEDUCED). -/
def timeoutDue (s : State) (l : Nat) (r : TxRec) : Bool := r.replayAt.isNone && elapsed s r.lastTx (ticksOfNs (rtoNs s l))

/-- A frame unsettled RTO_NS after its last transmission is replayed (R246, R249, R250). -/
def retryTimeout (s : State) (l q n : Nat) : State :=
  match findTx s l q n with
  | none => s
  | some r =>
    if !timeoutDue s l r then s
    else if replaysSpent s l q n then replayLimit s l
    else settleTc7 (eventRx (raise s .lrTimeout (linkPort s l)) l .loss q n 0) l

def execRetryTimeout (link space seq : Nat) (s : State) : Res :=
  atLink link <| if linkLive s link then retryTimeout s link (space % 16) (seq % 65536) else s

/-! Sinks and virtual links -/

/-- Since when a down-port has acknowledged nothing on any link: its last acknowledgment, or the oldest frame it has not settled,
whichever is later. Log 86 (DEDUCED). -/
def stalledSince (s : State) (p : Nat) : Option Nat :=
  let ends := (linksOf s p).map (endOf s)
  (minBy id (ends.flatMap fun e => e.tx.flatMap fun t => t.2.open_.map (·.firstTx))).map
    (ends.foldl (fun a e => max a e.lastAckAt))

/-- A down-port with no acknowledgment for SINK_STALL_US begins to discard at its queue heads (R74). -/
def execSinkStall (port : Nat) (s : State) : Res :=
  atPort port <|
    if !isDownPort s port || !portUp s port || sinkDiscard s port then s
    else
      match stalledSince s port with
      | none => s
      | some t =>
        if elapsed s t (ticksOfUs (fld s .SINK_STALL_US)) then
          { s with haw := { s.haw with sinkFrom := tins s.haw.sinkFrom port s.raw } }
        else s

/-- A virtual link idle for VLINK_IDLE_S is released (R258). -/
def execVlinkIdleRelease (v : Nat) (s : State) : Res :=
  atUnit v 4096 <|
    match tfind s.lk.vlinks v with
    | none => s
    | some e => if elapsed s e.lastSeen (ticksOfS (fld s .VLINK_IDLE_S)) then vlinkDown s v else s

end Sys2Proof.Machine
end

