-- ==== Sys2Proof/Machine/HawRows.lean ====
section
/-!
DEFINITION. Machine/HawRows.lean: the commands and events of Hawthorn (R307 to R334) but for teardown and margin sweeps.
-/

namespace Sys2Proof.Machine

open Sys2Proof

/-! Partition admission (R308, R309, R311) -/

/-- Is the partition closed against this spine's pod and cube (R308)? -/
def closed (s : State) (base free : Nat) : Bool :=
  let pod := fld s .POD_DIMS
  (List.range pod).all (bitAt free) &&
    (twistedDims s).all fun d => !bitAt free d || bitAt free (d - 2) || (!bitAt free 0 && !bitAt base 0)

/-- Boundary ports of a partition (R311). -/
def boundaryPorts (s : State) (free : Nat) (bypass : List Nat) : List Nat :=
  (enabledPorts s).filter fun p => !portFenced s p && onBoundary s free bypass p

/-- Steps 2 and 3 of an admission: the port-partition map and PSTATE; then the reply. -/
def admitNow (s : State) (a : Admitting) : State :=
  let s1 := { s with haw := { s.haw with pstate := .active, part := a.part, base := a.base, free := a.free, devices := a.devices
                                         bypass := a.bypass, admitHash := a.hash, expelled := [], hold := false, admitting := none } }
  finish (judgeAll ([165, 166].foldl wakeDomain s1)) a.cmd 0x0801 .done 0 noIndex []

/-- PART_ADMIT (R309): the boundary ports are fenced first, 10 µs after their DISCOVERY (R311). Log 135 (DEDUCED). -/
def execPartAdmit (c : Ncp) (s : State) : Res :=
  runLong s c 0x0801 do
    let b := c.body
    let part := beAt b 0 2; let base := beAt b 2 2; let free := beAt b 4 2; let dev := beAt b 8 4; let n := dimsN s
    need (b.length == 172 && decide (1 ≤ part) && decide (part ≤ 0xFFE) && beAt b 6 2 == 0 && (base &&& free) == 0 &&
      decide (base < 2 ^ n) && decide (free < 2 ^ n) && decide (2 ^ popCount 14 free ≤ dev) && decide (dev ≤ 2 ^ 24) &&
      (selfSpine s &&& free ^^^ selfSpine s) == base) .badParam 1
    need (c.auth == .owner && (tfind s.holly.bindings part).isSome) .notAuthorised 2
    need s.yew.stepped .timePast 3
    need (s.haw.pstate != .teardown) .busyTeardown 4
    need (s.haw.pstate == .none && s.haw.admitting.isNone && !flag s .DISC_MODE) .conflict 5
    need (closed s base free) .partitionNotClosed 6
    let bypass := (portsOfMap (b.drop 12)).filter fun p => dimCode s p == 0xF
    let a : Admitting := { cmd := c, part := part, base := base, free := free, devices := dev, bypass := bypass, hash := crc32 (b.take 12) }
    let ps := boundaryPorts s free bypass
    let s1 := ps.foldl (fun t p =>
      let t1 := if portUp t p then sendDiscovery t p true else t
      { t1 with haw := { t1.haw with boundaryAt := tins t1.haw.boundaryAt p s.raw } }) s
    return if ps.isEmpty then admitNow s1 a else { s1 with haw := { s1.haw with admitting := some a } }

/-- 10 µs after its DISCOVERY a boundary port is fenced; with the last one the admission is complete. -/
def applyBoundary (s : State) (p : Nat) : State :=
  match tfind s.haw.boundaryAt p with
  | none => s
  | some t =>
    if !elapsed s t (ticksOfUs 10) then s
    else
      let s1 := if portFenced s p then { s with haw := { s.haw with boundaryAt := tdel s.haw.boundaryAt p } } else fencePort s p .boundary
      match s1.haw.admitting with
      | some a => if s1.haw.boundaryAt.isEmpty then admitNow s1 a else s1
      | none => s1

def execBoundaryFenceApply (port : Nat) (s : State) : Res := atPort port (applyBoundary s port)

/-! Cabling (R314 to R318) -/

/-- Read an entry of a cabling plan. -/
def planEnt (e : List Byte) : Nat × PlanEnt :=
  (beAt e 0 2 % 2048,
   { pkind := beAt e 2 1, any := bitAt (beAt e 3 1) 0, tag := beAt e 4 4, peerPort := beAt e 8 2 % 2048
     peerSpine := beAt e 10 2 % 16384, pcrc := beAt e 12 4 })

/-- Does an entry keep its encodings (R315)? -/
def planEncodingOk (e : List Byte) : Bool :=
  let k := beAt e 2 1
  beAt e 0 2 < 2048 && decide (1 ≤ k) && decide (k ≤ 3) && beAt e 3 1 < 2 && beAt e 8 2 < 2048 && beAt e 10 2 < 16384 &&
    (k != 3 || beAt e 8 2 == 0) && (k == 1 || beAt e 10 2 == 0) && (k == 3 || beAt e 12 4 == 0)

/-- LOAD_CABLING (R315): the plan takes effect at acceptance. -/
def execLoadCabling (c : Ncp) (s : State) : Res :=
  runCmd s c 0x0803 do
    needOwner c
    let img ← readImage c 0 0x4E5A0028 1 false
    let n := beAt img 6 2
    need (beAt img 4 1 == 1 && beAt img 5 1 == 1 && decide (n ≤ 1280) && img.length == 32 + 16 * n && beAt img 8 4 == 0 &&
      beAt img 24 4 == 0) .badParam 1
    let raws := (List.range n).map fun i => bytesAt img (32 + 16 * i) 16
    eachOk (fun i e => need (planEncodingOk e) .badParam 1 i) 0 raws
    need (!flag s .PLAN_LOCK) .locked 2
    let es := raws.map planEnt
    eachOk (fun i e => need (decide (e.1 < nPorts)) .outOfRange 3 i) 0 es
    eachOk (fun i e => need (!(es.take i).any fun x => x.1 == e.1) .badParam 4 i) 0 es
    let plan := es.foldl (fun t e => tins t e.1 e.2) []
    return ([], judgeAll { s with haw := { s.haw with plan := plan, planAt := s.raw, planLoaded := true, cab := [] } })

/-- Is a port named by an active or pending calendar or gate list (R91)? -/
def listNames (s : State) (p : Nat) : Bool :=
  let own := fun (g : Option GateList) => match g with | some x => x.entries.any fun e => e.owner == some p | none => false
  let b := bxPort s p
  b.cal.isSome || b.calPend.isSome || b.gl.isSome || b.glPend.isSome ||
    s.bx.ports.any fun e => own e.2.gl || own e.2.glPend

/-- CAB codes of HAW_PORT_STATE; a disabled or fenced port planned with a neighbour reads as awaiting (R316). -/
def cabCode (s : State) (p : Nat) : Nat :=
  if flag s .DISC_MODE then 6
  else if portUp s p && heldApart s p then 3
  else if !portEnabled s p || portFenced s p then if (tfind s.haw.plan p).isSome then 5 else 0
  else
    match cabOf s p with
    | .unplanned => 0 | .ok => 1 | .absent => 2 | .quarantined => 3 | .swap => 4 | .awaiting => 5
    | .discovery => if (tfind s.haw.plan p).isSome then 5 else 0

def fenceCode (s : State) (p : Nat) : Nat := match fenceOf s p with | .none => 0 | .boundary => 1 | .fault => 2

/-- What a port knows of its peer: tag, spine, port. -/
def peerView (s : State) (p : Nat) : Nat × Nat × Nat :=
  let i := idOf s p
  match i.lldp with
  | some (chassis, _) => (chassis, 0x3FFF, 0)
  | none => (i.helloTag.getD 0, (match i.disc with | some b => discSpine b | none => if i.helloTag.isSome then 0x3FFF else 0), i.helloPort)

/-- DISCOVER (R333): 16 bytes per port. -/
def execDiscover (c : Ncp) (s : State) : Res :=
  runCmd s c 0x0805 do
    needOwner c
    needLen c 4
    let first := beAt c.body 0 2; let n := beAt c.body 2 2
    need (decide (first + n ≤ nPorts)) .badParam
    return (((List.range n).map (first + ·)).flatMap fun p =>
      let v := peerView s p
      beBytes 2 p ++ beBytes 1 (cabCode s p) ++ beBytes 1 (fenceCode s p) ++ beBytes 4 v.1 ++ beBytes 2 v.2.1 ++ beBytes 2 v.2.2 ++
        beBytes 2 (tget 0 s.haw.swapWith p) ++ zeroBytes 2, s)

/-- DISCOVERY leaves at link up and every DISC_PERIOD_MS (R314). -/
def execDiscoverySend (port : Nat) (s : State) : Res :=
  atPort port <|
    let due := match tfind s.haw.discSentAt port with
      | some t => elapsed s t (ticksOfMs (fld s .DISC_PERIOD_MS))
      | none => true
    if portUp s port && portMode s port == .fabric && !portFenced s port && due then sendDiscovery s port false else s

/-- A received DISCOVERY (R311, R314, R316). -/
def discoveryIn (s : State) (f : StoredFrame) : State :=
  let p := f.inPort
  if f.data.length != 32 || beAt f.data 0 1 / 16 != 1 then s
  else
    let i := idOf s p
    let s1 := if i.disc == some f.data then s else judgePort (setId s p { i with disc := some f.data }) p
    if bitAt (beAt f.data 0 1) 3 then
      if portFenced s1 p then s1 else raise (fencePort s1 p .boundary) .hawBoundaryPeer p
    else s1

def execDiscoveryReceive (fid : Nat) (s : State) : Res :=
  .next (match takeKind s fid 0xC with | .ok (f, s1) => discoveryIn s1 f | .error s1 => s1)

/-- A planned neighbour not up within PLAN_WAIT_S is judged ABSENT (R316). -/
def execPlanWaitExpiry (port : Nat) (s : State) : Res :=
  atPort port <|
    let from_ := max s.haw.planAt (tget 0 s.haw.waitFrom port)
    if !flag s .DISC_MODE && (tfind s.haw.plan port).isSome && portEnabled s port && !portFenced s port && !portUp s port &&
        cabOf s port != .absent && elapsed s from_ (ticksOfS (fld s .PLAN_WAIT_S)) then
      raise (setCab s port .absent) .hawAbsent port
    else s

/-! Fences by command (R333) -/

/-- HAW_FENCE: a FAULT fence on a port, a MANUAL proposal against a spine, or a fence on an own down-port. -/
def execHawFence (c : Ncp) (s : State) : Res :=
  runCmd s c 0x0806 do
    needOwner c
    needLen c 4
    let kind := beAt c.body 0 1; let n := beAt c.body 2 2
    need (decide (1 ≤ kind) && decide (kind ≤ 3) && beAt c.body 1 1 == 0) .badParam
    if kind == 1 then
      need (decide (n < nPorts) && !absorbed s n) .outOfRange
      need (!portFenced s n) .peerFenced
      return ([], fencePort s n .fault)
    else if kind == 2 then
      need (decide (n < 2 ^ dimsN s)) .outOfRange
      need (!(spineBits s n).fenced) .peerFenced
      return ([], proposeStrong s n 4)
    else
      match downPortOf s 0 n with
      | none => failWith .outOfRange
      | some p =>
        need (!portFenced s p) .peerFenced
        return ([], noticeDown (fencePort s p .fault) n 4)

/-- Has a vote commit fenced this spine in this very cycle? Log 180 (DEDUCED). -/
def justCommitted (s : State) (x : Nat) : Bool := tfind s.haw.commitAt x == some s.raw

/-- FENCE_CLEAR: on this spine only; a spine in an open vote gives RUNNING. A fence that a vote commit sets in the same cycle
stays (R313). -/
def execFenceClear (c : Ncp) (s : State) : Res :=
  runCmd s c 0x0807 do
    needOwner c
    needLen c 6
    let kind := beAt c.body 0 1; let n := beAt c.body 2 2; let dp := beAt c.body 4 2
    need (decide (1 ≤ kind) && decide (kind ≤ 3) && beAt c.body 1 1 == 0 && (kind == 3 || dp == 0) && decide (dp < 1024)) .badParam
    if kind == 1 then
      need (decide (n < nPorts)) .badParam
      let kept := isSpinePort s n && fenceOf s n == .fault && justCommitted s (neighbourOf s (selfSpine s) (dimCode s n))
      return ([], if kept then s else unfencePort s n)
    else if kind == 2 then
      need (decide (n < 16384)) .badParam
      need (voteOn s n).isNone .running
      return ([], if justCommitted s n then s else clearSpine s n)
    else
      return ([], { s with haw := { s.haw with rfence := s.haw.rfence.filter (· != (n, dp)) } })

/-! Beats and votes (R322 to R326) -/

/-- A beat leaves an up spine-to-spine port that is neither fenced nor quarantined, or one in probation, every BEAT_US
(R322, R329). The spine's own fence, when due, is proposed first (R320). -/
def execHedgeBeatSend (port : Nat) (s : State) : Res :=
  atPort port <|
    let s0 := proposeSelf s
    if isSpinePort s0 port && portUp s0 port && portMode s0 port == .fabric && !portFenced s0 port &&
        (!quarantined s0 port || onProbation s0 port) &&
        elapsed s0 (tget 0 s0.haw.beatSent port) (ticksOfUs (fld s0 .BEAT_US)) then
      sendHedge { s0 with haw := { s0.haw with beatSent := tins s0.haw.beatSent port s.raw } } port (hedgeBytes (hedgeBase s0 1))
    else s0

/-- A neighbour's beat: its liveness, its DEGRADED flag, and its probation (R321, R322, R329). Log 133 (DEDUCED). -/
def beatIn (s : State) (f : StoredFrame) : State :=
  let d := dimCode s f.inPort
  if !hedgeOk f.data || d > 13 then s
  else
    let h := hedgeParse f.data
    let x := neighbourOf s (selfSpine s) d
    let n := neighOf s d
    let s1 := setNeigh s d { lastBeat := s.raw, heard := true, degraded := h.degraded, score := h.score }
    let s2 := if h.degraded then setSpine s1 x fun b => { b with degraded := true }
              else if n.degraded then setSpine s1 x fun b => { b with degraded := false } else s1
    probationBeat s2 x h.score

def execHedgeBeatReceive (fid : Nat) (s : State) : Res :=
  .next <|
    match s.loam.inbox.find? fun e => e.1 == fid, frameOf s fid with
    | some _, some f =>
      if f.ffh.kind == 0xB && (!hedgeOk f.data || (hedgeParse f.data).htype == 1) then
        match takeKind s fid 0xB with | .ok (g, s1) => beatIn s1 g | .error s1 => s1
      else s
    | _, _ => s

/-- A neighbour silent or dark for BEAT_MISS beats: a proposal (R322, R325). Evidence against a fenced spine is ignored
(Table 14.9). -/
def execNeighbourSilent (dim : Nat) (s : State) : Res :=
  atUnit dim 14 <|
    let x := neighbourOf s (selfSpine s) dim
    if (voteDims s).contains dim && observable s dim && (silentDim s dim || darkDim s dim) && !(spineBits s x).fenced &&
        (voteOn s x).isNone then
      propose s x (if darkDim s dim then 1 else 2)
    else s

/-- A proposal of another spine (R325, R326). -/
def proposalIn (s : State) (h : Hedge) : State :=
  let v : Vote := { suspect := h.suspect, origin := h.origin, vseq := h.vseq, evid := h.evid, part := h.part, since := s.raw
                    voters := voterSet s h.suspect }
  let ballot := fun (u : State) =>
    let t := leaveOut u h.suspect
    if !v.voters.contains (selfSpine t) then putVote t { v with voted := true }
    else if votesYes t v then castVote t v true else putVote t v
  if (spineBits s h.suspect).fenced then s
  else
    match voteOn s h.suspect with
    | some o =>
      if o.mine then (if h.origin < selfSpine s then ballot (abandonVote s o) else s)
      else if h.origin < o.origin then ballot s else s
    | none => ballot s

def execProposeReceived (fid : Nat) (s : State) : Res :=
  .next (match floodIn s fid 2 with | some (h, s1) => if h.htype == 0 then s1 else proposalIn s1 h | none => s)

/-- A voter's observation reaches BEAT_MISS × BEAT_US (R325). -/
def execVoteObservationDue (suspect : Nat) (s : State) : Res :=
  .next <|
    match voteOn s suspect with
    | some v =>
      if v.voted then s
      else if votesYes s v then castVote s v true
      else if elapsed s v.since (silenceTicks s) then castVote s v false
      else s
    | none => s

/-- A vote at the proposer. -/
def voteIn (s : State) (h : Hedge) (yes : Bool) : State :=
  match voteOn s h.suspect with
  | some v =>
    if v.mine && v.vseq == h.vseq && v.voters.contains h.origin && !v.yes.contains h.origin && !v.no.contains h.origin then
      settleVote s (if yes then { v with yes := v.yes ++ [h.origin] } else { v with no := v.no ++ [h.origin] })
    else s
  | none => s

def execVoteYesReceived (fid : Nat) (s : State) : Res :=
  .next (match floodIn s fid 3 with | some (h, s1) => if h.htype == 0 then s1 else voteIn s1 h true | none => s)

def execVoteNoReceived (fid : Nat) (s : State) : Res :=
  .next (match floodIn s fid 4 with | some (h, s1) => if h.htype == 0 then s1 else voteIn s1 h false | none => s)

/-- VOTE_WINDOW_US after the proposal (R325). -/
def execVoteWindowExpiry (suspect : Nat) (s : State) : Res :=
  .next <|
    match voteOn s suspect with
    | some v =>
      if v.mine && elapsed s v.since (ticksOfUs (fld s .VOTE_WINDOW_US)) then abandonVote s v else s
    | none => s

def execCommitReceived (fid : Nat) (s : State) : Res :=
  .next <|
    match floodIn s fid 5 with
    | some (h, s1) =>
      if h.htype == 0 then s1
      else noteResult (applyCommit s1 h) (if h.degraded then 3 else 1) h.evid h.voters h.yes h.suspect
    | none => s

/-- ABANDON closes the vote at each spine. -/
def execAbandonReceived (fid : Nat) (s : State) : Res :=
  .next <|
    match floodIn s fid 6 with
    | some (h, s1) =>
      if h.htype == 0 then s1
      else
        match voteOn s1 h.suspect with
        | some v => if v.origin == h.origin && v.vseq == h.vseq then
            noteResult (dropVote s1 h.suspect) 2 h.evid h.voters h.yes h.suspect else s1
        | none => s1
    | none => s

/-- A NOTICE: of a down-port fence, or, without DP_V, of a probation (R313, R327, R329). -/
def noticeIn (s : State) (h : Hedge) : State :=
  if h.dpV then
    let s1 := addRfence s h.suspect h.dport
    let s2 := if h.evid == 3 then countExpulsion s1 h.part else s1
    downNotice s2 h.suspect h.dport
  else startProbation s h.suspect

def execNoticeReceived (fid : Nat) (s : State) : Res :=
  .next (match floodIn s fid 7 with | some (h, s1) => if h.htype == 0 then s1 else noticeIn s1 h | none => s)

/-- HOLD reaches a spine of the partition (R328). -/
def execHoldReceived (fid : Nat) (s : State) : Res :=
  .next <|
    match floodIn s fid 8 with
    | some (h, s1) => if h.htype != 0 && holdsPart s1 && h.part == s1.haw.part then enterHold s1 else s1
    | none => s

/-- RELEASE ends HOLD and zeroes EXPELLED (R328). -/
def execReleaseReceived (fid : Nat) (s : State) : Res :=
  .next <|
    match floodIn s fid 9 with
    | some (h, s1) =>
      if h.htype != 0 && holdsPart s1 && h.part == s1.haw.part then
        { s1 with haw := { s1.haw with hold := false, expelled := [] } }
      else s1
    | none => s

/-! Budget, score, sinks -/

def execExpulsionWindowAge (s : State) : Res :=
  .next { s with haw := { s.haw with expelled := s.haw.expelled.filter fun t => !elapsed s t (ticksOfS (fld s .BUDGET_WIN_S)) } }

/-- HOLD_RELEASE (R328, R333). -/
def execHoldRelease (c : Ncp) (s : State) : Res :=
  runCmd s c 0x0808 do
    needOwner c
    needLen c 2
    need (holdsPart s && beAt c.body 0 2 == s.haw.part && s.haw.hold) .badParam
    let s1 := flood s (hedgeBase s 9)
    return ([], { s1 with haw := { s1.haw with hold := false, expelled := [] } })

/-- The end of a second: SCORE recovers (R319). -/
def execScoreRecovery (s : State) : Res :=
  .next <|
    if elapsed s s.haw.recoveredAt (ticksOfS 1) then
      proposeSelf { s with haw := { s.haw with score := min 1000 (s.haw.score + fld s .RECOVER_PER_S), recoveredAt := s.raw } }
    else s

/-- A down-port in sink discard for SINK_FENCE_MS gets a FAULT fence without a vote, unless in HOLD (R327, R328). -/
def execSinkFence (port : Nat) (s : State) : Res :=
  atPort port <|
    match tfind s.haw.sinkFrom port with
    | some t =>
      if elapsed s t (ticksOfMs (fld s .SINK_FENCE_MS)) && !s.haw.hold && !portFenced s port then
        let s1 := fencePort { s with haw := { s.haw with sinkFrom := tdel s.haw.sinkFrom port } } port .fault
        countExpulsion (noticeDown s1 ((fieldOfPort s port).getD 0) 3) (ownPart s1)
      else s
    | none => s

/-! Probation (R329) -/

def execProbationStart (c : Ncp) (s : State) : Res :=
  runCmd s c 0x0809 do
    needOwner c
    needLen c 2
    let x := beAt c.body 0 2
    need (decide (x < 16384)) .badParam
    need ((spineBits s x).fenced && (spineBits s x).weak) .conflict
    return ([], startProbation (flood s { hedgeBase s 7 with evid := 2, suspect := x }) x)

def execProbationEnd (spine : Nat) (s : State) : Res := .next (endProbation s spine)

/-- HAW_REPORT (R333): SCORE, EXPELLED, B, the fence table and the last 16 votes. The order within the fence table is the
model's: two bits per port, the remote pairs, then the fenced spines and partitions by number. Log 134 (DESIGN CHOICE). -/
def execHawReport (c : Ncp) (s : State) : Res :=
  runCmd s c 0x080B do
    needOwner c
    needLen c 0
    let ports := (List.range 320).flatMap fun i =>
      beBytes 1 (fenceCode s (4 * i) * 64 + fenceCode s (4 * i + 1) * 16 + fenceCode s (4 * i + 2) * 4 + fenceCode s (4 * i + 3))
    let fenced := (s.haw.spines.filter fun e => e.2.fenced).map (·.1)
    let votes := s.haw.lastVotes.flatMap fun v =>
      beBytes 4 (v.result * 2 ^ 28 + v.evid * 2 ^ 25 + v.voters % 16 * 2 ^ 21 + v.yes % 16 * 2 ^ 17 + v.suspect) ++ beBytes 4 v.at_
    return (beBytes 2 s.haw.score ++ beBytes 4 s.haw.expelled.length ++ beBytes 4 (budgetB s) ++ ports ++
      beBytes 2 s.haw.rfence.length ++ (s.haw.rfence.flatMap fun e => beBytes 2 e.1 ++ beBytes 2 e.2) ++
      beBytes 2 fenced.length ++ (fenced.flatMap (beBytes 2)) ++
      beBytes 2 s.haw.partFence.length ++ (s.haw.partFence.flatMap (beBytes 2)) ++ votes, s)

end Sys2Proof.Machine
end

