-- ==== Sys2Proof/Machine/BoxRows.lean ====
section
/-!
DEFINITION. Machine/BoxRows.lean: calendar and gate-list images, their check and their takeover (R89 to R95), and
pre-waking (R104).
-/

namespace Sys2Proof.Machine

open Sys2Proof

/-- A section of an image: its port, its TC7_CELLS and its entries as they lie. -/
structure BxSect where
  port : Nat
  cells : Nat
  entries : List (List Byte)
  deriving DecidableEq, Repr

/-- Split an image into its sections (Table 4.2), checking ranges and lengths; entries of `w` bytes, at most `most`. -/
def bxSections (w most : Nat) (gates : Bool) : Nat → Nat → List Byte → Except Bad (List BxSect)
  | 0, _, b => if b.isEmpty then .ok [] else failWith .badParam 1
  | n + 1, i, b => do
    need (decide (8 ≤ b.length)) .badParam 1 i
    let port := beAt b 0 2; let count := beAt b 2 2; let x := beAt b 4 4
    need (decide (port % 2048 < nPorts)) .outOfRange 1 i
    need (decide (1 ≤ count) && decide (count ≤ most)) .outOfRange 1 i
    need (decide (port < 2048) && decide (x < if gates then 2 ^ 23 else 1) && decide (8 + w * count ≤ b.length)) .badParam 1 i
    let rest ← bxSections w most gates n (i + 1) (b.drop (8 + w * count))
    return { port := port, cells := x, entries := chunksOf w count ((b.drop 8).take (w * count)) } :: rest

/-- Is a byte of a calendar entry free of reserved bits (Table 4.3)? -/
def calByteOk (x : Nat) : Bool := bitsOf x 6 4 == 0

/-- The encoding of a calendar entry (Table 4.3). Log 64 (DESIGN CHOICE). -/
def calEntryOk (e : List Byte) : Bool :=
  let b := fun i => beAt e i 1
  let v := fun i => bitAt (b i) 7
  calByteOk (b 0) && calByteOk (b 1) && calByteOk (b 2) && calByteOk (b 3) && v 0 && (v 1 || !v 2) && (v 2 || !v 3)

/-- The valid queues of a slot, in order. -/
def calSlot (e : List Byte) : List Nat :=
  (List.range 4).filterMap fun i => let x := beAt e i 1; if bitAt x 7 then some (x % 16) else none

/-- The encoding of a gate entry (Table 4.4). -/
def gateEntryOk (i : Nat) (e : List Byte) : Except Bad Unit := do
  let o := beAt e 6 2
  need (beAt e 5 1 == 0 && bitsOf o 14 11 == 0 && bitAt o 15 == bitAt (beAt e 4 1) 7) .badParam 1 i
  need (decide (16 ≤ beAt e 0 4) && (decide (o % 2048 < nPorts) || o % 2048 == 0x7FF)) .outOfRange 1 i

def gateEnt (e : List Byte) : GateEntry :=
  let o := beAt e 6 2
  { dur := beAt e 0 4, gates := beAt e 4 1, owner := if bitAt o 15 then some (o % 2048) else none }

/-- Read an image and split it (step 1 of R90). -/
def bxImage (c : Ncp) (gates : Bool) : Except Bad (List Byte × List BxSect) := do
  let img ← readImage c 0 0x4E5A0009 1 false
  need (beAt img 4 1 == (if gates then 2 else 1) && beAt img 5 1 == 1 && beAt img 24 4 == 0) .badParam 1
  let n := beAt img 6 2
  need (decide (1 ≤ n) && decide (n ≤ 1280)) .outOfRange 1
  let ss ← bxSections (if gates then 8 else 4) (if gates then 1024 else 512) gates n 0 (img.drop 32)
  let ok := fun (i : Nat) (x : BxSect) =>
    if gates then eachOk (fun _ e => gateEntryOk i e) 0 x.entries
    else eachOk (fun _ e => need (calEntryOk e) .badParam 1 i) 0 x.entries
  eachOk ok 0 ss
  return (img, ss)

/-! Conflicts (Table 4.5): kind and entry; 0xFFFF for the section as a whole -/

/-- The first conflict of a calendar section after its port's own. -/
def calConflict (s : State) (x : BxSect) : Option (Nat × Nat) :=
  let slots := x.entries.map calSlot
  let bad := ((List.range slots.length).zip slots).findSome? fun k =>
    if hasDup k.2 then some (0x10, k.1)
    else k.2.findSome? fun q => if 14 ≤ q then some (0x11, k.1) else if !queueEnabled s x.port q then some (0x12, k.1) else none
  bad.or <|
    if (enabledQueues s x.port).any fun q => !slots.any fun k => k.head? == some q then some (0x13, 0xFFFF) else none

/-- The first conflict of a gate section after its port's own. -/
def gateConflict (s : State) (x : BxSect) : Option (Nat × Nat) :=
  let es := x.entries.map gateEnt
  let cycle := es.foldl (fun a e => a + e.dur) 0
  if cycle < 1000 || 1000000000 < cycle then some (0x20, 0xFFFF)
  else
    let bad := ((List.range es.length).zip es).findSome? fun k =>
      if bitAt k.2.gates 7 && k.2.gates != 0x80 then some (0x22, k.1)
      else
        match k.2.owner with
        | some o =>
          if o == 0x7FF then none
          else if o == x.port then some (0x23, k.1)
          else if !portEnabled s o then some (0x02, k.1)
          else if portLanes s x.port < portLanes s o then some (0x24, k.1)
          else none
        | none => none
    let covered := fun tc => frameFits s x.port (portLanes s x.port) (cyclicRun tc es)
    let uncovered := (List.range 7).any fun tc =>
      (queueEnabled s x.port (2 * tc) || queueEnabled s x.port (2 * tc + 1)) && !covered tc
    bad.or <|
      if uncovered then some (0x25, 0xFFFF)
      else if es.any (fun e => bitAt e.gates 7) && decide (x.cells < 36) then some (0x26, 0xFFFF)
      else none

/-- The first conflict of an image: kind, section and entry (R90). -/
def bxConflict (s : State) (gates : Bool) (ss : List BxSect) : Option (Nat × Nat × Nat) :=
  ((List.range ss.length).zip ss).findSome? fun i =>
    let here := fun (k : Nat × Nat) => (k.1, i.1, k.2)
    if (ss.take i.1).any fun y => y.port == i.2.port then some (here (0x01, 0xFFFF))
    else if !portEnabled s i.2.port then some (here (0x02, 0xFFFF))
    else (if gates then gateConflict s i.2 else calConflict s i.2).map here

/-- Step 2 of R90 with the reply that names the conflict (R353). -/
def checkConflict (s : State) (gates : Bool) (ss : List BxSect) : Except Bad Unit :=
  match bxConflict s gates ss with
  | none => .ok ()
  | some (k, i, e) =>
    .error { code := .conflict, step := 2, index := i, results := beBytes 1 k ++ zeroBytes 1 ++ beBytes 2 i ++ beBytes 2 e }

/-- LOAD_CALENDAR (R90 to R93). -/
def execLoadCalendar (c : Ncp) (s : State) : Res :=
  runCmd s c 0x0401 <| do
    needOwner c
    let (img, ss) ← bxImage c false
    checkConflict s false ss
    let t ← checkTime s (beAt img 8 4) 3
    eachOk (fun i (x : BxSect) => need (replaceable s ((bxPort s x.port).calPend.map (·.takeover))) .running 5 i) 0 ss
    let put := fun (u : State) (x : BxSect) =>
      setBx u x.port { bxPort u x.port with
        calPend := some { slots := x.entries.map calSlot, takeover := t, imgId := beAt img 16 8 } }
    return ([], ss.foldl put s)

/-- LOAD_GATES (R90 to R93): the TC7 reserves are raised at acceptance (R95). -/
def execLoadGates (c : Ncp) (s : State) : Res :=
  runCmd s c 0x0402 <| do
    needOwner c
    let (img, ss) ← bxImage c true
    checkConflict s true ss
    let t ← checkTime s (beAt img 8 4) 3
    let put := fun (u : State) (x : BxSect) =>
      setBx u x.port { bxPort u x.port with
        glPend := some { entries := x.entries.map gateEnt, takeover := t, tc7Cells := x.cells, imgId := beAt img 16 8 } }
    let s1 := ss.foldl put s
    need (poolsFit s1) .noResource 4
    eachOk (fun i (x : BxSect) => need (replaceable s ((bxPort s x.port).glPend.map (·.takeover))) .running 5 i) 0 ss
    return ([], s1)

/-- CANCEL_PENDING (R93). -/
def execCancelPending (c : Ncp) (s : State) : Res :=
  runCmd s c 0x0403 <| do
    needOwner c
    let kind := beAt c.body 0 1; let n := beAt c.body 1 2
    need (decide (3 ≤ c.body.length) && c.body.length == 3 + 2 * n && decide (1 ≤ kind) && decide (kind ≤ 3)) .badParam
    need (kind != 3 || n == 0) .badParam
    let ports := (List.range n).map fun i => beAt c.body (3 + 2 * i) 2
    eachOk (fun i p => need (decide (p < nPorts)) .outOfRange 0 i) 0 ports
    let pend := fun p => if kind == 1 then (bxPort s p).calPend.map (·.takeover) else (bxPort s p).glPend.map (·.takeover)
    eachOk (fun i p => need (replaceable s (pend p)) .running 0 i) 0 ports
    need (kind != 3 || replaceable s (s.sh.pend.map (·.takeover))) .running
    let drop := fun (u : State) p =>
      let b := bxPort u p
      setBx u p (if kind == 1 then { b with calPend := none } else { b with glPend := none })
    return ([], if kind == 3 then { s with sh := { s.sh with pend := none } } else ports.foldl drop s)

/-! Takeover (R94) -/

/-- At T the pending gate list is in force, from entry 0. -/
def execGateListTakeover (port : Nat) (s : State) : Res :=
  atPort port <|
    let b := bxPort s port
    match b.glPend with
    | none => s
    | some g =>
      if reached s g.takeover then
        raise (setBx s port { b with gl := some g, glPend := none, glOld := b.gl, coverLost := [] }) .glTakeover port
      else s

/-- At T the pending calendar is in force, from slot 0, its starvation counts at zero. -/
def execCalendarTakeover (port : Nat) (s : State) : Res :=
  atPort port <|
    let b := bxPort s port
    match b.calPend with
    | none => s
    | some g =>
      if reached s g.takeover then
        raise (setBx s port { b with cal := some g, calPend := none, slot := 0, starve := [], starved := [] }) .calTakeover port
      else s

/-! Pre-waking (R29, R104) -/

/-- The stretches of a port's gates from now through `ns`. -/
def segsNow (s : State) (p ns : Nat) : List (Nat × Nat × GateEntry) := segsTo (bxPort s p) (nowU s) (nowU s + ns * 200 + 1)

/-- The owners of the TC7 windows of a port that are open or open within `ns`. -/
def soonOwners (s : State) (p ns : Nat) : List Nat :=
  (segsNow s p ns).filterMap fun x => if bitAt x.2.2.gates 7 then x.2.2.owner else none

/-- Idle time of a domain in µs (R380); none for a kind without one. -/
def idleUs (s : State) (d : Nat) : Option Nat :=
  if 167 ≤ d ∧ d < 327 then some (fld s .PG_IDLE_US)
  else if 327 ≤ d ∧ d < 343 then some (fld s .KAO_IDLE_US)
  else if 343 ≤ d ∧ d < 359 then some (fld s .MARL_IDLE_US)
  else none

/-- Does a class gate open within the horizon after a closed period of at least the pipeline's idle time (R104)? -/
def opensSoon (s : State) (p : Nat) : Bool :=
  let b := bxPort s p
  let idle := fld s .PG_IDLE_US * 200000
  (segsNow s p (fld s .BX_WAKE_PREWAKE_NS)).any fun x =>
    decide (nowU s < x.1) && (List.range 7).any fun c =>
      bitAt x.2.2.gates c && holdsThrough b (fun g => !bitAt g.gates c) x.1 (stretchesIn b (x.1 - idle) x.1) (x.1 - idle)

/-- Boxwood's pre-wakes for a port: the egress pipeline PREWAKE_NS ahead of a TC7 window, and its owner's ingress pipeline
520 ns before that. -/
def prewake (s : State) (p : Nat) : State :=
  let ns := fld s .BX_WAKE_PREWAKE_NS
  let s1 := if !(soonOwners s p ns).isEmpty || (flag s .PREWAKE_ALL && opensSoon s p) then wakeDomain s (pipeDomain p) else s
  ((soonOwners s p (520 + ns)).filter (· < nPorts)).foldl (fun t o => wakeDomain t (pipeDomain o)) s1

def execPrewake (port : Nat) (s : State) : Res := atPort port (prewake s port)

/-- Must a pipeline stay awake for a TC7 window of its ports, or of a port that one of its ports feeds (R29, R104)? -/
def windowNear (s : State) (d : Nat) : Bool :=
  s.bx.ports.any fun e =>
    let ns := fld s .BX_WAKE_PREWAKE_NS
    (pipeDomain e.1 == d && !(soonOwners s e.1 ns).isEmpty) ||
      (soonOwners s e.1 (520 + ns)).any fun o => decide (o < nPorts) && pipeDomain o == d

end Sys2Proof.Machine
end

