-- ==== Sys2Proof/Machine/SleepRows.lean ====
section
/-!
DEFINITION. Machine/SleepRows.lean: domains falling asleep and waking (R26 to R30, R302, R303).
-/

namespace Sys2Proof.Machine

open Sys2Proof

/-- Domains of kind G. -/
def nDomains : Nat := 359

/-- The first port of a tile of the 160. -/
def tilePort (t : Nat) : Nat := if t % 10 < 8 then 64 * (t / 10) + 8 * (t % 10) else 1024 + 16 * (t / 10) + 8 * (t % 10 - 8)

def tilePorts (t : Nat) : List Nat := (List.range 8).map (tilePort t + ·)

/-- May a domain sleep at all now (Table 1.9)? -/
def maySleep (s : State) (d : Nat) : Bool :=
  if d < 2 then false
  else if d < 162 then (tilePorts (d - 2)).all fun p => !portEnabled s p
  else if d < 164 then false
  else if d = 164 then s.xc.circuits.isEmpty
  else if d < 167 then s.haw.pstate == .none
  else if d < 327 then
    !windowNear s d && (tilePorts (d - 167)).all fun p =>
      (bxPort s p).deps.isEmpty && (List.range 14).all fun i => (queueOf s (qKey p i)).isEmpty
  else if d < 343 then true
  else !bitAt (fld s .KEEP_AWAKE) (d - 343)

/-- Has a domain's idle timer expired? A value of 0xFFFF keeps the kind awake (R380). -/
def idleExpired (s : State) (d : Nat) : Bool :=
  match idleUs s d with
  | none => true
  | some us => us != 0xFFFF && elapsed s (tget 0 s.pwr.lastWork d) (ticksOfUs us)

def setDomain (s : State) (d : Nat) (x : SleepState) : State :=
  { s with pwr := { s.pwr with domains := tset .awake s.pwr.domains d x } }

/-- A domain falls asleep. -/
def fallAsleep (s : State) (d : Nat) : State :=
  let s1 := setDomain s d .asleep
  { s1 with pwr := { s1.pwr with sleptAt := tset 0 s1.pwr.sleptAt d s1.raw } }

/-- A domain's idle timer expires: it sleeps, unless a wake trigger falls in the same cycle, which restarts the timer
(R26, R28, R29). Log 4 (DESIGN CHOICE). -/
def execIdleTimeout (domain : Nat) (trigger : Bool) (s : State) : Res :=
  atUnit domain nDomains <|
    if tget SleepState.awake s.pwr.domains domain != .awake || !maySleep s domain || !idleExpired s domain then s
    else if trigger then wakeDomain s domain
    else fallAsleep s domain

/-- Has a domain had its wake trigger, without being awake yet? -/
def isWaking (s : State) (d : Nat) : Bool :=
  match tget SleepState.awake s.pwr.domains d with
  | .waking _ => true
  | .late _ => true
  | _ => false

/-- The TC7 windows of a port that opened since an instant: when each did, and its owner. -/
def openedSince (s : State) (p t0 : Nat) : List (Nat × Nat) :=
  let segs := segsTo (bxPort s p) t0 (nowU s + 1)
  (segs.zip (segs.drop 1)).filterMap fun x =>
    let a := x.1.2.2; let n := x.2.2.2
    if bitAt n.gates 7 && !(bitAt a.gates 7 && a.owner == n.owner) then n.owner.map (x.2.1, ·) else none

/-- Since when, in local time, a domain has been asleep or waking; none while it is awake. -/
def downSince (s : State) (d : Nat) : Option Nat :=
  if domainAwake s d then none else some (inU s (s.raw - tget 0 s.pwr.sleptAt d))

/-- The pipelines a TC7 window of a port needs: the port's own, and its owner's (R104). -/
def windowPipes (p owner : Nat) : List Nat :=
  pipeDomain p :: if owner < nPorts then [pipeDomain owner] else []

/-- A pipeline is awake again: count the TC7 windows that opened while it was not (R30, R104), but for those that the window's other
pipeline has missed too and is still to count. Log 67 (DEDUCED). -/
def missedWindows (s : State) (d t0 : Nat) : State :=
  s.bx.ports.foldl (fun t e =>
    raiseN t .tc7WakeMiss e.1 ((openedSince s e.1 t0).filter fun w =>
      let pipes := windowPipes e.1 w.2
      pipes.contains d && pipes.all fun o => match downSince s o with | some x => decide (w.1 < x) | none => true).length) s

/-- A waking domain is ready (R26). Its clock has just resumed, so its stamps are STALE until the next beat (R303). -/
def execDomainAwake (domain : Nat) (s : State) : Res :=
  atUnit domain nDomains <|
    if isWaking s domain then
      let s1 := setDomain s domain .awake
      let stale := if s1.yew.regionStale.contains domain then s1.yew.regionStale else s1.yew.regionStale ++ [domain]
      missedWindows { s1 with yew := { s1.yew with regionStale := stale }
                              pwr := { s1.pwr with lastWork := tset 0 s1.pwr.lastWork domain s1.raw } } domain
        (inU s (s.raw - tget 0 s.pwr.sleptAt domain))
    else s

/-- Wake time of a domain in ns (Table 1.9): of a link front its training, of at most 34 ms (Table 11.3). Log 68 (DESIGN CHOICE). -/
def wakeNs (d : Nat) : Nat := if 2 ≤ d ∧ d < 162 then 34000000 else if 167 ≤ d ∧ d < 327 then 300 else 2000

/-- A domain not awake within four times its wake time raises WAKE_LATE, once (R30). Log 68 (DESIGN CHOICE). -/
def execWakeLateCheck (domain : Nat) (s : State) : Res :=
  atUnit domain nDomains <|
    match tget SleepState.awake s.pwr.domains domain with
    | .waking t =>
      if elapsed s t (ticksOfNs (4 * wakeNs domain)) then raise (setDomain s domain (.late t)) .wakeLate domain (recVal domain)
      else s
    | _ => s

end Sys2Proof.Machine
end

