-- ==== Sys2Proof/Machine/StoreRows.lean ====
section
/-!
DEFINITION. Machine/StoreRows.lean: the spill movers (R65 to R68), hold clods (R71) and Sieve (R77, R78, R80).
-/

namespace Sys2Proof.Machine

open Sys2Proof

/-- Clods of a half. -/
def halfClods : Nat := 6 * clodsPerStack

/-- Clods of a half that a unit other than the retry hold uses. -/
def otherClods (s : State) (half : Nat) : Nat :=
  tcount (fun k (r : ClodRec) => r.kind != .hold && k / clodsPerStack / 6 == half) s.loam.clods

def retryPool (s : State) (half : Nat) : Nat := fldI s .RETRY_POOL half

/-- A free clod for spill: the retry pool is set aside (R71). Log 58 (DEDUCED). -/
def spillClod (s : State) (half first : Nat) : Option Nat :=
  if otherClods s half + retryPool s half < halfClods then findClod s half first else none

/-- The clod that a queue's spill is filling, in a half, for a partition, with room in it, when it holds the cell before a
position (R67). -/
def openClodOf (s : State) (half u part pos : Nat) : Option (Nat × Nat) :=
  match tfind s.loam.openClod u with
  | none => none
  | some c =>
    match tfind s.loam.clods c with
    | some r =>
      if r.used < 16 && r.part == part && c / clodsPerStack / 6 == half &&
          (queuePlaces s u).any fun x => x.pos + 1 == pos && x.place == .sub c
      then some (c, r.used) else none
    | none => none

/-- Move cells of a queue into a clod, as long as spill-out is on; a frame with an uncorrectable cell is dropped instead (R66). -/
def spillCells (clod : Nat) : List QCell → State → State
  | [], s => s
  | x :: t, s =>
    if !s.loam.spilling then s
    else
      match readPlaces s x.fid [x.place] with
      | (false, s1) => s1
      | (true, s1) =>
        let l := { s1.loam with clods := tadj s1.loam.clods clod fun r => { r with used := r.used + 1 } }
        spillCells clod t (moveDown { s1 with loam := l } clod x.fid x.idx)

/-- Is a clod to stay open: not full, no cell behind it that must not follow, and spill-out on (R67)? -/
def staysOpen (s : State) (c : Nat) (last : Bool) : Bool :=
  last && s.loam.spilling && (match tfind s.loam.clods c with | some r => r.kind == .spill && decide (r.used < 16) | none => false)

/-- Fill a clod that holds `used` already with a run of cells; `last` when no cell stands behind the run. -/
def fillClod (s : State) (u c used : Nat) (run : List QCell) (last : Bool) : State :=
  let s1 := spillCells c (run.take (16 - used)) s
  let openC := if staysOpen s1 c last then tins s1.loam.openClod u c else tdel s1.loam.openClod u
  { s1 with loam := { s1.loam with openClod := openC } }

/-- The spill mover of a half finds no free clod: it pauses, counted once per pause (R67). A pause lasts until a clod is found, also
across a stop of spill-out. Log 174 (DESIGN CHOICE). -/
def pauseSpill (s : State) (half u : Nat) : State :=
  if tget false s.loam.paused half then s
  else raise { s with loam := { s.loam with paused := tset false s.loam.paused half true } } .loamSpillFull (u / 16) (recStore 0 half u)

/-- Take the next clod of a queue for spill, and fill it (R67). -/
def spillInto (s : State) (half u part pos : Nat) (run : List QCell) (last : Bool) : State :=
  match openClodOf s half u part pos with
  | some (cl, used) => fillClod s u cl used run last
  | none =>
    let k := tget 0 s.loam.spillCount u
    match spillClod s half ((u + k) % 6) with
    | none => pauseSpill s half u
    | some cl =>
      let l := takeClod s.loam cl .spill part u 0
      let s1 := { s with loam := { l with spillCount := tset 0 l.spillCount u (k + 1), paused := tset false l.paused half false } }
      fillClod s1 u cl 0 run last

/-- One move of the spill mover of a half: the cells of its half at the front of the tail of the queue with the most (R66, R67).
A front that arrived in the other half waits for that half's mover. Log 176 (DEDUCED). -/
def spillOut (s0 : State) (half : Nat) : State :=
  let s := noteSpill s0
  if !s.loam.spilling then s
  else
    match spillQueue s half with
    | none => s
    | some u =>
      let cells := eligibleCells s u
      match cells with
      | [] => s
      | c :: _ =>
        let run := spillRun half c.part c.pos cells
        if run.isEmpty then s
        else
          match readPlaces s c.fid [c.place] with
          | (false, s1) => s1
          | (true, s1) => spillInto s1 half u c.part c.pos run (c.pos + run.length == (queuePlaces s u).length)

def execSpillOutMove (half : Nat) (s : State) : Res := atUnit half 2 (spillOut s half)

/-- The number of cells ahead of the first spilled cell, and that cell's clod. -/
def headSegment (l : List QCell) : Option (Nat × Nat) :=
  l.findSome? fun x => match x.place with | .sub c => some (x.pos, c) | .top _ => none

/-- The first clod of a queue whose head segment has shrunk is read back into Topsoil and freed (R68), once there is room for it. -/
def readBackQueue (s : State) (u : Nat) : State :=
  match headSegment (queuePlaces s u) with
  | none => s
  | some (n, c) =>
    if fld s .HEAD_WIN ≤ n + 16 || !roomIn s .shared (tget ({} : ClodRec) s.loam.clods c).used then s
    else
      let fids := ((queueOf s u).map (·.fid)).eraseDups.filter fun f =>
        match frameOf s f with | some x => x.places.contains (.sub c) | none => false
      let s1 := { s with loam := { s.loam with openClod := tfilter (fun _ x => x != c) s.loam.openClod } }
      let checked := fids.foldl (fun t f => (readFrame t f).2) s1
      fids.foldl (fun t f => readBackFrame t f (some c)) checked

def execSpillReadback (queue : Nat) (s : State) : Res := atUnit queue (16 * nPorts) (readBackQueue s queue)

/-! Hold clods (R71) -/

/-- The egress queue that a held frame left from, and when it was last transmitted there. -/
def heldSince (s : State) (fid : Nat) : Option (Nat × Nat) :=
  (s.lk.ends.flatMap fun e => e.2.tx.flatMap fun q =>
    (q.2.open_.filter fun r => r.fid == fid).map fun r => (qKey (linkPort s e.1) q.1, r.lastTx)).head?

/-- Move the Topsoil cells of a held frame into hold clods of a queue, 16 to a clod, as long as the retry pool has one. -/
def holdCells : Nat → State → Nat → Nat → Nat → State
  | 0, s, _, _, _ => s
  | n + 1, s, fid, half, u =>
    match frameOf s fid with
    | none => s
    | some f =>
      let idx := ((List.range f.places.length).filter fun i => match f.places.getD i (.sub 0) with | .top _ => true | .sub _ => false).take 16
      match idx, (if clodsOf s half .hold < retryPool s half then findClod s half 0 else none) with
      | [], _ => s
      | _, none => s
      | is, some c =>
        let s1 := { s with loam := takeClod s.loam c .hold f.part u is.length }
        holdCells n (is.foldl (fun t i => moveDown t c fid i) s1) fid half u

/-- A held frame's cells older than HOLD_SPILL_NS move to hold clods of the half where it arrived (R71).
Log 59 (DESIGN CHOICE). -/
def holdSpill (s : State) (fid : Nat) : State :=
  match frameOf s fid, heldSince s fid with
  | some f, some (u, t) =>
    if flag s .HOLD_SPILL_EN && f.refs == 1 && f.shares.isNone && elapsed s t (ticksOfNs (fld s .HOLD_SPILL_NS) + 1) then
      match readFrame s fid with
      | (true, s1) => holdCells 3 s1 fid f.inHalf u
      | (false, s1) => s1
    else s
  | _, _ => s

def execHoldSpillMove (fid : Nat) (s : State) : Res := .next (holdSpill s fid)

/-! Sieve (R77, R78, R80) -/

def sieveOf (s : State) (half : Nat) : SieveHalf := tget {} s.loam.sieves half

def setSieve (s : State) (half : Nat) (x : SieveHalf) : State :=
  { s with loam := { s.loam with sieves := tset {} s.loam.sieves half x } }

/-- A finding of Table 3.10: its event, its count, which wraps at 2^32, and SIEVE_LAST. Log 174 (DESIGN CHOICE). -/
def finding (s : State) (half kind tier unit part : Nat) : State :=
  let v := sieveOf s half
  let e := if kind == 1 then Ev.sieveLeak else if kind == 2 then Ev.sieveDouble else Ev.sieveChargeFix
  raise (setSieve s half { v with last := { kind := kind, tier := tier, unit := unit, part := part }
                                  leaks := if kind == 1 then (v.leaks + 1) % 2 ^ 32 else v.leaks
                                  doubles := if kind == 2 then (v.doubles + 1) % 2 ^ 32 else v.doubles })
    e half (recStore part unit 0)

/-- Does a unit of a tier lie in a half? -/
def unitHalf (tier unit : Nat) : Nat := if tier == 0 then quadOf unit / 128 else unit / clodsPerStack / 6

/-- What Sieve asks of a record: is it leaked as it stands (free and off its list, or held with no holder), how often it
has been found so, and whose it is. -/
structure SieveView where
  leaked : Bool
  suspect : Nat
  part : Nat

def sieveView (s : State) (tier unit : Nat) : Option SieveView :=
  if tier == 0 then
    (tfind s.loam.cells unit).map fun r =>
      { leaked := (r.kind == .free && r.off) || (r.kind == .held && r.ref == 0), suspect := r.suspect, part := r.part }
  else
    (tfind s.loam.clods unit).map fun r =>
      { leaked := (r.kind == .free && r.off) || (r.kind != .free && r.kind != .retired && r.used == 0), suspect := r.suspect, part := r.part }

def setSuspect (s : State) (tier unit n : Nat) : State :=
  if tier == 0 then { s with loam := { s.loam with cells := tadj s.loam.cells unit fun r => { r with suspect := n } } }
  else { s with loam := { s.loam with clods := tadj s.loam.clods unit fun r => { r with suspect := n } } }

/-- A confirmed leak goes back to its free list (R78). -/
def reclaim (s : State) (tier unit : Nat) : State :=
  if tier == 0 then
    let held := (tget ({} : CellRec) s.loam.cells unit).kind == .held
    { s with loam := { s.loam with cells := tdel s.loam.cells unit
                                   quadUsed := if held then tmod 0 s.loam.quadUsed (quadOf unit) (· - 1) else s.loam.quadUsed } }
  else { s with loam := { s.loam with clods := tdel s.loam.clods unit } }

/-- The leak rule on one unit: reported when two passes in a row find it; a partition in teardown is not judged.
Log 60 (DESIGN CHOICE). -/
def judgeUnit (s : State) (half tier unit : Nat) : State :=
  match sieveView s tier unit with
  | none => s
  | some v =>
    let n := if v.leaked then v.suspect + 1 else 0
    if n == 2 && !inTeardown s v.part then
      let s1 := finding (setSuspect s tier unit 0) half 1 tier unit v.part
      if fldI s .RECLAIM half == 1 then reclaim s1 tier unit else s1
    else setSuspect s tier unit n

/-- The doubled or misplaced entries of the free lists of a half are taken off. -/
def takeDoubles (s : State) (half tier : Nat) : State :=
  let l := if tier == 0 then s.loam.extraCells else s.loam.extraClods
  let mine := l.filter fun u => unitHalf tier u == half
  let rest := l.filter fun u => unitHalf tier u != half
  let s1 := if tier == 0 then { s with loam := { s.loam with extraCells := rest } } else { s with loam := { s.loam with extraClods := rest } }
  mine.foldl (fun t u => finding t half 2 tier u 0) s1

/-- The recount of a partition's charge: the units it holds and those reserved for it. -/
def recount (s : State) (tier part : Nat) : Nat :=
  (if tier == 0 then tcount (fun _ (r : CellRec) => r.kind == .held && r.part == part) s.loam.cells
   else tcount (fun _ (r : ClodRec) => r.kind != .free && r.kind != .retired && r.part == part) s.loam.clods) +
  s.loam.resvs.foldl (fun a e => if e.2.part == part then a + (if tier == 0 then e.2.cells - e.2.used else e.2.clods - e.2.clodIds.length) else a) 0

/-- Correct the charges that differ from the recount, at the end of half 0's pass. -/
def fixCharges (s : State) (tier : Nat) : State :=
  let parts := ((if tier == 0 then s.loam.tcharge.map (·.1) ++ s.loam.cells.map (·.2.part)
                 else s.loam.scharge.map (·.1) ++ s.loam.clods.map (·.2.part)) ++ s.loam.resvs.map (·.2.part)).eraseDups
  parts.foldl (fun t p =>
    let n := recount t tier p
    let have_ := if tier == 0 then tget 0 t.loam.tcharge p else tget 0 t.loam.scharge p
    if n == have_ || inTeardown t p then t
    else
      let t1 := finding t 0 3 tier 0 p
      if tier == 0 then { t1 with loam := { t1.loam with tcharge := tset 0 t1.loam.tcharge p n } }
      else { t1 with loam := { t1.loam with scharge := tset 0 t1.loam.scharge p n } }) s

/-- A pass of a tier of a half (R77). -/
def sievePass (s : State) (half tier : Nat) : State :=
  let s1 := takeDoubles s half tier
  let units := ((if tier == 0 then s1.loam.cells.map (·.1) else s1.loam.clods.map (·.1))).filter fun u => unitHalf tier u == half
  let s2 := units.foldl (fun t u => judgeUnit t half tier u) s1
  let s3 := if half == 0 then fixCharges s2 tier else s2
  let v := sieveOf s3 half
  setSieve s3 half { v with passes := (v.passes + 1) % 2 ^ 32
                            started := v.started.filter (· != tier)
                            lastTop := if tier == 0 then s.raw else v.lastTop
                            lastSub := if tier == 0 then v.lastSub else s.raw }

/-- Is a pass due: started by START, or its period over with the audit on? -/
def sieveDue (s : State) (half tier : Nat) : Bool :=
  let v := sieveOf s half
  v.started.contains tier || (fldI s .SIEVE_CTRL_EN half == 1 &&
    if tier == 0 then elapsed s v.lastTop (ticksOfMs (fldI s .TS_PERIOD half))
    else elapsed s v.lastSub (ticksOfMs (fldI s .SS_PERIOD half)))

def execSievePass (half tier : Nat) (s : State) : Res :=
  if half < 2 ∧ tier < 2 then .next (if sieveDue s half tier then sievePass s half tier else s) else .fault .noSuchUnit

/-- START of SIEVE_CTRL: a pass of both tiers begins, or the request is ignored while one runs (R80). -/
def sieveStart (s : State) (half : Nat) : State :=
  let v := sieveOf s half
  if v.started.isEmpty then setSieve s half { v with started := [0, 1] } else raise s .sieveStartBusy half

end Sys2Proof.Machine
end

