-- ==== Sys2Proof/Machine/RouteRows.lean ====
section
/-!
DEFINITION. Machine/RouteRows.lean: route images and epochs (R110, R111), sweeps (R119 to R122), echoes and throttles (R125,
R126), congestion maps (R127, R128).
-/

namespace Sys2Proof.Machine

open Sys2Proof

/-! Route tables -/

/-- Step 1 of R110. -/
def routeImage (s : State) (c : Ncp) : Except Bad (List Byte) := do
  let img ← readImage c 0 0x4E5A000B 1 false
  let n := beAt img 6 2
  need (beAt img 4 1 == 1 && decide (beAt img 5 1 < 4) && n == 2 ^ dimsN s && img.length == 32 + 4 * n && beAt img 24 4 == 0)
    .badParam 1
  let es := (List.range n).map fun i => beAt img (32 + 4 * i) 4
  eachOk (fun i e => need (bitsOf e 3 1 == 0) .badParam 1 i) 0 es
  return img

/-- Step 2 of R110: the masks of one entry. -/
def maskOk (n i e : Nat) : Except Bad Unit := do
  need (decide (entryFirst e < 2 ^ n) && decide (entryNm e < 2 ^ n)) .outOfRange 2 i
  need (!(entryV e && entryFirst e == 0) && (entryFirst e &&& entryNm e) == 0) .badParam 2 i

/-- LOAD_ROUTES (R110). -/
def execLoadRoutes (c : Ncp) (s : State) : Res :=
  runCmd s c 0x0302 <| do
    needOwner c
    let img ← routeImage s c
    let es := (List.range (beAt img 6 2)).map fun i => beAt img (32 + 4 * i) 4
    eachOk (maskOk (dimsN s)) 0 es
    let e := beAt img 5 1 % 4
    need (e == (s.sh.epoch + 1) % 4) .badParam 3
    let t ← checkTime s (beAt img 8 4) 4
    need (s.sh.prev.isNone && replaceable s (s.sh.pend.map (·.takeover))) .running 5
    return ([], { s with sh := { s.sh with pend := some { epoch := e, takeover := t, imgId := beAt img 16 8, entries := es } } })

/-- At T the pending table becomes current and the current one previous (R111). -/
def execRouteTakeover (s : State) : Res :=
  .next <| match s.sh.pend with
  | none => s
  | some r =>
    if reached s r.takeover then
      raise { s with sh := { s.sh with cur := some r, epoch := r.epoch, prev := some s.sh.cur, pend := none
                                       quietFrom := some s.raw } } .routeTakeover 0 (recVal r.epoch)
    else s

/-- Frames stored with d = 1 (OLD_FRAMES). -/
def oldFrames (s : State) : Nat := tcount (fun _ (f : StoredFrame) => f.mode != .eth && epochDiff s f.ffh.epoch == 1) s.loam.frames

/-- The previous table is released after a quiet interval of 3 × MAX_TRAV_US (R111). -/
def execEpochRelease (s : State) : Res :=
  .next <| match s.sh.prev, s.sh.quietFrom with
  | some _, some q =>
    if oldFrames s == 0 && elapsed s q (ticksOfUs (3 * fld s .MAX_TRAV_US)) then
      raise { s with sh := { s.sh with prev := none, quietFrom := none } } .epochRelease 0
    else s
  | _, _ => s

/-! Sweeps -/

/-- A marker copy leaves when the frames of its key before it have been acknowledged and its queue is chosen (R120); in TC7 it
takes a departure. -/
def execMarkerCopyTransmit (port queue : Nat) (s : State) : Res :=
  atPort port <|
    if queue == 14 then releaseTc7 s port
    else match headOf s port queue with
    | some (.first _ _ f) =>
      if f.ffh.kind == 8 && opportunity s port && ((calChoice s port (eligibleQueues s port)).map (·.1)) == some queue then
        transmit s port
      else s
    | _ => s

/-- A sweep is complete (R121). -/
def execSweepComplete (key : Nat) (s : State) : Res := .next (releaseSweep s key)

/-- A sweep times out: its fenced frames are discarded and counted, and its slot stays timed out (R122). -/
def sweepTimeout (s : State) (key : Nat) : State :=
  match tfind s.sh.sweeps key with
  | none => s
  | some w =>
    if w.timedOut.isSome || sweepReady s key w || !elapsed s w.started (sweepTmo s) then s
    else
      let drop := fun (t : State) fid =>
        match frameOf t fid with
        | some f => raise (discardCopy t fid) .sweepTimeout f.inPort (recFrame f.ffh)
        | none => t
      setSweep (w.fenced.foldl drop s) key { w with timedOut := some s.raw, fenced := [], copies := [] }

def execSweepTimeout (key : Nat) (s : State) : Res := .next (sweepTimeout s key)

/-- The slot of a timed-out sweep is free after a further SWEEP_TMO_US (R122). -/
def execSweepSlotRelease (key : Nat) (s : State) : Res :=
  .next <| match (tfind s.sh.sweeps key).bind (·.timedOut) with
  | some t => if elapsed s t (sweepTmo s) then dropSweep s key else s
  | none => s

/-! Echoes and throttles -/

/-- The oldest echo of a half has waited ECE_HOLD_NS: an echo frame carries it back (R125). One for an endpoint behind this
spine is acted on and consumed here. -/
def echoSend (s : State) (half : Nat) : State :=
  match tget [] s.sh.echo half with
  | [] => s
  | e :: t =>
    if !elapsed s e.at_ (ticksOfNs (fld s .ECE_HOLD_NS)) then s
    else
      let h : Ffh := { tc := e.tc, part := e.part, src := e.dst, dst := e.src, ece := true }
      let s1 := { s with sh := { s.sh with echo := tset [] s.sh.echo half t } }
      if addrSpine e.src == selfSpine s then echoHere s1 half e.src e.tc else spawnUnicast s1 half h []

def execEchoFrameSend (half : Nat) (s : State) : Res := atUnit half 2 (echoSend s half)

/-- AI_US without an echo: the injection rate rises (R126). -/
def execThrottleIncrease (port tc : Nat) (s : State) : Res :=
  atPort port <|
    let t := thrOf s port tc
    if t.r == 65536 || 8 ≤ tc || !elapsed s t.aiFrom (ticksOfUs (fld s .AI_US)) then s
    else
      setThr s port tc { t with r := min 65536 (t.r + fld s .AI), tokens := thrLevel s port t, tokensAt := s.raw, aiFrom := s.raw
                                lastInc := some (s.raw, t.r) }

/-! Congestion maps -/

/-- OCC: cells of both queues of a class, in units of 64. -/
def cmapOcc (s : State) (p tc : Nat) : Nat :=
  min 255 ((queueCells s (qKey p (2 * tc)) + queueCells s (qKey p (2 * tc + 1))) / 64)

/-- UTIL: transmit busy time over the period in 1/65,536. -/
def cmapUtil (s : State) (p tc : Nat) : Nat :=
  min 65535 ((tget {} s.sh.cmapAcc (8 * p + tc)).busy * 65536 / max 1 (fld s .CMAP_PERIOD_US * 200000))

def cmapMarks (s : State) (p tc : Nat) : Nat := (tget {} s.sh.cmapAcc (8 * p + tc)).marks

/-- A record (Table 5.4). -/
def cmapRec (rtype port tc : Nat) (down : Bool) (dim occ util marks : Nat) : List Byte :=
  beBytes 2 (rtype * 4096 + port) ++ beBytes 1 (tc * 32 + bitv down 4 + dim) ++ beBytes 1 occ ++ beBytes 2 util ++
    beBytes 2 (min 65535 marks)

/-- The summary of a class over the ports not toward the receiver. Log 74 (DESIGN CHOICE). -/
def cmapSummary (s : State) (ports : List Nat) (tc : Nat) : List Byte :=
  let sum := fun (g : Nat → Nat) => (ports.map g).foldl (· + ·) 0
  cmapRec 1 0x7FF tc false 0xF ((ports.map fun p => cmapOcc s p tc).foldl max 0)
    (sum (fun p => cmapUtil s p tc) / max 1 ports.length) (sum fun p => cmapMarks s p tc)

/-- Insert by falling occupancy, after its equals. -/
def insertOcc (x : Nat × Nat × Nat) : List (Nat × Nat × Nat) → List (Nat × Nat × Nat)
  | [] => [x]
  | y :: t => if y.1 < x.1 then x :: y :: t else y :: insertOcc x t

/-- The port and class pairs that hold cells, most occupied first: cells, port, class. -/
def cmapPairs (s : State) : List (Nat × Nat × Nat) :=
  let all := (enabledPorts s).flatMap fun p => (List.range 6).map fun tc =>
    (queueCells s (qKey p (2 * tc)) + queueCells s (qKey p (2 * tc + 1)), p, tc)
  (all.filter fun x => x.1 != 0).foldl (fun l x => insertOcc x l) []

/-- The payload of the map toward the neighbour across a dimension. -/
def cmapPayload (s : State) (d : Nat) : List Byte :=
  let ports := (enabledPorts s).filter fun p => dimCode s p != d
  let recs := (cmapPairs s).take 58
  let body := (List.range 6).flatMap (cmapSummary s ports) ++ recs.flatMap fun x =>
    cmapRec 0 x.2.1 x.2.2 (!portUp s x.2.1 || portFenced s x.2.1) (dimCode s x.2.1) (cmapOcc s x.2.1 x.2.2)
      (cmapUtil s x.2.1 x.2.2) (cmapMarks s x.2.1 x.2.2)
  beBytes 2 (6 + recs.length) ++ beBytes 2 (tget 0 s.sh.cmapSeq d) ++ beBytes 4 (now32 s) ++ body

/-- Every CMAP_PERIOD_US a map goes to each neighbour over the lowest port of its bundle (R127). -/
def cmapSend (s : State) : State :=
  if !flag s .CMAP_EN || !elapsed s s.sh.cmapSentAt (ticksOfUs (fld s .CMAP_PERIOD_US)) then s
  else
    let send := fun (t : State) d =>
      match bundle s d with
      | [] => t
      | p :: _ =>
        let h : Ffh := { tc := 6, kind := 0xD, src := spineAddr s (selfSpine s)
                         dst := spineAddr s (neighbourOf s (selfSpine s) d) }
        let t1 := { t with sh := { t.sh with cmapSeq := tset 0 t.sh.cmapSeq d ((tget 0 t.sh.cmapSeq d + 1) % 65536) } }
        spawnControl t1 p h (cmapPayload s d)
    let s1 := (List.range (min 14 (dimsN s))).foldl send s
    { s1 with sh := { s1.sh with cmapAcc := [], cmapSentAt := s.raw } }

def execCmapSend (s : State) : Res := .next (cmapSend s)

/-- Does a payload fit Table 5.4? -/
def cmapValid (b : List Byte) : Bool :=
  let n := beAt b 0 2
  decide (6 ≤ n) && decide (n ≤ 64) && b.length == 8 + 8 * n &&
    (List.range 6).all (fun c => beAt b (8 + 8 * c) 1 / 16 == 1 && beAt b (8 + 8 * c + 2) 1 / 32 == c) &&
    (List.range n).all fun i => decide (beAt b (8 + 8 * i) 1 / 16 ≤ 1)

/-- A map arrives; one that does not fit Table 5.4 is discarded (R127). -/
def execCmapReceive (fid : Nat) (s : State) : Res :=
  .next <| match takeKind s fid 0xD with
  | .error s1 => s1
  | .ok (f, s1) =>
    if cmapValid f.data && decide (f.inDim ≤ 13) then
      let m := tget {} s.sh.cmapIn f.inDim
      let before := if m.receivedAt == s.raw then m.before else (m.payload, m.receivedAt)
      { s1 with sh := { s1.sh with cmapIn := tins s1.sh.cmapIn f.inDim { payload := f.data, receivedAt := s.raw, before := before } } }
    else s1

/-- No valid map across a dimension for 4 × CMAP_PERIOD_US: a stale spell, counted once (R128). -/
def execCmapStale (dim : Nat) (s : State) : Res :=
  atUnit dim 14 <|
    let m := tget {} s.sh.cmapIn dim
    if dimsN s ≤ dim || m.stale || !elapsed s m.receivedAt (ticksOfUs (4 * fld s .CMAP_PERIOD_US)) then s
    else
      let s1 := { s with sh := { s.sh with cmapIn := tins s.sh.cmapIn dim { m with stale := true } } }
      match portsOfDim s dim with
      | p :: _ => raise s1 .cmapStale p (recVal dim)
      | [] => s1

/-- CMAP_READ (Table 16.5). -/
def execCmapRead (c : Ncp) (s : State) : Res :=
  runCmd s c 0x0A07 <| do
    needOwner c
    needLen c 1
    let d := beAt c.body 0 1
    need (decide (d < 14)) .badParam
    return ((tget {} s.sh.cmapIn d).payload, s)

end Sys2Proof.Machine
end

