-- ==== Sys2Proof/Machine/LaurelRows.lean ====
section
/-!
DEFINITION. Machine/LaurelRows.lean: table images and reads (R133 to R142, R150 to R153), learning and ageing (R143 to
R146), parity repair (R149), and the return of group records (R135).
-/

namespace Sys2Proof.Machine

open Sys2Proof

/-! Records of an image -/

/-- A record of a table image. -/
structure TabRec where
  op : Nat
  key : List Byte
  res : List Byte
  deriving DecidableEq, Repr

/-- Key and result bytes of a TKIND (Table 6.7). -/
def tabLens (tk : Nat) : Nat × Nat :=
  match tk with
  | 1 => (12, 4) | 2 => (12, 192) | 3 => (12, 4) | 4 => (2, 2) | 5 => (1, 16) | 6 => (7, 4) | 7 => (19, 4)
  | 8 => (2, 12) | 9 => (10, 4) | 10 => (2, 320) | _ => (2, 48)

def isDirect (tk : Nat) : Bool := tk == 4 || tk == 5 || tk == 8 || tk == 10 || tk == 11

def isZero (b : List Byte) : Bool := b.all (· == 0#8)

/-- Step 1 of R151 for the key of a record. -/
def keyOk (tk : Nat) (k : List Byte) : Bool :=
  let v := beNat k
  match tk with
  | 1 => bitsOf v 95 92 == 1 && bitsOf v 43 0 == 0 && decide (bitsOf v 47 44 ≤ 8)
  | 2 => bitsOf v 95 92 == 2 && bitsOf v 63 0 == 0
  | 3 => bitsOf v 95 92 == 3 && bitsOf v 38 0 == 0
  | 6 => beAt k 0 1 < 16 && (32 < beAt k 2 1 || prefixKey false (beAt k 0 2) (beAt k 2 1) (beAt k 3 4) == v)
  | 7 => beAt k 0 1 < 16 && (128 < beAt k 2 1 || prefixKey true (beAt k 0 2) (beAt k 2 1) (beAt k 3 16) == v)
  | 9 => beAt k 0 1 < 16 && decide (beAt k 2 1 < 16)
  | _ => true

/-- Step 1 of R151 for the result of a record. -/
def resOk (s : State) (tk : Nat) (k r : List Byte) : Bool :=
  let v := beNat r
  match tk with
  | 1 => bitsOf v 31 30 != 3 && bitsOf v 29 11 == 0
  | 2 => isZero (r.drop 164) && bitsOf (beAt r 160 2) 15 14 == 0
  | 3 => addrPlane v == selfPlane s && addrDown v != 0
  | 4 => bitsOf v 14 11 == 0
  | 5 => decide (16 ≤ beAt k 0 1) || isZero (r.take 12)
  | 6 | 7 | 9 => decide (v < 65536)
  | 8 => decide (beAt r 0 1 ≤ 2) && beAt r 1 1 == 0
  | 11 => bitsOf (beAt r 0 1) 6 5 != 3 && bitsOf (beAt r 0 1) 1 0 != 3
  | _ => true

/-- Step 3 of R151: the key. -/
def keyInRange (tk : Nat) (k : List Byte) : Bool :=
  match tk with
  | 4 => decide (beAt k 0 2 < 1024)
  | 5 => decide (beAt k 0 1 < 32)
  | 6 => decide (beAt k 2 1 ≤ 32)
  | 7 => decide (beAt k 2 1 ≤ 128)
  | 9 => decide (1 ≤ beAt k 2 2) && decide (beAt k 2 2 ≤ 4094)
  | 10 => decide (1 ≤ beAt k 0 2) && decide (beAt k 0 2 ≤ 4094)
  | 11 => decide (beAt k 0 2 < 1024)
  | _ => true

/-- Step 3 of R151: the result. Log 75 (DEDUCED). -/
def resInRange (s : State) (tk : Nat) (k r : List Byte) : Bool :=
  let v := beNat r
  match tk with
  | 1 => bitsOf v 31 30 != 0 || decide (v % 2048 < nPorts)
  | 4 => !bitAt v 15 || (decide (v % 2048 < nPorts) && beAt k 0 2 != 0)
  | 8 =>
    decide (beAt r 2 2 < nPorts) && decide (beAt r 4 2 < 4096) && portMode s (beAt r 2 2) == .ethernet
  | 9 => decide (v < nPorts)
  | 11 =>
    let p := beAt r 2 2
    let w := if bitsOf (beAt r 0 1) 1 0 == 1 then 32 else 128
    (p == 0x7FF || decide (p < nPorts)) && decide (beAt r 4 2 < 4096) && decide (beAt r 8 1 ≤ w) && decide (beAt r 9 1 ≤ w)
  | _ => true

/-! Places in hash tables (R142) -/

/-- The free slot a search of exactly `d` moves reaches, with the slots on the way, lowest first at each step.
Log 79 (DESIGN CHOICE). -/
def relocPath {α : Type} (t : Table α) (alt : Nat → List Nat) : Nat → List Nat → Option (List Nat)
  | 0, places => (places.find? fun p => (tfind t p).isNone).map fun p => [p]
  | d + 1, places => places.findSome? fun p => (relocPath t alt d (alt p)).map (p :: ·)

/-- The shortest path of at most 8 moves; its first slot takes the new entry. -/
def findPath {α : Type} (t : Table α) (alt : Nat → List Nat) (places : List Nat) : Option (List Nat) :=
  (List.range 9).findSome? fun d => relocPath t alt d places

/-- Carry out the moves from the free end, each entry as `move` writes it; one of which that gives nothing is deleted in place of
being moved. -/
def carryMoves {α : Type} (move : α → Option α) (t : Table α) : List Nat → Table α
  | p :: q :: rest =>
    let t1 := carryMoves move t (q :: rest)
    match tfind t1 p with
    | some e =>
      match move e with
      | none => tdel t1 p
      | some x => tdel (tins t1 q x) p
    | none => t1
  | _ => t

/-- The places of the other way for the occupant of a slot. -/
def altPlaces (s : State) (tk p key : Nat) : List Nat :=
  let w := 1 - p / (65536 * 16)
  let b := bucketOf s tk w key
  (List.range 9).map (slotKey w b)

/-- Insert into a hash table, relocating when both buckets are full. -/
def hashInsert {α : Type} (s : State) (tk key : Nat) (keyOf : α → Nat) (move : α → Option α) (t : Table α) (e : α) :
    Option (Table α) :=
  let alt := fun p => match tfind t p with | some x => altPlaces s tk p (keyOf x) | none => []
  (findPath t alt (placesOf s tk key)).bind fun path =>
    path.head?.map fun p => tins (carryMoves move t path) p e

/-! Applying records -/

/-- A learned entry with bad parity (R149). Log 76 (DEDUCED). -/
def macDrop (e : MacEnt) : Bool := e.bad && !e.static

/-- A loaded entry moves from Heath's master copy, so with good parity (R142). -/
def movePrefix (e : PrefixEnt) : Option PrefixEnt := some { e with bad := false }

/-- A learned entry moves from its slot; one with bad parity is deleted (R142, R149). -/
def moveMac (e : MacEnt) : Option MacEnt := if macDrop e then none else some { e with bad := false }

def prefixSet (s : State) (v6 : Bool) (key : Nat) (e : PrefixEnt) (r : Replica) : Option Replica :=
  (hashInsert s (prefixTk v6) key PrefixEnt.key movePrefix (prefixTable r v6) e).map fun t =>
    if v6 then { r with v6 := t } else { r with v4 := t }

def macSet (s : State) (e : MacEnt) (r : Replica) : Option Replica :=
  (hashInsert s tkMac e.key MacEnt.key moveMac r.mac e).map fun t => { r with mac := t }

/-- Entries of an exact-match kind. -/
def exactCount (r : Replica) (tk : Nat) : Nat := tcount (fun _ e => e.key / 2 ^ 92 == tk) r.exact

/-- The lowest spare group record; one in its 1 µs wait is no spare (R135). -/
def spareRec (r : Replica) : Option Nat :=
  let taken := (r.recs.map (·.1)) ++ (r.recWait.map (·.1))
  (List.range (taken.length + 1)).find? fun i => !taken.contains i && decide (i < 66560)

/-- Return a group's record 1 µs from now (R135). -/
def waitRec (now i : Nat) (r : Replica) : Replica := { r with recs := tdel r.recs i, recWait := tins r.recWait i now }

/-- Fill a spare record. -/
def fillRec (b : List Byte) (r : Replica) : Option (Nat × Replica) :=
  (spareRec r).map fun i => (i, { r with recs := tins r.recs i { bytes := b } })

/-- Change both replicas, when the change is possible in both. -/
def bothReplicas (s : State) (g : Replica → Option Replica) : Except Bad State :=
  match g s.laurel.r0, g s.laurel.r1 with
  | some a, some b => .ok { s with laurel := { s.laurel with r0 := a, r1 := b } }
  | _, _ => failWith .noResource 6

/-- A new exact-match entry takes the lowest free index (R135); `rec` fills a group record for it. -/
def exactInsert (tk key : Nat) (res : Nat) (rec : Option (List Byte)) (r : Replica) : Option Replica :=
  if 65536 ≤ r.exact.length || (tk == tkExpert && decide (16384 ≤ exactCount r tk)) then none
  else
    (tfree r.exact 65536 0).bind fun i =>
      match rec with
      | none => some { r with exact := tins r.exact i { key := key, res := res } }
      | some b => (fillRec b r).map fun x => { x.2 with exact := tins x.2.exact i { key := key, res := x.1 } }

/-- A replace rewrites the result in place; a group's new record is filled first and the old one returned (R135). -/
def exactReplace (now key res : Nat) (rec : Option (List Byte)) (r : Replica) : Option Replica :=
  match exactFind r key, rec with
  | none, _ => some r
  | some (i, _), none => some { r with exact := tins r.exact i { key := key, res := res } }
  | some (i, e), some b =>
    (fillRec b r).map fun x => waitRec now (e.res % 2 ^ 17) { x.2 with exact := tins x.2.exact i { key := key, res := x.1 } }

def exactDelete (now tk key : Nat) (r : Replica) : Option Replica :=
  match exactFind r key with
  | none => some r
  | some (i, e) =>
    let r1 := { r with exact := tdel r.exact i }
    some (if tk == tkGroup then waitRec now (e.res % 2 ^ 17) r1 else r1)

def findPrefix (r : Replica) (v6 : Bool) (key : Nat) : Option (Nat × PrefixEnt) :=
  (prefixTable r v6).find? fun e => e.2.key == key

def findMac (r : Replica) (key : Nat) : Option (Nat × MacEnt) := r.mac.find? fun e => e.2.key == key

/-- The entry of a MAC key in either replica. -/
def macAny (s : State) (key : Nat) : Option MacEnt :=
  ((findMac s.laurel.r0 key).map (·.2)).or ((findMac s.laurel.r1 key).map (·.2))

def chargeLearn (s : State) (port : Nat) (g : Nat → Nat) : State :=
  { s with laurel := { s.laurel with lrnCount := tmod 0 s.laurel.lrnCount port g } }

/-- A learned entry gives up its charge. -/
def uncharge (s : State) (e : Option MacEnt) : State :=
  match e with
  | some x => if x.static then s else chargeLearn s x.lrnPort (· - 1)
  | none => s

/-- The learned entries with bad parity that a relocation in a half has deleted (R149). -/
def droppedIn (old new : Replica) : List (Nat × MacEnt) := old.mac.filter fun e => macDrop e.2 && (findMac new e.2.key).isNone

/-- Count the parity failures of a relocation; an entry that neither replica holds any more gives up its charge. -/
def settleDropped (s t : State) : State :=
  let gone := fun (u : State) (half : Nat) =>
    (droppedIn (replica s half) (replica t half)).foldl (fun v e =>
      let v1 := parityHits v half [(tkMac, slotIndex tkMac e.1)]
      if (macAny t e.2.key).isNone && (half == 0 || (findMac s.laurel.r0 e.2.key).isNone) then uncharge v1 (some e.2) else v1) u
  gone (gone t 0) 1

def setPrefixTable (r : Replica) (v6 : Bool) (t : Table PrefixEnt) : Replica := if v6 then { r with v6 := t } else { r with v4 := t }

/-- Is a key of an exact-match or hash table present? -/
def keyPresent (s : State) (tk key : Nat) : Bool :=
  match tk with
  | 6 => (findPrefix s.laurel.r0 false key).isSome
  | 7 => (findPrefix s.laurel.r0 true key).isSome
  | 9 => (macAny s key).isSome
  | _ => (exactFind s.laurel.r0 key).isSome

/-- Step 5 of R151. -/
def dependOk (s : State) (tk : Nat) (r : TabRec) : Bool :=
  let i := beNat r.key
  let v := beNat r.res
  match tk with
  | 4 =>
    let old := (tget { val := 0 } s.laurel.r0.dp i).val
    if r.op == 2 && bitAt v 15 then
      !s.laurel.r0.dp.any fun e => e.1 != i && bitAt e.2.val 15 && e.2.val % 2048 == v % 2048
    else !(bitAt old 15 && dimCode s (old % 2048) == 0xE)
  | 8 => !(r.op == 3 && (s.laurel.r0.v4.any (fun e => e.2.nh == i) || s.laurel.r0.v6.any fun e => e.2.nh == i))
  | _ => true

/-- Write or clear a direct entry. -/
def writeDirect (tk : Nat) (r : TabRec) (x : Replica) : Replica :=
  let i := beNat r.key
  let b := r.res
  let v := beNat b
  if r.op == 3 then
    match tk with
    | 4 => { x with dp := tdel x.dp i }
    | 5 => { x with locals := tdel x.locals i }
    | 8 => { x with nh := tdel x.nh i }
    | 10 => { x with vlan := tdel x.vlan i }
    | _ => { x with acl := tdel x.acl i }
  else
    match tk with
    | 4 => { x with dp := tset { val := 0 } x.dp i { val := v } }
    | 5 => { x with locals := tset { val := 0 } x.locals i { val := v } }
    | 8 => { x with nh := tset { act := 0, port := 0, vid := 0, dmac := 0 } x.nh i
                            { act := beAt b 0 1, port := beAt b 2 2, vid := beAt b 4 2, dmac := beAt b 6 6 } }
    | 10 => { x with vlan := tset { members := 0, untag := 0 } x.vlan i
                              { members := mapToNat (b.take 160), untag := mapToNat (b.drop 160) } }
    | _ => { x with acl := tset { bytes := zeroBytes 48 } x.acl i { bytes := b } }

/-- Apply a record whose checks have passed; step 6 is met here. -/
def applyRec (s : State) (tk : Nat) (r : TabRec) : Except Bad State :=
  let key := beNat r.key
  let v := beNat r.res
  let v6 := tk == tkV6
  if isDirect tk then .ok (mapReplicas s (writeDirect tk r))
  else if tk == tkV4 || tk == tkV6 then
    if r.op == 1 then bothReplicas s (prefixSet s v6 key { key := key, len := beAt r.key 2 1, nh := v })
    else if r.op == 2 then
      bothReplicas s fun x => some (setPrefixTable x v6 (tmap (fun _ e => if e.key == key then { e with nh := v, bad := false } else e) (prefixTable x v6)))
    else bothReplicas s fun x => some (setPrefixTable x v6 (tfilter (fun _ e => e.key != key) (prefixTable x v6)))
  else if tk == tkMac then
    let e : MacEnt := { key := key, port := v, static := true }
    let s1 := uncharge s (macAny s key)
    if r.op == 1 then (bothReplicas s (macSet s e)).map (settleDropped s)
    else if r.op == 2 then
      bothReplicas s1 fun x =>
        match findMac x key with
        | some (k, _) => some { x with mac := tins x.mac k e }
        | none => macSet s1 e x
    else bothReplicas s1 fun x => some { x with mac := tfilter (fun _ y => y.key != key) x.mac }
  else
    let rec_ := if tk == tkGroup then some r.res else none
    if r.op == 1 then bothReplicas s (exactInsert tk key v rec_)
    else if r.op == 2 then bothReplicas s (exactReplace s.raw key v rec_)
    else bothReplicas s (exactDelete s.raw tk key)

/-- Check a record through steps 1 and 3 to 6 of R151 and apply it. -/
def loadRec (s : State) (tk i : Nat) (r : TabRec) : Except Bad State := do
  need (decide (1 ≤ r.op) && decide (r.op ≤ 3) && !(isDirect tk && r.op == 1) && keyOk tk r.key &&
    (if r.op == 3 then isZero r.res else resOk s tk r.key r.res)) .badParam 1 i
  need (keyInRange tk r.key && (r.op == 3 || resInRange s tk r.key r.res)) .outOfRange 3 i
  let here := keyPresent s tk (beNat r.key)
  need (isDirect tk || !(r.op == 1 && here)) .conflict 4 i
  need (isDirect tk || r.op == 1 || here) .badParam 4 i
  need (dependOk s tk r) .conflict 5 i
  match applyRec s tk r with
  | .ok t => .ok t
  | .error b => .error { b with index := i }

/-- Check and apply the records in order. -/
def loadRecs (tk : Nat) : Nat → List (List Byte) → State → Except Bad State
  | _, [], s => .ok s
  | i, b :: t, s => do
    let n := tabLens tk
    need (b.length == 4 + n.1 + n.2 && beAt b 2 2 == 4 + n.1 + n.2 && beAt b 1 1 == 0) .badParam 1 i
    let s1 ← loadRec s tk i { op := beAt b 0 1, key := (b.drop 4).take n.1, res := b.drop (4 + n.1) }
    loadRecs tk (i + 1) t s1

/-- LOAD_TABLE (R150 to R153). -/
def execLoadTable (c : Ncp) (s : State) : Res :=
  runCmd s c 0x0301 <| do
    needOwner c
    let dmaLocked := flag s .TDMA_LOCK
    need (!(dmaLocked && beAt c.body 0 1 == 1)) .locked 2
    let img ← readImage c 0 0x4E5A000A 1 dmaLocked
    let tk := beAt img 5 1
    let n := beAt img 8 4
    let w := 4 + (tabLens tk).1 + (tabLens tk).2
    need (beAt img 4 1 == 1 && decide (1 ≤ tk) && decide (tk ≤ 11) && beAt img 6 2 == 0 && beAt img 24 4 == 0 &&
      decide (1 ≤ n) && decide (n ≤ 1048576) && img.length == 32 + n * w) .badParam 1
    need (!bitAt (fld s .TLOCK) (tk - 1)) .locked 2
    let s1 ← loadRecs tk 0 (chunksOf w n (img.drop 32)) s
    return ([], if tk == tkV4 || tk == tkV6 || tk == tkNh then refreshHops s1 else s1)

/-! TABLE_READ -/

/-- What a replica holds under a key, as Table 6.7 lays the result out. -/
def readEntry (r : Replica) (tk : Nat) (k : List Byte) : Option (List Byte) :=
  let key := beNat k
  match tk with
  | 1 | 3 => (exactFind r key).map fun e => beBytes 4 e.2.res
  | 2 => (exactFind r key).map fun e => (tget { bytes := zeroBytes 192 } r.recs (e.2.res % 2 ^ 17)).bytes
  | 4 => some (beBytes 2 (tget { val := 0 } r.dp key).val)
  | 5 => some (beBytes 16 (tget { val := 0 } r.locals key).val)
  | 6 => (findPrefix r false key).map fun e => beBytes 4 e.2.nh
  | 7 => (findPrefix r true key).map fun e => beBytes 4 e.2.nh
  | 8 =>
    let e := tget { act := 0, port := 0, vid := 0, dmac := 0 } r.nh key
    some (beBytes 1 e.act ++ zeroBytes 1 ++ beBytes 2 e.port ++ beBytes 2 e.vid ++ beBytes 6 e.dmac)
  | 9 => (findMac r key).map fun e => beBytes 4 e.2.port
  | 10 =>
    let e := tget { members := 0, untag := 0 } r.vlan key
    let map := fun (m : Nat) => (List.range 160).flatMap fun i =>
      beBytes 1 ((List.range 8).foldl (fun a j => a + bitv (bitAt m (8 * i + j)) (7 - j)) 0)
    some (map e.members ++ map e.untag)
  | _ => some (tget { bytes := zeroBytes 48 } r.acl key).bytes

/-- TABLE_READ (Table 16.5). -/
def execTableRead (c : Ncp) (s : State) : Res :=
  runCmd s c 0x0303 <| do
    needOwner c
    let tk := beAt c.body 0 1; let half := beAt c.body 1 1; let k := c.body.drop 2
    need (decide (2 ≤ c.body.length)) .badParam
    need (decide (1 ≤ tk) && decide (tk ≤ 11) && decide (half ≤ 1)) .badParam
    need (k.length == (tabLens tk).1 && keyOk tk k) .badParam
    need (keyInRange tk k) .outOfRange
    return (match readEntry (replica s half) tk k with
      | some b => beBytes 1 1 ++ b
      | none => zeroBytes (1 + (tabLens tk).2), s)

/-! Learning (R143 to R145) -/

/-- Write a learned entry into a replica: in place, or inserted. -/
def putLearned (s : State) (e : MacEnt) (r : Replica) : Option Replica :=
  match findMac r e.key with
  | some (k, _) => some { r with mac := tins r.mac k e }
  | none => macSet s e r

def writeLearned (s : State) (e : MacEnt) : Option State :=
  match putLearned s e s.laurel.r0, putLearned s e s.laurel.r1 with
  | some a, some b => some (settleDropped s { s with laurel := { s.laurel with r0 := a, r1 := b } })
  | _, _ => none

/-- An excess learn that shows only at the learn engine, whose frame has gone on without waiting (R143, R144). -/
def excessLearn (s : State) (p : Nat) : State := raise s (if fldSel s .LRN_EXCESS p == 1 then .learnFlood else .learnDrop) p

/-- The learn engine settles a request. Log 77 (DEDUCED). -/
def settleLearn (s : State) (q : LearnReq) : State :=
  let e : MacEnt := { key := q.key, port := q.port, static := false, stamp := s.laurel.age, lrnPort := q.port }
  match macAny s q.key with
  | none =>
    if lrnExcess s q.port then excessLearn s q.port
    else
      match writeLearned s e with
      | some t => chargeLearn t q.port (· + 1)
      | none => raise s .learnTableFull q.port
  | some x =>
    if x.static then s
    else if x.port == q.port then (writeLearned s e).getD s
    else if lrnExcess s q.port then excessLearn s q.port
    else
      match writeLearned (chargeLearn s x.lrnPort (· - 1)) e with
      | some t => raise (chargeLearn t q.port (· + 1)) .learnMove q.port
      | none => raise s .learnTableFull q.port

/-- The learn engine takes the next request, in arrival order. -/
def execLearnProcess (s : State) : Res :=
  .next <| match s.laurel.learnQ with
  | [] => s
  | q :: t => settleLearn { s with laurel := { s.laurel with learnQ := t } } q

/-! Ageing (R146) -/

/-- Evict a dynamic entry: from both replicas, its charge released. -/
def evict (s : State) (e : MacEnt) : State :=
  let gone := fun (r : Replica) => { r with mac := tfilter (fun _ x => x.key != e.key) r.mac }
  raise (uncharge (mapReplicas s gone) (some e)) .ageEvict e.lrnPort

/-- The age epoch advances and the scan runs. -/
def execAgePeriod (s : State) : Res :=
  .next <|
    if !elapsed s s.laurel.agedAt (ticksOfS (fld s .AGE_PERIOD_S)) then s
    else
      let a := (s.laurel.age + 1) % 256
      let s1 := { s with laurel := { s.laurel with age := a, agedAt := s.raw } }
      if !flag s .AGE_EN then s1
      else
        let old := fun (e : MacEnt) => !e.static && decide (fld s .AGE_LIMIT ≤ (a + 256 - e.stamp) % 256)
        let hits := (s.laurel.r0.mac.map (·.2)).filter old ++
          ((s.laurel.r1.mac.map (·.2)).filter fun e => old e && (findMac s.laurel.r0 e.key).isNone)
        hits.foldl evict s1

/-! Parity (R149) -/

/-- The place of a slot from its INDEX (Table 6.9). -/
def placeOfIndex (tk i : Nat) : Nat :=
  let n := 2 ^ bucketBits tk * 9
  slotKey (i / n) (i % n / 9) (i % 9)

/-- Make the parity of a word of a replica bad or good: of TKIND 1 and 3 an exact-match entry, of TKIND 2 a group record. -/
def markIn (b : Bool) (tk i : Nat) (r : Replica) : Replica :=
  let k := placeOfIndex tk i
  match tk with
  | 1 | 3 => { r with exact := tadj r.exact i fun e => { e with bad := b } }
  | 2 => { r with recs := tadj r.recs i fun e => { e with bad := b } }
  | 4 => { r with dp := tadj r.dp i fun e => { e with bad := b } }
  | 5 => { r with locals := tadj r.locals i fun e => { e with bad := b } }
  | 6 => { r with v4 := tadj r.v4 k fun e => { e with bad := b } }
  | 7 => { r with v6 := tadj r.v6 k fun e => { e with bad := b } }
  | 8 => { r with nh := tadj r.nh i fun e => { e with bad := b } }
  | 9 => { r with mac := tadj r.mac k fun e => { e with bad := b } }
  | 10 => { r with vlan := tadj r.vlan i fun e => { e with bad := b } }
  | _ => { r with acl := tadj r.acl i fun e => { e with bad := b } }

/-- Rewrite an entry of a replica whose parity is bad from the master copy; a learned key is deleted. An INDEX of TKIND 2 may be a
group's entry or its record: both are rewritten. Log 78 (DEDUCED). -/
def repairIn (tk i : Nat) (r0 : Replica) : Replica :=
  let k := placeOfIndex tk i
  let r := if tk == 2 then markIn false 1 i r0 else r0
  markIn false tk i (if tk == 9 then { r with mac := tfilter (fun j e => !(j == k && macDrop e)) r.mac } else r)

/-- Heath mends an entry with bad parity: a loaded one is rewritten, a learned one deleted. Its charge goes when the
other replica does not hold it either. -/
def execParityRepair (half tkind index : Nat) (s : State) : Res :=
  atUnit half 2 <|
    let lost := if tkind == tkMac then (tfind (replica s half).mac (placeOfIndex tkMac index)).filter macDrop else none
    let s1 := { s with laurel := if half == 0 then { s.laurel with r0 := repairIn tkind index s.laurel.r0 }
                                 else { s.laurel with r1 := repairIn tkind index s.laurel.r1 } }
    match lost with
    | some e => if (macAny s1 e.key).isNone then uncharge s1 (some e) else s1
    | none => s1

/-- A group record returns to the spares 1 µs after its group let it go (R135). -/
def execGroupRecordReturn (record : Nat) (s : State) : Res :=
  .next <| mapReplicas s fun r =>
    match tfind r.recWait record with
    | some t => if elapsed s t (ticksOfUs 1) then { r with recWait := tdel r.recWait record } else r
    | none => r

end Sys2Proof.Machine
end

