-- ==== Sys2Proof/Machine/KaoRows.lean ====
section
/-!
DEFINITION. Machine/KaoRows.lean: the commands and events of Kaolin: program images (R188), shadow runs (R191) and the
timeout of a weighted combine (R185).
-/

namespace Sys2Proof.Machine

open Sys2Proof

/-- Admitted operations that name a user program (R188). -/
def progUsers (s : State) (n : Nat) : Nat := tcount (fun _ (c : Coll) => beAt c.desc 5 1 == n) s.tilth.colls

/-- The instructions of a program image. -/
def kprogInstrs (img : List Byte) : List Nat := (List.range (beAt img 6 2)).map fun i => beAt img (32 + 8 * i) 8

/-- Step 1 of R188 beyond the common header. -/
def kprogEncodingOk (img : List Byte) : Bool :=
  let n := beAt img 6 2
  beAt img 4 1 == 1 && decide (1 ≤ n) && decide (n ≤ 64) && img.length == 32 + 8 * n && beAt img 8 4 == 0 && beAt img 24 4 == 0 &&
    (kprogInstrs img).all fun x => decide (1 ≤ bitsOf x 63 56) && decide (bitsOf x 63 56 ≤ 12) && bitsOf x 46 32 == 0

/-- `LOAD_KPROG` (R188). -/
def loadKprog (s : State) (c : Ncp) : Except Bad (List Byte × State) := do
  needOwner c
  let img ← readImage c 0 0x4E5A0018 1 false
  need (kprogEncodingOk img) .badParam 1
  need (!flag s .PROG_LOCK) .locked 2
  let n := beAt img 5 1
  need (decide (16 ≤ n)) .outOfRange 3
  need (kStructOk [] ((kprogInstrs img).map kInstr)) .badParam 4
  need (progUsers s n == 0) .running 5
  return ([], { s with kao := { s.kao with progs := tins s.kao.progs n { instrs := kprogInstrs img, imgId := beAt img 16 8, image := img } } })

def execLoadKprog (c : Ncp) (s : State) : Res := runCmd s c 0x0507 (loadKprog s c)

/-! Shadow runs -/

/-- The oldest shadow run of an engine whose chunk has had its final read. -/
def readRun (s : State) (k : Nat) : Option ShadowRun := (kEng s k).shadows.find? fun r => r.readAt.isSome

/-- The partner finishes: its lane state is compared with the primary's, bit for bit; a difference is counted, recorded on both
engines and raised to Hawthorn (R191, R192). `differs` is a fault in the partner's own run. Log 98 (DEDUCED). -/
def shadowComplete (s : State) (k : Nat) (differs : Bool) : State :=
  match readRun s k with
  | none => s
  | some r =>
    let s1 := endShadow s k r
    let e := kEng s1 k
    let s2 := setKEng s1 k { e with shadowRuns := (e.shadowRuns + 1) % 2 ^ 32 }
    if !differs && r.lanes == r.primary then s2
    else
      let p := k ^^^ 1
      let e2 := kEng s2 k
      let s3 := setKEng s2 k { e2 with shadowMismatch := satAdd 16 e2.shadowMismatch 1, log := kaoRecord s2 k 2 p r.coll r.chunk }
      let s4 := setKEng s3 p { kEng s3 p with log := kaoRecord s2 p 3 k r.coll r.chunk }
      raise s4 .kaoShadowMismatch k (recStream r.coll r.chunk)

/-- `SHADOW_RUN_COMPLETE`. -/
def execShadowRunComplete (engine : Nat) (differs : Bool) (s : State) : Res := atUnit engine 16 (shadowComplete s engine differs)

/-- A shadow run not finished within SHADOW_TMO_US of its chunk's final read is abandoned (R191). -/
def shadowTimeout (s : State) (k : Nat) : State :=
  match readRun s k with
  | some r =>
    match r.readAt with
    | some t => if elapsed s t (ticksOfUs (fld s .SHADOW_TMO_US)) then skipShadow s k r else s
    | none => s
  | none => s

def execShadowTimeout (engine : Nat) (s : State) : Res := atUnit engine 16 (shadowTimeout s engine)

/-! The combine timeout -/

/-- COMBINE_TMO_US has passed since dispatch without completion (R185, R205). -/
def combineTimeout (s : State) (k : Nat) : State :=
  match tfind s.marl.tokens k with
  | none => s
  | some t =>
    if t.phase != .waiting || !elapsed s t.dispAt (ticksOfUs (fld s .COMBINE_TMO_US)) then s
    else abandonToken (raise s .kaoCombineTmo (combineEngine t) (recTok t)) k .memberTimeout

/-- `COMBINE_TIMEOUT` of an open token. -/
def execCombineTimeout (tok : Nat) (s : State) : Res := .next (combineTimeout s tok)

end Sys2Proof.Machine
end

