-- ==== Sys2Proof/Machine/MarlRows.lean ====
section
/-!
DEFINITION. Machine/MarlRows.lean: the commands and events of Marl: operator images (R196 to R198), stage-0 pieces (R199),
routing and dispatch (R200 to R202), expert outputs (R184, R185, R203), timeouts, and the rewriting of a basis (R209).
-/

namespace Sys2Proof.Machine

open Sys2Proof

/-! Operator images -/

/-- Bytes of the column scales. -/
def mopScaleBytes (sfmt e : Nat) : Nat := if sfmt == 0 then 4 * ceilDiv e 4 else if sfmt == 1 then 4 * e else 0

def mopWeightBytes (wfmt h e : Nat) : Nat := h * e * fmtWidth wfmt / 8

/-- An operator read from its image. -/
def mopOfImage (img : List Byte) : Mop :=
  let m : Mop := { header := img.take 64, biases := [], scales := [], weights := [] }
  let e := mE m
  let nb := if mKind m == 1 then 4 * e else 0
  let sf := beAt img 13 1
  let body := img.drop (64 + nb)
  { m with
    biases := if mKind m == 1 then (List.range e).map fun i => beAt img (64 + 4 * i) 4 else []
    scales := if sf == 0 then (List.range e).map fun i => beAt body i 1
              else if sf == 1 then (List.range e).map fun i => beAt body (4 * i) 4 else []
    weights := ((elemsOf (mWfmt m) (body.drop (mopScaleBytes sf e))).getD []).take (mH m * e) }

def finite32 (x : Nat) : Bool := bitsOf x 30 23 != 255

/-- The fields of a router (Table 9.2). -/
def routerFieldsOk (m : Mop) : Bool :=
  let b := m.header
  decide (2 ≤ mE m) && beAt b 12 1 / 16 == 0 && decide (1 ≤ mK m) && decide (mK m ≤ 8) && decide (mK m ≤ mE m) &&
    mGate m != 3 && beAt b 19 1 % 16 == 0 && decide (1 ≤ mOfmt m) && decide (mOfmt m ≤ 7) && !bitAt (beAt b 20 1) 3 &&
    decide (mRmode m ≤ 4) && (if mRmode m == 4 then decide (4 ≤ mSrBits m) && decide (mSrBits m ≤ 16) else mSrBits m == 0) &&
    decide (0 < mPieceElems m) && mPieceElems m % 256 == 0 && decide (mH m ≤ 7 * mPieceElems m) &&
    finite32 (mGateScale m) && decide (0 < mGateScale m) && decide (mGateScale m < 2 ^ 31) && decide (1 ≤ mMaxTokens m) &&
    mOutOper m % 8 == 0

/-- Step 1 of R197. -/
def mopEncodingOk (img : List Byte) : Bool :=
  let m := mopOfImage img
  let w := mWfmt m
  let sf := beAt img 13 1
  let nb := if mKind m == 1 then 4 * mE m else 0
  let len := 64 + nb + mopScaleBytes sf (mE m) + mopWeightBytes w (mH m) (mE m)
  let icrc := crc32 (img.take 60 ++ zeroBytes 4 ++ img.drop 64)
  beAt img 0 4 == 0x4E5A0019 && beAt img 4 1 == 1 && decide (1 ≤ mKind m) && decide (mKind m ≤ 3) && beAt img 7 1 / 16 == 0 &&
    (w == 1 || w == 3 || w == 4 || w == 7) && beAt img 8 2 / 4096 == 0 && decide (1 ≤ mPart m) && decide (mPart m ≤ 0xFFE) &&
    decide (sf ≤ 2) && mH m % 256 == 0 && decide (256 ≤ mH m) && decide (mH m ≤ 16384) && decide (1 ≤ mE m) && decide (mE m ≤ 512) &&
    beAt img 42 2 == 0 && beAt img 56 4 == 0 && beAt img 44 4 == img.length && img.length == len && beAt img 60 4 == icrc &&
    (if mKind m == 1 then routerFieldsOk m else beAt img 10 3 == 0 && (bytesAt img 18 24).all (· == 0#8)) &&
    m.biases.all finite32 && (if sf == 1 then m.scales.all finite32 else m.scales.all (· != 0xFF)) &&
    (sf != 0 || (bytesAt img (64 + nb + mE m) (mopScaleBytes 0 (mE m) - mE m)).all (· == 0#8)) &&
    m.weights.all fun x => match valOf w x with | .nan | .inf _ => false | _ => true

/-- Admitted operations that name an operator. Log 95 (DEDUCED). -/
def mopUsers (s : State) (id : Nat) : Nat :=
  tcount (fun _ (c : Coll) => bitAt (beAt c.desc 6 2) 15 && beAt c.desc 7 1 == id) s.tilth.colls

/-- Is an operator in use: open tokens, or an admitted operation that names it (R197)? -/
def mopInUse (s : State) (id : Nat) : Bool :=
  match mopOf s id with
  | some m => decide (0 < tokensOf s id m) || decide (0 < mopUsers s id)
  | none => false

/-- Drop an operator: its pages and its reservation are free. -/
def dropMop (s : State) (id : Nat) : State :=
  match mopOf s id with
  | none => s
  | some m =>
    let s1 := match m.resv with | some r => releaseUnits s r | none => s
    { s1 with marl := { s1.marl with mops := tdel s1.marl.mops id, tiles := s1.marl.tiles.filter fun t => t.mop != id } }

/-- Topsoil cells of one record of a combine window: its state, its accumulators and its output (R177, R203). Log 96 (DEDUCED). -/
def recordCells (m : Mop) : Nat :=
  let outs := (List.range (dataPieces m)).map fun p => cellsFor (32 + pieceLen m p * fmtWidth (mOfmt m) / 8)
  1 + ceilDiv (40 * mH m) 256 + outs.foldl (· + ·) 0 + (if mGateOut m then cellsFor (32 + 8 * mK m) else 0)

/-- Reserve what an operator needs: a combine window or a basis (R203, R206). -/
def reserveMop (s : State) (m : Mop) (bodyLen : Nat) : Option (Option Nat × State) :=
  match mKind m with
  | 1 => (reserveUnits s (mPart m) (mMaxTokens m * recordCells m) 0 .basis 0).map fun r => (some r.1, r.2)
  | 2 => (reserveUnits s (mPart m) 0 (ceilDiv bodyLen 4096) .basis 0).map fun r => (some r.1, r.2)
  | _ => some (none, s)

/-- Put an operator in place in both halves (R198); none when it does not fit. -/
def placeMop (s : State) (id : Nat) (m : Mop) (bodyLen : Nat) : Option State :=
  let s1 := dropMop s id
  match placeAll id (tilePages (mWfmt m)) (tilePlan (mH m) (mE m)) s1.marl, reserveMop s1 m bodyLen with
  | some l, some (resv, s2) =>
    let pages := (l.tiles.filter fun t => t.mop == id).flatMap fun t => t.pages.map (t.array * 128 + ·)
    let tiles := l.tiles.map fun t => if t.mop == id then { t with chk := (tileWeights m t.j).map checkSums } else t
    some (setMop { s2 with marl := { l with tiles := tiles, errs := pages.foldl (fun x k => clearPage k x) l.errs } } id { m with resv := resv })
  | _, _ => none

/-- `LOAD_MOP` (R197). -/
def loadMop (s : State) (c : Ncp) : Except Bad (List Byte × State) := do
  let p ← needTenant s c
  let img ← match imgSource c 0 (flag s .MDMA_LOCK) 16777216 with
    | .ok i => pure i
    | .error .locked => failWith .locked 2
    | .error e => failWith e 1
  let m := mopOfImage img
  let id := beAt img 6 1
  need (mPart m == p) .notAuthorised
  need (mopEncodingOk img) .badParam 1
  need (!flag s .MW_LOCK) .locked 2
  need (match mopOf s id with | some o => mPart o == p | none => true) .notAuthorised
  need (mKind m != 1 || (match routerOf s p (mLayer m) (mRop m) with | some r => r.1 == id | none => true)) .conflict 3
  need (!mopInUse s id) .running 4
  match placeMop s id m (img.length - 64) with
  | some t => return ([], extendMeas8 t p [img])
  | none => failWith .noResource 5

def execLoadMop (c : Ncp) (s : State) : Res := runCmd s c 0x0508 (loadMop s c)

/-- `DROP_MOP` (R197): an operator of the tenant's own partition; one that is not loaded is dropped already. -/
def execDropMop (c : Ncp) (s : State) : Res :=
  runCmd s c 0x0509 <| do
    let p ← needTenant s c
    needLen c 1
    let id := beAt c.body 0 1
    need (match mopOf s id with | some o => mPart o == p | none => true) .notAuthorised
    need (!flag s .MW_LOCK) .locked
    need (!mopInUse s id) .running
    return ([], dropMop s id)

/-! Stage-0 pieces -/

/-- A piece reaches Marl (Table 9.3, R199, R209); while a group of its router sleeps it starts the wake and waits in its cells (R27,
R178). Log 94 (DEDUCED). -/
def tokenPiece (s : State) (fid : Nat) : State :=
  match takeHeld s fid 4 with
  | none => s
  | some (f, s0) =>
    let h := f.ffh
    let rop := bitsOf h.oper 15 12
    let p := h.oper % 8
    match routerOf s0 h.part h.layer rop with
    | none => raise (dropHeld s0 fid) .marlNoOp (opScope 0 f.inHalf) (recFrame h)
    | some (id, m) =>
      if !mopAwake s id f.inHalf (isSplit m) then wakeMop s id f.inHalf (isSplit m)
      else
      let sc := opScope id f.inHalf
      let r := readFrame (wakeMop s0 id f.inHalf (isSplit m)) fid
      let found := tokenOf r.2 h.part h.src h.collId h.chunk h.layer rop
      let k := match found with | some e => e.1 | none => r.2.marl.nextTok
      let t := match found with
        | some e => e.2
        | none => { part := h.part, src := h.src, collId := h.collId, chunk := h.chunk, layer := h.layer, rop := rop, mop := id
                    half := f.inHalf, tc := h.tc, firstAt := s.raw }
      let s1 := match found with
        | some _ => r.2
        | none => setTok { r.2 with marl := { r.2.marl with nextTok := k + 1 } } k t
      if !r.1 then abandonToken s1 k .internal
      else if m.failed then abandonToken (releaseRef s1 fid) k .internal
      else
        let shape := fun (u : State) => abandonToken (raise (releaseRef u fid) .marlShape sc (recFrame h)) k .badParam
        if h.fmt == 0 || decide (7 < h.fmt) then shape s1
        else
          match parsePayload h.fmt h.scl f.data with
          | .error x => abandonToken (countPayFault (releaseRef s1 fid) (16 + firstArray s1 id f.inHalf (isSplit m)) x (recFrame h)) k .badParam
          | .ok d =>
            if decide (dataPieces m ≤ p) || d.elems.length != pieceLen m p then shape s1
            else if t.phase != .assembling || t.pieces.any (·.1 == p) then raise (releaseRef s1 fid) .marlDupPiece sc (recFrame h)
            else
              let ps := t.pieces ++ [(p, fid)]
              setTok s1 k { t with pieces := ps, phase := if ps.length == dataPieces m then .whole else .assembling }

def execTokenPieceArrival (fid : Nat) (s : State) : Res := .next (tokenPiece s fid)

/-- ASM_TMO_US after its first piece a token is incomplete (Table 9.3). -/
def assemblyTimeout (s : State) (k : Nat) : State :=
  match tfind s.marl.tokens k with
  | none => s
  | some t =>
    if t.phase != .assembling || !elapsed s t.firstAt (ticksOfUs (fld s .ASM_TMO_US)) then s
    else abandonToken (raise s .marlAsmTmo (opScope t.mop t.half) (recTok t)) k .memberTimeout

def execAssemblyTimeout (tok : Nat) (s : State) : Res := .next (assemblyTimeout s tok)

/-! Routing and dispatch -/

/-- The elements of a whole token, in order: x̂ of R200. -/
def tokenElems (s : State) (m : Mop) (t : Token) : List Val :=
  (List.range (dataPieces m)).flatMap fun p =>
    match (t.pieces.find? (·.1 == p)).bind fun e => frameOf s e.2 with
    | some f => match parsePayload f.ffh.fmt f.ffh.scl f.data with | .ok d => d.scaledVals | .error _ => []
    | none => []

/-- The logits of a token (R200). -/
def tokenLogits (m : Mop) (xs : List Val) : List Nat := (List.range (mE m)).map fun e => enc32 (columnVal m xs e)

/-- The copies of a token toward one expert (R202). -/
def sendCopies (s : State) (t : Token) (j : Nat) : State :=
  t.pieces.foldl (fun u p =>
    match frameOf u p.2 with
    | none => u
    | some f =>
      sendShared u t.half p.2 { f.ffh with dst := t.eps.getD j 0, oper := t.rop * 4096 + t.exps.getD j 0 * 8 + p.1
                                           tc := 5, hops := 0 }) s

/-- Dispatch: the placements are read, the fence table is checked, the record is written, the copies are sent
(R202, R203, Table 9.5). -/
def dispatch (s : State) (k : Nat) (m : Mop) (t : Token) (slots : List (Nat × Nat)) (ws : List Nat) : State :=
  let port := match (t.pieces.head?).bind fun p => frameOf s p.2 with | some f => f.inPort | none => 0
  let rep := replica s t.half
  let looks := slots.map fun x => exactLook rep tkExpert (expertKey t.part t.layer (t.rop * 4096) x.1)
  let s1 := parityHits s t.half (looks.flatMap (·.bads))
  let js := List.range slots.length
  let missed := js.filter fun j => match looks[j]? with | some l => l.hit.isNone | none => true
  let s2 := raiseN s1 .expertMiss (if port < nPorts then port else 0) missed.length (recTok t)
  if !missed.isEmpty && !mExclude m then abandonToken s2 k .badParam
  else
    let eps := looks.map fun l => l.hit.getD 0
    let fenced := js.filter fun j => !missed.contains j && epFenced s2 t.half (eps.getD j 0)
    let s3 := raiseN s2 .marlExpFenced (opScope t.mop t.half) fenced.length (recTok t)
    if !fenced.isEmpty && !mExclude m then abandonToken s3 k .peerFenced
    else
      let t1 : Token := { t with
        phase := .waiting, dispAt := s.raw, dispTime := now32 s, missed := missed
        expect := ((js.filter fun j => !missed.contains j && !fenced.contains j).map (2 ^ ·)).foldl (· + ·) 0
        excluded := ((missed ++ fenced).map (2 ^ ·)).foldl (· + ·) 0
        exps := slots.map (·.1), eps := eps, ws := ws }
      let s4 := (onesOf 8 t1.expect).foldl (fun u j => sendCopies u t1 j) s3
      let s5 := t1.pieces.foldl (fun u p => releaseRef u p.2) s4
      settleToken (setTok s5 k { t1 with pieces := [] }) k

/-- A whole token is routed: weights read, row check, logits, slots, gate weights, dispatch (R200 to R202, R208, R209); it waits
while a group of its router sleeps (R27). -/
def routeToken (s : State) (k : Nat) (rowBad : Option Nat) (colBad : List Nat) : State :=
  match tfind s.marl.tokens k with
  | none => s
  | some t =>
    if t.phase != .whole then s
    else
      let split := match mopOf s t.mop with | some m => isSplit m | none => false
      if !mopAwake s t.mop t.half split then wakeMop s t.mop t.half split
      else
      let s1 := readWeights s t.mop t.half t.collId t.chunk
      match mopOf s1 t.mop with
      | none => s1
      | some m =>
        if m.failed then abandonToken s1 k .internal
        else
          let xs := tokenElems s1 m t
          let ch := checkRows s1 t.mop t.half t.collId t.chunk m [xs] rowBad colBad
          let s2 := ch.2
          match ch.1 with
          | some a => abandonToken (rowFails s2 a t.mop t.collId t.chunk) k .internal
          | none =>
            let zs := tokenLogits m xs
            if zs.any fun z => !finite32 z then abandonToken (raise s2 .marlNonfinite (opScope t.mop t.half) (recTok t)) k .outOfRange
            else
              let slots := topK zs (mK m)
              let ws := fillFree (gateWeights m zs slots) (setMop s2 t.mop { m with routed := (m.routed + 1) % 2 ^ 64 })
              dispatch ws.2 k m t slots ws.1

/-- `TOKEN_ROUTED` of a token whose pieces are all in. `rowBad` and `colBad` name arrays with a fault. -/
def execTokenRouted (tok : Nat) (rowBad : Option Nat) (colBad : List Nat) (s : State) : Res := .next (routeToken s tok rowBad colBad)

/-! Expert outputs -/

/-- A piece of a slot enters the lanes of its token, and the partner's if the token is marked (R184, R191). -/
def addExpert (s : State) (k : Nat) (m : Mop) (t : Token) (j p fid : Nat) (d : Tensor) : Token × State :=
  let en := combineEngine t
  let st := tokStream k t
  let adds := d.addends [dec32 (t.ws.getD j 0)]
  let t1 := { t with got := t.got ++ [(j, p)], sums := tset {} t.sums j ((tget {} t.sums j).add (mH m) (p * mPieceElems m) adds) }
  let opening := t.got.isEmpty
  let s1 := touchChunk (if opening then (openOnEngine s en st t.chunk []).2 else s) en st t.chunk (mH m) opening
  let partner := fun (ls : List Lane) =>
    let old : SlotSum := { accs := ls.map fun l => match l with | .acc a => a | _ => {} }
    (old.add (mH m) (p * mPieceElems m) adds).accs.map Lane.acc
  (t1, releaseInputs (shadowAdd (noteAdds (setTok s1 k t1) en d.elems.length) en st t.chunk partner) en st t.chunk [fid])

/-- An `EXPERT_OUT` piece is matched to its record and added (R184, R185, R203); while the token's engine sleeps it starts the wake and
waits in its cells (R178). -/
def expertOut (s : State) (fid : Nat) (fault : Bool) : State :=
  match takeHeld s fid 5 with
  | none => s
  | some (f, s0) =>
    let h := f.ffh
    let late := fun (u : State) => raise (dropHeld u fid) .kaoCombineLate (8 * f.inHalf + h.chunk % 8) (recFrame h)
    match tokenOf s0 h.part h.dst h.collId h.chunk h.layer (bitsOf h.oper 15 12) with
    | none => late s0
    | some (k, t) =>
      match mopOf s0 t.mop, (onesOf 8 t.expect).find? fun j => t.exps.getD j 0 == bitsOf h.oper 11 3 with
      | some m, some j =>
        let en := combineEngine t
        if t.phase != .waiting then late s0
        else if !engineAwake s en then wakeDomain s (327 + en)
        else
          let p := h.oper % 8
          let r := readFrame s0 fid
          if !r.1 then r.2
          else
            let bad := fun (x : PayFault) => countPayFault (releaseRef r.2 fid) en x (recFrame h)
            if h.fmt == 0 || decide (7 < h.fmt) then bad .rows
            else
              match parsePayload h.fmt h.scl f.data with
              | .error x => bad x
              | .ok d =>
                if decide (dataPieces m ≤ p) || d.elems.length != pieceLen m p then bad .rows
                else if t.got.contains (j, p) then raise (releaseRef r.2 fid) .kaoCombineDup en (recFrame h)
                else
                  let a := addExpert r.2 k m t j p fid d
                  if combineReady m a.1 then finishCombine a.2 k m a.1 fault else a.2
      | _, _ => late s0

/-- `EXPERT_OUT_ARRIVAL`. `fault` says whether a fault falsifies the sum that the last piece completes. -/
def execExpertOutArrival (fid : Nat) (fault : Bool) (s : State) : Res := .next (expertOut s fid fault)

/-! Bases -/

/-- A tile of a basis that lies on a retired page is written anew to free pages from its Subsoil copy (R209).
Log 93 (DESIGN CHOICE). -/
def rewriteBasis (s : State) (a p : Nat) : State :=
  let isTile := fun (t : Tile) => t.array == a && t.pages.contains p && s.marl.retired.contains (a * 128 + p) &&
    (match mopOf s t.mop with | some m => mKind m == 2 | none => false)
  match s.marl.tiles.find? isTile with
  | none => s
  | some t =>
    let rest := { s.marl with tiles := s.marl.tiles.filter (· != t) }
    let n := t.pages.length
    match roomiest rest (a / 64) n fun _ => true with
    | none => s
    | some b =>
      let pages := (freePages rest b).take n
      { s with marl := { s.marl with
        tiles := s.marl.tiles.map fun x => if x == t then { t with array := b, pages := pages } else x
        errs := pages.foldl (fun x q => clearPage (b * 128 + q) x) s.marl.errs } }

/-- `BASIS_REWRITE_DONE` of a retired page of an array. -/
def execBasisRewriteDone (array page : Nat) (s : State) : Res := atUnit array 128 (rewriteBasis s array page)

end Sys2Proof.Machine
end

