-- ==== Sys2Proof/Machine/TilthRows.lean ====
section
/-!
DEFINITION. Machine/TilthRows.lean: the commands and events of Tilth: lists (R211, R212), queues (R215, R216), templates
(R217), contributions and chunks (R223, R224), control frames (Table 10.8), broadcast and repair (R230 to R232).
-/

namespace Sys2Proof.Machine

open Sys2Proof

/-! Lists (R212) -/

/-- The entries of a member list. -/
def listMembers (img : List Byte) : List Nat := (List.range (beAt img 24 4)).map fun i => beAt img (32 + 4 * i) 4

/-- The nodes of a spine list. -/
def listNodes (img : List Byte) : List TNode :=
  (List.range (beAt img 24 4)).map fun i =>
    { spine := beAt img (32 + 8 * i) 2, parent := beAt img (34 + 8 * i) 2, alt1 := beAt img (36 + 8 * i) 2, alt2 := beAt img (38 + 8 * i) 2 }

/-- Step 1 of R212 for the header. -/
def listHeadOk (img : List Byte) : Bool :=
  let kind := beAt img 5 1
  let n := beAt img 24 4
  beAt img 4 1 == 1 && (kind == 1 || kind == 2) && beAt img 6 2 != 0xFFFF && beAt img 8 2 / 4096 == 0 && decide (1 ≤ n) &&
    decide (n ≤ if kind == 1 then 131072 else 16384) && img.length == 32 + (if kind == 1 then 4 else 8) * n

/-- Is an address one a member may have (R42, R212)? -/
def memberOk (s : State) (a : Nat) : Bool := addrPlane a == selfPlane s && bitsOf a 14 0 != 0 && !addrReserved a

/-- Is a node encoded well: a node index or none, and only node 0 without a parent? -/
def nodeOk (n i : Nat) (x : TNode) : Bool :=
  let idx := fun (v : Nat) => v == noNode || decide (v < n)
  x.spine / 2 ^ 14 == 0 && idx x.parent && idx x.alt1 && idx x.alt2 && ((i == 0) == (x.parent == noNode))

/-- The chain of parents of a node reaches node 0. -/
def reachesRoot (l : TList) : Nat → Nat → Bool
  | 0, _ => false
  | n + 1, i => i == 0 || (l.parentOf i != noNode && reachesRoot l n (l.parentOf i))

/-- Is `a` the node, or below it? -/
def belowNode (l : TList) (i : Nat) : Nat → Nat → Bool
  | 0, _ => false
  | n + 1, a => a == i || (a != 0 && belowNode l i n (l.parentOf a))

/-- Step 3 of R212. -/
def listShapeOk (l : TList) : Bool :=
  let n := l.nodes.length
  !hasDup l.members && !hasDup (l.nodes.map (·.spine)) &&
    (List.range n).all fun i =>
      reachesRoot l (n + 1) i &&
        match l.nodes[i]? with
        | none => true
        | some x => [x.alt1, x.alt2].all fun a => a == noNode || (a != x.parent && !belowNode l i (n + 1) a)

/-- Entries that the lists of the spine hold, one list left out. -/
def listEntries (s : State) (but : Nat) (count : TList → Nat) : Nat :=
  ((s.tilth.lists.filter fun e => e.1 != but).map fun e => count e.2).foldl (· + ·) 0

/-- `LOAD_LIST` (R212). -/
def loadList (s : State) (c : Ncp) : Except Bad (List Byte × State) := do
  let p ← needTenant s c
  let img ← readImage c 0 0x4E5A001A 1 false
  need (beAt img 8 2 % 4096 == p) .notAuthorised
  need (listHeadOk img) .badParam 1
  let isM := beAt img 5 1 == 1
  let l : TList := { lver := beAt img 10 2, imgId := beAt img 16 8, members := if isM then listMembers img else []
                     nodes := if isM then [] else listNodes img }
  need (l.members.all (memberOk s)) .badParam 1
  eachOk (fun i x => do need (nodeOk l.nodes.length i x) .badParam 1 i; need (decide (x.spine < 2 ^ dimsN s)) .outOfRange 1 i) 0 l.nodes
  need (!flag s .LIST_LOCK) .locked 2
  need (listShapeOk l) .conflict 3
  let id := beAt img 6 2
  let key := p * 65536 + id
  need (!(s.tilth.colls.any fun e => e.2.part == p && (dMlist e.2.desc == id || dSlist e.2.desc == id))) .running 4
  need (decide (listEntries s key (·.members.length) + l.members.length ≤ 2097152) &&
    decide (listEntries s key (·.nodes.length) + l.nodes.length ≤ 262144)) .noResource 5
  return ([], extendMeas8 { s with tilth := { s.tilth with lists := tins s.tilth.lists key l } } p [img])

def execLoadList (c : Ncp) (s : State) : Res := runCmd s c 0x0501 (loadList s c)

/-! Queues (R215) -/

def setQueueT (s : State) (q : Nat) (x : TQueue) : State := { s with tilth := { s.tilth with queues := tins s.tilth.queues q x } }

/-- The queue a tenant's command names, when it is open and the tenant's own. -/
def ownQueue (s : State) (p q : Nat) : Except Bad TQueue := do
  need (decide (q < 128)) .badParam
  match tfind s.tilth.queues q with
  | some x => if x.part == p then return x else failWith .notAuthorised
  | none => failWith .badParam

/-- `QUEUE_OPEN`. -/
def execQueueOpen (c : Ncp) (s : State) : Res :=
  runCmd s c 0x0502 <| do
    let p ← needTenant s c
    needLen c 1
    let q := beAt c.body 0 1
    need (decide (q < 128)) .badParam
    need (tfind s.tilth.queues q).isNone .running
    return ([], setQueueT s q { part := p })

/-- The checks of a posted descriptor (R215). -/
def postOk (s : State) (p i : Nat) (d : Desc) : Except Bad Unit := do
  need (dPart d == p) .notAuthorised 0 i
  need (descOk s d) .badParam 0 i
  need (!dWaitV d || (match tfind s.tilth.queues (dWaitQ d) with | some y => y.part == p | none => true)) .notAuthorised 0 i

/-- `COLL_POST`: all descriptors or none. -/
def execCollPost (c : Ncp) (s : State) : Res :=
  runCmd s c 0x0503 <| do
    let p ← needTenant s c
    let q := beAt c.body 0 1
    let n := beAt c.body 1 2
    need (c.body.length == 3 + 64 * n && decide (1 ≤ n)) .badParam
    let x ← ownQueue s p q
    let ds := (List.range n).map fun i => bytesAt c.body (3 + 64 * i) 64
    eachOk (postOk s p) 0 ds
    need (decide (x.descs.length + n ≤ 512)) .noResource
    return ([], setQueueT s q { x with descs := x.descs ++ ds })

/-- The queue of a `QUEUE_CTRL` with its action byte, which must be the row's. -/
def ctrlQueue (s : State) (c : Ncp) (action : Nat) : Except Bad (Nat × TQueue) := do
  let p ← needTenant s c
  needLen c 2
  need (beAt c.body 1 1 == action) .badParam
  let x ← ownQueue s p (beAt c.body 0 1)
  return (beAt c.body 0 1, x)

/-- `RESUME`: the head of a stopped queue is tried again. -/
def execQueueResume (c : Ncp) (s : State) : Res :=
  runCmd s c 0x0504 <| do
    let x ← ctrlQueue s c 1
    need x.2.stopped .running
    return ([], setQueueT s x.1 { x.2 with stopped := false })

/-- `SKIP`: the head of a stopped queue is discarded, and the queue goes on. Log 111 (DEDUCED). -/
def execQueueSkip (c : Ncp) (s : State) : Res :=
  runCmd s c 0x0504 <| do
    let x ← ctrlQueue s c 2
    need x.2.stopped .running
    return ([], setQueueT s x.1 { x.2 with descs := x.2.descs.drop 1, stopped := false })

/-- `FLUSH`: every descriptor not yet admitted is discarded. -/
def execQueueFlush (c : Ncp) (s : State) : Res :=
  runCmd s c 0x0504 <| do
    let x ← ctrlQueue s c 3
    need x.2.stopped .running
    return ([], setQueueT s x.1 { x.2 with descs := [] })

/-- `CLOSE`: never while a collective of the queue is admitted. -/
def execQueueClose (c : Ncp) (s : State) : Res :=
  runCmd s c 0x0504 <| do
    let x ← ctrlQueue s c 4
    need (x.2.stopped && !(s.tilth.colls.any fun e => e.2.queue == some x.1)) .running
    return ([], { s with tilth := { s.tilth with queues := tdel s.tilth.queues x.1 } })

/-- The rank that was last most often; a free value where there is none. -/
def slowestRank (s : State) (c : Coll) : Nat × State :=
  match minBy (fun r => 2 ^ 40 - tget 0 c.slowCount r) (c.slowCount.map (·.1)) with
  | some r => (r, s)
  | none => takeFree s (2 ^ 32)

/-- `COLL_STATUS`. The code of its state byte is stated nowhere: a free value. Log 104 (UNVERIFIED). -/
def execCollStatus (c : Ncp) (s : State) : Res :=
  runCmd s c 0x0505 <| do
    let p ← needTenant s c
    needLen c 4
    match collOf s (collKey p (beAt c.body 0 4)) with
    | none => failWith .outOfRange
    | some x =>
      let st := takeFree s 256
      let r := slowestRank st.2 x
      return (beBytes 1 st.1 ++ beBytes 1 (x.failed.getD (qualifier x)) ++ beBytes 2 x.engMask ++ beBytes 4 x.finished.length ++
        beBytes 4 r.1 ++ beBytes 4 (x.lagMax / 1000), r.2)

/-- `LOAD_TEMPLATE` (R217). Log 112 (DEDUCED). -/
def execLoadTemplate (c : Ncp) (s : State) : Res :=
  runCmd s c 0x0506 <| do
    let p ← needTenant s c
    needLen c 68
    let layer := beAt c.body 0 2
    let oper := beAt c.body 2 2
    let d := c.body.drop 4
    need (dPart d == p) .notAuthorised
    need (descStatic d && dColl d == 0 && beAt d 38 6 == 0) .badParam
    need (!flag s .TPL_LOCK) .locked
    need (!(s.tilth.colls.any fun e => e.2.queue.isNone && e.2.part == p && e.2.layer == layer && e.2.oper == oper)) .running
    let rest := s.tilth.templates.filter fun t => !(t.part == p && t.layer == layer && t.oper == oper)
    need (decide (rest.length < 256)) .noResource
    let prog := match tfind s.kao.progs (dProg d) with | some k => [k.image] | none => []
    return ([], extendMeas8 { s with tilth := { s.tilth with
      templates := rest ++ [{ part := p, layer := layer, oper := oper, desc := d }] } } p ([c.body] ++ prog))

/-- `QUEUE_HEAD_ADMIT` of a queue (R216, R218). -/
def execQueueHeadAdmit (queue : Nat) (s : State) : Res := atUnit queue 128 (admitHead s queue)

/-- `ENGINE_PREWAKE`: START − PREWAKE_NS of a collective (R219). -/
def execEnginePrewake (coll : Nat) (s : State) : Res := .next (prewakeColl s coll)

/-! Contributions and chunks -/

/-- `CONTRIB_ARRIVAL`; `rowBad` and `colBad` name the Marl arrays whose checks fail when the piece is projected here. -/
def execContribArrival (fid : Nat) (rowBad : Option Nat) (colBad : List Nat) (s : State) : Res := .next (contribIn s fid rowBad colBad)

/-- `CHUNK_INPUTS_COMPLETE`, with what the checks find. -/
def execChunkInputsComplete (coll chunk : Nat) (residueBad : Bool) (rowBad : Option Nat) (colBad : List Nat) (s : State) : Res :=
  .next (inputsComplete s coll chunk residueBad rowBad colBad)

/-! Control frames (Table 10.8) -/

/-- Take a control frame of a type, with the collective it names; the frame goes when there is none. -/
def takeCtrl (s : State) (fid ctype : Nat) (g : State → StoredFrame → Coll → State) : State :=
  match takeKind s fid 6 with
  | .error s1 => s1
  | .ok (f, s1) =>
    if beAt f.data 0 1 != ctype then s
    else
      match collOf s1 (collKey f.ffh.part f.ffh.collId) with
      | some c => g s1 f c
      | none => s1

/-- `ARRIVE` of a member at node 0. -/
def execArriveReceived (fid : Nat) (s : State) : Res :=
  .next (takeCtrl s fid 1 fun t f c => arriveIn t c.key (beAt f.data 4 4))

/-- `NODE_DONE` at the coordinator (R225). -/
def nodeDoneIn (s : State) (f : StoredFrame) (c : Coll) : State :=
  let l := treeOf s c
  let i := beAt f.data 4 4
  if myNode s l != coordOf s l || (coordOf s l).isNone || l.nodes.length ≤ i then s
  else tryComplete (setColl s { c with nodeDone := tins c.nodeDone i (beAt f.data 1 1) }) c.key

def execNodeDoneReceived (fid : Nat) (s : State) : Res := .next (takeCtrl s fid 2 nodeDoneIn)

/-- `END` from the coordinator: the collective ends here with success (R225, R216). -/
def execEndReceived (fid : Nat) (s : State) : Res := .next (takeCtrl s fid 4 fun t _ c => endColl t c (qualifier c))

/-- `ABORT`: the coordinator tells all, another node ends (R226). A list of several frames is whole with the last of them (Table 10.7);
the collective has failed from the first. -/
def abortIn (s : State) (f : StoredFrame) (c : Coll) : State :=
  let l := treeOf s c
  let b := f.data
  let st := beAt b 1 1
  let ranks := c.abortRanks ++ (List.range (beAt b 12 2)).map fun i => beAt b (16 + 4 * i) 4
  if !f.ffh.last then setColl s { c with failed := some st, abortRanks := ranks }
  else if (coordOf s l).isSome && myNode s l == coordOf s l then
    announceFail s c st (beAt b 2 1 / 16) (beAt b 4 4) (beAt b 8 4) ranks
  else endColl s c st

def execAbortReceived (fid : Nat) (s : State) : Res := .next (takeCtrl s fid 5 abortIn)

/-- `COLL_DEADLINE`: START + TMO_US of a collective. -/
def execCollDeadline (coll : Nat) (s : State) : Res := .next (collDeadline s coll)

/-! Broadcast -/

def execBcastChunkArrival (fid : Nat) (s : State) : Res := .next (bcastIn s fid)

/-- `BC_ACK` of a child (R230). -/
def bcAckIn (s : State) (f : StoredFrame) (c : Coll) : State :=
  match kidOf s c f.ffh.src with
  | some k => checkDone (setColl s { c with kids := tins c.kids k (ackOf f.data) }) c.key
  | none => s

def execBcAckReceived (fid : Nat) (s : State) : Res := .next (takeCtrl s fid 7 bcAckIn)

/-- `BC_RESEND` of a broadcast (R230). -/
def execBcResend (coll : Nat) (s : State) : Res := .next (bcResendAll s coll)

/-- `DIGEST` (R231): kept, forwarded to the children, compared once the cache is whole. -/
def digestIn (s : State) (f : StoredFrame) (c : Coll) : State :=
  if dOpc c.desc != 4 || c.digest.isSome || c.failed.isSome then s
  else
    let ws := (List.range 12).map fun i => beAt f.data (16 + 4 * i) 4
    let c1 := { c with digest := some ws }
    let s1 := c.kids.foldl (fun u e => sendDigest u c.key e.1 ws false) (setColl s c1)
    verifyDigest (ackParent s1 c1) c.key

def execDigestReceived (fid : Nat) (s : State) : Res := .next (takeCtrl s fid 10 digestIn)

/-- `REPAIR_REQ` of an orphan (R232): adopted as the last child, and served from the cache. -/
def repairReq (s : State) (f : StoredFrame) (c : Coll) : State :=
  let l := treeOf s c
  let j := beAt f.data 4 4 % 65536
  match myNode s l with
  | none => s
  | some me =>
    if c.failed.isSome || l.nodes.length ≤ j then s
    else
      let bc := dOpc c.desc == 4
      let a := ackOf f.data
      let c1 := { c with repaired := true, reordered := c.reordered || dOrdered c.desc
                         kids := if bc then tins c.kids (nodeKey j) a else c.kids }
      let s1 := adopt (setColl s c1) c j me
      let s2 := raise (sendCtrl s1 c1 (spineAddr s1 (nodeSpine l j)) 9 0 0 me noArg []) .bcAdopt c.half (recColl c.part c.id 0 c.layer c.oper)
      if !bc then tryRestart s2 c.key
      else
        let lacks := fun (n : Nat) =>
          decide (a.base ≤ n) && !(decide (n < a.base + 256) && bitAt (a.bitmap.getD ((n - a.base) / 32) 0) ((n - a.base) % 32))
        let s3 := ((List.range (vecChunks c.desc)).filter fun n => lacks n && c.finished.contains n).foldl
          (fun u n => sendCached u c.key (nodeKey j) n false) s2
        match c.digest with
        | some ws => if a.digest then s3 else sendDigest s3 c.key (nodeKey j) ws false
        | none => s3

def execRepairReqReceived (fid : Nat) (s : State) : Res := .next (takeCtrl s fid 8 repairReq)

/-- `ADOPT` from the alternate asked (R232). -/
def adoptIn (s : State) (f : StoredFrame) (c : Coll) : State :=
  match c.orphan, myNode s (treeOf s c) with
  | some o, some me =>
    if beAt f.data 4 4 != o.alt then s
    else adopt (setColl s { c with orphan := none, repaired := true, reordered := c.reordered || dOrdered c.desc }) c me o.alt
  | _, _ => s

def execAdoptReceived (fid : Nat) (s : State) : Res := .next (takeCtrl s fid 9 adoptIn)

/-- No ADOPT within BC_REPAIR_TMO_US: the next alternate, or none (R232). At the coordinator the time of all alternates may be over
(R228). -/
def adoptTimeout (s : State) (k : Nat) : State :=
  match collOf s k with
  | none => s
  | some c =>
    match c.orphan with
    | none => tryRestart s k
    | some o =>
      if !elapsed s o.since (ticksOfUs (fld s .BC_REPAIR_TMO_US)) then s
      else
        let l := treeOf s c
        seekParent s k (match myNode s l with | some me => laterAlternates s l me o.alt | none => [])

def execAdoptTimeout (coll : Nat) (s : State) : Res := .next (adoptTimeout s coll)

end Sys2Proof.Machine
end

