-- ==== Sys2Proof/Machine/ArrivalRows.lean ====
section
/-!
DEFINITION. Machine/ArrivalRows.lean: frames and datagrams from the wire (R17, R31 to R53, R237, R342) and the moments at
which a port sends (R82, R98, R416).
-/

namespace Sys2Proof.Machine

open Sys2Proof

/-! The spine's units at ingress -/

/-- The value of an LLDP TLV of a type (R315). Log 82 (PRESUMED). -/
def lldpTlv (kind : Nat) : Nat → List Byte → Option (List Byte)
  | 0, _ => none
  | fuel + 1, b =>
    let w := beAt b 0 2
    if b.length < 2 || w / 512 == 0 then none
    else if w / 512 == kind then some (bytesAt b 2 (w % 512))
    else lldpTlv kind fuel (b.drop (2 + w % 512))

/-- The identity that an LLDP frame gives: the low 32 bits of a chassis ID of MAC subtype, and the CRC-32 of the port ID
value (R315). -/
def lldpId (b : List Byte) : Option (Nat × Nat) :=
  let t := b.drop (ethParse b).l3
  match lldpTlv 1 8 t, lldpTlv 2 8 t with
  | some c, some q => if beAt c 0 1 == 4 && c.length == 7 then some (beAt c 3 4, crc32 (q.drop 1)) else none
  | _, _ => none

/-- Hawthorn takes the identity of an Ethernet peer (R316). -/
def lldpIn (s : State) (p : Nat) (b : List Byte) : State :=
  match lldpId b with
  | none => s
  | some x =>
    let i := idOf s p
    if i.lldp == some x then s else judgePort (setId s p { i with lldp := some x }) p

/-- What the units say of a frame they take: Marl of tokens, Tilth of contributions and messages; the others take theirs.
Log 57 (DEDUCED). -/
def unitJudge (s : State) (f : StoredFrame) : Verdict × State :=
  match f.ffh.kind with
  | 4 => tokenJudge s f
  | 1 | 3 | 6 => tilthJudge s f
  | _ => (.accept, s)

/-- An all-to-all contribution to an endpoint of this spine passes Tilth (R222). -/
def unitNote (s : State) (f : StoredFrame) : State :=
  if f.ffh.kind == 1 && !f.ffh.mc && addrSpine f.ffh.dst == selfSpine s && addrDown f.ffh.dst != 0 then a2aNote s f else s

def spineUnits : Units :=
  { intercepts := fun s _ h => tilthIntercepts s h, judge := unitJudge, passes := tilthPasses, note := unitNote, lldp := lldpIn }

/-! Arrivals -/

/-- The link front of a port writes its first cell: its pipeline wakes (R27). Log 56 (DESIGN CHOICE). -/
def frontWakes (s : State) (p : Nat) : State := wakeDomain s (pipeDomain p)

/-- Decryption of a frame on a fabric-mode port (R341, R342): the state in which it goes on, or the one in which it has been
discarded. -/
def openFrame (s : State) (f : RxFrame) : Except State State :=
  let p := f.port
  if !protOn s p then
    (if f.sealedAs.isNone then .ok s else .error (unreadable s p p (linkHdrParse f.linkHdr)))
  else if (linkKeys s p).rxKey.isNone then
    (if f.sealedAs.isNone && isKexFrame (ffhParse f.ffh) then .ok s else .error (raise s .hollyTagFail p))
  else
    match openRx s p f.sealedAs with
    | (true, s1) => .ok s1
    | (false, s1) => .error (raise s1 .hollyTagFail p)

/-- The payload of a received frame without the padding of a short one, which PLEN tells from it (R33). -/
def unpadded (f : RxFrame) : List Byte :=
  let n := (ffhParse f.ffh).plen
  if f.sealedAs.isNone && f.payload.length == 6 && n < 6 then f.payload.take n else f.payload

/-- A frame on a fenced port: the checks of Table 2.7 judge it, at the latest check 6. Its link is down, so it is neither
acknowledged nor refused there (R241). Log 84 (DEDUCED). -/
def fencedPortRx (s : State) (f : RxFrame) : State :=
  let h := ffhParse f.ffh
  let e := if !hcrcOk f.ffh then Ev.ffhCrcErr else (headerCheck s f.port h (unpadded f).length).getD .ffhFenced
  traceIn (raise s e f.port (recFrame h)) true f.port f.lead h (unpadded f)

/-- A link control block: one that fails its CRC is discarded; its ACK and its event act, SEQ and REPLAY say nothing (R242). -/
def controlRx (s : State) (p : Nat) (f : RxFrame) : State :=
  if portFenced s p || crc16 f.linkHdr != beAt f.payload 0 2 then s
  else settleTc7 (headerRx s p (linkHdrParse f.linkHdr) true) p

/-- A frame on a fabric-mode port (Table 1.5), or, where there is no FFH, a link control block. A frame whose header has taken the
link down is discarded with it (R241). -/
def fabricRx (s : State) (f : RxFrame) : State :=
  let p := f.port
  if 0 < f.badCodewords then raiseN s .fecUeCw p f.badCodewords
  else if f.ffh.isEmpty then controlRx s p f
  else if f.etype != fld s .ETYPE then raise s .frmBadEtype p
  else
    match openFrame s f with
    | .error s1 => s1
    | .ok s1 =>
      if portFenced s p then fencedPortRx s1 f
      else
        let hdr := linkHdrParse f.linkHdr
        let s2 := settleTc7 (headerRx (frontWakes s1 p) p hdr false) p
        if !linkLive s2 p then s2 else frameRx s2 p p hdr f.ffh (unpadded f) false f.lead (fabricWire (unpadded f).length (protOn s p)) spineUnits

/-- Does a frame reach a port: it exists, and its link is up or exchanges keys, or the port has been fenced (R32, R241)? -/
def receives (s : State) (p : Nat) : Bool := !absorbed s p && portMode s p != .disabled && (portCarries s p || portFenced s p)

/-- A frame that carries the Fleornum EtherType, or one on a fabric-mode port. Log 55 (DESIGN CHOICE). Log 84 (DEDUCED). -/
def frameArrival (s : State) (f : RxFrame) : State :=
  let p := f.port
  if !receives s p then s
  else if portMode s p == .fabric then fabricRx s f
  else if 0 < f.badCodewords then raiseN s .fecUeCw p f.badCodewords
  else if f.etype == fld s .ETYPE then raise s .frmBadEtype p else s

def execFrameArrival (f : RxFrame) (s : State) : Res := atPort f.port (frameArrival s f)

/-- An FFH-over-UDP datagram with a good checksum: OPEN makes or resets a virtual link, any other needs one (R50). -/
def datagramRx (s : State) (d : UdpFfh) (x : IpView) : State :=
  if (linkHdrParse d.inner.linkHdr).ekind == .open then
    match openVlink s d x with
    | (some v, s1) => udpRx s1 v d x.ecn spineUnits
    | (none, s1) => raise s1 .udpNoVlink d.port
  else
    match vlinkOf s x.v6 x.src with
    | some (v, _) => settleTc7 (udpRx s v d x.ecn spineUnits) (vlinkBase + v)
    | none => raise s .udpNoVlink d.port

/-- An Ethernet frame past its MACsec: parsed, then a datagram for this spine or a frame to switch (R132). A fenced port
forwards neither (R24). -/
def etherRx (s : State) (f : EthFrame) (dg : IpView → UdpFfh) : State :=
  let p := f.port
  match ethScreen s p f.bytes spineUnits with
  | some t => t
  | none =>
    if portFenced s p then raise s .ffhFenced p
    else
      match ffhUdp s p f.bytes with
      | (some x, s1) => if (dg x).badChecksum then s1 else datagramRx s1 (dg x) x
      | (none, s1) => ethStages s1 p f.lead f.bytes

/-- A frame on an Ethernet-mode port (R51, R344). -/
def etherPortRx (s : State) (f : EthFrame) (dg : IpView → UdpFfh) : State :=
  if 0 < f.badCodewords then raiseN s .fecUeCw f.port f.badCodewords
  else
    match macsecPass s f.port f.macsec with
    | none => raise s .macsecUnprotected f.port
    | some s1 => etherRx (if portFenced s f.port then s1 else frontWakes s1 f.port) f dg

/-- The ones' complement sum of 16-bit words, a last odd byte padded with zero. -/
def onesSum (b : List Byte) : Nat :=
  let n := ((chunksOf 2 ((b.length + 1) / 2) (b ++ zeroBytes 1)).map fun w => beAt w 0 2).foldl (· + ·) 0
  let m := n % 65536 + n / 65536
  m % 65536 + m / 65536

/-- Is the UDP checksum of a datagram of an IP packet bad? A zero one over IPv4 is accepted (R49). -/
def csumBad (x : IpView) (udp : List Byte) : Bool :=
  let w := if x.v6 then 16 else 4
  let sum := onesSum (beBytes w x.src ++ beBytes w x.dst ++ beBytes 2 17 ++ beBytes 2 udp.length ++ udp)
  if beAt udp 6 2 == 0 then x.v6 else sum != 65535

/-- The datagram that an Ethernet frame holds, as long as its UDP header says. -/
def udpOfFrame (f : EthFrame) (x : IpView) : UdpFfh :=
  let udp := (f.bytes.drop x.l4).take (beAt f.bytes (x.l4 + 4) 2)
  let body := udp.drop 8
  { port := f.port, hdr := f.bytes.take (x.l4 + 8), badChecksum := csumBad x udp
    inner := { port := f.port, etype := 0, linkHdr := body.take 8, ffh := (body.drop 8).take 32, payload := body.drop 40
               lead := f.lead } }

/-- An Ethernet frame. On a fabric-mode port its outer EtherType decides (R32): with the Fleornum one it is a fabric-mode frame
(Table 2.2). -/
def ethArrival (s : State) (f : EthFrame) : State :=
  if !receives s f.port then s
  else if portMode s f.port == .fabric then
    fabricRx s { port := f.port, etype := beAt f.bytes 12 2, linkHdr := bytesAt f.bytes 14 8, ffh := bytesAt f.bytes 22 32
                 payload := f.bytes.drop 54, badCodewords := f.badCodewords, lead := f.lead }
  else etherPortRx s f (udpOfFrame f)

def execEthFrameArrival (f : EthFrame) (s : State) : Res := atPort f.port (ethArrival s f)

/-- A datagram as the Ethernet frame around it: sealed parts as ciphertext, padded to 64 bytes with the FCS. -/
def frameOfUdp (d : UdpFfh) : EthFrame :=
  let body := d.inner.ffh ++ d.inner.payload
  let carried := match d.inner.sealedAs with
    | none => body
    | some q => (List.range (body.length + 16)).map (Config.cipherByte q.keyId q.counter)
  let b := d.hdr ++ d.inner.linkHdr ++ carried
  { port := d.port, bytes := b ++ zeroBytes (60 - b.length), macsec := d.macsec, badCodewords := d.inner.badCodewords
    lead := d.inner.lead }

/-- A datagram on an Ethernet-mode port (R48 to R50): for this spine, or an ordinary IP packet (Table 6.5). -/
def datagramArrival (s : State) (d : UdpFfh) : State :=
  if portMode s d.port != .ethernet || !receives s d.port then s else etherPortRx s (frameOfUdp d) fun _ => d

def execUdpDatagramArrival (d : UdpFfh) (s : State) : Res := atPort d.port (datagramArrival s d)

/-- A datagram whose shim carries OPEN (R50, R258). -/
def execVlinkOpen (d : UdpFfh) (s : State) : Res :=
  atPort d.port (if (linkHdrParse d.inner.linkHdr).ekind == .open then datagramArrival s d else s)

/-! Departures -/

/-- TXC reaching 2^47 begins a rekey (R343). -/
def rekeyAtLimit (s : State) (l : Nat) : State :=
  let k := linkKeys s l
  if k.txKey.isSome && !k.exchanging && decide (2 ^ 47 ≤ k.txc) then setKeys s l { k with exchanging := true } else s

/-- The links of a port after it has sent. -/
def afterSending (s : State) (p : Nat) : State := (linksOf s p).foldl rekeyAtLimit s

def execTransmitOpportunity (port : Nat) (s : State) : Res := atPort port (afterSending (transmit s port) port)

def execTc7Departure (port : Nat) (s : State) : Res := atPort port (afterSending (departTc7 s port false) port)

def execSpineTc7Departure (port : Nat) (s : State) : Res :=
  atPort port (afterSending (departTc7 (scheduleOwn s port) port true) port)

end Sys2Proof.Machine
end

