-- ==== Sys2Proof/Machine/PrivetRows.lean ====
section
/-!
DEFINITION. Machine/PrivetRows.lean: the commands and events of Privet and Hedgerow (R260 to R286).
-/

namespace Sys2Proof.Machine

open Sys2Proof

/-! Rings (R264 to R267) -/

/-- Does a sweep of a ring cross a lane in use (R265)? -/
def sweepCrosses (s : State) (r : Nat) : Bool :=
  (fibreLanes (ringEngine r) (ringFibre r)).any fun n => portUp s (laneHolder s n) && laneOfRing s r != some n

/-- The end of a sweep: the ring is on its line, or the sweep has failed (R264, R267). -/
def acquireDone (s : State) (r : Nat) (peaks : List (Nat × Int)) (lit : Bool) : State :=
  let x := ringOf' s r
  if ringState s r != 1 then s
  else
    let s1 := if sweepCrosses s r then raise s .prvCrossHit r else s
    match sweepTarget peaks (ringLine r) with
    | some t =>
      let phase := if ringDir r == 1 && !lit then RingPhase.parked else .locked
      let y := { x with phase := phase, heat := t, centre := t, tempAt := engineTemp s (ringEngine r), tries := 0, onEvidence := false }
      if x.onEvidence then
        raise (setRing s1 r { y with relocks := satAdd 16 x.relocks 1, relockedAt := some s.raw }) .prvRelock r
      else setRing s1 r y
    | none =>
      let s2 := raise s1 .prvAcqFail r
      if 2 ≤ x.tries then ringFailed (setRing s2 r { x with phase := .failed, tries := 3, onEvidence := false }) r
      else setRing s2 r { x with tries := x.tries + 1 }

def execRingAcquireComplete (ring : Nat) (peaks : List (Nat × Int)) (lit : Bool) (s : State) : Res :=
  atUnit ring 2304 (acquireDone s ring peaks lit)

/-- Is a heater power outside the window (R266)? -/
def outsideWindow (s : State) (r heat : Nat) : Bool :=
  let c := ringCentre s r
  decide (heat + fld s .HWIN_UW < c) || decide (c + fld s .HWIN_UW < heat)

def execHeaterWindowExceeded (ring heat : Nat) (s : State) : Res :=
  atUnit ring 2304 <|
    if (ringOf' s ring).phase == .locked && outsideWindow s ring heat then
      wrongLine (setRing s ring { ringOf' s ring with heat := heat }) ring
    else s

/-- A locked ring's heater comes to 0 or 25 mW: a new sweep (R264). -/
def execHeaterAtRangeLimit (ring heat : Nat) (s : State) : Res :=
  atUnit ring 2304 <|
    if (ringOf' s ring).phase == .locked && (heat == 0 || heat == 25000) then
      setRing s ring { ringOf' s ring with phase := .off, heat := heat, tries := 0 }
    else s

/-- OPT_RELOCK (R264, R284): a named ring sweeps and relocks. -/
def execOptRelock (c : Ncp) (s : State) : Res :=
  runCmd s c 0x0604 do
    needOwner c
    needLen c 4
    let eng := beAt c.body 0 1; let dir := beAt c.body 1 1; let fib := beAt c.body 2 1; let line := beAt c.body 3 1
    need (decide (eng < 16) && decide (dir < 2) && decide (fib < 4) && decide (line < 18)) .badParam
    let r := ringNo eng dir fib line
    return ([], setRing (abortMigs s (migUses r)) r { ringOf' s r with phase := .off, tries := 0, onEvidence := true })

/-! Line power (R268 to R275) -/

def lineOf (s : State) (n : Nat) : CombLine := tget {} s.prv.lines n
def setLine (s : State) (n : Nat) (l : CombLine) : State := { s with prv := { s.prv with lines := tset {} s.prv.lines n l } }

/-- State of a fall from baseline (Table 12.5). -/
def fallState (s : State) (l : CombLine) : Nat :=
  let fall := l.base - l.now
  if ((fld s .FAIL_DB10 * 10 : Nat) : Int) ≤ fall then 3
  else if ((fld s .MIG_DB10 * 10 : Nat) : Int) ≤ fall then 2
  else if ((fld s .WARN_DB10 * 10 : Nat) : Int) ≤ fall then 1
  else 0

/-- Keep the means of a period for both combs of an engine. -/
def keepMeans (s : State) (eng : Nat) (means : List Int) : State :=
  (List.range 38).foldl (fun t i =>
    let n := lineNo eng 0 0 + i
    setLine t n { lineOf t n with now := means.getD i (lineOf t n).now }) s

/-- Lines 0 to 17 of a comb at or below the warning threshold. -/
def warnCount (s : State) (eng comb : Nat) : Nat :=
  ((List.range 18).filter fun l => decide (0 < fallState s (lineOf s (lineNo eng comb l)))).length

/-- Switch an engine to its other comb (R275): its migrations not yet past T_SW are aborted (Table 12.8). -/
def switchComb (s : State) (eng : Nat) : State :=
  let cb := combOf s eng
  let s1 := abortMigs s fun m => engineOf m.lane == eng
  let standby := if cb == 0 then s1.prv.standby ++ [eng] else s1.prv.standby.filter (· != eng)
  raise { s1 with prv := { s1.prv with standby := standby } } .prvCombSwitch (lineNo eng (1 - cb) 0)

/-- Act on one lane of a line at the migration or failure threshold (R269, R273, R274). -/
def judgeLane (s : State) (n line st lane : Nat) : State :=
  let failed := portUp s (laneHolder s lane) && !bitAt (portLink s (laneHolder s lane)).laneOk (lanePos s lane)
  if txLineOf s lane != line || (ringOf' s (txRing s lane)).onEvidence || failed then s
  else
    match migOf s true lane with
    | some m => if st == 3 then putMig s { m with emerg := true } else s
    | none =>
      if !mayMigrate s lane then (if st == 3 then laneDown s lane else s)
      else
        match freeSpare s lane with
        | some l => if st == 3 || flag s .AUTO_MIG then startMig s lane l (st == 3) else s
        | none =>
          let s1 := if s.prv.noSpare.contains n then s
                    else raise { s with prv := { s.prv with noSpare := s.prv.noSpare ++ [n] } } .prvNoSpare n
          if st == 3 then laneDown s1 lane else s1

/-- Judge one line of the comb in use (Table 12.5). -/
def judgeLine (s : State) (eng line : Nat) : State :=
  let n := lineNo eng (combOf s eng) line
  let l := lineOf s n
  let st := fallState s l
  let s1 := setLine s n { l with state := st }
  let s2 := if l.state = 0 && 0 < st then raise s1 .prvLineWarn n else s1
  let s3 := if l.state < 3 && st = 3 then raise s2 .prvLineFail n else s2
  if st < 2 then { s3 with prv := { s3.prv with noSpare := s3.prv.noSpare.filter (· != n) } }
  else ((List.range 4).flatMap (fibreLanes eng)).foldl (fun t lane => judgeLane t n line st lane) s3

/-- The evaluation at the end of a power period (R268, R275). -/
def evaluatePower (s : State) (eng : Nat) (means : List Int) : State :=
  let s1 := keepMeans { s with prv := { s.prv with evalAt := tset 0 s.prv.evalAt eng s.raw } } eng means
  let cb := combOf s1 eng
  let bad := decide (fld s1 .COMB_LINES ≤ warnCount s1 eng cb)
  let otherOk := warnCount s1 eng (1 - cb) == 0
  let notBoth := { s1 with prv := { s1.prv with bothBad := s1.prv.bothBad.filter (· != eng) } }
  if bad && otherOk && flag s1 .AUTO_COMB && !s1.prv.spent.contains eng then
    let t := switchComb notBoth eng
    { t with prv := { t.prv with spent := t.prv.spent ++ [eng] } }
  else
    let s2 :=
      if bad && !otherOk then
        (if s1.prv.bothBad.contains eng then s1
         else raise { s1 with prv := { s1.prv with bothBad := s1.prv.bothBad ++ [eng] } } .prvCombBoth (lineNo eng cb 0))
      else notBoth
    (List.range 18).foldl (fun t l => judgeLine t eng l) s2

def execPowerEvaluation (engine : Nat) (means : List Int) (s : State) : Res :=
  atUnit engine 16 <|
    if elapsed s (tget 0 s.prv.evalAt engine) (ticksOfUs (fld s .POWER_PERIOD_US)) then evaluatePower s engine means else s

/-- 16-bit two's complement of a value. -/
def i16 (x : Int) : List Byte := beBytes 2 (wrapInt 16 x)

/-- OPT_BASELINE (R268): records the current means and answers with them. -/
def execOptBaseline (c : Ncp) (s : State) : Res :=
  runCmd s c 0x0601 do
    needOwner c
    needLen c 3
    let mask := beAt c.body 0 2; let comb := beAt c.body 2 1
    need (decide (comb ≤ 2)) .badParam
    let pick := (onesOf 16 mask).flatMap fun e => (if comb == 2 then [0, 1] else [comb]).flatMap fun b =>
      (List.range 19).map fun l => lineNo e b l
    return (pick.flatMap fun n => i16 (lineOf s n).now,
            pick.foldl (fun t n => setLine t n { lineOf t n with base := (lineOf t n).now }) s)

/-- OPT_COMB (R275): selects the comb of an engine and clears AUTO_SPENT. -/
def execOptComb (c : Ncp) (s : State) : Res :=
  runCmd s c 0x0603 do
    needOwner c
    needLen c 2
    let eng := beAt c.body 0 1; let comb := beAt c.body 1 1
    need (decide (eng < 16) && decide (comb < 2)) .badParam
    let s1 := { s with prv := { s.prv with spent := s.prv.spent.filter (· != eng) } }
    return ([], if combOf s eng == comb then s1 else switchComb s1 eng)

/-! Migrations (R269 to R273) -/

/-- OPT_MIGRATE (R271, R284): a lane moves to a spare or to its base line at a stated fabric time. -/
def execOptMigrate (c : Ncp) (s : State) : Res :=
  runCmd s c 0x0602 do
    needOwner c
    needLen c 8
    let lane := beAt c.body 0 2; let dest := beAt c.body 2 1; let t := beAt c.body 4 4
    need (decide (lane < 1024) && beAt c.body 3 1 == 0 && (dest == 16 || dest == 17 || dest == baseLine lane)) .badParam
    need (mayMigrate s lane && (migOf s true lane).isNone && txLineOf s lane != dest) .conflict
    need (txLineFree s (engineOf lane) (fibreOf lane) dest) .noResource
    let id := s.prv.nextMig
    let m : Mig := { tx := true, lane := lane, laneId := lane, id := id, emerg := false, fromLine := txLineOf s lane
                     toLine := dest, step := .scheduled, since := s.raw, at_ := expand32 s t }
    return ([], putMig { s with prv := { s.prv with nextMig := (id + 1) % 256 } } m)

/-- The stated time of a migration that OPT_MIGRATE scheduled. -/
def execMigrationScheduledStart (lane : Nat) (s : State) : Res :=
  atUnit lane 1024 <|
    match migOf s true lane with
    | some m => if m.step == .scheduled && reached s m.at_ then sendMigReq s { m with at_ := 0 } else s
    | none => s

/-- The local lane that receives the peer's lane of a message (R270). -/
def localLane (s : State) (p laneId : Nat) : Option Nat :=
  ((portLink s p).peerLane.find? fun e => e.2 == laneId).map fun e => laneStart s p + e.1

/-- MIG_REQ at the receiving end (step 2 of Table 12.7). -/
def migReq (s : State) (p : Nat) (msg : List Byte) : State :=
  match localLane s p (optLane msg) with
  | none => s
  | some n =>
    let abort := sendOpt s n (optMsg 5 (optId msg) (optLane msg) (optEmerg msg) (optFrom msg) (optTo msg) 0)
    match migOf s false n with
    | some m =>
      if m.id == optId msg && m.step == .ready then sendOpt s n m.msg
      else if m.step == .ready && !migPastSwitch s m then abort
      else accept n abort
    | none => accept n abort
where
  accept (n : Nat) (abort : State) : State :=
    let eng := engineOf n; let fib := fibreOf n
    if optTo msg < 18 && !spareDis s eng fib && !steered s eng fib && rxLineFree s eng fib (optTo msg) then
      let ans := optMsg 2 (optId msg) (optLane msg) (optEmerg msg) (optFrom msg) (optTo msg) 0
      sendOpt (putMig s { tx := false, lane := n, laneId := optLane msg, id := optId msg, emerg := optEmerg msg
                          fromLine := optFrom msg, toLine := optTo msg, step := .ready, since := s.raw, msg := ans
                          sentAt := s.raw }) n ans
    else abort

/-- A message on a port that carries it: an up fabric-mode port, HCRC right (R270). -/
def optTaken (s : State) (p : Nat) (msg : List Byte) : Bool := optOk msg && portUp s p && portMode s p == .fabric

def execMigReqReceived (port : Nat) (msg : List Byte) (s : State) : Res :=
  atPort port (if optTaken s port msg then migReq s port msg else s)

/-- MIG_READY at the transmitting end (step 3 of Table 12.7). -/
def migReady (s : State) (msg : List Byte) : State :=
  match migOf s true (optLane msg) with
  | none => s
  | some m =>
    if m.id != optId msg || m.step != .asked then s
    else
      let p := laneHolder s m.lane
      let tsw := nowNs s + (portLink s p).rtt / 2 + fld s .SW_MARGIN_US * 1000
      let out := optMsg 3 m.id m.laneId m.emerg m.fromLine m.toLine (if m.emerg then 0 else tsw % 2 ^ 32)
      sendOpt (putMig s { m with step := .ready, at_ := if m.emerg then nowNs s else tsw, msg := out, sentAt := s.raw }) m.lane out

def execMigReadyReceived (port : Nat) (msg : List Byte) (s : State) : Res :=
  atPort port (if optTaken s port msg then migReady s msg else s)

/-- The receiving end takes the lane from its spare receiver and sends MIG_DONE (step 4 of Table 12.7). -/
def migSwitch (s : State) (m : Mig) : State :=
  let out := optMsg 4 m.id m.laneId m.emerg m.fromLine m.toLine 0
  sendOpt (putMig (setRxLine s m.lane m.toLine) { m with step := .switched, msg := [], sentAt := s.raw }) m.lane out

/-- MIG_SWITCH at the receiving end (R271, R273, Table 12.8). -/
def migSwitchMsg (s : State) (p : Nat) (msg : List Byte) : State :=
  match (localLane s p (optLane msg)).bind (migOf s false) with
  | none => s
  | some m =>
    if m.id != optId msg then s
    else if m.step == .switched then migSwitch s m
    else if m.step != .ready then s
    else
      let t := expand32 s (optTsw msg)
      if optEmerg msg || reached s t then migSwitch s m else putMig s { m with at_ := t, msg := [] }

def execMigSwitchReceived (port : Nat) (msg : List Byte) (s : State) : Res :=
  atPort port (if optTaken s port msg then migSwitchMsg s port msg else s)

/-- The first codeword boundary at or after T_SW at the receiving end. -/
def execMigSwitchTime (lane : Nat) (s : State) : Res :=
  atUnit lane 1024 <|
    match migOf s false lane with
    | some m => if m.step == .ready && m.at_ != 0 && reached s m.at_ then migSwitch s m else s
    | none => s

/-- MIG_DONE: the old ring is squelched (step 5 of Table 12.7). -/
def execMigDoneReceived (port : Nat) (msg : List Byte) (s : State) : Res :=
  atPort port <|
    if !optTaken s port msg then s
    else
      match migOf s true (optLane msg) with
      | some m =>
        if m.id == optId msg && m.step == .ready then
          raise (dropMig (setTxLine s m.lane m.toLine) true m.lane) .prvMigDone m.lane (recVal m.lane)
        else s
      | none => s

/-- A migration has ended before its switch: the lane that it was to save counts as failed (R253). Log 126 (DEDUCED). -/
def migFailed (s : State) (m : Mig) : State := if m.emerg then laneDown s m.lane else s

/-- MIG_ABORT (R272): a migration not yet switched ends, the lane keeps its line. -/
def migAbortMsg (s : State) (p : Nat) (msg : List Byte) : State :=
  let own := match migOf s true (optLane msg) with
    | some m => if m.id == optId msg && !migPastSwitch s m then
        migFailed (raise (dropMig s true m.lane) .prvMigAbort m.lane (recVal m.lane)) m else s
    | none => s
  match (localLane own p (optLane msg)).bind (migOf own false) with
  | some m => if m.id == optId msg && m.step != .switched then dropMig own false m.lane else own
  | none => own

def execMigAbortReceived (port : Nat) (msg : List Byte) (s : State) : Res :=
  atPort port (if optTaken s port msg then migAbortMsg s port msg else s)

/-- MIG_ASK (R273): the far end asks for an emergency migration of a lane of this end. -/
def execMigAskReceived (port : Nat) (msg : List Byte) (s : State) : Res :=
  atPort port <|
    let lane := optLane msg
    if optTaken s port msg && decide (lane < 1024) && laneHolder s lane == port && txLineOf s lane == optFrom msg then
      laneFailed s lane
    else s

/-- No MIG_READY within MIG_TMO_US (R272). -/
def execMigTimeout (lane : Nat) (s : State) : Res :=
  atUnit lane 1024 <|
    match migOf s true lane with
    | some m => if m.step == .asked && elapsed s m.since (ticksOfUs (fld s .MIG_TMO_US)) then migFailed (abortMig s m) m else s
    | none => s

/-- An unanswered message is sent again every µs (R270). -/
def repeatMig (s : State) (tx : Bool) (lane : Nat) : State :=
  match migOf s tx lane with
  | some m =>
    if m.msg.isEmpty || !elapsed s m.sentAt (ticksOfUs 1) then s
    else sendOpt (putMig s { m with sentAt := s.raw }) lane m.msg
  | none => s

def execOpticalControlMessageRepeat (lane : Nat) (s : State) : Res :=
  atUnit lane 1024 (repeatMig (repeatMig s true lane) false lane)

/-! Steering (R277 to R279) -/

/-- Read an entry of a steering image (Table 12.9). -/
def steerEnt (e : List Byte) : SteerEnt :=
  let w := beAt e 0 2
  { peerOnly := bitAt w 15, port := w % 2048, txLine := beAt e 2 1 % 32, rxLine := beAt e 3 1 % 32, peerTag := beAt e 4 4
    peerPort := beAt e 8 2 % 2048 }

def lineOk (l : Nat) : Bool := decide (l < 18) || l == darkLine

def isDark (e : SteerEnt) : Bool := !e.peerOnly && (e.txLine == darkLine || e.rxLine == darkLine)

/-- Does an entry keep the encodings of Table 12.9? -/
def steerEncodingOk (e : List Byte) : Bool :=
  let x := steerEnt e
  bitsOf (beAt e 0 2) 14 11 == 0 && beAt e 2 1 < 32 && beAt e 3 1 < 32 && bitsOf (beAt e 8 2) 15 11 == 0 &&
    beAt e 10 2 == 0 && lineOk x.txLine && lineOk x.rxLine &&
    (!x.peerOnly || (x.txLine == 0 && x.rxLine == 0)) && (!isDark x || (x.peerTag == 0 && x.peerPort == 0))

/-- The line of a lane once an image has taken over. -/
def lineAfter (s : State) (es : List SteerEnt) (tx : Bool) (lane : Nat) : Nat :=
  match es.find? fun e => e.port == lane && !e.peerOnly with
  | some e => if tx then e.txLine else e.rxLine
  | none => if tx then txLineOf s lane else rxLineOf s lane

/-- Do two lanes of a fibre share a line in a direction? -/
def lineClash (s : State) (es : List SteerEnt) (lane : Nat) : Bool :=
  [true, false].any fun tx =>
    hasDup (((fibreLanes (engineOf lane) (fibreOf lane)).map (lineAfter s es tx)).filter (· != darkLine))

/-- Structure of an entry (step 4 of R278). -/
def steerStructOk (s : State) (es : List SteerEnt) (i : Nat) (e : SteerEnt) : Bool :=
  !((es.take i).any fun x => x.port == e.port) && portEnabled s e.port &&
    (e.peerOnly || (decide (e.port < 1024) && portLanes s e.port == 1 && steered s (engineOf e.port) (fibreOf e.port) &&
      !lineClash s es e.port))

/-- LOAD_STEER (R278). -/
def execLoadSteer (c : Ncp) (s : State) : Res :=
  runCmd s c 0x0605 do
    needOwner c
    let img ← readImage c 0 0x4E5A0022 1 false
    let n := beAt img 6 2
    need (beAt img 4 1 == 1 && beAt img 5 1 == 1 && decide (1 ≤ n) && decide (n ≤ 1280) && img.length == 32 + 12 * n &&
      beAt img 24 4 == 0) .badParam 1
    let raws := (List.range n).map fun i => bytesAt img (32 + 12 * i) 12
    eachOk (fun i e => need (steerEncodingOk e) .badParam 1 i) 0 raws
    need (!flag s .STEER_LOCK) .locked 2
    let es := raws.map steerEnt
    eachOk (fun i e => need (decide (e.port < nPorts)) .outOfRange 3 i) 0 es
    eachOk (fun i e => need (steerStructOk s es i e) .conflict 4 i) 0 es
    let t ← checkTime s (beAt img 8 4) 5
    need (replaceable s (s.prv.steerPend.map (·.takeover))) .running 6
    return ([], { s with prv := { s.prv with steerPend := some { takeover := t, imgId := beAt img 16 8, entries := es } } })

/-- One named port at the takeover (R279): down, its lines moved, its new peer expected. -/
def steerPort (s : State) (e : SteerEnt) : State :=
  let s1 := linkDown s e.port
  let n := laneStart s e.port
  let s2 := if e.peerOnly then s1 else setRxLine (setTxLine s1 n e.txLine) n e.rxLine
  let l := portLink s2 e.port
  let s3 := setPortLink s2 e.port
    { l with phase := if isDark e then .down else .training, step := .signal, refAt := s.raw
             steer := if isDark e then none else some (e.peerTag, e.peerPort) }
  raise s3 .steerTakeover e.port

def execSteerTakeover (s : State) : Res :=
  .next <|
    match s.prv.steerPend with
    | some img =>
      if reached s img.takeover then img.entries.foldl steerPort { s with prv := { s.prv with steerPend := none } } else s
    | none => s

/-! Hedgerow (R280 to R283) -/

/-- Read an entry of a circuit image: output line and input fibre. -/
def circuitEnt (e : List Byte) : Nat × Nat := (16 * beAt e 2 1 + beAt e 1 1, beAt e 0 1)

def circuitEncodingOk (e : List Byte) : Bool := beAt e 0 1 < 32 && beAt e 1 1 < 16 && beAt e 2 1 < 32 && beAt e 3 1 == 0

/-- Circuits of other partitions, active or pending: (output line, input fibre). -/
def otherCircuits (s : State) (part : Nat) : List (Nat × Nat) :=
  (s.xc.circuits.filter fun e => e.2.part != part).map (fun e => (e.1, e.2.xi)) ++
    (s.xc.pend.filter fun e => e.1 != part).flatMap (fun e => e.2.circuits)

/-- Do two circuits use one output line, or one input line? -/
def circuitClash (a b : Nat × Nat) : Bool := a.1 == b.1 || (a.2 == b.2 && a.1 % 16 == b.1 % 16)

/-- LOAD_CIRCUITS (R282). -/
def execLoadCircuits (c : Ncp) (s : State) : Res :=
  runCmd s c 0x0606 do
    let me ← needTenant s c
    let img ← readImage c 0 0x4E5A0023 1 false
    let n := beAt img 6 2; let part := beAt img 24 2
    need (beAt img 4 1 == 2 && beAt img 5 1 == 1 && decide (n ≤ 512) && img.length == 32 + 4 * n && decide (part < 4096) &&
      beAt img 26 2 == 0) .badParam 1
    let raws := (List.range n).map fun i => bytesAt img (32 + 4 * i) 4
    eachOk (fun i e => need (circuitEncodingOk e) .badParam 1 i) 0 raws
    need (!flag s .CIRC_LOCK) .locked 2
    need (part == me && holdsPart s && s.haw.part == part) .notAuthorised 3
    let es := raws.map circuitEnt
    eachOk (fun i e => need (!(es.take i).any (circuitClash e) && !(otherCircuits s part).any (circuitClash e)) .conflict 4 i) 0 es
    let t ← checkTime s (beAt img 8 4) 5
    need (replaceable s ((tfind s.xc.pend part).map (·.takeover))) .running 6
    return ([], extendMeas8 { s with xc := { s.xc with pend := tins s.xc.pend part { takeover := t, circuits := es } } } part [img])

/-- The takeover of a partition's circuits (R283): circuits outside the new set go dark, new ones are switched, circuits in
both are not touched. XC_TAKEOVER is counted once, at line 0 of XO0 (Table 18.2). -/
def circuitTakeover (s : State) (part : Nat) (img : CircuitImg) : State :=
  let keep := fun (o : Nat) (x : Circuit) => x.part != part || img.circuits.contains (o, x.xi)
  let kept := tfilter keep s.xc.circuits
  let fresh := img.circuits.filter fun e => (tfind kept e.1).isNone
  let t := fresh.foldl (fun t e => tins t e.1 { xi := e.2, part := part, since := s.raw }) kept
  let s0 := { s with xc := { circuits := t, pend := tdel s.xc.pend part } }
  raise (if t.isEmpty then s0 else wakeDomain s0 164) .xcTakeover 0 (recVal part part)

def execCircuitTakeover (part : Nat) (s : State) : Res :=
  .next <|
    match tfind s.xc.pend part with
    | some img => if reached s img.takeover then circuitTakeover s part img else s
    | none => s

/-- A new circuit finishes switching: it is lit and its setup power recorded (R283). -/
def execCircuitLit (out : Nat) (power : Int) (s : State) : Res :=
  atUnit out 512 <|
    match tfind s.xc.circuits out with
    | some x =>
      if x.lit then s
      else
        let t := tins s.xc.circuits out { x with lit := true, setup := power, now := power }
        raise { s with xc := { s.xc with circuits := t } } .xcLit out (recVal x.part x.part)
    | none => s

/-- The output power of a lit circuit (R283): a fall of 3 dB below its power at lighting counts XC_LOSS. -/
def execXcOutputFall (out : Nat) (power : Int) (s : State) : Res :=
  atUnit out 512 <|
    match tfind s.xc.circuits out with
    | some x =>
      if !x.lit then s
      else
        let low := decide (power ≤ x.setup - 300)
        let s1 := { s with xc := { s.xc with circuits := tins s.xc.circuits out { x with now := power, lost := low } } }
        if low && !x.lost then raise s1 .xcLoss out (recVal x.part x.part) else s1
    | none => s

/-- OPT_CANCEL (R284, R93): discards a pending steering image, or a partition's pending circuit image. -/
def execOptCancel (c : Ncp) (s : State) : Res :=
  runCmd s c 0x0607 do
    needLen c 3
    let kind := beAt c.body 0 1; let part := beAt c.body 1 2
    need (kind == 1 || kind == 2) .badParam
    if kind == 1 then
      needOwner c
      need (part == 0) .badParam
      need (replaceable s (s.prv.steerPend.map (·.takeover))) .running
      return ([], { s with prv := { s.prv with steerPend := none } })
    else
      let me ← needTenant s c
      need (decide (part < 4096)) .badParam
      need (part == me) .notAuthorised
      need (replaceable s ((tfind s.xc.pend part).map (·.takeover))) .running
      return ([], { s with xc := { s.xc with pend := tdel s.xc.pend part } })

end Sys2Proof.Machine
end

