-- ==== Sys2Proof/Machine/YewRows.lean ====
section
/-!
DEFINITION. Machine/YewRows.lean: the commands and events of Yew (R287 to R306).
-/

namespace Sys2Proof.Machine

open Sys2Proof

def yewPort (s : State) (p : Nat) : YewPort := tget {} s.yew.ports p
def setYewPort (s : State) (p : Nat) (y : YewPort) : State :=
  { s with yew := { s.yew with ports := tset {} s.yew.ports p y } }

/-! Rate and step (R289, R292) -/

/-- Change RATE at a tick boundary without moving local time (R289). -/
def setRate (s : State) (r : Nat) : State :=
  { s with yew := { s.yew with
      rate := r
      offset := s.yew.offset + (s.raw : Int) * ((s.yew.rate : Int) - (r : Int)) } }

/-- ppb of a rate. -/
def ppbOf (r ppb : Nat) : Nat := r * ppb / 1000000000

/-- Hold a servo output to RATE_MAX_PPB of nominal; YEW_RATE_LIMIT when it lies outside (R289). -/
def limitRate (s : State) (r : Nat) : Nat × State :=
  let m := ppbOf nominalRate (fld s .RATE_MAX_PPB)
  let r2 := min (nominalRate + m) (max (nominalRate - m) r)
  (r2, if r2 = r then s else raise s .yewRateLimit 0 (recVal r))

/-- A rate that the servo's arithmetic gives: the manual fixes its bounds, not its value. Log 44 (UNVERIFIED). -/
def servoOutput (s : State) : Nat × State :=
  let f := takeFree s (2 ^ 42)
  limitRate f.2 f.1

/-- The single step: OFFSET′ = OFFSET − θ, θ in units of 2^-40 ns (R292). -/
def stepTime (s : State) (theta : Int) (phase : YewPhase) : State :=
  let s1 := { s with yew := { s.yew with offset := s.yew.offset - theta, stepped := true, phase := phase, acq := []
                                         lockRun := 0, unlockRun := 0 } }
  raise s1 .yewStep 0

/-- A root's step: it is locked at its step (Table 13.1). Log 46 (DEDUCED). -/
def rootStep (s : State) (theta : Int) : State :=
  let s1 := stepTime s theta .locked
  raise { s1 with yew := { s1.yew with root := selfSpine s } } .yewLock 0

/-- θ in units of 2^-40 ns of a value in 2^-17 ps. Log 43 (DEDUCED). -/
def thetaUnits (x : Int) : Int := x * 8388608 / 1000

/-- θ in whole ps, saturating to 32 bits signed. -/
def thetaPs (x : Int) : Nat := wrapInt 32 (clampInt (-2147483648) 2147483647 (x / 131072))

/-- A bound in ns against |θ| in units of 2^-17 ps. -/
def withinNs (x : Int) (ns : Nat) : Bool := decide (x.natAbs ≤ ns * 131072000)

/-! TIME frames (R294) -/

/-- THOPS of this spine (R296). -/
def thopsNow (s : State) : Nat := if !s.yew.stepped then 0xFF else if flag s .ROOT_EN then 0 else s.yew.thops

/-- The payload of the next TIME frame of a port (Table 13.2). A previous frame whose transmit time is not known is
marked TX_MULTI. -/
def timePayload (s : State) (p : Nat) : List Byte :=
  let y := yewPort s p
  let prev := y.sent.find? fun e => e.1 == (y.tseq + 65535) % 65536
  let tx := (prev.map fun e => e.2.1).getD 0
  let multi := match prev with | some e => e.2.2 | none => true
  let rx := y.rx.getD (0, 0)
  beBytes 1 (0x10 + moduleQual s (flag s .ROOT_EN) * 4 + bitv s.yew.stepped 1 + bitv multi 0) ++ beBytes 1 (thopsNow s) ++
    beBytes 2 y.tseq ++ beBytes 8 (tx / 65536) ++ beBytes 2 (tx % 65536) ++ beBytes 2 rx.1 ++ beBytes 8 (rx.2 / 65536) ++
    beBytes 2 (rx.2 % 65536) ++ beBytes 2 (s.yew.root % 16384) ++ beBytes 4 (wrapInt 32 s.yew.worldOfs) ++
    beBytes 2 s.yew.utcOfs ++ zeroBytes 14

/-- Does a port send TIME frames: an up, unfenced fabric-mode port toward a spine or an endpoint? -/
def timePort (s : State) (p : Nat) : Bool :=
  portUp s p && portMode s p == .fabric && !portFenced s p && (isSpinePort s p || isDownPort s p)

def sendTime (s : State) (p : Nat) : State :=
  let y := yewPort s p
  let dst := if isSpinePort s p then spineAddr s (neighbourOf s (selfSpine s) (dimCode s p))
             else spineAddr s (selfSpine s) + (fieldOfPort s p).getD 0 * 32
  let h : Ffh := { tc := 6, kind := 0xA, src := spineAddr s (selfSpine s), dst := dst }
  let pay := timePayload s p
  spawnControl (setYewPort s p { y with tseq := (y.tseq + 1) % 65536, sentAt := s.raw }) p h pay

def execTimeFrameSend (port : Nat) (s : State) : Res :=
  atPort port <|
    if timePort s port && elapsed s (yewPort s port).sentAt (ticksOfUs (fld s .SYNC_PERIOD_US)) then sendTime s port else s

/-! Samples (R295, R296) -/

/-- A sample: θ and delay in units of 2^-17 ps. -/
structure TimeSample where
  theta : Int
  delay : Int
  multi : Bool

/-- The sample that a received frame completes on a port: k is the frame before it, j the frame it reports. -/
def sampleOf (s : State) (p : Nat) (pay : List Byte) : Option TimeSample :=
  let y := yewPort s p
  let k := (beAt pay 2 2 + 65535) % 65536
  match y.rx, y.sent.find? fun e => e.1 == beAt pay 14 2 with
  | some (rseq, t4), some (_, t1, m) =>
    if rseq != k then none
    else
      let t3 : Int := (beAt pay 4 8 * 65536 + beAt pay 12 2 : Nat)
      let t2 : Int := (beAt pay 16 8 * 65536 + beAt pay 24 2 : Nat)
      let back := (t4 : Int) - t3
      let out := t2 - (t1 : Int)
      some { theta := (back - out) * 1000 + signedOf 32 (fldAt s .ASYM_PS 0 0 p) * 131072, delay := (back + out) * 1000
             multi := m || bitAt (beAt pay 0 1) 0 }
  | _, _ => none

/-- The median of delays, the lower middle value of an even number. -/
def medianOf (l : List Int) : Int := let q := l.foldl (fun a x => ins x a) []; q.getD ((q.length - 1) / 2) 0
where
  ins (x : Int) : List Int → List Int
    | [] => [x]
    | y :: t => if x ≤ y then x :: y :: t else y :: ins x t

/-- Is a sample of a parent usable (R296)? -/
def usable (s : State) (p : Nat) (pay : List Byte) (x : TimeSample) : Bool :=
  let b0 := beAt pay 0 1
  let ds := (yewPort s p).delays
  !x.multi && bitAt b0 1 && bitsOf b0 3 2 ≤ 1 && (!s.yew.stepped || beAt pay 26 2 % 16384 == s.yew.root) &&
    decide (beAt pay 1 1 < 30) &&
    (ds.isEmpty || decide (x.delay ≤ medianOf ds + ((fld s .DELAY_GATE_NS * 131072000 : Nat) : Int)))

/-- Is a port a parent, and which: some false the primary, some true the alternate. -/
def parentKind (s : State) (p : Nat) : Option Bool :=
  if flag s .ROOT_EN then none
  else if flag s .PRI_V && fld s .PARENT_PRI == p then some false
  else if flag s .ALT_V && fld s .PARENT_ALT == p then some true
  else none

/-- What the active parent says of the world: quality, hops, WORLD_OFS, UTC. -/
def followParent (s : State) (pay : List Byte) (x : TimeSample) : State :=
  { s with yew := { s.yew with
      parentQual := bitsOf (beAt pay 0 1) 3 2
      thops := beAt pay 1 1 + 1
      worldOfs := signedOf 32 (beAt pay 28 4)
      utcOfs := beAt pay 32 2
      theta := x.theta
      delay := x.delay } }

/-- Lock and unlock by runs of samples (Table 13.1, R291). -/
def lockRuns (s : State) (theta : Int) : State :=
  let near := withinNs theta (fld s .LOCK_NS)
  let far := !withinNs theta (2 * fld s .LOCK_NS)
  let y := { s.yew with lockRun := if near then s.yew.lockRun + 1 else 0, unlockRun := if far then s.yew.unlockRun + 1 else 0 }
  match y.phase with
  | .holdover => { s with yew := { y with phase := .tracking } }
  | .tracking =>
    if 16 ≤ y.lockRun then raise { s with yew := { y with phase := .locked, unlockRun := 0 } } .yewLock 0 else { s with yew := y }
  | .locked =>
    if 4 ≤ y.unlockRun then raise { s with yew := { y with phase := .tracking, lockRun := 0 } } .yewUnlock 0
    else { s with yew := y }
  | _ => { s with yew := y }

/-- The servo on a sample after the step: RATE within SLEW_PPB of the frequency estimate and RATE_MAX_PPB of nominal
(R289, R292). -/
def servo (s : State) : State :=
  let f := servoOutput s
  let w := ppbOf f.1 (fld s .SLEW_PPB)
  let g := takeFree f.2 (2 * w + 1)
  let r := limitRate g.2 (f.1 - w + g.1)
  let s1 := setRate r.2 r.1
  { s1 with yew := { s1.yew with freq := f.1, servo := (s1.yew.servo ++ [r.1]).drop (s1.yew.servo.length + 1 - 64) } }

/-- A usable sample of the active parent (R291, R292). -/
def driveServo (s : State) (pay : List Byte) (x : TimeSample) : State :=
  let s1 := followParent s pay x
  if s1.yew.stepped then servo (lockRuns s1 x.theta)
  else
    let acq := s1.yew.acq ++ [x.theta]
    if acq.length < 8 then { s1 with yew := { s1.yew with phase := .acquire, acq := acq } }
    else
      let mean := acq.foldl (· + ·) 0 / 8
      let s2 := stepTime s1 (thetaUnits mean) .tracking
      let f := servoOutput { s2 with yew := { s2.yew with root := beAt pay 26 2 % 16384 } }
      let s3 := setRate f.2 f.1
      { s3 with yew := { s3.yew with freq := f.1, servo := [f.1] } }

/-- A usable sample on a parent port: the run of primary samples, the return to the primary, and the servo (R297). -/
def parentSample (s : State) (p : Nat) (alt : Bool) (pay : List Byte) (x : TimeSample) : State :=
  let y := yewPort s p
  let s1 := setYewPort s p { y with delays := (y.delays ++ [x.delay]).drop (y.delays.length + 1 - 8), usableAt := s.raw }
  let run := if alt then s1.yew.priRun else s1.yew.priRun + 1
  let back := s1.yew.altActive && !alt && decide (16 ≤ run)
  let s2 := { s1 with yew := { s1.yew with priRun := run, altActive := s1.yew.altActive && !back
                                           acq := if back then [] else s1.yew.acq } }
  if s2.yew.altActive == alt then driveServo s2 pay x else s2

/-- A sample on a parent port that is not usable (R296). -/
def dropSample (s : State) (p : Nat) (alt : Bool) (pay : List Byte) : State :=
  let s1 := raise s .yewSampleDrop p
  let s2 := if s.yew.stepped && beAt pay 26 2 % 16384 != s.yew.root then raise s1 .yewRootMismatch 0 else s1
  if alt then s2 else { s2 with yew := { s2.yew with priRun := 0 } }

/-! TIME_CAL (R299) -/

/-- Mean in whole ps of values in units of 2^-17 ps. -/
def meanPs (l : List Int) : Int := if l.isEmpty then 0 else l.foldl (· + ·) 0 / ((131072 * l.length : Nat) : Int)

/-- Write the new ASYM_PS of every named port and answer the command. -/
def finishCal (s : State) (c : TimeCal) : State :=
  let ref := meanPs (tget [] c.vals c.refPort)
  let new := c.ports.map fun p =>
    wrapInt 32 (signedOf 32 (fldAt s .ASYM_PS 0 0 p) + ref - meanPs (tget [] c.vals p))
  let s1 := (c.ports.zip new).foldl (fun t e => setFldAt t .ASYM_PS 0 0 e.1 e.2) { s with yew := { s.yew with cal := none } }
  finish s1 c.cmd 0x0703 .done 0 noIndex (new.flatMap (beBytes 4))

/-- Gather a value of θ for a calibration in progress. -/
def gatherCal (s : State) (p : Nat) (theta : Int) : State :=
  match s.yew.cal with
  | none => s
  | some c =>
    if !(p == c.refPort || c.ports.contains p) then s
    else
      let c2 := { c with vals := tset [] c.vals p ((tget [] c.vals p ++ [theta]).take 256) }
      if (c2.refPort :: c2.ports).all fun q => (tget [] c2.vals q).length == 256 then finishCal s c2
      else { s with yew := { s.yew with cal := some c2 } }

/-- A TIME frame at its spine: θ of the port, and the servo when the port is the active parent (R295 to R297). -/
def timeFrame (s : State) (f : StoredFrame) : State :=
  let p := f.inPort
  let pay := f.data
  if beAt pay 0 1 / 16 != 1 then s
  else
    let smp := sampleOf s p pay
    let y := yewPort s p
    let s1 := setYewPort s p { y with rx := some (beAt pay 2 2, f.rxStamp) }
    match smp with
    | none => s1
    | some x =>
      let y1 := yewPort s1 p
      let s2 := if x.multi then s1
                else gatherCal (setYewPort s1 p { y1 with thetas := (y1.thetas ++ [x.theta]).drop (y1.thetas.length + 1 - 16) }) p x.theta
      match parentKind s p with
      | none => s2
      | some alt => if usable s2 p pay x then parentSample s2 p alt pay x else dropSample s2 p alt pay

def execTimeFrameReceive (fid : Nat) (s : State) : Res :=
  .next (match takeKind s fid 0xA with | .ok (f, s1) => timeFrame s1 f | .error s1 => s1)

/-! Silence, waits and commands (R292, R297, R305) -/

/-- Has a parent yielded no usable sample for HOLD_PERIODS × SYNC_PERIOD_US? -/
def parentSilent (s : State) (p : Nat) : Bool :=
  elapsed s (yewPort s p).usableAt (ticksOfUs (fld s .HOLD_PERIODS * fld s .SYNC_PERIOD_US))

def execParentSilence (s : State) : Res :=
  .next <|
    if flag s .ROOT_EN then s
    else
      let priSilent := !flag s .PRI_V || parentSilent s (fld s .PARENT_PRI)
      let altSilent := !flag s .ALT_V || parentSilent s (fld s .PARENT_ALT)
      let s1 := if priSilent && !s.yew.altActive && flag s .ALT_V then
          raise { s with yew := { s.yew with altActive := true, priRun := 0, acq := [] } } .yewParentSwitch 0
        else s
      if priSilent && altSilent && (s1.yew.phase == .tracking || s1.yew.phase == .locked) then
        let n := s1.yew.servo.length
        let mean := if n = 0 then s1.yew.rate else s1.yew.servo.foldl (· + ·) 0 / n
        let s2 := setRate s1 mean
        raise { s2 with yew := { s2.yew with phase := .holdover, lockRun := 0, unlockRun := 0 } } .yewHoldover 0
      else s1

def execRootWaitExpiry (s : State) : Res :=
  .next <|
    if flag s .ROOT_EN && !s.yew.stepped && elapsed s s.yew.rootWaitFrom (ticksOfS (fld s .ROOT_WAIT_S)) then rootStep s 0 else s

/-- TIME_STEP (R292, R305). -/
def execTimeStep (c : Ncp) (s : State) : Res :=
  runCmd s c 0x0701 do
    needOwner c
    needLen c 8
    need (flag s .ROOT_EN) .badParam
    need (!s.yew.stepped) .locked
    return ([], rootStep s (localExact s - ((beAt c.body 0 8 * 2 ^ 40 : Nat) : Int)))

/-- TIME_STATUS (Table 13.6). -/
def execTimeStatus (c : Ncp) (s : State) : Res :=
  runCmd s c 0x0702 do
    needOwner c
    needLen c 0
    let st := match s.yew.phase with | .free => 0 | .acquire => 1 | .tracking => 2 | .locked => 3 | .holdover => 4
    let delay := (clampInt 0 4294967295 (s.yew.delay / 131072)).toNat
    return (beBytes 1 st ++ beBytes 1 (moduleQual s (flag s .ROOT_EN)) ++ zeroBytes 2 ++ beBytes 8 (nowNs s) ++
      beBytes 2 (nowFrac s) ++ zeroBytes 2 ++ beBytes 8 s.raw ++ beBytes 8 s.yew.rate ++ beBytes 4 (thetaPs s.yew.theta) ++
      beBytes 4 delay ++ beBytes 4 (wrapInt 32 s.yew.worldOfs) ++ beBytes 2 s.yew.utcOfs ++ zeroBytes 2, s)

/-- TIME_CAL (R299): the reply comes when 256 values of every port are in. -/
def execTimeCal (c : Ncp) (s : State) : Res :=
  runLong s c 0x0703 do
    needOwner c
    let ref := beAt c.body 0 2; let n := beAt c.body 2 2
    need (c.body.length == 4 + 2 * n) .badParam
    let ports := (List.range n).map fun i => beAt c.body (4 + 2 * i) 2
    need ((ref :: ports).all fun p => decide (p < nPorts) && dimCode s p == dimCode s ref && isSpinePort s p) .badParam
    let active := if s.yew.altActive then fld s .PARENT_ALT else fld s .PARENT_PRI
    let hasParent := !flag s .ROOT_EN && (if s.yew.altActive then flag s .ALT_V else flag s .PRI_V)
    need (!(hasParent && ports.contains active)) .running
    need s.yew.cal.isNone .running
    if ports.isEmpty then return finish s c 0x0703 .done 0 noIndex []
    else return { s with yew := { s.yew with cal := some { cmd := c, refPort := ref, ports := ports } } }

/-! World time (R300) -/

/-- Does PTP run on a source: 0 MG0, 1 MG1, 2 + n port Pn? -/
def ptpFrom (s : State) (src : Nat) : Bool :=
  flag s .ROOT_EN && flag s .PTP_EN &&
  match fld s .PTP_SRC with
  | 0 => src == 0
  | 1 => src == 1
  | 2 => src == 0 || src == 1
  | _ => src == 2 + fld s .PTP_PORT && portMode s (fld s .PTP_PORT) == .ethernet && portUp s (fld s .PTP_PORT)

/-- W saturated to 32 bits signed. -/
def satWorld (w : Int) : Int := clampInt (-2147483648) 2147483647 w

/-- Slew the root toward zero W, by an amount of at most WORLD_SLEW_PPB that the manual does not fix. -/
def slewWorld (s : State) (w : Int) : State :=
  if w.natAbs ≤ fld s .WORLD_DEAD_NS then s
  else
    let f := takeFree s (ppbOf s.yew.freq (fld s .WORLD_SLEW_PPB) + 1)
    let r := limitRate f.2 (if 0 < w then s.yew.freq - f.1 else s.yew.freq + f.1)
    setRate r.2 r.1

/-- A Sync of the selected grandmaster: `time` is the PTP time now in units of 2^-16 ns. Log 47 (DEDUCED). -/
def execPtpSyncReceive (src domain gm time : Nat) (logInterval : Int) (utc : Nat) (s : State) : Res :=
  .next <|
    if !ptpFrom s src || domain != fld s .DOMAIN then s
    else
      let run := if gm == s.yew.ptpMaster then s.yew.ptpRun + 1 else 1
      let s1 := { s with yew := { s.yew with ptpMaster := gm, ptpRun := run, ptpLast := s.raw, ptpInterval := logInterval
                                             ptpLost := false, utcOfs := utc % 65536 } }
      if run < 4 then s1
      else if !s1.yew.stepped then rootStep s1 (localExact s1 - ((time * 2 ^ 24 : Nat) : Int))
      else
        let w := (localExact s1 - ((time * 2 ^ 24 : Nat) : Int)) / (2 : Int) ^ 40
        slewWorld { s1 with yew := { s1.yew with worldOfs := satWorld w } } w

/-- RAW ticks of 4 Sync intervals of log interval k. -/
def fourSyncs (k : Int) : Nat := if 0 ≤ k then 5000000000 * 2 ^ k.toNat else 5000000000 / 2 ^ (-k).toNat

def execPtpLoss (s : State) : Res :=
  .next <|
    if flag s .ROOT_EN && flag s .PTP_EN && decide (4 ≤ s.yew.ptpRun) && elapsed s s.yew.ptpLast (fourSyncs s.yew.ptpInterval) then
      raise { s with yew := { s.yew with ptpRun := 0, ptpLost := true } } .ptpLost 0
    else s

/-! Time beats (R301, R303) -/

/-- What a beat does to the regions: those that miss it count, and the others lose the mark of STALE. -/
def beatRegions (s : State) (missed : List Nat) : State :=
  let awake := fun r => tget SleepState.awake s.pwr.domains r == .awake
  let counts := missed.foldl (fun t r => tins t r (tget 0 s.yew.regionMissed r + 1)) []
  let late := (missed.eraseDups).filter fun r => tget 0 counts r == 2
  let stale := (s.yew.regionStale.filter fun r => missed.contains r || !awake r)
  raiseEach { s with yew := { s.yew with regionMissed := counts, regionStale := stale ++ late.filter fun r => !stale.contains r } }
    .yewBeatMiss late

/-- The next beat: RAW comes to the next multiple of 1,250 ticks (R287, R301). `missed` are the regions that the beat does
not reach. While the always-on island is in reset there is no beat (R25). -/
def execTimeBeat (missed : List Nat) (s : State) : Res :=
  if missed.all fun r => decide (r < 359) then
    if !s.pwr.aon then .next s else
    let s1 := { s with raw := (s.raw / 1250 + 1) * 1250 % 2 ^ 64 }
    .next (slotThresholds (beatRegions (emit s1 (.beat s1.raw s1.yew.offset s1.yew.rate)) missed))
  else .fault .noSuchUnit

end Sys2Proof.Machine
end

