-- ==== Sys2Proof/Machine/Flags.lean ====
section
/-!
DEFINITION. Machine/Flags.lean: the status bits of the register space: what the read-only and W1C fields of every
register read (the register tables of the chapters, Table 17.6). A field that is neither kept nor computed here reads its
reset value.
-/

namespace Sys2Proof.Machine

open Sys2Proof

/-- The high and low word of a 64-bit value (R374). -/
def hiWord (v : Nat) : Nat := v / 2 ^ 32 % 2 ^ 32
def loWord (v : Nat) : Nat := v % 2 ^ 32

/-- A requester's copy of a selector (R367). -/
def selOf (s : State) (r blk inst off : Nat) : Nat := regActive s blk inst off r

/-- A signed value in a 16-bit field. -/
def s16 (i : Int) : Nat := wrapInt 16 i

/-- A signed value saturated to a 32-bit field. -/
def s32 (i : Int) : Nat := wrapInt 32 (clampInt (-2147483648) 2147483647 i)

/-! Hub and identity (Table 17.5) -/

/-- Does the shadow of a (block, instance) differ from its active values (R377)? -/
def dirty (s : State) (blk inst : Nat) : Bool := s.regs.shadow.any fun e => e.1 / 2 ^ 36 == blk * 256 + inst

/-- The pending timed commit of a (block, instance); a 0xFE commit is pending on every instance (R378). -/
def pendOf (s : State) (blk inst : Nat) : Option PendCommit :=
  s.regs.pend.find? fun c => c.blk == blk && (c.inst == inst || c.inst == 0xFE)

/-- The instance that REG_COMMIT_SEL of a requester names. -/
def commitSel (s : State) (r : Nat) : Nat × Nat :=
  let v := selOf s r 0x00 0 0x144
  (bitsOf v 15 8, bitsOf v 7 0)

def hubStatus (s : State) (r off : Nat) : Option Nat :=
  let c := commitSel s r
  if off == 0x08 then some (hiWord Config.fusedSerial.toNat)
  else if off == 0x0C then some (loWord Config.fusedSerial.toNat)
  else if off == 0x10 then some (hiWord macBase)
  else if off == 0x14 then some (loWord macBase)
  else if off == 0x18 || off == 0x1C || off == 0x20 then some (s.pwr.fwVersions.getD ((off - 0x18) / 4) 0)
  else if off == 0x40 then some s.pwr.cause
  else if off == 0x88 then some s.pwr.capW
  else if 0x100 ≤ off ∧ off < 0x120 then
    let q := (off - 0x100) / 8
    if off % 8 == 0 then some (tget 0 s.regs.wstat q * 2 ^ 24 + tget 0 s.regs.rejects q) else some (tget 0 s.regs.waddr q)
  else if off == 0x140 then some (s.regs.voteFix * 65536 + s.regs.timeouts)
  else if off == 0x148 then
    some (bitv (pendOf s c.1 c.2).isSome 31 + bitv (dirty s c.1 c.2) 30 + tget 0 s.regs.lastStatus (c.1 * 256 + c.2) * 65536)
  else if off == 0x14C then some (match pendOf s c.1 c.2 with | some p => p.at_ % 2 ^ 32 | none => 0)
  else none

/-! Holly (Table 15.7) -/

/-- The keys that KEY_STATE of a port reports: its link's, or those of the lowest virtual link on an Ethernet-mode port.
Log 33 (DESIGN CHOICE). -/
def portKeys (s : State) (p : Nat) : LinkKeys :=
  match (linksOf s p).head? with
  | some l => linkKeys s l
  | none => {}

/-- KEY_STATE of HOLLY_PROT. -/
def keyState (k : LinkKeys) : Nat :=
  if k.txKey.isSome then (if k.exchanging then 3 else 2) else if k.exchanging then 1 else 0

/-- The hash of a tenant authority's two public keys (Table 15.1). Log 34 (DEDUCED). -/
def authorityHash (b : Binding) : List Byte := sha384 (b.ecPub ++ b.mlPub)

def hollyStatusWord (s : State) : Nat :=
  bitv s.holly.ownerKey.isSome 31 + bitv s.holly.debug 30 + bitv s.holly.fwBad 29 + s.holly.bindings.length

def hollyStatus (s : State) (off idx : Nat) : Option Nat :=
  if off == 0x00 then some (hollyStatusWord s)
  else if off == 0x0C then some s.holly.erases
  else if off == 0x14 then let k := portKeys s idx; some (keyState k * 2 ^ 29 + k.rekeys)
  else if off == 0x1C then some (bitv (tfind s.holly.bindings idx).isSome 31)
  else if off == 0x20 then some (match tfind s.holly.bindings idx with | some b => beAt (authorityHash b) 44 4 | none => 0)
  else none

/-! Yew (Table 13.7) -/

def yewPhaseCode (y : YewPhase) : Nat :=
  match y with | .free => 0 | .acquire => 1 | .tracking => 2 | .locked => 3 | .holdover => 4

def yewStatus (s : State) (r off idx : Nat) : Option Nat :=
  let y := s.yew
  if off == 0x00 then
    some (yewPhaseCode y.phase * 2 ^ 29 + moduleQual s (flag s .ROOT_EN) * 2 ^ 27 + bitv y.stepped 26 + bitv y.altActive 25 + thopsNow s)
  else if off == 0x04 then some (hiWord s.raw)
  else if off == 0x08 then some (loWord s.raw)
  else if off == 0x0C then some (hiWord (nowNs s))
  else if off == 0x10 then some (loWord (nowNs s))
  else if off == 0x14 then some (tget 0 s.regs.latched r)
  else if off == 0x18 then some (hiWord y.rate)
  else if off == 0x1C then some (loWord y.rate)
  else if off == 0x20 then some (thetaPs y.theta)
  else if off == 0x24 then some (clampInt 0 4294967295 (y.delay / 131072)).toNat
  else if off == 0x40 then some (s32 y.worldOfs)
  else if off == 0x44 then some (y.utcOfs * 256 + b2n (decide (4 ≤ y.ptpRun)))
  else if off == 0x88 then some (s32 (meanPs (tget {} y.ports idx).thetas))
  else none

/-! NCP (Table 16.6) -/

/-- Does a class have state to report: the owner, the untagged class, or a bound partition (R364)? -/
def classHeld (s : State) (cls : Nat) : Bool := cls == 0 || cls == 0x1000 || (tfind s.holly.bindings cls).isSome

def ncpStatus (s : State) (off idx : Nat) : Option Nat :=
  let held := classHeld s idx
  if off == 0x10 then
    some (if held then (s.ncp.running.filter (·.cls == idx)).length * 256 + (tget [] s.ncp.queues idx).length else 0)
  else if off == 0x14 then some (if held then (tget {} s.ncp.seqs idx).h else 0)
  else if off == 0x18 then some (if held then let l := tget (0, 0) s.ncp.last idx; l.1 * 2 ^ 24 + l.2 else 0)
  else if off == 0x20 then some s.ncp.cmds
  else if off == 0x24 then some s.ncp.rejects
  else if 0x100 ≤ off ∧ off < 0x110 then
    let m := tget {} s.ncp.mbx ((off - 0x100) / 4)
    some (bitv m.busy 30 + bitv m.ready 29 + m.len)
  else none

/-! Boxwood and Shingle (Tables 4.11, 5.5, 5.6) -/

/-- The number of the entry in force `phase` units into a gate list. -/
def entryIndex : List GateEntry → Nat → Nat → Nat
  | [], i, _ => i
  | e :: t, i, phase => if phase < e.dur * 200 then i else entryIndex t (i + 1) (phase - e.dur * 200)

def gateEntryNow (s : State) (b : BxPort) : Nat :=
  match listAt b (nowU s) with
  | some g => entryIndex g.entries 0 ((nowU s - g.takeover * 200) % max 1 (cycleNs g * 200))
  | none => 0

def boxStatus (s : State) (off idx : Nat) : Option Nat :=
  let p := idx % 65536; let tc := idx / 65536
  let b := bxPort s p
  if off == 0x0C then
    some (bucketNow (tfind b.pol tc) (pqFld s .POL_RATE_RATE p tc) (pqFld s .POL_BURST_BURST p tc) (nowNs s) / 8000)
  else if off == 0x18 then some (shapeLevel s p tc / 8000)
  else if off == 0x20 then some (bitv b.calPend.isSome 31 + bitv b.cal.isSome 30 + b.slot)
  else if off == 0x24 then some (bitv b.glPend.isSome 31 + bitv b.gl.isSome 30 + gateEntryNow s b)
  else if off == 0x28 then some (match b.glPend with | some g => loWord g.takeover | none => 0)
  else if off == 0x2C then some (tc7Resv s p)
  else if off == 0x30 then some (match b.gl with | some g => hiWord g.imgId | none => 0)
  else if off == 0x34 then some (match b.gl with | some g => loWord g.imgId | none => 0)
  else none

def shingleStatus (s : State) (inst off idx : Nat) : Option Nat :=
  if inst != 0xFF then (if off == 0x44 then some (thrOf s (idx % 65536) (idx / 65536)).r else none)
  else if off == 0x08 then some (bitv s.sh.prev.isSome 3 + bitv s.sh.pend.isSome 2 + s.sh.epoch)
  else if off == 0x0C then some (match s.sh.pend with | some t => loWord t.takeover | none => 0)
  else if off == 0x14 then some (oldFrames s)
  else if off == 0x2C then some (4096 - max (sweepSlots s 0) (sweepSlots s 1))
  else none

/-! Laurel (Tables 6.8, 6.9) -/

def laurelStatus (s : State) (inst off idx : Nat) : Option Nat :=
  let r := s.laurel.r0
  if inst != 0xFF then
    let h := replica s inst
    if off == 0x100 then some h.parLast else if off == 0x104 then some h.parCount else if off == 0x108 then some 0 else none
  else if off == 0x00 then some (b2n s.laurel.ready)
  else if off == 0x0C then some s.laurel.learnQ.length
  else if off == 0x14 then some s.laurel.age
  else if off == 0x18 then some r.exact.length
  else if off == 0x1C then some (tcount (fun _ (e : ExactEnt) => e.key / 2 ^ 92 == 3) r.exact)
  else if off == 0x20 then some r.v4.length
  else if off == 0x24 then some r.v6.length
  else if off == 0x28 then some r.mac.length
  else if off == 0x34 then
    let word := idx % 8; let v6 := bitAt idx 3
    some (((lengthsInUse r v6).filter fun n => n / 32 == word).foldl (fun a n => a + 2 ^ (n % 32)) 0)
  else if off == 0x48 then some (lrnCount s idx)
  else none

/-! Loam and Sieve (Tables 3.11 to 3.13) -/

/-- Clods of a half that are in no use. -/
def freeClods (s : State) (half : Nat) : Nat := 25165824 - tcount (fun k (r : ClodRec) => r.kind != .free && k / clodsPerStack / 6 == half) s.loam.clods

def loamStatus (s : State) (inst off idx : Nat) : Option Nat :=
  if inst != 0xFF then
    if off == 0x100 then some (freeClods s inst) else if off == 0x108 then some (clodsOf s inst .spill) else none
  else if off == 0x00 then some (b2n s.loam.initDone)
  else if off == 0x04 then some (if s.loam.initDone then sharedSize s else 0)
  else if off == 0x08 then some s.loam.sharedUsed
  else if off == 0x24 then some (loWord (coreCycle s / 16))
  else if off == 0x4C then some (tget 0 s.loam.tcharge idx)
  else if off == 0x50 then some (tget 0 s.loam.scharge idx)
  else none

def sieveStatus (s : State) (half off : Nat) : Option Nat :=
  let v := sieveOf s half
  if off == 0x08 then some v.passes
  else if off == 0x0C then some v.leaks
  else if off == 0x10 then some v.doubles
  else if off == 0x14 then
    some (v.last.kind * 2 ^ 30 + v.last.tier * 2 ^ 29 +
      if v.last.tier == 0 then v.last.unit else v.last.unit / clodsPerStack * 2 ^ 22 + v.last.unit % clodsPerStack)
  else if off == 0x18 then some v.last.part
  else none

/-! Kaolin and Marl (Tables 8.7, 8.8, 9.8, 9.9) -/

/-- Domains of a kind that are awake, from domain `d0` on, as bits. -/
def awakeBits (s : State) (d0 n : Nat) : Nat := (List.range n).foldl (fun a i => a + bitv (domainAwake s (d0 + i)) i) 0

/-- Open chunks of an engine, resident or paged, from their first addend on (R177): those of admitted collectives, and tokens. -/
def openChunks (s : State) (k : Nat) : Nat :=
  (s.tilth.colls.map fun e => tcount (fun c (x : Chunk) => chunkEngine e.2 c == k && !x.lanes.isEmpty) e.2.chunks).foldl (· + ·) 0 +
    tcount (fun _ (t : Token) => t.phase == .waiting && !t.got.isEmpty && combineEngine t == k) s.marl.tokens

/-- The words of a check record at offsets 0x24 to 0x34 (R192, R209); `unit` is where BUSY of the unit itself lies. -/
def logWord (x : CheckRec) (unit off : Nat) : Option Nat :=
  if off == 0x24 then some x.coll
  else if off == 0x28 then some x.chunk
  else if off == 0x2C then some (s16 x.temp * 65536 + x.volt)
  else if off == 0x30 then some (x.marlBusy * 2 ^ 24 + x.engBusy * 65536 + x.unitBusy * 2 ^ unit)
  else if off == 0x34 then some x.time
  else none

def kaoStatus (s : State) (inst off idx : Nat) : Option Nat :=
  if inst == 0xFF then
    if off == 0x00 then some (awakeBits s 327 16)
    else if off == 0x14 then
      some (bitv (decide (idx < 10) || (tfind s.kao.progs idx).isSome) 31 + (kProg s idx).length * 65536 + progUsers s idx)
    else if off == 0x18 then some (match tfind s.kao.progs idx with | some p => hiWord p.imgId | none => 0)
    else if off == 0x1C then some (match tfind s.kao.progs idx with | some p => loWord p.imgId | none => 0)
    else none
  else
    let e := kEng s inst
    if off == 0x04 then some (openChunks s inst * 65536 + (128 - residentEntries e))
    else if off == 0x08 then some (hiWord e.adds)
    else if off == 0x0C then some (loWord e.adds)
    else if off == 0x10 then some (e.residueErr * 65536 + e.shadowMismatch)
    else if off == 0x14 then some e.shadowRuns
    else if off == 0x20 then some (e.log.kind * 2 ^ 30 + e.log.other * 2 ^ 26)
    else logWord e.log 0 off

def marlMopStatus (s : State) (off idx : Nat) : Option Nat :=
  match mopOf s idx with
  | none => some 0
  | some m =>
    if off == 0x24 then
      some (bitv true 31 + mKind m * 2 ^ 29 + bitv (isSplit m) 28 + bitv m.failed 27 +
        (s.marl.tiles.filter fun t => t.mop == idx && t.half == 0).length * 2 ^ 19 + (tokensOf s idx m + mopUsers s idx))
    else if off == 0x28 then some (mPart m * 2 ^ 20 + mRop m * 65536 + mLayer m)
    else if off == 0x2C then some (hiWord (mImgId m))
    else if off == 0x30 then some (loWord (mImgId m))
    else if off == 0x34 then some (hiWord m.routed)
    else if off == 0x38 then some (loWord m.routed)
    else none

def marlStatus (s : State) (inst off idx : Nat) : Option Nat :=
  if inst == 0xFF then
    if off == 0x00 then some (awakeBits s 343 16)
    else if off == 0x0C then some (((List.range 128).map fun a => (freePages s.marl a).length).foldl (· + ·) 0)
    else if 0x24 ≤ off ∧ off ≤ 0x38 then marlMopStatus s off idx
    else none
  else
    let x := mArray s inst
    if off == 0x00 then
      some ((s.marl.tiles.filter fun t => t.array == inst).length * 65536 +
        (s.marl.retired.filter fun q => q / 128 == inst).length * 256 + (freePages s.marl inst).length)
    else if off == 0x04 then some (x.ce * 65536 + x.ue)
    else if off == 0x08 then some (x.rowErr * 65536 + x.colErr)
    else if off == 0x20 then some (x.log.kind * 2 ^ 30 + x.log.other * 2 ^ 22)
    else logWord x.log 8 off

/-! Tilth (Tables 10.11, 10.12) -/

/-- TL_Q_STATE of an open queue: STATE, PART, LAST_STATUS, DEPTH. -/
def queueWord (s : State) (q : Nat) : Nat :=
  match tfind s.tilth.queues q with
  | none => 0
  | some x =>
    let st := if x.stopped then 2 else match x.descs.head? with | some d => if waitOver s d then 1 else 3 | none => 1
    st * 2 ^ 30 + x.part * 2 ^ 18 + x.lastStatus * 1024 + x.descs.length

def tilthStatus (s : State) (r inst off idx : Nat) : Option Nat :=
  if inst == 0xFF then
    if off == 0x10 then some (2097152 - listEntries s (2 ^ 32) (·.members.length))
    else if off == 0x14 then some (262144 - listEntries s (2 ^ 32) (·.nodes.length))
    else none
  else
    let q := 64 * inst + selOf s r 0x1A inst 0x108
    let slow := (tget [] s.tilth.slow inst)[idx]?
    if off == 0x100 then some (admittedIn s inst)
    else if off == 0x104 then some (clodsOf s inst .cache)
    else if off == 0x10C then some (queueWord s q)
    else if off == 0x110 then some (match tfind s.tilth.queues q with | some x => (x.descs.head?.map dColl).getD 0 | none => 0)
    else if off == 0x114 then some (tcount (fun _ (c : Coll) => c.queue == some q) s.tilth.colls)
    else if off == 0x11C then some (match tfind s.tilth.queues q with | some x => x.toks.getD idx 0 | none => 0)
    else if off == 0x124 then some (match slow with | some e => bitv true 31 + e.rank | none => 0)
    else if off == 0x128 then some (match slow with | some e => e.part * 65536 + e.mlist | none => 0)
    else if off == 0x12C then some (match slow with | some e => e.count % 2 ^ 32 | none => 0)
    else if off == 0x130 then some (match slow with | some e => min (e.lagNs / 1000) (2 ^ 32 - 1) | none => 0)
    else none

/-! Links (Table 11.9) -/

def phaseCode (x : LinkPhase) : Nat := match x with | .down => 0 | .training => 1 | .up => 2 | .degraded => 3

/-- The sum of a count over the links of a port. -/
def overLinks (s : State) (p : Nat) (g : LinkEnd → Nat) : Nat := ((linksOf s p).map fun l => g (endOf s l)).foldl (· + ·) 0

def linkStatus (s : State) (inst off idx : Nat) : Option Nat :=
  let l := portLink s idx
  if off == 0x08 then
    some (phaseCode l.phase * 2 ^ 29 + (if portUp s idx then l.active else 0) * 2 ^ 24 + l.laneOk * 65536 + l.idMismatch * 256)
  else if off == 0x0C then some ((if portUp s idx then min (rtoNs s idx) 65535 else 0) * 65536 + min l.rtt 65535)
  else if off == 0x10 then some (beAt l.hello 0 2)
  else if off == 0x14 then some (beAt l.hello 2 4)
  else if off == 0x18 then some (beAt l.hello 6 2 % 2048)
  else if off == 0x1C then some (overLinks s idx unsettled)
  else if off == 0x20 then some (b2n (tfind s.lk.spares inst).isSome)
  else if off == 0x24 then some (overLinks s idx (·.replays) % 2 ^ 32)
  else none

/-! Privet and Hedgerow (Tables 12.14, 12.15) -/

/-- Bits 2j and 2j + 1: lines 16 and 17 of fibre j in use. -/
def spareUse (s : State) (eng : Nat) : Nat :=
  (List.range 8).foldl (fun a i =>
    a + bitv (!(txLineFree s eng (i / 2) (16 + i % 2) && rxLineFree s eng (i / 2) (16 + i % 2))) i) 0

def privetStatus (s : State) (inst off idx : Nat) : Option Nat :=
  let line := tget ({} : CombLine) s.prv.lines (lineNo inst (idx / 256 % 2) (idx % 32))
  let r := ringNo inst (idx / 128 % 2) (idx / 32 % 4) (idx % 32)
  if inst == 0xFF then none
  else if off == 0x00 then
    some (combOf s inst * 2 ^ 31 + bitv (s.prv.spent.contains inst) 30 + spareUse s inst * 256)
  else if off == 0x08 then some (s16 line.base * 65536 + s16 line.now)
  else if off == 0x0C then some line.state
  else if off == 0x14 then some (ringState s r * 2 ^ 29 + (laneOfRing s r).getD 0x7FF * 65536 + (ringOf' s r).heat)
  else if off == 0x18 then some (ringCentre s r % 65536 * 65536 + (ringOf' s r).relocks)
  else none

def hedgerowStatus (s : State) (off idx : Nat) : Option Nat :=
  if off == 0x00 then some (bitv (!s.xc.pend.isEmpty) 31 + tcount (fun _ (c : Circuit) => c.lit) s.xc.circuits)
  else if off == 0x04 then some (match minBy id (s.xc.pend.map (·.2.takeover)) with | some t => loWord t | none => 0)
  else
    match tfind s.xc.circuits idx with
    | none => if off == 0x10 || off == 0x14 then some 0 else none
    | some c =>
      if off == 0x10 then some (bitv true 31 + c.xi * 65536 + c.part)
      else if off == 0x14 then some (s16 c.setup * 65536 + s16 c.now)
      else none

/-! Hawthorn (Table 14.12) -/

def hawPortStatus (s : State) (off p : Nat) : Option Nat :=
  let v := peerView s p
  if off == 0x44 then
    some (cabCode s p * 2 ^ 29 + fenceCode s p * 2 ^ 27 + bitv (holdsPart s && portAdmits s p s.haw.part 0) 26 +
      bitv (isSpinePort s p && (neighOf s (dimCode s p)).degraded) 25 + tget 0 s.haw.swapWith p)
  else if off == 0x48 then some (loWord v.1)
  else if off == 0x4C then some (v.2.1 * 65536 + v.2.2)
  else none

def hawStatus (s : State) (off idx : Nat) : Option Nat :=
  let h := s.haw
  if off == 0x00 then
    let st := match h.pstate with | .none => 0 | .active => 1 | .teardown => 2
    some (st * 2 ^ 30 + bitv h.hold 29 + bitv (selfDegraded s) 28 + h.part * 65536 + h.score)
  else if off == 0x04 then some (h.free * 65536 + h.base)
  else if off == 0x28 then some (budgetB s)
  else if off == 0x2C then some h.expelled.length
  else if 0x44 ≤ off ∧ off ≤ 0x4C then hawPortStatus s off idx
  else if off == 0x54 then
    let b := spineBits s idx
    some (bitv b.fenced 31 + bitv b.weak 30 + bitv b.degraded 29 + bitv b.probation 28 + bitv b.cleared 27)
  else if off == 0x60 then
    some (match h.lastVotes.getLast? with
      | some v => v.result * 2 ^ 28 + v.evid * 2 ^ 25 + v.voters * 2 ^ 21 + v.yes * 2 ^ 17 + v.suspect
      | none => 0)
  else if off == 0x64 then some (match h.lastVotes.getLast? with | some v => loWord v.at_ | none => 0)
  else if off == 0x68 then some h.rfence.length
  else none

/-! Strata (Tables 18.10, 18.11) -/

def counterStatus (s : State) (off idx : Nat) : Option Nat :=
  let prev := tget 0 s.st.prev idx
  if off == 0x04 then some (hiWord (ctrSeen s idx).1)
  else if off == 0x08 then some (loWord (ctrSeen s idx).1)
  else if off == 0x0C then some (hiWord prev)
  else if off == 0x10 then some (loWord prev)
  else if off == 0x14 then some (match tfind s.st.tag idx with | some t => bitv true 31 + t.1 | none => 0)
  else if off == 0x18 then some (match tfind s.st.tag idx with | some t => t.2 | none => 0)
  else if off == 0x20 then some (match tfind s.st.thr idx with | some t => hiWord t.value | none => 0)
  else if off == 0x24 then some (match tfind s.st.thr idx with | some t => loWord t.value | none => 0)
  else if off == 0x28 then
    some ((match tfind s.st.thr idx with | some t => bitv true 31 + bitv t.fired 30 | none => 0) + s.st.thr.length)
  else if off == 0x54 then some s.st.aseq
  else none

def snapCode (x : SnapPhase) : Nat := match x with | .pending => 1 | .writing => 2 | .complete => 3

def traceStatus (s : State) (off : Nat) : Option Nat :=
  if off == 0x04 then some s.st.frozenT
  else if off == 0x10 then some (s.st.snaps.foldl (fun a x => a + snapCode x.phase * 4 ^ x.slot) 0)
  else if off == 0x24 then
    some (match s.st.trace with
      | some t => 2 ^ 30 + bitv (bitAt (beAt t.params 0 1) 4) 29 + beAt t.params 4 2 % 4096 * 65536
      | none => 0)
  else if off == 0x28 then some (hiWord s.st.traceBytes)
  else if off == 0x2C then some (loWord s.st.traceBytes)
  else if off == 0x30 then some s.st.traceDrops
  else none

/-- What the read-only and W1C fields of a register read for a requester; `idx` is the copy that its selector names. None:
their reset values. Log 35 (DESIGN CHOICE). -/
def statusWord (s : State) (r blk inst off idx : Nat) : Option Nat :=
  if blk == 0x00 then hubStatus s r off
  else if blk == 0x01 then hollyStatus s off idx
  else if blk == 0x02 then yewStatus s r off idx
  else if blk == 0x03 then ncpStatus s off idx
  else if blk == 0x09 then (if inst == 0xFF then none else boxStatus s off idx)
  else if blk == 0x0A then laurelStatus s inst off idx
  else if blk == 0x0B then shingleStatus s inst off idx
  else if blk == 0x10 then loamStatus s inst off idx
  else if blk == 0x11 then sieveStatus s inst off
  else if blk == 0x18 then kaoStatus s inst off idx
  else if blk == 0x19 then marlStatus s inst off idx
  else if blk == 0x1A then tilthStatus s r inst off idx
  else if blk == 0x20 || blk == 0x21 then (if inst == 0xFF then none else linkStatus s inst off idx)
  else if blk == 0x22 then privetStatus s inst off idx
  else if blk == 0x23 then hedgerowStatus s off idx
  else if blk == 0x28 then hawStatus s off idx
  else if blk == 0x30 then counterStatus s off idx
  else if blk == 0x31 then traceStatus s off
  else none

end Sys2Proof.Machine
end

