-- ==== Sys2Proof/Machine/NcpOps.lean ====
section
/-!
DEFINITION. Machine/NcpOps.lean: how Heath takes a message (R352, R355 to R360): framing, authority, fragments, sequence
numbers and the queue of its class; and the mailbox slots.
-/

namespace Sys2Proof.Machine

open Sys2Proof

/-- The fields of a message header that Heath reads (Table 16.1). -/
structure NcpHdr where
  ver : Nat
  reply : Bool
  unauth : Bool
  frag : Bool
  opcode : Nat
  seq : Nat
  part : Nat
  len : Nat
  tag : List Byte
  reservedOk : Bool
  deriving DecidableEq, Repr

def ncpParse (m : List Byte) : NcpHdr :=
  let b0 := beAt m 0 1; let b1 := beAt m 1 1; let p := beAt m 8 2
  { ver := b0 / 16, reply := bitAt b1 7, unauth := bitAt b1 6, frag := bitAt b1 5, opcode := beAt m 2 2, seq := beAt m 4 4
    part := p % 4096, len := beAt m 12 4, tag := bytesAt m 16 16
    reservedOk := b0 % 16 == 0 && b1 % 16 == 0 && decide (p < 0xFFF) && beAt m 10 2 == 0 }

/-- Does a message frame: VER 0x1, LEN its length less 32, and no more than its transport's unit? Log 39 (DESIGN CHOICE). -/
def framesOk (via : Transport) (m : List Byte) : Bool :=
  decide (32 ≤ m.length) && decide (m.length ≤ unitOf via) && (ncpParse m).ver == 1 && (ncpParse m).len + 32 == m.length

/-- An untagged reply that rejects a message before any key has authenticated it (R353). -/
def rejectRaw (s : State) (via : Transport) (h : NcpHdr) (code : Code) : State :=
  let s1 := { s with ncp := { s.ncp with cmds := (s.ncp.cmds + 1) % 2 ^ 32, rejects := (s.ncp.rejects + 1) % 2 ^ 32 } }
  deliver s1 via (replyMsgs none via false h.opcode h.seq h.part (replyBody code 0 noIndex []))

/-- The untagged opcodes (R359): 0x0906 only while no owner is set. -/
def untaggedOp (s : State) (op : Nat) : Bool :=
  [0x0101, 0x0901, 0x0902, 0x0903, 0x0904, 0x0908].contains op || (op == 0x0906 && s.holly.ownerKey.isNone)

def overMailbox : Transport → Bool
  | .mailbox _ => true
  | _ => false

/-- Who a message authenticates as, or why it does not (R347, R359). The Boolean says whether the tag itself failed.
Log 36 (DESIGN CHOICE). Log 37 (DEDUCED). -/
def authorityOf (s : State) (via : Transport) (h : NcpHdr) (m : List Byte) : Except (Code × Bool) Authority :=
  if h.unauth then
    if !untaggedOp s h.opcode || (h.opcode == 0x0906 && !overMailbox via) then .error (.notAuthorised, false)
    else if h.seq != 0 || h.part != 0 || beNat h.tag != 0 then .error (.badParam, false)
    else .ok .untagged
  else if untaggedOp s h.opcode then .error (.notAuthorised, false)
  else
    match keyOfPart s h.part with
    | none => .error (.notAuthorised, true)
    | some k =>
      if (hmac384 k (m.take 16 ++ m.drop 32)).take 16 == h.tag then .ok (if h.part == 0 then .owner else .tenant h.part)
      else .error (.notAuthorised, true)

/-! Sequence numbers (R357, R358) -/

/-- What a sequence number is to its key. -/
inductive SeqJudge where
  | fresh | repeated | stale
  deriving DecidableEq, Repr

def seqJudge (q : SeqState) (seq : Nat) : SeqJudge :=
  let d := diff32 seq q.h
  if !q.started then .fresh
  else if 0 < d then .fresh
  else if d < -63 then .stale
  else if q.seen.contains seq then .repeated
  else .fresh

/-- Accept a number: H and the map of the 64 numbers up to it. -/
def seqAccept (q : SeqState) (seq : Nat) : SeqState :=
  let h := if !q.started || 0 < diff32 seq q.h then seq else q.h
  { q with started := true, h := h, seen := (q.seen ++ [seq]).filter fun n => decide (-63 ≤ diff32 n h) }

/-- Send the cached reply of a repeated command again; while the first execution has not answered there is none. -/
def repeatReply (s : State) (cls : Nat) (auth : Authority) (via : Transport) (seq : Nat) : State × Bool :=
  let s1 := raise s .ncpDup cls (recVal cls)
  match (tget {} s.ncp.seqs cls).cache.find? fun e => e.1 == seq with
  | none => (s1, false)
  | some e =>
    (deliver s1 via (replyMsgs (keyOfAuth s auth) via (beAt e.2 0 1 == 1) (beAt e.2 1 2) seq (partOf auth) (e.2.drop 3)), true)

/-- Queue an accepted command in its class (R360), or reject it: BUSY_TEARDOWN for a partition that is being torn down
(R362), NO_RESOURCE for a full queue. -/
def queueCmd (s : State) (auth : Authority) (via : Transport) (op seq : Nat) (body : List Byte) : State :=
  let cls := classOf auth
  let c : Ncp := { auth := auth, seq := seq, via := via, body := body }
  let q := tget [] s.ncp.queues cls
  if (match auth with | .tenant p => tearingDown s p | _ => false) then finish s c op .busyTeardown 0 noIndex []
  else if 64 ≤ q.length then finish (raise s .ncpRateDrop cls (recVal cls)) c op .noResource 0 noIndex []
  else
    let e : QCmd := { cls := cls, opcode := op, seq := seq, part := partOf auth, via := via, body := body }
    { s with ncp := { s.ncp with queues := tset [] s.ncp.queues cls (q ++ [e]) } }

/-- An assembled command: its sequence number, then its queue. The Boolean says whether a reply of its own is on its way. -/
def takeCommand (s : State) (auth : Authority) (via : Transport) (op seq : Nat) (body : List Byte) : State × Bool :=
  let cls := classOf auth
  match auth with
  | .untagged => (queueCmd s auth via op seq body, true)
  | _ =>
    let q := tget {} s.ncp.seqs cls
    match seqJudge q seq with
    | .repeated => repeatReply s cls auth via seq
    | .stale =>
      let s1 := raise s .ncpStaleSeq cls (recVal cls)
      (finish s1 { auth := auth, seq := seq, via := via, body := [] } op .notAuthorised 0 noIndex [], true)
    | .fresh =>
      (queueCmd { s with ncp := { s.ncp with seqs := tins s.ncp.seqs cls (seqAccept q seq) } } auth via op seq body, true)

/-! Fragments (R355) -/

/-- Does a fragment come over the transport its command's earlier ones used? A mailbox command may use any slot. -/
def sameTransport : Transport → Transport → Bool
  | .mailbox _, .mailbox _ => true
  | a, b => a == b

/-- Do two stretches overlap? An empty one overlaps none. -/
def stretchHits (a n b m : Nat) : Bool := decide (a < b + m) && decide (b < a + n)

/-- The data received in order of offset. -/
def insertFrag (x : Nat × List Byte) : List (Nat × List Byte) → List (Nat × List Byte)
  | [] => [x]
  | y :: t => if x.1 ≤ y.1 then x :: y :: t else y :: insertFrag x t

/-- File a fragment in its staging buffer; the last one completes the command. Log 38 (DESIGN CHOICE). -/
def takeFrag (s : State) (auth : Authority) (via : Transport) (h : NcpHdr) (body : List Byte) : State × Bool :=
  let cls := classOf auth
  let foff := beAt body 0 4; let total := beAt body 4 4; let data := body.drop 8
  let drop := (s, false)
  let answer := fun (code : Code) =>
    (finish s { auth := auth, seq := h.seq, via := via, body := [] } h.opcode code 0 noIndex [], true)
  let store := fun (k : Nat) (g : Stage) =>
    let frags := insertFrag (foff, data) g.frags
    if (frags.map fun f => f.2.length).foldl (· + ·) 0 == total then
      takeCommand { s with ncp := { s.ncp with stages := tdel s.ncp.stages k } } auth via h.opcode h.seq (frags.flatMap (·.2))
    else ({ s with ncp := { s.ncp with stages := tins s.ncp.stages k { g with frags := frags } } }, false)
  if auth != .untagged && seqJudge (tget {} s.ncp.seqs cls) h.seq == .repeated then
    (if foff == 0 then repeatReply s cls auth via h.seq else drop)
  else if body.length < 8 || 16777232 < total then answer .badParam
  else if total < foff + data.length then drop
  else
    match s.ncp.stages.find? fun e => e.2.opcode == h.opcode && e.2.seq == h.seq && e.2.part == cls with
    | some (k, g) =>
      if !sameTransport g.via via || g.total != total || g.frags.any (fun f => stretchHits f.1 f.2.length foff data.length) then drop
      else store k g
    | none =>
      if 4 ≤ s.ncp.stages.length || 2 ≤ tcount (fun _ (g : Stage) => g.part == cls) s.ncp.stages then answer .noResource
      else
        match tfree s.ncp.stages 4 0 with
        | none => answer .noResource
        | some k => store k { opcode := h.opcode, seq := h.seq, part := cls, total := total, frags := [], startedAt := s.raw, via := via }

/-- Take a message of a transport (R352 to R360). The Boolean says whether it is answered, now or later. -/
def takeMessage (s : State) (via : Transport) (m : List Byte) : State × Bool :=
  let h := ncpParse m
  if !framesOk via m then
    (if overMailbox via || 32 ≤ m.length then (rejectRaw s via h .badParam, true) else (s, false))
  else if h.reply then (s, false)
  else if !h.reservedOk then (rejectRaw s via h .badParam, true)
  else
    match authorityOf s via h m with
    | .error (code, tagFailed) =>
      (rejectRaw (if tagFailed then raise s .ncpTagFail h.part (recVal h.part) else s) via h code, true)
    | .ok auth =>
      if h.frag then takeFrag s auth via h (m.drop 32) else takeCommand s auth via h.opcode h.seq (m.drop 32)

/-! Mailbox (R356) -/

/-- GO: Heath takes the message of the command window; a message with no reply of its own clears BUSY at once. -/
def mbxSubmit (s : State) (k len : Nat) : State :=
  let m := tget {} s.ncp.mbx k
  if m.busy then raise s .mbxBusy 0 (recVal k)
  else
    let s1 := { s with ncp := { s.ncp with mbx := tset {} s.ncp.mbx k { m with busy := true, len := len } } }
    let msg := padTo len (m.window.take len)
    let r := takeMessage s1 (.mailbox k) msg
    if r.2 then r.1
    else
      let m2 := tget {} r.1.ncp.mbx k
      { r.1 with ncp := { r.1.ncp with mbx := tset {} r.1.ncp.mbx k { m2 with busy := false } } }

/-- READY cleared: the next message of the slot's reply may be written. -/
def mbxClear (s : State) (k : Nat) : State :=
  let m := tget {} s.ncp.mbx k
  if m.ready then mbxPump { s with ncp := { s.ncp with mbx := tset {} s.ncp.mbx k { m with ready := false } } } k else s

/-! Token buckets (R360) -/

/-- One command in the units of a class's bucket: RATE of them accrue in each tick of RAW, so that RATE commands accrue in a
second. -/
def commandToken : Nat := 1250000000

/-- What a class's bucket holds now; one never used is full. -/
def ncpLevel (s : State) (cls : Nat) : Nat :=
  let full := fldSel s .NCP_RATE_BURST cls * commandToken
  match tfind s.ncp.buckets cls with
  | none => full
  | some b => min full (b.1 + fldSel s .NCP_RATE_RATE cls * (s.raw - b.2))

/-- Leave a number of units in a class's bucket. -/
def setNcpLevel (s : State) (cls n : Nat) : State :=
  { s with ncp := { s.ncp with buckets := tins s.ncp.buckets cls (n, s.raw) } }

end Sys2Proof.Machine
end

