-- ==== Sys2Proof/Machine/RegOps.lean ====
section
/-!
DEFINITION. Machine/RegOps.lean: reading and writing a register from the register bus (R365 to R373), the rules of the
fields (the register tables of the chapters), and the commits of shadow fields (R376 to R379, R381).
-/

namespace Sys2Proof.Machine

open Sys2Proof

/-! Addresses (R365, R369) -/

/-- The parts of a register address. -/
structure RegAddr where
  blk : Nat
  inst : Nat
  aka : Nat
  off : Nat
  shadow : Bool
  deriving DecidableEq, Repr

def regAddr (a : Nat) : RegAddr :=
  { blk := a / 2 ^ 24 % 256, inst := a / 2 ^ 16 % 256, aka := a / 2 ^ 14 % 4, off := a % 2 ^ 13, shadow := bitAt a 13 }

/-- The register at an address; none when the address is unoccupied. -/
def regOf (a : Nat) : Option RegDesc :=
  let x := regAddr a
  if x.off % 4 == 0 then findReg x.blk x.inst x.off else none

/-- The copy of a register that a requester's selectors address (R367). -/
def copyOf (s : State) (r : Nat) (x : RegAddr) (d : RegDesc) : Nat :=
  match d.sel with
  | .plain => 0
  | .selector => r
  | .byRegister o => selOf s r x.blk x.inst o

/-- A field's bits of a word. -/
def FieldDesc.get (f : FieldDesc) (w : Nat) : Nat := bitsOf w (f.lsb + f.width - 1) f.lsb

/-- A word with a field's bits replaced. -/
def FieldDesc.put (f : FieldDesc) (w v : Nat) : Nat := w - f.get w * 2 ^ f.lsb + v % 2 ^ f.width * 2 ^ f.lsb

/-- Is a field one that a register keeps? -/
def FieldDesc.kept (f : FieldDesc) : Bool :=
  match f.acc with | .rw | .rwv | .rwl => true | _ => false

/-! Reading -/

/-- Count an access to an unoccupied address (R365). -/
def badAddr (s : State) (a : Nat) : State := raise s .regBadAddr 0 (recVal a)

/-- Is a register a mailbox slot, whose LEN lies in the slot's own state (Table 16.6)? -/
def RegAddr.isMbx (x : RegAddr) : Bool := x.blk == 0x03 && decide (0x100 ≤ x.off)

/-- The current value of a kept field: the shadow one of a SHADOW field when asked for, else the active one. -/
def keptField (s : State) (x : RegAddr) (idx : Nat) (shadow : Bool) (f : FieldDesc) : Nat :=
  if x.isMbx then (tget {} s.ncp.mbx ((x.off - 0x100) / 4)).len
  else f.get (if shadow && f.cls == .shadow then regShadow s x.blk x.inst x.off idx else regActive s x.blk x.inst x.off idx)

/-- The word that a read of a register returns (R369, R370, R377). The class registers of an unbound partition read as
zeros (R364). -/
def regWord (s : State) (r : Nat) (x : RegAddr) (d : RegDesc) : Nat :=
  let idx := copyOf s r x d
  if x.blk == 0x03 && x.off == 0x0C && !classHeld s idx then 0
  else
    let kept := d.fields.foldl (fun a f => if f.kept then a + keptField s x idx x.shadow f * 2 ^ f.lsb else a) 0
    let status := match statusWord s r x.blk x.inst x.off idx with
      | some v => v
      | none => d.fields.foldl (fun a f => if f.acc == .ro then a + f.reset * 2 ^ f.lsb else a) 0
    kept ||| status

/-- Write the majority of an RWV word whose copies differ into all three (R371). -/
def voteFix (s : State) (blk inst off idx : Nat) : State :=
  match tfind s.regs.upset (regKey blk inst off idx) with
  | none => s
  | some _ =>
    let s1 := regKeep s blk inst off idx (regActive s blk inst off idx)
    raise { s1 with regs := { s1.regs with voteFix := satAdd 16 s1.regs.voteFix 1 } } .regVoteFix 0
      (recVal (regKey blk inst off 0 / 2 ^ 20))

/-- Read a register as a requester: its word, and the state that a read leaves (R365, R371, R374). Log 16 (DESIGN CHOICE). -/
def busRead (s : State) (r a : Nat) : Nat × State :=
  match regOf a with
  | none => (0, badAddr s a)
  | some d =>
    let x := regAddr a
    let s1 := voteFix s x.blk x.inst x.off (copyOf s r x d)
    let s2 := if x.blk == 0x02 && x.off == 0x10 && !x.shadow then
        { s1 with regs := { s1.regs with latched := tset 0 s1.regs.latched r (nowFrac s1) } }
      else s1
    (regWord s r x d, s2)

/-! Change classes (R376) -/

/-- Has an engine an open chunk or assigned work (R193)? -/
def engineBusy (s : State) (k : Nat) : Bool :=
  decide (0 < openChunks s k) || (s.marl.tokens.any fun e => e.2.phase == .waiting && combineEngine e.2 == k) ||
    s.tilth.colls.any fun e => (dReduces e.2.desc || dOpc e.2.desc == 7) && bitAt e.2.engMask k

/-- Is a port enabled at a fibre of an optical engine (R285)? -/
def fibreEnabled (s : State) (eng fib : Nat) : Bool := (fibreLanes eng fib).any fun n => portMode s (laneHolder s n) != .disabled

/-- Do T8 and T9 of a slice hold a port that is not disabled (R259)? -/
def spareTilesEnabled (s : State) (slice : Nat) : Bool :=
  (List.range 16).any fun i => portMode s (1024 + 16 * slice + i) != .disabled

/-- Does a block run, for a change of one of its HALT fields (R129, R154, R193, R259, R285, R306, R334, R351)? -/
def runs (s : State) (x : RegAddr) (idx : Nat) (old new : Nat) : Bool :=
  if x.blk == 0x0B then s.sh.cur.isSome
  else if x.blk == 0x0A then [s.laurel.r0, s.laurel.r1].any fun r => !(r.v4.isEmpty && r.v6.isEmpty && r.mac.isEmpty)
  else if x.blk == 0x18 then engineBusy s x.inst
  else if x.blk == 0x20 || x.blk == 0x21 then
    if x.off == 0x20 then spareTilesEnabled s x.inst else portMode s idx != .disabled
  else if x.blk == 0x22 then (List.range 4).any fun j => bitAt old j != bitAt new j && fibreEnabled s x.inst j
  else if x.blk == 0x02 then s.yew.stepped
  else if x.blk == 0x28 then holdsPart s
  else if x.blk == 0x01 then portMode s idx != .disabled
  else true

/-- Is a timed commit of an instance less than 10 µs ahead, or due (Table 17.4)? -/
def commitNear (s : State) (blk inst : Nat) : Bool :=
  match pendOf s blk inst with
  | some c => decide (c.at_ ≤ nowNs s + 10000)
  | none => false

/-! The rules of single registers -/

/-- Is a port one that a selector of a slice may name? -/
def inSlice (p slice : Nat) : Bool := decide (p < nPorts) && sliceOf p == slice

/-- Is a policer or shaper word pair one that may be enabled (R103)? -/
def rateOk (rate burst : Nat) : Bool := !bitAt rate 31 || (rate % 2 ^ 21 != 0 && decide (9236 ≤ burst % 2 ^ 24))

/-- What the register tables and their rules require of a register's new word beside the bounds of its fields.
Log 20 (DEDUCED). Log 30 (PRESUMED). -/
def regRule (s : State) (x : RegAddr) (idx w : Nat) : Except Code Unit :=
  let need := fun (ok : Bool) (c : Code) => if ok then Except.ok () else Except.error c
  let each := x.inst != 0xFF
  if x.blk == 0x08 && each && x.off == 0x80 then
    need ((List.range 8).all fun p => let c := bitsOf w (3 * p + 2) (3 * p); c != 5 && c != 6) .badParam
  else if x.blk == 0x10 && !each && x.off == 0x40 then need (w % 4096 != 0xFFF) .badParam
  else if x.blk == 0x10 && !each && x.off == 0x18 then need (decide (32 ≤ w % 65536)) .badParam
  else if x.blk == 0x10 && !each && x.off == 0x0C then
    need (decide (bitsOf w 23 16 < bitsOf w 31 24) && decide (bitsOf w 31 24 ≤ bitsOf w 15 8) && decide (bitsOf w 15 8 < w % 256)) .badParam
  else if x.blk == 0x09 && each && (x.off == 0x04 || x.off == 0x08) then
    let other := regActive s 0x09 x.inst (0x0C - x.off) idx
    let rate := if x.off == 0x04 then w else other
    need (rateOk rate (if x.off == 0x04 then other else w) && !(idx / 65536 == 6 && bitAt rate 31)) .badParam
  else if x.blk == 0x09 && each && (x.off == 0x10 || x.off == 0x14) then
    let other := regActive s 0x09 x.inst (0x24 - x.off) idx
    need (if x.off == 0x10 then rateOk w other else rateOk other w) .badParam
  else if x.blk == 0x0B && !each && x.off == 0x04 then
    let n := w % 16
    need (!(bitAt w 4 && n < 4) && !(bitAt w 5 && (n < 5 || !bitAt w 4))) .badParam
  else if x.blk == 0x0B && !each && x.off == 0x18 then need (!bitAt w 6 && !bitAt w 7) .badParam
  else if x.blk == 0x22 && !each && x.off == 0 then
    need (decide (bitsOf w 23 16 < bitsOf w 15 8) && decide (bitsOf w 15 8 < w % 256)) .badParam
  else if (x.blk == 0x20 || x.blk == 0x21) && each && x.off == 0x04 then
    let fec := bitsOf w 31 30
    need (decide (fec ≤ 1) && !(bitAt w 29 && x.blk == 0x20) && !(fec == 1 && (bitAt w 29 || portMode s idx == .ethernet))) .badParam
  else if x.blk == 0x28 && x.off == 0x14 then need (decide (w % 1024 < bitsOf w 25 16)) .badParam
  else if x.blk == 0x11 && x.off == 0x04 then need (decide (0 < w % 65536) && decide (0 < w / 65536)) .badParam
  else if (x.blk == 0x09 && each && x.off == 0) || (x.blk == 0x0B && each && x.off == 0x40) then
    need (inSlice (bitsOf w 10 0) x.inst) .outOfRange
  else if (x.blk == 0x20 || x.blk == 0x21) && each && x.off == 0 then
    let p := bitsOf w 10 0
    need (inSlice p x.inst && isOptical p == (x.blk == 0x21)) .outOfRange
  else if x.blk == 0x0B && !each && decide (0x40 ≤ x.off) && decide (x.off < 0x60) then
    need (decide (bitsOf w 31 20 < bitsOf w 19 8)) .badParam
  else if x.blk == 0x0A && x.off == 0x30 then need (decide (bitsOf w 2 0 ≤ if bitAt w 3 then 4 else 1)) .outOfRange
  else if x.blk == 0x0A && x.off == 0x40 then
    let p := bitsOf w 10 0
    need (decide (p < nPorts) && !absorbed s p) .outOfRange
  else if x.blk == 0x18 && each && x.off == 0 then need (w % 65536 != 0) .badParam
  else if x.blk == 0x02 && x.off == 0x80 then
    let p := bitsOf w 10 0
    need (decide (p < nPorts) && portEnabled s p) .outOfRange
  else if x.blk == 0x28 && x.off == 0x1C then need (decide (w % 16 ≤ 10)) .outOfRange
  else if x.blk == 0x28 && x.off == 0x20 then need (decide (w % 1024 ≤ 1000)) .badParam
  else if (x.blk == 0x28 && x.off == 0x40) || (x.blk == 0x01 && x.off == 0x10) then need (decide (w % 2048 < nPorts)) .outOfRange
  else if x.blk == 0x28 && x.off == 0x08 then need (!(bitAt w 31 && !flag s .DISC_MODE && holdsPart s)) .running
  else if x.blk == 0x03 && x.off == 0x08 then need (decide (w % 8192 ≤ 0xFFE) || w % 8192 == 0x1000) .outOfRange
  else if x.blk == 0x00 && x.off == 0x144 then need (unitExists (bitsOf w 15 8) (bitsOf w 7 0)) .outOfRange
  else if x.blk == 0x30 && x.off == 0 then need (sourceValid w) .badParam
  else .ok ()

/-! Writing -/

/-- A field under an access alias (R369). Log 21 (DEDUCED). -/
def aliased (aka width v old : Nat) : Nat :=
  match aka with
  | 0 => v
  | 1 => old ||| v
  | 2 => old &&& (2 ^ width - 1 - v)
  | _ => old ^^^ v

/-- The new value of a kept field. -/
def newField (s : State) (x : RegAddr) (idx v : Nat) (f : FieldDesc) : Nat :=
  aliased x.aka f.width (f.get v) (keptField s x idx true f)

/-- Judge one field of a write: the lock, then the bounds, then the change class (R370, R372, R376). Log 19 (DESIGN CHOICE). -/
def judgeField (s : State) (x : RegAddr) (idx v : Nat) (f : FieldDesc) : Except Code Unit :=
  let bounds := fun (n : Nat) =>
    if n < f.lo then Except.error .badParam
    else match f.hi with | some h => if h < n then .error f.hiCode else .ok () | none => .ok ()
  match f.acc with
  | .ro | .w1c | .wo => .ok ()
  | _ =>
    let old := keptField s x idx true f; let new := newField s x idx v f
    if f.acc == .rwl && (old &&& (2 ^ f.width - 1 - new)) != 0 then .error .locked else bounds new

/-- Judge a change of class HALT or SHADOW. -/
def judgeChange (s : State) (x : RegAddr) (idx v : Nat) (f : FieldDesc) : Except Code Unit :=
  let old := keptField s x idx true f; let new := newField s x idx v f
  if !f.kept || old == new then .ok ()
  else if f.cls == .halt && runs s x idx old new then .error .running
  else if f.cls == .shadow && commitNear s x.blk x.inst then .error .running
  else .ok ()

def allOk : List (Except Code Unit) → Except Code Unit
  | [] => .ok ()
  | .ok _ :: t => allOk t
  | .error c :: _ => .error c

/-- The bits that a write gives to WO and W1C fields; the clear and toggle aliases ignore them (R369). -/
def actBits (x : RegAddr) (d : RegDesc) (v : Nat) : Nat :=
  if 2 ≤ x.aka then 0
  else d.fields.foldl (fun a f => if f.acc == .wo || f.acc == .w1c then a + f.get v * 2 ^ f.lsb else a) 0

/-- Bring the tokens of a policer and a shaper to now before their rates change (R101, R102): the old rate fills them up to the
write. Log 170 (DESIGN CHOICE). -/
def settleBuckets (s : State) (idx : Nat) : State :=
  let p := idx % 65536; let tc := idx / 65536
  let b := bxPort s p
  let level := bucketNow (tfind b.pol tc) (pqFld s .POL_RATE_RATE p tc) (pqFld s .POL_BURST_BURST p tc) (nowNs s)
  setBx s p { b with pol := tins b.pol tc { tokens := level, at_ := nowNs s }
                     shp := tins b.shp tc { tokens := shapeLevel s p tc, at_ := nowNs s } }

/-- What the units settle before a register of theirs changes. -/
def beforeWrite (s : State) (x : RegAddr) (idx : Nat) : State :=
  if x.blk == 0x09 && x.inst != 0xFF && [0x04, 0x08, 0x10, 0x14].contains x.off then settleBuckets s idx
  else if x.blk == 0x03 && x.off == 0x0C && (tfind s.ncp.buckets idx).isSome then setNcpLevel s idx (ncpLevel s idx)
  else s

/-- The words a write makes of a register's fields: the active one, then the shadow one (R377). -/
def newWords (s : State) (x : RegAddr) (d : RegDesc) (idx v : Nat) : Nat × Nat :=
  let live := d.fields.foldl (fun w f => if f.kept && f.cls != .shadow then f.put w (newField s x idx v f) else w)
    (regActive s x.blk x.inst x.off idx)
  let shad := d.fields.foldl (fun w f => if f.kept && f.cls == .shadow then f.put w (newField s x idx v f) else w) live
  (live, d.fields.foldl (fun w f => if f.kept && f.cls != .shadow then f.put w (f.get live) else w) shad)

/-- Keep the new values of a word's fields: the active ones, then the shadow word (R377). -/
def keepWord (s : State) (x : RegAddr) (d : RegDesc) (idx v : Nat) : State :=
  let w := newWords s x d idx v
  let s1 := if d.fields.any (fun f => f.kept && f.cls != .shadow) && !x.isMbx then regKeep s x.blk x.inst x.off idx w.1 else s
  if d.fields.any (fun f => f.kept && f.cls == .shadow) then regKeepShadow s1 x.blk x.inst x.off idx w.2 else s1

/-- All lock bits of the module, in the order of their registers (R372). -/
def lockWords (s : State) : List Byte :=
  [(0x01, 0, 0x04), (0x0A, 0xFF, 0x04), (0x18, 0xFF, 0x0C), (0x19, 0xFF, 0x08), (0x1A, 0xFF, 0x0C), (0x22, 0xFF, 0x14),
   (0x23, 0, 0x08), (0x28, 0, 0x34)].flatMap fun k => beBytes 4 (regActive s k.1 k.2.1 k.2.2 0)

/-- Extend measurement 5 by the debug state and the locks (R349, R372). -/
def extendMeas5 (s : State) : State :=
  { s with holly := { s.holly with meas5 := extendMeas s.holly.meas5 (Config.meas5Item s.holly.debug (lockWords s)) } }

/-- What a write does beside keeping its fields: the WO and W1C actions, and what a unit does at once at a change. `old`
is the state before the write. -/
def regAction (old s : State) (r : Nat) (x : RegAddr) (d : RegDesc) (v : Nat) : State :=
  let act := actBits x d v
  if x.blk == 0x00 && x.off == 0x40 then
    { s with pwr := { s.pwr with cause := s.pwr.cause &&& (31 - act % 32) } }
  else if x.isMbx then
    let k := (x.off - 0x100) / 4
    let len := newField old x 0 v { lsb := 0, width := 16, acc := .rw, cls := .live }
    let s1 := if bitAt act 29 then mbxClear s k else s
    if bitAt act 31 then mbxSubmit s1 k len
    else if bitAt act 29 then s1
    else { s1 with ncp := { s1.ncp with mbx := tmod {} s1.ncp.mbx k fun m => { m with len := len } } }
  else if x.blk == 0x11 && x.off == 0 && bitAt act 2 then Machine.sieveStart s x.inst
  else if x.blk == 0x30 && x.off == 0x1C && bitAt act 0 then ctrReset s (selOf s r 0x30 0 0) none
  else if x.blk == 0x1A && x.off == 0x18 && bitAt act 0 then { s with tilth := { s.tilth with slow := [] } }
  else if x.blk == 0x02 && x.off == 0x28 && flag s .ROOT_EN && !flag old .ROOT_EN then
    { s with yew := { s.yew with rootWaitFrom := s.raw } }
  else if x.blk == 0x28 && x.off == 0x08 && flag s .DISC_MODE != flag old .DISC_MODE then judgeAll s
  else if d.fields.any (fun f => f.acc == .rwl && keptField s x 0 false f != keptField old x 0 false f) then extendMeas5 s
  else s

/-- Write a register as a requester (R369, R370, R375): the state after it, or the code that rejects the word. -/
def regWrite (s : State) (r a v : Nat) : Except Code State :=
  match regOf a with
  | none => .error .outOfRange
  | some d =>
    let x := regAddr a
    if x.shadow then .error .outOfRange
    else
      let idx := copyOf s r x d
      let s1 := keepWord (beforeWrite s x idx) x d idx v
      match allOk (d.fields.map (judgeField s x idx v)) with
      | .error c => .error c
      | .ok _ =>
        match regRule s x idx (newWords s x d idx v).2 with
        | .error c => .error c
        | .ok _ =>
          match allOk (d.fields.map (judgeChange s x idx v)) with
          | .error c => .error c
          | .ok _ => .ok (regAction s s1 r x d v)

/-- Record how a requester's write ended (R373). Log 17 (DEDUCED). -/
def noteWrite (s : State) (r a : Nat) (code : Code) : State :=
  let g := s.regs
  let s1 := { s with regs := { g with wstat := tset 0 g.wstat r (codeNum code) } }
  if isSuccess code then s1
  else
    let s2 := { s1 with regs := { s1.regs with rejects := tset 0 g.rejects r (satAdd 16 (tget 0 g.rejects r) 1)
                                               waddr := tset 0 g.waddr r a } }
    raise (if (regOf a).isNone then badAddr s2 a else s2) .regReject 0 (recVal a)

/-- Can a requester reach the registers (Table 17.1)? -/
def reqOpen (s : State) (r : Nat) : Bool := s.pwr.hubUp && (r != 3 || s.holly.debug)

/-- One write over the register bus. -/
def busWrite (s : State) (r a v : Nat) : State :=
  if !reqOpen s r then s
  else
    match regWrite s r a v with
    | .ok t => noteWrite t r a .done
    | .error c => noteWrite s r a c

/-! Commits (R377 to R379) -/

/-- The instances of a block, ascending. -/
def instancesOf (blk : Nat) : List Nat := (List.range 256).filter (unitExists blk)

/-- Move the SHADOW fields of an instance to active. -/
def moveShadow (s : State) (blk inst : Nat) : State :=
  let here := fun (k : Nat) => k / 2 ^ 36 == blk * 256 + inst
  (s.regs.shadow.filter fun e => here e.1).foldl (fun t e =>
    let off := e.1 / 2 ^ 20 % 2 ^ 16
    let k := e.1 % 2 ^ 20
    regKeep { t with regs := { t.regs with shadow := tdel t.regs.shadow e.1 } } blk inst off k e.2.toNat) s

/-- Is every start lane of a tile a multiple of its port's width (R8)? Walk from lane `pos`. -/
def tileAligned (s : State) (base : Nat) : Nat → Nat → Bool
  | 0, _ => true
  | fuel + 1, pos =>
    if 8 ≤ pos then true
    else let w := widthAt s (base + pos); pos % w == 0 && tileAligned s base fuel (pos + w)

/-- The first port number of tile t of the module. -/
def tileBase (t : Nat) : Nat := if t % 10 < 8 then 64 * (t / 10) + 8 * (t % 10) else 1024 + 16 * (t / 10) + 8 * (t % 10 - 8)

/-- The valid swap entries (R381). -/
def swaps (s : State) : List (Nat × Nat) :=
  (List.range 64).filterMap fun k =>
    let w := regActive s 0x00 0 (0x800 + 4 * k) 0
    if bitAt w 31 then some (bitsOf w 26 16, bitsOf w 10 0) else none

/-- The first lanes of the ports that swaps have moved. -/
def swapLanes (s : State) : Table Nat := (swaps s).foldl (fun t e => tins (tins t e.1 e.2) e.2 e.1) []

/-- Has a port's width, its first lane, its being absorbed or its mode changed? -/
def laneChanged (s t : State) (p : Nat) : Bool :=
  holder s p != holder t p || tget p (swapLanes s) p != tget p (swapLanes t) p

def modeChanged (s t : State) (p : Nat) : Bool := portMode s p != portMode t p

/-- A swap entry's ports must be whole ports of one width, mode and dimension code (R381). -/
def swapOk (s : State) (e : Nat × Nat) : Bool :=
  !absorbed s e.1 && !absorbed s e.2 && portLanes s e.1 == portLanes s e.2 && portMode s e.1 == portMode s e.2 &&
    dimCode s e.1 == dimCode s e.2

/-- The commit-time rules of a block's fields: `s` before the commit, `t` with the new values active (R54, R60, R79, R91, R107,
R379, R381). `exempt` are the ports that CABLING_ACCEPT exchanges while they are enabled (R317). -/
def commitRule (s t : State) (blk inst : Nat) (exempt : List Nat) : Except Code Unit :=
  let need := fun (ok : Bool) (c : Code) => if ok then Except.ok () else Except.error c
  let ports := List.range nPorts
  if blk == 0x00 then
    let sw := swaps t
    let named := sw.flatMap fun e => [e.1, e.2]
    let changed := ports.filter (laneChanged s t)
    allOk [need ((List.range 160).all fun i => tileAligned t (tileBase i) 8 0) .badParam,
      need (named.all fun p => decide (p < nPorts)) .badParam,
      need (!hasDup named && sw.all (swapOk t)) .conflict,
      need (!changed.any (listNames s)) .conflict,
      need (changed.all fun p => exempt.contains p || portMode s p == .disabled) .running]
  else if blk == 0x08 && inst != 0xFF then
    let mine := ports.filter fun p => sliceOf p == inst
    let changed := mine.filter (modeChanged s t)
    allOk [need (mine.all fun p => !(changed.any fun q => tileNo q == tileNo p) || portMode t p == portMode t (holder t p).1) .badParam,
      need (changed.all fun p => portMode t p != .ethernet || absorbed t p || fecOf t p == 0) .badParam,
      need (!changed.any (listNames s)) .conflict,
      need (poolsFit t) .noResource]
  else if blk == 0x0B && inst != 0xFF then
    need ((ports.filter fun p => sliceOf p == inst && !absorbed s p).all fun p =>
      (isDownPort s p == isDownPort t p) || (isDownPort t p == (fieldOfPort t p).isSome)) .conflict
  else if blk == 0x10 && inst == 0xFF then
    allOk [need (decide (36 ≤ fld t .ESC_RESV)) .badParam, need (decide (32 ≤ fld t .TC6_PORT_MAX)) .badParam,
      need (poolsFit t) .noResource]
  else if blk == 0x31 then
    need (decide (reservedCells t + fld t .SNAP_CELLS + t.loam.sharedUsed + retiredCells t ≤ nCells)) .noResource
  else .ok ()

/-- The link front of an enabled port is awake, or wakes: it sleeps only while its ports are down (Table 1.9). -/
def frontUp (s : State) (p : Nat) : State := if portEnabled s p then wakeDomain s (2 + tileNo p) else s

/-- A port whose mode or lanes have changed starts anew (R31, R238, R241). Log 27 (DEDUCED). -/
def restartPort (s : State) (p : Nat) : State :=
  let s1 := linkDown (frontUp s p) p
  let s2 := (linksOf s1 p).foldl (fun t l => if vlinkBase ≤ l then vlinkDown t (l - vlinkBase) else freshEnd (dropKeys t l) l) s1
  let on := portEnabled s2 p && !portFenced s2 p
  let s3 := setPortLink s2 p { portLink s2 p with phase := if on then .training else .down, step := .signal, refAt := s2.raw
                                                  active := 0, laneOk := 0 }
  let s4 := { s3 with
    haw := { s3.haw with waitFrom := tins s3.haw.waitFrom p s3.raw }
    holly := { s3.holly with macsec := if portMode s3 p == .disabled then tdel s3.holly.macsec p else s3.holly.macsec } }
  dueBoundary (judgePort s4 p) p

/-- What the units do when an instance's values change at a commit. -/
def commitEffect (s t : State) (blk inst : Nat) : State :=
  let ports := List.range nPorts
  if blk == 0x00 then
    let t1 := { t with lk := { t.lk with laneOf := swapLanes t } }
    (ports.filter (laneChanged s t)).foldl restartPort t1
  else if blk == 0x08 && inst != 0xFF then (ports.filter (modeChanged s t)).foldl restartPort t
  else t

/-- Commit one instance: nothing when its shadow is clean, else the checked move (R378, R379). -/
def commitInst (s : State) (blk inst : Nat) (exempt : List Nat) : Except Code State :=
  if !dirty s blk inst then .ok s
  else
    let t := moveShadow s blk inst
    match commitRule s t blk inst exempt with
    | .error c => .error c
    | .ok _ =>
      let u := commitEffect s t blk inst
      .ok { u with regs := { u.regs with lastStatus := tdel u.regs.lastStatus (blk * 256 + inst) } }

/-- Commit several instances, each against the state that the ones before it leave; all or none. -/
def commitAll (s : State) (blk : Nat) : List Nat → Except Code State
  | [] => .ok s
  | i :: t => match commitInst s blk i [] with | .ok s1 => commitAll s1 blk t | .error c => .error c

/-- The instances that a commit names: 0xFE names every one. -/
def namedInstances (blk inst : Nat) : List Nat := if inst == 0xFE then instancesOf blk else [inst]

/-- Drop the pending timed commits of the named instances; a 0xFE commit is one commit. Log 24 (DEDUCED). -/
def dropPend (s : State) (blk inst : Nat) : State :=
  { s with regs := { s.regs with pend := s.regs.pend.filter fun c => !(c.blk == blk && (c.inst == inst || c.inst == 0xFE || inst == 0xFE)) } }

/-- Set the shadow copies of an instance back to the active values. -/
def dropShadow (s : State) (blk inst : Nat) : State :=
  { s with regs := { s.regs with shadow := s.regs.shadow.filter fun e => e.1 / 2 ^ 36 != blk * 256 + inst } }

/-- The place of a pending commit in the order of commits that fall due together (R379). -/
def pendRank (c : PendCommit) : Nat := c.blk * 256 + (if c.inst == 0xFE then 0 else c.inst)

/-- Apply a timed commit that has come due (R379): it commits, or it is dropped with the code recorded. Log 22 (DEDUCED). -/
def applyPend (s : State) (c : PendCommit) : State :=
  let s1 := dropPend s c.blk c.inst
  match commitAll s1 c.blk (namedInstances c.blk c.inst) with
  | .ok t => t
  | .error code =>
    let g := s1.regs
    let last := (namedInstances c.blk c.inst).foldl (fun t i => tset 0 t (c.blk * 256 + i) (codeNum code)) g.lastStatus
    raise { s1 with regs := { g with lastStatus := last } } .regCommitFail 0 (recVal (c.blk * 2 ^ 24 + c.inst * 2 ^ 16))

end Sys2Proof.Machine
end

