-- ==== Sys2Proof/Machine/NcpRows.lean ====
section
/-!
DEFINITION. Machine/NcpRows.lean: how messages reach Heath over its three transports, and the assembly limit (R355, R356,
Table 16.4).
-/

namespace Sys2Proof.Machine

open Sys2Proof

/-- A PCIe write of MBX_SLOTk under an alias. -/
def writeSlot (s : State) (slot aka v : Nat) : State := busWrite s 0 (0x03000100 + 4 * slot + aka * 2 ^ 14) v

/-- MBX_GO: the host writes the command window, then LEN with GO = 1 (R356). -/
def execMbxGo (slot len : Nat) (window : List Byte) (s : State) : Res :=
  atUnit slot 4 <|
    let s1 := { s with ncp := { s.ncp with mbx := tmod {} s.ncp.mbx slot fun m => { m with window := window.take 16384 } } }
    writeSlot (if reqOpen s 0 then s1 else s) slot 0 (2 ^ 31 + len % 65536)

/-- MBX_READY_CLEAR: the host takes the reply and clears READY through the set alias (R356, R369). -/
def execMbxReadyClear (slot : Nat) (s : State) : Res := atUnit slot 4 (writeSlot s slot 1 (2 ^ 29))

/-- NCP_UDP_DATAGRAM on MG0 or MG1 (R355, Table 16.4). -/
def execNcpUdpDatagram (mg srcIp srcPort dstPort : Nat) (ipFragment : Bool) (msg : List Byte) (s : State) : Res :=
  atUnit mg 2 <|
    if s.pwr.hubUp && flag s (if mg == 0 then .UDP_EN0 else .UDP_EN1) && dstPort == fld s .NCP_CTRL_UDP_PORT && !ipFragment then
      (takeMessage s (.udp mg srcIp srcPort) msg).1
    else s

/-- May a link that carries only KEX frames carry a command (R341)? -/
def kexOpcode (op : Nat) : Bool := decide (0x0901 ≤ op) && decide (op ≤ 0x0904)

/-- NCP_INBAND_FRAME: a KIND 0x9 frame addressed to this spine (R355, R341, Table 16.4). -/
def execNcpInbandFrame (fid : Nat) (s : State) : Res :=
  .next (match takeKind s fid 9 with
    | .error s1 => s1
    | .ok (f, s1) =>
      if !s1.pwr.hubUp then s1
      else if linkUnkeyed s1 f.rxLink && !kexOpcode (ncpParse f.data).opcode then raise s1 .ncpNoKey 0 (recVal f.inPort)
      else (takeMessage s1 (.inband f.inPort f.ffh.src) f.data).1)

/-- FRAG_ASSEMBLY_TIMEOUT: a command not assembled in time is dropped without a reply (R355). -/
def execFragAssemblyTimeout (buffer : Nat) (s : State) : Res :=
  .next (match tfind s.ncp.stages buffer with
    | some g =>
      if s.pwr.hubUp && elapsed s g.startedAt (ticksOfMs (fld s .FRAG_TMO_MS)) then
        raise { s with ncp := { s.ncp with stages := tdel s.ncp.stages buffer } } .ncpFragTmo 0 (recVal g.opcode)
      else s
    | none => s)

end Sys2Proof.Machine
end

