-- ==== Sys2Proof/Machine/StrataRows.lean ====
section
/-!
DEFINITION. Machine/StrataRows.lean: the meanings of the Strata commands and events (Strata: Counters, Event Rings and Trace).
-/

namespace Sys2Proof.Machine

open Sys2Proof

/-! Sampling and thresholds -/

/-- May a tenant name a source (R387)? -/
def tenantSource (s : State) (p src : Nat) : Bool :=
  let scope := src % 2 ^ 20
  let admits := fun (q : Nat) => holdsPart s && s.haw.part == p && portAdmits s q p 0
  match evAll.find? fun e => e.evt == src / 2 ^ 20 with
  | none => false
  | some e =>
    match e.kind with
    | .c => scope == p
    | .p => admits scope
    | .l => decide (scope < nPorts) && admits (laneHolder s scope)
    | _ => false

/-- May a command name a source? -/
def maySource (s : State) (a : Authority) (src : Nat) : Bool :=
  match a with
  | .tenant p => tenantSource s p src
  | _ => true

/-- A named source must be valid and within the command's authority (R383, R387). -/
def needSource (s : State) (c : Ncp) (i src : Nat) : Except Bad Unit := do
  need (sourceValid src) .badParam 0 i
  need (maySource s c.auth src) .notAuthorised 0 i

/-- CTR_SAMPLE (R386). -/
def execCtrSample (c : Ncp) (s : State) : Res :=
  runCmd s c 0x0A01 do
    needKeyed s c
    let n := beAt c.body 1 2
    need (beAt c.body 0 1 ≤ 1 && decide (1 ≤ n) && decide (n ≤ 1024) && c.body.length == 3 + 4 * n) .badParam
    let srcs := (List.range n).map fun i => beAt c.body (3 + 4 * i) 4
    eachOk (needSource s c) 0 srcs
    let tag := (partOf c.auth, c.seq)
    let res := srcs.flatMap (fun x => beBytes 8 (ctrRead s x)) ++ beBytes 2 tag.1 ++ zeroBytes 2 ++ beBytes 4 tag.2
    return (res, if beAt c.body 0 1 == 1 then srcs.eraseDups.foldl (fun t x => ctrReset t x (some tag)) s else s)

/-- THRESH_SET (R388): a threshold that its counter has already met fires at once. Log 12 (DESIGN CHOICE). -/
def execThreshSet (c : Ncp) (s : State) : Res :=
  runCmd s c 0x0A08 do
    needKeyed s c
    needLen c 12
    let src := beAt c.body 0 4; let v := beAt c.body 4 8
    need (sourceValid src) .badParam
    need (maySource s c.auth src) .notAuthorised
    need (v == 0 || (tfind s.st.thr src).isSome || decide (s.st.thr.length < 4096)) .noResource
    let thr := if v == 0 then tdel s.st.thr src else tins s.st.thr src { value := v }
    return ([], checkThreshold { s with st := { s.st with thr := thr } } src 0)

/-! Snapshots (R392, R393) -/

/-- The blocks of Table 17.6 in row order: bit b of a unit mask selects row b. -/
def snapBlocks : List Nat :=
  [0x00, 0x01, 0x02, 0x03, 0x08, 0x09, 0x0A, 0x0B, 0x10, 0x11, 0x18, 0x19, 0x1A, 0x20, 0x21, 0x22, 0x23, 0x28, 0x30, 0x31]

/-- Is a block selected by bits 0 to 19 of a mask? -/
def blockSelected (mask blk : Nat) : Bool := (onesOf 20 mask).any fun b => snapBlocks.getD b 0 == blk

/-- Are the counters of an event selected? Bit 20 alone selects the slot and layer counters. -/
def eventSelected (mask : Nat) (e : Ev) : Bool :=
  if e.kind == .u || e.kind == .y then bitAt mask 20 else blockSelected mask (e.evt / 32)

/-- The sources of a snapshot, ascending; a tenant's holds only those of R387. Log 138 (DEDUCED). -/
def snapSources (s : State) (mask part : Nat) : List Nat :=
  let all := (evAll.filter (eventSelected mask)).flatMap fun e => (List.range (scopeRange e.kind)).map (sourceOf e)
  if part == 0 then all else all.filter (tenantSource s part)

/-- The unit paths of a snapshot's rings. -/
def snapRings (mask : Nat) : List Nat :=
  if bitAt mask 21 then
    (snapBlocks.filter (blockSelected mask)).flatMap fun b => ((instancesOf b).filter (· != 0xFF)).map fun i => b * 256 + i
  else []

/-- The bytes of a snapshot (Table 18.5). -/
def snapSize (s : State) (mask part : Nat) : Nat :=
  64 + 16 * (snapSources s mask part).length + 8200 * (snapRings mask).length

/-- SNAPSHOT (R392, R393). -/
def execSnapshot (c : Ncp) (s : State) : Res :=
  runCmd s c 0x0A02 do
    needKeyed s c
    needLen c 12
    let t := beAt c.body 0 4; let mask := beAt c.body 4 8; let part := partOf c.auth
    need (decide (mask < 2 ^ 22)) .badParam
    need (part == 0 || !bitAt mask 21) .notAuthorised
    let d := diff32 t (now32 s)
    need (s.yew.stepped && !decide (d < 10000)) .timePast
    need (!decide (2000000000 < d)) .outOfRange
    let held := (s.st.snaps.map fun x => snapSize s x.mask x.part).foldl (· + ·) 0
    need (decide (s.st.snaps.length < 4) && decide (held + snapSize s mask part ≤ fld s .SNAP_CELLS * 256)) .noResource
    match (List.range 4).find? fun k => s.st.snaps.all fun x => x.slot != k with
    | none => failWith .noResource
    | some k =>
      let x : Snap := { id := s.st.nextSnap, slot := k, tReq := t, at_ := expand32 s t, mask := mask, part := part, seq := c.seq }
      return (beBytes 4 x.id, { s with st := { s.st with snaps := s.st.snaps ++ [x], nextSnap := s.st.nextSnap + 1 } })

/-- Latch a snapshot: every selected counter and ring as it stands. -/
def latch (s : State) (x : Snap) : Snap :=
  { x with
    phase := .writing
    tLatch := nowNs s
    qual := qualOf s 1
    ctrs := (snapSources s x.mask x.part).map fun src => let v := ctrSeen s src; (src, v.2.map (·.1), v.1)
    rings := (snapRings x.mask).map fun path => (path, (tget {} s.st.rings path).recs) }

/-- SNAPSHOT_LATCH (R392): the snapshots whose time has come are latched in one cycle. Log 139 (DESIGN CHOICE). -/
def execSnapshotLatch (s : State) : Res :=
  .next <|
    let due := fun (x : Snap) => x.phase == .pending && reached s x.at_
    let s1 := { s with st := { s.st with snaps := s.st.snaps.map fun x => if due x then latch s x else x } }
    (s.st.snaps.filter due).foldl (fun t x => raise t .snapTaken 0 (recVal x.id x.part)) s1

/-- SNAPSHOT_WRITTEN (R393): a latched snapshot is whole in staging, and an alert says so. -/
def execSnapshotWritten (s : State) : Res :=
  .next <|
    match s.st.snaps.find? fun x => x.phase == .writing with
    | none => s
    | some x =>
      let s1 := { s with st := { s.st with
        snaps := s.st.snaps.map fun y => if y.id == x.id then { y with phase := .complete, doneAt := s.raw } else y } }
      sendAlert s1 0x03 x.id 0 0

/-- SNAPSHOT_EXPIRY (R393): complete snapshots are freed SNAP_HOLD_S after they completed. -/
def execSnapshotExpiry (s : State) : Res :=
  .next <|
    let old := fun (x : Snap) => x.phase == .complete && elapsed s x.doneAt (ticksOfS (fld s .SNAP_HOLD_S))
    let s1 := { s with st := { s.st with snaps := s.st.snaps.filter fun x => !old x } }
    (s.st.snaps.filter old).foldl (fun t x => raise t .snapExpired 0 (recVal x.id x.part)) s1

/-- The header of a snapshot (Table 18.5). -/
def snapHead (x : Snap) : List Byte :=
  beBytes 4 x.id ++ beBytes 4 x.tReq ++ beBytes 8 x.tLatch ++ beBytes 1 (bitv (x.phase == .complete) 7 + x.qual) ++ zeroBytes 1 ++
    beBytes 2 x.part ++ beBytes 4 x.seq ++ beBytes 8 x.mask ++ beBytes 4 x.ctrs.length ++ beBytes 4 x.rings.length ++ zeroBytes 24

/-- The records of a ring in 8,192 bytes: oldest first, empty slots as zeros. -/
def ringImage (recs : List RingRec) : List Byte := padTo 8192 (recs.flatMap ringBytes)

/-- What a snapshot reads as: until it completes, only its header. -/
def snapBytes (x : Snap) : List Byte :=
  if x.phase == .complete then
    snapHead x ++
      x.ctrs.flatMap (fun r => beBytes 4 r.1 ++ beBytes 2 (match r.2.1 with | some p => 2 ^ 15 + p | none => 0) ++ zeroBytes 2 ++
        beBytes 8 r.2.2) ++
      x.rings.flatMap fun r => beBytes 4 (r.1 * 65536) ++ beBytes 4 r.2.length ++ ringImage r.2
  else snapHead x

/-- SNAPSHOT_READ (R393): a tenant reads its own snapshots only. Log 140 (DEDUCED). -/
def execSnapshotRead (c : Ncp) (s : State) : Res :=
  runCmd s c 0x0A03 do
    needKeyed s c
    needLen c 8
    let id := beAt c.body 0 4; let off := beAt c.body 4 4
    match s.st.snaps.find? fun x => x.id == id && (partOf c.auth == 0 || x.part == partOf c.auth) with
    | none => failWith .outOfRange
    | some x =>
      let b := snapBytes x
      need (decide (off < b.length)) .outOfRange
      return ((b.drop off).take 65528, s)

/-- RING_READ (R394): owner only. -/
def execRingRead (c : Ncp) (s : State) : Res :=
  runCmd s c 0x0A04 do
    needOwner c
    needLen c 4
    let path := beAt c.body 0 4 / 65536
    need (beAt c.body 2 2 == 0 && path % 256 != 0xFF && unitExists (path / 256) (path % 256)) .outOfRange
    return (ringImage (tget {} s.st.rings path).recs, s)

/-! Trace (R396 to R398) -/

/-- A trace frame (Table 18.7). -/
def traceFrameBytes (kind seq : Nat) (recs : List Byte) : List Byte :=
  let h := beBytes 2 0x5A7E ++ beBytes 1 1 ++ beBytes 1 kind ++ beBytes 4 seq ++ beBytes 2 recs.length ++ zeroBytes 2
  h ++ beBytes 4 (crc32 (h ++ recs)) ++ recs

/-- Whole records gathered into frames of at most 4,080 record bytes. -/
def groupRecords (cur : List Byte) : List (List Byte) → List (List Byte)
  | [] => if cur.isEmpty then [] else [cur]
  | r :: t => if cur.length + r.length ≤ 4080 then groupRecords (cur ++ r) t else cur :: groupRecords r t

/-- Send a trace frame on the trace port. -/
def sendTrace (s : State) (kind : Nat) (recs : List Byte) : State :=
  let b := traceFrameBytes kind s.st.traceSeq recs
  emit { s with st := { s.st with traceSeq := (s.st.traceSeq + 1) % 2 ^ 32, traceBytes := (s.st.traceBytes + b.length) % 2 ^ 64 } } (.trace b)

/-- Drain the trace's staging: its records, then a drop marker when records were lost. A port that is disabled drains nothing.
Log 141 (DESIGN CHOICE). -/
def traceDrain (s : State) : State :=
  match s.st.trace with
  | none => s
  | some t =>
    if flag s .TP_EN then
      let s1 := { s with st := { s.st with trace := some { t with staged := [], stagedBytes := 0, lostSince := 0 } } }
      let s2 := (groupRecords [] t.staged).foldl (fun x g => sendTrace x 1 g) s1
      if t.lostSince == 0 then s2 else sendTrace s2 2 (beBytes 4 t.lostSince)
    else if t.linkDownCounted then s
    else raise { s with st := { s.st with trace := some { t with linkDownCounted := true } } } .traceLinkDown 0

/-- Stop the running trace: what is staged drains, the staging is freed and an alert tells the bytes (R397).
Log 32 (DESIGN CHOICE). -/
def traceStop (s : State) : State :=
  let s1 := traceDrain s
  match s1.st.trace with
  | none => s1
  | some t => sendAlert (unreserve { s1 with st := { s1.st with trace := none } } t.resv) 0x04 0 s1.st.traceBytes 0

/-- The filtered partition of a trace: PF and PART (Table 18.9). -/
def tracePart (p : List Byte) : Option Nat := if bitAt (beAt p 0 1) 4 then some (beAt p 4 2 % 4096) else none

/-- Are the parameters of Table 18.9 encoded as it says? -/
def traceParamsOk (p : List Byte) : Bool :=
  decide (beAt p 0 1 < 32) && decide (beAt p 1 1 ≤ 20) && decide (beAt p 2 2 ≤ 256) && beAt p 2 2 % 4 == 0 &&
    decide (beAt p 4 2 < 4096) && beAt p 7 1 == 0 && decide (4096 ≤ beAt p 20 4) && decide (beAt p 20 4 ≤ 1048576) && beAt p 28 4 == 0

/-- May the command's authority run this trace (R398)? -/
def mayTrace (s : State) (a : Authority) (p : List Byte) : Bool :=
  match a, tracePart p with
  | .tenant q, f => f == some q
  | _, some q => beAt p 2 2 == 0 || (tfind s.holly.bindings q).isNone
  | _, none => true

/-- TRACE_START (R397, R398). -/
def execTraceStart (c : Ncp) (s : State) : Res :=
  runCmd s c 0x0A05 do
    needKeyed s c
    needLen c 32
    need (traceParamsOk c.body) .badParam
    need (mayTrace s c.auth c.body) .notAuthorised
    need s.st.trace.isNone .running
    let t32 := beAt c.body 24 4
    let d := diff32 t32 (now32 s)
    need (t32 == 0 || (s.yew.stepped && !decide (d < 10000))) .timePast
    need (t32 == 0 || !decide (2000000000 < d)) .outOfRange
    match reserve s ((tracePart c.body).getD 0) (beAt c.body 20 4) 0 with
    | none => failWith .noResource
    | some (id, s1) =>
      let t : Trace := { params := c.body, authPart := partOf c.auth, resv := id, lastTime := s.raw
                         stopAt := if t32 == 0 then none else some (expand32 s t32) }
      return ([], { s1 with st := { s1.st with trace := some t, traceBytes := 0, traceDrops := 0 } })

/-- TRACE_STOP (R397): a tenant stops its own trace only. Log 142 (DESIGN CHOICE). -/
def execTraceStop (c : Ncp) (s : State) : Res :=
  runCmd s c 0x0A06 do
    needKeyed s c
    needLen c 0
    need (partOf c.auth == 0 || (s.st.trace.any fun t => t.authPart == partOf c.auth)) .notAuthorised
    let s1 := traceStop s
    return (beBytes 8 s1.st.traceBytes, s1)

/-- TRACE_TIME_RECORD (R396): every 1 ms a time record is staged, when TMODE takes them, and the staging drains. -/
def execTraceTimeRecord (s : State) : Res :=
  .next <|
    match s.st.trace with
    | none => s
    | some t =>
      if !elapsed s t.lastTime (ticksOfMs 1) then s
      else
        let s1 := { s with st := { s.st with trace := some { t with lastTime := s.raw } } }
        let r := beBytes 1 3 ++ beBytes 1 (qualOf s 1) ++ zeroBytes 2 ++ beBytes 8 (nowNs s) ++ beBytes 4 (s32 s.yew.worldOfs)
        traceDrain (if bitAt (beAt t.params 0 1) 3 then traceStage s1 r else s1)

/-- TRACE_STOP_TIME (R397): STOP_T has come. -/
def execTraceStopTime (s : State) : Res :=
  .next <|
    match s.st.trace.bind (·.stopAt) with
    | some t => if reached s t then traceStop s else s
    | none => s

end Sys2Proof.Machine
end

