-- ==== Sys2Proof/Machine/TeardownRows.lean ====
section
/-!
DEFINITION. Machine/TeardownRows.lean: the teardown of a partition (R76, R233, R331, R346, R362) and the margin sweep (R330).
-/

namespace Sys2Proof.Machine

open Sys2Proof

/-! Crypto-erase -/

/-- Zeroise a partition's keys at step 2 of its teardown (R346); `held` says that its ports are this partition's. -/
def eraseKeys (s : State) (p : Nat) (held : Bool) : State :=
  let links := if held then
      ((List.range nPorts).filter fun q => isDownPort s q && portMode s q == .fabric) ++ s.lk.vlinks.map (fun e => vlinkBase + e.1)
    else []
  let own := fun (_ : Nat) (a : MacsecSa) => a.part != p
  let s1 := links.foldl dropKeys s
  raise { s1 with
    holly := { s1.holly with
      bindings := tdel s1.holly.bindings p
      macsec := tmap (fun _ (m : MacsecPort) => { m with tx := tfilter own m.tx, rx := tfilter own m.rx }) s1.holly.macsec
      erases := (s1.holly.erases + 1) % 2 ^ 32 }
    ncp := { s1.ncp with seqs := tdel s1.ncp.seqs p } } .hollyErase 0 (recVal p p)

/-! What the units discard (step 3) -/

/-- The partition of a shadow run's collective or token stream. -/
def runPart (r : ShadowRun) : Nat := r.coll / 2 ^ 32 % 4096

/-- Loam's part (R76): frames, clods, cells and reservations. Log 62 (DEDUCED). -/
def loamTeardown (s : State) (p : Nat) : State :=
  let s1 := ((s.loam.frames.filter fun e => e.2.part == p).map (·.1)).foldl discardAll s
  let s2 := ((s1.loam.resvs.filter fun e => e.2.part == p).map (·.1)).foldl releaseUnits s1
  let clods := (s2.loam.clods.filter fun e => e.2.part == p && e.2.kind != .free && e.2.kind != .retired).map (·.1)
  let cells := (s2.loam.cells.filter fun e => e.2.part == p && e.2.kind == .held).map (·.1)
  let l := cells.foldl freeCell (clods.foldl freeClod s2.loam)
  { s2 with loam := { l with
      openClod := tfilter (fun _ c => (tfind l.clods c).isSome) l.openClod
      tcharge := tdel l.tcharge p
      scharge := tdel l.scharge p } }

/-- What Strata, Tilth, Kaolin, Marl, Hedgerow and Loam discard of a partition (R76, R183, R191, R197, R233, R283, R397). -/
def discardPart (s : State) (p : Nat) : State :=
  let s1 := match s.st.trace with
    | some t => if tracePart t.params == some p then traceStop s else s
    | none => s
  let runs := s1.kao.engines.flatMap fun e => (e.2.shadows.filter fun r => runPart r == p).map fun r => (e.1, r)
  let s2 := tilthTeardown (runs.foldl (fun t x => skipShadow t x.1 x.2) s1) p
  let s3 := ((s2.marl.tokens.filter fun e => e.2.part == p).map (·.1)).foldl dropToken s2
  let s5 := ((s3.marl.mops.filter fun e => mPart e.2 == p).map (·.1)).foldl dropMop s3
  let s6 := { s5 with xc := { circuits := tfilter (fun _ c => c.part != p) s5.xc.circuits, pend := tdel s5.xc.pend p } }
  loamTeardown s6 p

/-! Steps -/

/-- Votes of a partition are abandoned; nothing is counted (R326). -/
def abandonPartVotes (s : State) (p : Nat) : State :=
  (s.haw.votes.filter fun v => v.part == p).foldl (fun t v => if v.mine then abandonVote t v else dropVote t v.suspect) s

/-- Queued and running commands of a partition's class end with BUSY_TEARDOWN (R362). -/
def dropPartCommands (s : State) (p : Nat) : State :=
  let end_ := fun (t : State) (seq : Nat) (via : Transport) (op : Nat) =>
    finish t { auth := .tenant p, seq := seq, via := via, body := [] } op .busyTeardown 0 noIndex []
  let q := tget [] s.ncp.queues p
  let run := s.ncp.running.filter fun r => r.cls == p
  let s1 := { s with ncp := { s.ncp with queues := tdel s.ncp.queues p } }
  run.foldl (fun t r => end_ t r.seq r.via r.opcode) (q.foldl (fun t c => end_ t c.seq c.via c.opcode) s1)

/-- Steps 1 to 3 of a teardown (Table 14.10). Log 136 (DEDUCED). -/
def startTeardown (s : State) (p : Nat) : State :=
  let s1 := { s with haw := { s.haw with pstate := .teardown
                                         partFence := if s.haw.partFence.contains p then s.haw.partFence else s.haw.partFence ++ [p] } }
  discardPart (eraseKeys (dropPartCommands (abandonPartVotes s1 p) p) p true) p

/-- Step 4: the port-partition map, the partition fence, HOLD and EXPELLED are reset. Boundary fences stay. -/
def endTeardown (s : State) : State :=
  let p := s.haw.part
  let s1 := discardPart s p
  judgeAll { s1 with haw := { s1.haw with
    pstate := .none, part := 0, base := 0, free := 0, devices := 0, bypass := [], admitHash := 0
    partFence := s1.haw.partFence.filter (· != p), hold := false, expelled := [], teardown := none } }

/-- PART_TEARDOWN (R331): the reply comes when the teardown is complete. -/
def execPartTeardown (c : Ncp) (s : State) : Res :=
  runLong s c 0x0802 do
    needOwner c
    needLen c 2
    let p := beAt c.body 0 2
    need (holdsPart s && s.haw.part == p) .badParam
    need (s.haw.pstate != .teardown) .busyTeardown
    let s1 := startTeardown s p
    return { s1 with haw := { s1.haw with teardown := some c } }

/-- TEARDOWN_COMPLETE (R331). -/
def execTeardownComplete (s : State) : Res :=
  .next <|
    match s.haw.pstate, s.haw.teardown with
    | .teardown, some c => finish (endTeardown s) c 0x0802 .done 0 noIndex []
    | _, _ => s

/-! Margin sweep (R330) -/

/-- Does an engine or a Marl group (16 + g) hold partition work? -/
def unitBusy (s : State) (u : Nat) : Bool :=
  if u < 16 then bitAt (fld s .ENG_MASK) u || 0 < openChunks s u
  else s.marl.tiles.any fun t => t.array / 8 == u - 16 && s.marl.tokens.any fun e => e.2.mop == t.mop

/-- The units that LOAD names on the core die of a unit: engines in its low byte, Marl groups in its high byte, as the activity
vector of a check record gives them. -/
def loadUnits (half load : Nat) : List Nat :=
  (onesOf 8 load).map (8 * half + ·) ++ (onesOf 8 (load / 256)).map (16 + 8 * half + ·)

def marginHalf (u : Nat) : Nat := if u < 16 then u / 8 else (u - 16) / 8

/-- The latest check record of an engine, or of the arrays of a Marl group. -/
def unitRecord (s : State) (u : Nat) : CheckRec :=
  if u < 16 then (kEng s u).log
  else
    (List.range 8).foldl (fun r i =>
      let x := (mArray s (8 * (u - 16) + i)).log
      if x.kind != 0 && (r.kind == 0 || 0 < diff32 x.time r.time) then x else r) {}

/-- The rail of a unit and its nominal mV: VCORE or VMARL of its half (Table 19.3). -/
def unitRail (u : Nat) : Nat × Nat := if u < 16 then (marginHalf u, 750) else (2 + marginHalf u, 700)

/-- The trim that reproduces a record's rail voltage. -/
def recordTrim (s : State) (u : Nat) : Int :=
  let r := unitRecord s u
  if r.kind == 0 then 0 else (r.volt : Int) - (railMv s (unitRail u).1 (unitRail u).2 : Int)

/-- MARGIN_SWEEP (R330). UNIT is an engine's number, or 16 plus a Marl group's. Log 137 (DESIGN CHOICE). -/
def execMarginSweep (c : Ncp) (s : State) : Res :=
  runLong s c 0x080A do
    needOwner c
    needLen c 7
    let u := beAt c.body 0 1; let rec_ := beAt c.body 6 1 == 1; let ms := beAt c.body 4 2
    let r := unitRecord s u
    let vofs := if rec_ then recordTrim s u else signedOf 8 (beAt c.body 1 1)
    let load := if rec_ then r.marlBusy * 256 + r.engBusy else beAt c.body 2 2
    need (decide (u < 32) && decide (beAt c.body 6 1 ≤ 1) && decide (1 ≤ ms) && decide (ms ≤ 10000) &&
      (rec_ || (decide (-60 ≤ vofs) && decide (vofs ≤ 40) && vofs % 10 == 0))) .badParam
    let units := u :: loadUnits (marginHalf u) load
    need (!units.any (unitBusy s) && s.haw.margin.isNone) .running
    need ((units.filter fun x => decide (16 ≤ x)).all fun x =>
      (List.range 8).any fun i => decide (4 ≤ (freePages s.marl (8 * (x - 16) + i)).length)) .noResource
    return { s with haw := { s.haw with
      margin := some { cmd := c, unit := u, vofs := vofs, load := load, endAt := s.raw + ticksOfMs ms } } }

/-- One mismatch of a sweep: a check record under the trimmed supply, and evidence of class 10. -/
def marginMismatch (s : State) (m : Margin) : State :=
  let trim := fun (r : CheckRec) => { r with volt := ((r.volt : Int) + m.vofs).toNat }
  let s1 := if m.unit < 16 then
      setKEng s m.unit { kEng s m.unit with log := trim (kaoRecord s m.unit 1 0 0 0) }
    else
      let a := 8 * (m.unit - 16)
      setArray s a { mArray s a with log := trim (marlRecord s a 1 0 0 0) }
  evidence s1 10

/-- MARGIN_SWEEP_DONE (R330): the run has ended with so many tests and mismatches and this peak temperature, in 1/64 °C. -/
def execMarginSweepDone (tests mismatches : Nat) (peak : Int) (s : State) : Res :=
  .next <|
    match s.haw.margin with
    | none => s
    | some m =>
      if s.raw < m.endAt then s
      else
        let s1 := (List.range mismatches).foldl (fun t _ => marginMismatch t m) s
        finish { s1 with haw := { s1.haw with margin := none } } m.cmd 0x080A .done 0 noIndex
          (beBytes 4 tests ++ beBytes 4 mismatches ++ beBytes 2 (s16 peak))

end Sys2Proof.Machine
end

