-- ==== Sys2Proof/Machine/HollyRows.lean ====
section
/-!
DEFINITION. Machine/HollyRows.lean: the meanings of the security commands and events (Holly: Trust, Keys and Isolation), and the
firmware image as Holly reads it (Table 19.10).
-/

namespace Sys2Proof.Machine

open Sys2Proof

/-! Firmware images (Table 19.10) -/

/-- The components of an image: type, offset, length and version. -/
def fwComps (img : List Byte) : List (Nat × Nat × Nat × Nat) :=
  (List.range 3).map fun i =>
    let o := 32 + 16 * i
    (beAt img o 1, beAt img (o + 4) 4, beAt img (o + 8) 4, beAt img (o + 12) 4)

/-- The component of a type: 1 Holly, 2 Heath, 3 optical microcode. -/
def fwComp (img : List Byte) (t : Nat) : Option (Nat × Nat × Nat × Nat) := (fwComps img).find? fun c => c.1 == t

/-- Do both Colavo signatures of an image pass? -/
def fwSigned (img : List Byte) : Bool :=
  Config.colavoOk (sha384 (img.take (img.length - 3405))) (bytesAt img (img.length - 3405) 96) (bytesAt img (img.length - 3309) 3309)

/-- The image of the active slot; empty for the factory's. -/
def activeImage (s : State) : List Byte := (s.pwr.slots.getD s.pwr.active {}).image

/-! Measurements and attestation -/

/-- The measurement of a firmware component (Table 15.1). -/
def compMeasure (img : List Byte) (t : Nat) : List Byte :=
  match img.isEmpty, fwComp img t with
  | false, some c => sha384 (bytesAt img c.2.1 c.2.2.1)
  | _, _ => bytesAt (Config.factoryMeasure t) 0 48

/-- A measurement; 7 and 8 of a partition that is not bound are zeros. -/
def measurement (s : State) (part i : Nat) : List Byte :=
  let b := tfind s.holly.bindings part
  if i == 5 then s.holly.meas5
  else if i == 6 then s.holly.meas6
  else if i == 7 then bytesAt ((b.map (·.meas7)).getD []) 0 48
  else if i == 8 then bytesAt ((b.map (·.meas8)).getD []) 0 48
  else if i == 0 || i == 4 then bytesAt (Config.factoryMeasure i) 0 48
  else compMeasure (activeImage s) i

/-- Measurements 0 to 3: what the alias keys are made of (R335). -/
def aliasBase (s : State) : List Byte := (List.range 4).flatMap (measurement s 0)

/-- Both alias signatures over a digest. -/
def aliasSign (s : State) (digest : List Byte) : List Byte :=
  bytesAt (Config.aliasEcdsa (aliasBase s) digest) 0 96 ++ bytesAt (Config.aliasMlDsa (aliasBase s) digest) 0 3309

/-- ATTEST_CERTS (R338). -/
def execAttestCerts (c : Ncp) (s : State) : Res :=
  runCmd s c 0x0901 do
    needLen c 1
    need (decide (beAt c.body 0 1 ≤ 3)) .badParam
    return (Config.certChain (beAt c.body 0 1) (aliasBase s), s)

/-- ATTEST_MEASURE (R338): the selected measurements, a nonce, and both signatures over request and reply. Log 149 (PRESUMED). -/
def execAttestMeasure (c : Ncp) (s : State) : Res :=
  runCmd s c 0x0902 do
    needLen c 36
    let mask := beAt c.body 32 2; let part := beAt c.body 34 2
    need (decide (mask < 512) && decide (part < 0xFFF)) .badParam
    let nonce := takeFree s (2 ^ 256)
    let reply := (onesOf 9 mask).flatMap (measurement s part) ++ beBytes 32 nonce.1
    return (reply ++ aliasSign s (sha384 (c.body ++ reply)), nonce.2)

/-! Key exchange (R339 to R343) -/

/-- The link over which an in-band command came. -/
def kexLink (s : State) (c : Ncp) : Option Nat :=
  match c.via with
  | .inband port src => linkFor s port { dst := src }
  | _ => none

/-- An IP address in 16 bytes. -/
def ip16 (v6 : Bool) (ip : Nat) : List Byte := if v6 then beBytes 16 ip else padTo 16 (beBytes 4 ip)

/-- How a link names initiator and responder in its key derivation (Table 15.3). Log 148 (DEDUCED). -/
def kexNames (s : State) (l : Nat) : List Byte × List Byte :=
  if l < vlinkBase then (beBytes 6 (peerMac s l), beBytes 6 (portMac l))
  else
    match tfind s.lk.vlinks (l - vlinkBase) with
    | some v => (ip16 v.v6 v.peerIp, ip16 v.v6 v.localIp)
    | none => ([], [])

/-- Is a purpose one of a link? -/
def linkPurpose (p : Nat) : Bool := p == 3 || p == 4 || p == 5

/-- Does a link fit a purpose and partition (Table 15.2, R341)? -/
def linkFits (s : State) (purpose part l : Nat) : Bool :=
  let p := linkPort s l
  let ours := holdsPart s && part == s.haw.part && portAdmits s p part 0
  if purpose == 4 then decide (l < vlinkBase) && isSpinePort s p && part == 0
  else if purpose == 3 then decide (l < vlinkBase) && isDownPort s p && ours
  else decide (vlinkBase ≤ l) && ours

/-- The checks of message 1 (R339 to R341, R348): the link the exchange is for, 0 where there is none. Log 42 (DESIGN CHOICE).
Log 146 (DEDUCED). -/
def kexCheck (s : State) (c : Ncp) : Except Bad Nat := do
  needLen c 1316
  let purpose := beAt c.body 0 1; let part := beAt c.body 1 2
  need (decide (1 ≤ purpose) && decide (purpose ≤ 5)) .badParam
  if purpose == 1 then
    need (part == 0) .badParam
    need (overMailbox c.via && (s.holly.ownerKey.isNone || c.auth == .owner) && !flag s .OWNER_LOCK) .notAuthorised
    return 0
  else if purpose == 2 then
    need (decide (1 ≤ part) && decide (part ≤ 0xFFE)) .badParam
    need (!s.holly.debug) .notAuthorised
    need (!tearingDown s part) .busyTeardown
    need (tfind s.holly.bindings part).isNone .conflict
    return 0
  else
    need (decide (part ≤ 0xFFE)) .badParam
    match kexLink s c with
    | none => failWith .notAuthorised
    | some l =>
      need (linkFits s purpose part l) .notAuthorised
      need (!tearingDown s part) .busyTeardown
      return l

/-- Answer message 1: the exchange number and KEX_RESP, and the exchange as it waits for message 3. -/
def kexStart (s : State) (c : Ncp) (link : Nat) : List Byte × State :=
  let m1 := c.body
  let purpose := beAt m1 0 1
  let ek := bytesAt m1 35 1184; let peer := bytesAt m1 1219 97
  let n := takeFree s (2 ^ 256)
  let r := takeFree n.2 (2 ^ 256)
  let d := takeFree r.2 (2 ^ 384)
  let s1 := d.2
  let plain := beBytes 32 n.1 ++ bytesAt (Config.mlKemCipher ek r.1) 0 1088 ++ bytesAt (Config.ecdhPublic d.1) 0 97
  let m2 := plain ++ aliasSign s (sha384 (m1 ++ plain))
  let secret := hkdfExtract (sha384 (m1 ++ m2)) (Config.mlKemSecret ek r.1 ++ Config.ecdhSecret peer d.1)
  let names := kexNames s link
  let k : Kex := { purpose := purpose, part := beAt m1 1 2, via := c.via, msg1 := m1, msg2 := m2, secret := secret, since := s.raw
                   link := link, macI := names.1, macR := names.2, tagged := c.auth == .owner }
  let id := s1.holly.nextKex
  let s2 := { s1 with holly := { s1.holly with kexes := tins s1.holly.kexes id k, nextKex := id + 1 } }
  (beBytes 4 id ++ m2, if linkPurpose purpose then setKeys s2 link { linkKeys s2 link with exchanging := true } else s2)

/-- KEX_INIT (R339): untagged. -/
def execKexInit (c : Ncp) (s : State) : Res :=
  runCmd s c 0x0903 do
    need (c.auth == .untagged) .notAuthorised
    let l ← kexCheck s c
    return kexStart s c l

/-- OWNER_SET (R347): message 1 of an exchange of purpose 0x01. -/
def execOwnerSet (c : Ncp) (s : State) : Res :=
  runCmd s c 0x0906 do
    need (c.auth == .owner || (c.auth == .untagged && s.holly.ownerKey.isNone)) .notAuthorised
    needLen c 1316
    need (beAt c.body 0 1 == 1 && beAt c.body 1 2 == 0) .badParam
    need (overMailbox c.via) .notAuthorised
    need (!flag s .OWNER_LOCK) .locked
    let l ← kexCheck s c
    return kexStart s c l

/-- End an exchange. -/
def dropKex (s : State) (id : Nat) (k : Kex) : State :=
  let s1 := { s with holly := { s.holly with kexes := tdel s.holly.kexes id } }
  if linkPurpose k.purpose && linkLive s1 k.link then setKeys s1 k.link { linkKeys s1 k.link with exchanging := false } else s1

/-- The transcript of an exchange. Log 144 (DEDUCED). -/
def transcript (k : Kex) : List Byte := k.msg1 ++ k.msg2

/-- Bytes of the initiator's authentication (Table 15.2), or none where the length does not fit its purpose.
Log 145 (DESIGN CHOICE). -/
def finAuth (k : Kex) (body : List Byte) : Option (List Byte) :=
  let n := body.length - 52
  let ok := if k.purpose == 1 then body.length == 52 else if k.purpose == 2 then body.length == 52 + 5454 else decide (52 + 3405 < body.length)
  if ok then some (bytesAt body 4 n) else none

/-- Do an ECDSA and an ML-DSA signature of the two keys pass over the transcript? -/
def pairOk (keys : List Byte × List Byte) (k : Kex) (sigs : List Byte) : Bool :=
  let dg := sha384 (transcript k)
  Config.ecdsaOk keys.1 dg (bytesAt sigs 0 96) && Config.mlDsaOk keys.2 dg (bytesAt sigs 96 3309)

/-- Does the initiator authenticate for its purpose (Table 15.2)? -/
def finAuthOk (s : State) (k : Kex) (auth : List Byte) : Bool :=
  let chain := auth.take (auth.length - 3405)
  let sigs := auth.drop (auth.length - 3405)
  if k.purpose == 1 then s.holly.ownerKey.isNone || k.tagged
  else if k.purpose == 2 then pairOk (bytesAt auth 0 97, bytesAt auth 97 1952) k sigs
  else
    let root := if k.purpose == 4 then some [] else (tfind s.holly.bindings k.part).map fun b => b.ecPub ++ b.mlPub
    match root.bind fun r => Config.chainKeys r chain with
    | some keys => pairOk keys k sigs
    | none => false

/-- Does the confirmation of message 3 pass? -/
def finConfirmed (k : Kex) (body : List Byte) : Bool :=
  hmac384 (hkdfExpand k.secret (ascii "NZ1280 fin") 48) (transcript k) == bytesAt body (body.length - 48) 48

/-- The key and salt of one direction of a link: 0 toward the responder. -/
def linkKey (k : Kex) (dir : Nat) : Nat :=
  beNat (hkdfExpand k.secret (ascii "NZ1280 link" ++ k.macI ++ k.macR ++ beBytes 1 dir) 36)

/-- Install the keys of a link: at once on a link without keys, else as a rekey (R343). Log 121 (DEDUCED). -/
def installLink (s : State) (k : Kex) : State :=
  let old := linkKeys s k.link
  if old.txKey.isSome then
    let s1 := setKeys s k.link { old with txKey := some (linkKey k 1), txc := 0, nextRx := some (linkKey k 0), exchanging := false,
                                          rekeys := satAdd 16 old.rekeys 1, keyedAt := s.raw }
    raise s1 .hollyRekey (linkPort s k.link)
  else setKeys s k.link { txKey := some (linkKey k 1), rxKey := some (linkKey k 0), keyedAt := s.raw }

/-- The four Subsoil keys of a binding, drawn at random (R340). -/
def drawXts (s : State) : List (List Byte) × State :=
  (List.range 4).foldl (fun x _ => let r := takeFree x.2 (2 ^ 256); (x.1 ++ [beBytes 32 r.1], r.2)) ([], s)

/-- A key is destroyed or replaced: the sequence state of its class starts anew (R357). -/
def freshSeq (s : State) (cls : Nat) : State := { s with ncp := { s.ncp with seqs := tdel s.ncp.seqs cls } }

/-- Install a partition binding (R340). -/
def installBinding (s : State) (k : Kex) (auth : List Byte) : State :=
  let x := drawXts s
  let b : Binding := { ecPub := bytesAt auth 0 97, mlPub := bytesAt auth 97 1952, pms := k.secret, xts := x.1, meas7 := [], meas8 := zeroBytes 48 }
  let m7 := bytesAt (Config.meas7 k.part (authorityHash b) (nowNs s)) 0 48
  freshSeq { x.2 with holly := { x.2.holly with bindings := tins x.2.holly.bindings k.part { b with meas7 := m7 } } } k.part

/-- Install the owner command key (R347). -/
def installOwner (s : State) (k : Kex) : State :=
  freshSeq { s with holly := { s.holly with
    ownerKey := some (hkdfExpand k.secret (ascii "NZ1280 ock") 48), meas6 := sha384 (transcript k) } } 0

/-- Install what a purpose installs (Table 15.2). -/
def installKex (s : State) (k : Kex) (auth : List Byte) : State :=
  if k.purpose == 1 then installOwner s k
  else if k.purpose == 2 then installBinding s k auth
  else installLink s k

/-- What rejects message 3 before its keys are looked at; the exchange stays (R4, R341, R348, R350). -/
def finBars (s : State) (k : Kex) : Option Code :=
  if linkPurpose k.purpose && portFenced s (linkPort s k.link) then some .peerFenced
  else if k.purpose != 1 && k.purpose != 4 && tearingDown s k.part then some .busyTeardown
  else if linkPurpose k.purpose && !(linkLive s k.link && linkFits s k.purpose k.part k.link) then some .notAuthorised
  else if k.purpose == 2 && s.holly.debug then some .notAuthorised
  else if k.purpose == 2 && (tfind s.holly.bindings k.part).isSome then some .conflict
  else none

/-- The exchange that a KEX_FIN names, while it lasts. Log 147 (DEDUCED). -/
def kexOf (s : State) (id : Nat) : Option Kex :=
  match tfind s.holly.kexes id with
  | some k => if elapsed s k.since (ticksOfMs 10) then none else some k
  | none => none

/-- KEX_FIN (R339): the reply, its code and the state after it. -/
def execKexFin (c : Ncp) (s : State) : Res :=
  let id := beAt c.body 0 4
  if !s.pwr.hubUp then .next s
  else if c.auth != .untagged then runCmd s c 0x0904 (failWith .notAuthorised)
  else if c.body.length < 52 then runCmd s c 0x0904 (failWith .badParam)
  else
    match kexOf s id with
    | none => runCmd s c 0x0904 (failWith .notAuthorised)
    | some k =>
      match finAuth k c.body with
      | none => runCmd s c 0x0904 (failWith .badParam)
      | some auth =>
        .next <|
          match finBars s k with
          | some code => finish s c 0x0904 code 0 noIndex []
          | none =>
            let s1 := dropKex s id k
            if finAuthOk s k auth && finConfirmed k c.body then finish (installKex s1 k auth) c 0x0904 .done 0 noIndex []
            else finish (raise s1 .hollyKexFail 0 (recVal k.part)) c 0x0904 .notAuthorised 0 noIndex []

/-- KEX_TIMEOUT (R339): 10 ms after KEX_RESP an exchange is discarded. -/
def execKexTimeout (exchange : Nat) (s : State) : Res :=
  .next <|
    match tfind s.holly.kexes exchange with
    | some k => if elapsed s k.since (ticksOfMs 10) then dropKex s exchange k else s
    | none => s

/-- REKEY_TIMER (R343): REKEY_S after its keys a link is due for a fresh exchange. Log 120 (DESIGN CHOICE). -/
def execRekeyTimer (link : Nat) (s : State) : Res :=
  .next <|
    let k := linkKeys s link
    if linkLive s link && k.txKey.isSome && !k.exchanging && elapsed s k.keyedAt (ticksOfS (fld s .REKEY_S)) then
      setKeys s link { k with exchanging := true }
    else s

/-! MACsec (R344) -/

/-- The key-wrap key of a port and the partition it is of: the tenant's on a port assigned to a bound partition, else the
owner's. The command must come under that authority. -/
def wrapKey (s : State) (c : Ncp) : Except Bad (Nat × List Byte) := do
  let assigned := if holdsPart s then tfind s.holly.bindings s.haw.part else none
  match assigned with
  | some b =>
    need (c.auth == .tenant s.haw.part) .notAuthorised
    return (s.haw.part, hkdfExpand b.pms (ascii "NZ1280 kek" ++ beBytes 2 s.haw.part) 32)
  | none =>
    need (c.auth == .owner) .notAuthorised
    return (0, s.holly.ownerKey.getD [])

/-- Install an association: a secure channel of the port's own MAC transmits. Log 150 (DEDUCED). -/
def installSa (s : State) (p sci an : Nat) (a : MacsecSa) : State :=
  let m := tget {} s.holly.macsec p
  let i := sci * 4 + an
  let m2 := if sci / 65536 == portMac p then { m with tx := tins m.tx i a, curTx := some i, stopped := false, installed := true }
            else { m with rx := tins m.rx i a, installed := true }
  { s with holly := { s.holly with macsec := tset {} s.holly.macsec p m2 } }

/-- MACSEC_KEY (R344). -/
def execMacsecKey (c : Ncp) (s : State) : Res :=
  runCmd s c 0x0905 do
    needKeyed s c
    needLen c 68
    let p := beAt c.body 0 2; let an := beAt c.body 10 1; let suite := beAt c.body 11 1
    need (decide (p < nPorts) && !absorbed s p && portMode s p == .ethernet && decide (an < 4) && decide (suite < 2)) .badParam
    need (s.haw.pstate != .teardown) .busyTeardown
    let (part, kek) ← wrapKey s c
    match Config.keyUnwrap kek (bytesAt c.body 28 40) with
    | none => failWith .notAuthorised
    | some key =>
      let a : MacsecSa := { part := part, key := beNat (bytesAt key 0 32), pn := 1, xpn := suite == 1, salt := beAt c.body 12 4 * 2 ^ 96 + beAt c.body 16 12 }
      return ([], installSa s p (beAt c.body 2 8) an a)

/-! Owner, debug and status -/

/-- OWNER_CLEAR (R347): the reply still carries the owner's tag. Log 151 (DESIGN CHOICE). -/
def execOwnerClear (c : Ncp) (s : State) : Res :=
  if !s.pwr.hubUp then .next s
  else
    let r : Except Bad Unit := do
      needOwner c
      needLen c 0
      need s.holly.bindings.isEmpty .running
      need (!flag s .OWNER_LOCK) .locked
    match r with
    | .error b => runCmd s c 0x0907 (.error b)
    | .ok _ =>
      let s1 := finish s c 0x0907 .done 0 noIndex []
      .next (freshSeq { s1 with holly := { s1.holly with ownerKey := none, meas6 := zeroBytes 48 } } 0)

/-- DEBUG_NONCE (R348). -/
def execDebugNonce (c : Ncp) (s : State) : Res :=
  runCmd s c 0x0908 do
    needLen c 0
    let n := takeFree s (2 ^ 256)
    return (beBytes 32 n.1, { n.2 with holly := { n.2.holly with nonce := some (beBytes 32 n.1, s.raw) } })

/-- Is a token one that Colavo signed for this module and its last nonce (R348)? -/
def debugTokenOk (s : State) (b : List Byte) : Bool :=
  let fresh := match s.holly.nonce with
    | some (n, t) => n == bytesAt b 8 32 && decide (s.raw ≤ t + ticksOfS 60)
    | none => false
  fresh && beAt b 0 8 == Config.fusedSerial.toNat &&
    Config.colavoOk (sha384 (b.take 44)) (bytesAt b 44 96) (bytesAt b 140 3309)

/-- Every partition is torn down, its erase included; a teardown under way is answered. -/
def teardownAll (s : State) : State :=
  let s1 := if holdsPart s then
      let t := if s.haw.pstate == .teardown then s else startTeardown s s.haw.part
      let cmd := t.haw.teardown
      let t1 := endTeardown t
      match cmd with
      | some c => finish t1 c 0x0802 .done 0 noIndex []
      | none => t1
    else s
  (s1.holly.bindings.map (·.1)).foldl (fun t p => eraseKeys t p false) s1

/-- Every link key is zeroised, and every protected link retrains. -/
def zeroiseLinks (s : State) : State :=
  let ports := (List.range nPorts).filter fun p => portMode s p == .fabric && protOn s p && portUp s p
  let s1 := ports.foldl linkDown s
  { s1 with holly := { s1.holly with links := [] } }

/-- DEBUG_UNLOCK (R348). -/
def execDebugUnlock (c : Ncp) (s : State) : Res :=
  runCmd s c 0x0909 do
    needOwner c
    needLen c 3449
    need (!flag s .DEBUG_LOCK) .locked
    need (debugTokenOk s c.body) .notAuthorised
    let s1 := zeroiseLinks (teardownAll s)
    return ([], extendMeas5 { s1 with holly := { s1.holly with debug := true, scope := beAt c.body 40 4, nonce := none } })

/-- HOLLY_STATUS (R351): the registers of Table 15.7 in offset order as NCP reads them, then the bound partitions. -/
def execHollyStatus (c : Ncp) (s : State) : Res :=
  runCmd s c 0x090A do
    needOwner c
    needLen c 0
    let word := fun (off : Nat) =>
      match regOf (0x01000000 + off) with
      | some d => regWord s 1 (regAddr (0x01000000 + off)) d
      | none => 0
    let regs := [0x00, 0x04, 0x08, 0x0C, 0x10, 0x14, 0x18, 0x1C, 0x20].flatMap fun o => beBytes 4 (word o)
    return (regs ++ beBytes 2 s.holly.bindings.length ++ s.holly.bindings.flatMap (fun e => beBytes 2 e.1), s)

end Sys2Proof.Machine
end

