-- ==== Sys2Proof/Machine/PowerRows.lean ====
section
/-!
DEFINITION. Machine/PowerRows.lean: supplies, reset, boot, watchdog, thermal loop and firmware slots (Module, Power and Signals;
R336, R402 to R412).
-/

namespace Sys2Proof.Machine

open Sys2Proof

/-! Control outputs (Table 19.6) -/

/-- PWRGD: high while every rail is in regulation. -/
def pwrgd (s : State) : Bool := s.pwr.vin48 && s.pwr.railsBad.isEmpty

/-- THROT_N is asserted while the thermal loop restricts. -/
def throttling (s : State) : Bool := decide (0 < s.pwr.level)

/-- VSB_OK: high while VAON, the last rail of Table 19.3, is in regulation. -/
def vsbOk (s : State) : Bool := s.pwr.aon && !s.pwr.railsBad.contains 11

/-! Module reset (R404) -/

/-- Bits of HUB_RESET_CAUSE. -/
def causePor : Nat := 1
def causePin : Nat := 2
def causeCmd : Nat := 4
def causeWdog : Nat := 8

/-- Is the watchdog's second over? -/
def wdogDue (s : State) : Bool := s.pwr.hubUp && elapsed s s.pwr.wdogAt (ticksOfS 1)

/-- Has the instant of a MODULE_RESET command come? -/
def commandDue (s : State) : Bool := match s.pwr.resetAt with | some t => decide (t ≤ s.raw) | none => false

/-- A firmware slot over a reset: contents being staged are lost. -/
def slotOverReset (active : Nat) (k : Nat) (x : FwSlot) : FwSlot := if k == active || x.valid || x.factory then x else {}

/-- Power state over a module reset: supplies, pins, sensors and firmware slots stay; a pending activation takes effect. -/
def pwrOverReset (s : State) (cause : Nat) : Power :=
  let p := s.pwr
  let active := if p.pendingAct then 1 - p.active else p.active
  { vsb := p.vsb, aon := p.vsb, vin48 := p.vin48, railsBad := p.railsBad, tripped := p.tripped, resetN := p.resetN
    refclk := p.refclk, pllOnRef := p.refclk, cause := cause
    rails := p.rails, dies := p.dies, active := active
    slots := (List.range 2).map fun k => slotOverReset p.active k (p.slots.getD k {}) }

/-- A module reset: every part at its reset state, RAW at zero, with every cause present in the cycle. What has left the module and
what waits outside it stay. -/
def wipe (s : State) (cause : Nat) : State :=
  let all := cause ||| (if wdogDue s then causeWdog else 0) ||| (if commandDue s then causeCmd else 0)
  { pending := s.pending, out := s.out, freeCtr := s.freeCtr, pwr := pwrOverReset s all }

/-- Does the boot ROM start: supplies and REFCLK valid, RESET_N high? Log 152 (DESIGN CHOICE). -/
def canBoot (s : State) : Bool :=
  s.pwr.aon && pwrgd s && vsbOk s && !s.pwr.tripped && s.pwr.resetN && s.pwr.refclk && !s.pwr.hubUp && !s.holly.fwBad

/-- The component versions of the firmware in the active slot. -/
def bootVersions (s : State) : List Nat :=
  [1, 2, 3].map fun t =>
    match (activeImage s).isEmpty, fwComp (activeImage s) t with
    | false, some c => c.2.2.2
    | _, _ => Config.factoryVersion t % 2 ^ 32

/-- Steps 6 and 7 of Table 19.4: secure boot (R336), hub released, store and Laurel initialised. Firmware whose signature fails is not
started. -/
def boot (s : State) : State :=
  if !canBoot s then s
  else if !(activeImage s).isEmpty && !fwSigned (activeImage s) then { s with holly := { s.holly with fwBad := true } }
  else { s with
    pwr := { s.pwr with hubUp := true, wdogAt := s.raw, fwVersions := bootVersions s }
    loam := { s.loam with initDone := true }
    laurel := { s.laurel with ready := true } }

/-- A module reset, after which the sequence of Table 19.4 goes on as far as supplies and pins allow. Log 10 (DEDUCED).
Log 153 (DEDUCED). -/
def moduleReset (s : State) (cause : Nat) : State := boot (wipe s cause)

/-! Supplies and pins (R403, R404, R406) -/

/-- VSB_APPLIED (R403). -/
def execVsbApplied (s : State) : Res :=
  .next (if s.pwr.vsb then s else moduleReset { s with pwr := { s.pwr with vsb := true } } causePor)

/-- Have all dies fallen below 85 °C (R407)? -/
def allCool (s : State) : Bool := s.pwr.dies.all fun e => decide (e.2 < 850)

/-- A trip ends when the dies are cool; the rails then come back (R407). -/
def endTrip (s : State) : State :=
  if s.pwr.tripped && allCool s then { s with pwr := { s.pwr with tripped := false, railsBad := [] } } else s

/-- VIN48_APPLIED (R403): the rails ramp and PWRGD rises. -/
def execVin48Applied (s : State) : Res :=
  .next (if s.pwr.vin48 then s else boot (endTrip { s with pwr := { s.pwr with vin48 := true } }))

/-- RESET_RELEASE (R403). -/
def execResetRelease (s : State) : Res :=
  .next (if s.pwr.resetN then s else boot (endTrip { s with pwr := { s.pwr with resetN := true } }))

/-- RESET_PIN_ASSERT (R404). -/
def execResetPinAssert (s : State) : Res := .next (moduleReset { s with pwr := { s.pwr with resetN := false } } causePin)

/-- SUPPLY_BROWNOUT (R404): VIN48, or VSB, has left its range. -/
def execSupplyBrownout (vsbLost : Bool) (s : State) : Res :=
  .next (moduleReset { s with pwr :=
    if vsbLost then { s.pwr with vsb := false } else { s.pwr with vin48 := false } } causePor)

/-- REFCLK_VALID (R403). -/
def execRefclkValid (s : State) : Res := .next (boot { s with pwr := { s.pwr with refclk := true, pllOnRef := true } })

/-- REFCLK_LOSS (R403): every link goes down. -/
def execRefclkLoss (s : State) : Res :=
  .next <|
    let s1 := { s with pwr := { s.pwr with refclk := false, pllOnRef := false } }
    ((List.range nPorts).filter (portUp s)).foldl linkDown s1

/-- RAIL_OUT_OF_REGULATION (R407): a rail, from 0 in the order of Table 19.3, leaves regulation or comes back. -/
def execRailOutOfRegulation (rail : Nat) (bad : Bool) (s : State) : Res :=
  atUnit rail 12 <|
    let others := s.pwr.railsBad.filter (· != rail)
    if bad then { s with pwr := { s.pwr with railsBad := others ++ [rail] } }
    else boot { s with pwr := { s.pwr with railsBad := others } }

/-- PERST_N clears the mailbox slots; replies of commands that came by them are dropped (R404). Log 40 (DEDUCED). -/
def lostVia : Transport → Transport
  | .mailbox k => .mailbox (if k < 4 then k + 4 else k)
  | v => v

def lostNcp (c : Ncp) : Ncp := { c with via := lostVia c.via }

/-- PERST_ASSERT (R404). -/
def execPerstAssert (s : State) : Res :=
  .next { s with
    ncp := { s.ncp with
      mbx := []
      stages := tmap (fun _ (g : Stage) => { g with via := lostVia g.via }) s.ncp.stages
      queues := tmap (fun _ q => q.map fun (c : QCmd) => { c with via := lostVia c.via }) s.ncp.queues
      running := s.ncp.running.map fun r => { r with via := lostVia r.via } }
    yew := { s.yew with cal := s.yew.cal.map fun x => { x with cmd := lostNcp x.cmd } }
    haw := { s.haw with
      admitting := s.haw.admitting.map fun x => { x with cmd := lostNcp x.cmd }
      teardown := s.haw.teardown.map lostNcp
      margin := s.haw.margin.map fun x => { x with cmd := lostNcp x.cmd } } }

/-! Watchdog and commanded reset (R404, R405) -/

def execWatchdogRestart (s : State) : Res := .next (if s.pwr.hubUp then { s with pwr := { s.pwr with wdogAt := s.raw } } else s)

/-- WATCHDOG_EXPIRY (R405): a second without a restart. -/
def execWatchdogExpiry (s : State) : Res := .next (if wdogDue s then moduleReset s causeWdog else s)

/-- MODULE_RESET (R404): 10 ms after its reply. -/
def execModuleReset (c : Ncp) (s : State) : Res :=
  runCmd s c 0x0104 do
    needOwner c
    needLen c 1
    let force := beAt c.body 0 1
    need (decide (force ≤ 1)) .badParam
    need (force == 1 || s.haw.pstate == .none) .running
    return ([], { s with pwr := { s.pwr with resetAt := some (s.raw + ticksOfMs 10) } })

/-- COMMANDED_RESET (R404). -/
def execCommandedReset (s : State) : Res := .next (if commandDue s then moduleReset s causeCmd else s)

/-! Thermal trip and loop (R407, R409, Table 19.9) -/

/-- Throttle and trip temperatures of a die in 0.1 °C; the cross-connect has none. -/
def dieLimits (die : Nat) : Option (Int × Int) :=
  if die < 4 || die == 50 then some (1000, 1100)
  else if die < 16 then some (980, 1050)
  else if die < 48 then some (820, 900)
  else none

/-- THERMAL_TRIP (R407): every rail but VAON goes off, and with them what they feed holds. Log 154 (DEDUCED). -/
def execThermalTrip (die : Nat) (s : State) : Res :=
  atUnit die 51 <|
    match dieLimits die with
    | none => s
    | some l =>
      let p := s.pwr
      let dies := tins p.dies die (max (dieTemp s die) l.2)
      { pending := s.pending, out := s.out, freeCtr := s.freeCtr, raw := s.raw
        pwr := { p with tripped := true, railsBad := (List.range 11) ++ p.railsBad.filter (· == 11), hubUp := false, dies := dies
                        resetAt := none, level := 0, capW := 0 } }

/-- Put a list's values under rising keys. -/
def putAll {α : Type} (t : Table α) (k : Nat) : List α → Table α
  | [] => t
  | x :: l => putAll (tins t k x) (k + 1) l

/-- L after an evaluation (R409). -/
def nextLevel (s : State) : Nat :=
  let p := s.pwr
  let limited := (List.range 51).filterMap fun d => (dieLimits d).map fun l => (dieTemp s d, l.1)
  let hot := (limited.any fun x => decide (x.2 < x.1)) || (p.capW != 0 && decide (p.capW < p.powerW))
  let cool := (limited.all fun x => decide (x.1 ≤ x.2 - 50)) && (p.capW == 0 || decide (100 * p.powerW ≤ 95 * p.capW))
  if hot then min 15 (p.level + 1) else if cool then p.level - 1 else p.level

/-- THERMAL_LOOP_EVAL (R409): the dies' temperatures in 0.1 °C, the rails as POWER_STATUS reports them and the mean power in W, as
the sensors show them. The loop itself runs in Heath. -/
def execThermalLoopEval (dies : List Int) (rails : List (Nat × Nat)) (powerW : Nat) (s : State) : Res :=
  if dies.length ≤ 51 ∧ rails.length ≤ 12 then
    let s1 := { s with pwr := { s.pwr with dies := putAll s.pwr.dies 0 dies, rails := putAll s.pwr.rails 0 rails, powerW := powerW } }
    .next (if s.pwr.hubUp then { s1 with pwr := { s1.pwr with level := nextLevel s1 } } else s1)
  else .fault .noSuchUnit

/-! Identity and power commands (Table 16.5) -/

/-- A register as the hub itself reads it. -/
def hubWord (s : State) (a : Nat) : Nat := match regOf a with | some d => regWord s 1 (regAddr a) d | none => 0

/-- IDENT (R363). -/
def execIdent (c : Ncp) (s : State) : Res :=
  runCmd s c 0x0101 do
    needLen c 0
    return (beBytes 4 (hubWord s 0x00000000) ++ beBytes 2 (hubWord s 0x00000004) ++ beBytes 8 Config.fusedSerial.toNat ++
      beBytes 6 macBase ++ beBytes 1 (selfPlane s) ++ beBytes 2 (selfSpine s) ++ s.pwr.fwVersions.flatMap (beBytes 4), s)

/-- Nominal rails of Table 19.3: mV and the current at TDP in 0.1 A. -/
def railNominal : List (Nat × Nat) :=
  [(750, 2330), (750, 2330), (700, 4570), (700, 4570), (800, 1880), (1050, 3240), (900, 1670), (850, 4240), (1800, 830), (3300, 121),
   (850, 210), (1800, 11)]

/-- Domains that are awake, domain d at bit d mod 32 of word d / 32. -/
def awakeMap (s : State) : List Byte :=
  (List.range 12).flatMap fun w => beBytes 4 ((List.range 32).foldl (fun a b =>
    let d := 32 * w + b
    if d < nDomains && domainAwake s d then a + 2 ^ b else a) 0)

/-- POWER_STATUS (R402): rails in table order; temperatures in 1/64 °C. Log 155 (DESIGN CHOICE). -/
def execPowerStatus (c : Ncp) (s : State) : Res :=
  runCmd s c 0x0102 do
    needOwner c
    needLen c 0
    let rails := (List.range 12).flatMap fun k =>
      let v := tget (railNominal.getD k (0, 0)) s.pwr.rails k
      beBytes 2 v.1 ++ beBytes 2 v.2
    let temps := (List.range 51).flatMap fun d => beBytes 2 (s16 (dieTemp64 s d))
    return (beBytes 2 s.pwr.powerW ++ rails ++ temps ++ awakeMap s, s)

/-- POWER_CAP (R409). -/
def execPowerCap (c : Ncp) (s : State) : Res :=
  runCmd s c 0x0103 do
    needOwner c
    needLen c 2
    let w := beAt c.body 0 2
    need (w == 0 || (decide (1000 ≤ w) && decide (w ≤ 2400))) .outOfRange
    return (beBytes 2 s.pwr.capW, { s with pwr := { s.pwr with capW := w } })

/-! Firmware slots (R412) -/

/-- Contents with bytes written at an offset. -/
def splice (old : List Byte) (off : Nat) (new : List Byte) : List Byte :=
  padTo off (old.take off) ++ new ++ old.drop (off + new.length)

/-- Is every byte below `n` covered by stretches? `fuel` bounds the steps. -/
def covered (ws : List (Nat × Nat)) : Nat → Nat → Nat → Bool
  | 0, at_, n => decide (n ≤ at_)
  | fuel + 1, at_, n =>
    if n ≤ at_ then true
    else
      match ws.find? fun w => decide (w.1 ≤ at_) && decide (at_ < w.1 + w.2) with
      | some w => covered ws fuel (w.1 + w.2) n
      | none => false

def slotAt (s : State) (k : Nat) : FwSlot := s.pwr.slots.getD k {}

def setSlot (s : State) (k : Nat) (x : FwSlot) : State :=
  { s with pwr := { s.pwr with slots := (List.range 2).map fun i => if i == k then x else slotAt s i } }

/-- FW_STAGE (R412): the inactive slot, at the offset named. Log 156 (DEDUCED). -/
def execFwStage (c : Ncp) (s : State) : Res :=
  runCmd s c 0x0B01 do
    needOwner c
    need (!flag s .FW_LOCK) .locked
    let off := beAt c.body 0 4
    let data ← atStep 0 (imgSource c 4 false 16777216)
    need (decide (off + data.length ≤ 67108864)) .outOfRange
    let k := 1 - s.pwr.active
    let x := slotAt s k
    let s1 := setSlot s k { image := splice x.image off data, written := x.written ++ [(off, data.length)], valid := false }
    return ([], { s1 with pwr := { s1.pwr with pendingAct := false } })

/-- Do the components lie in ascending order, without overlap, between the header and the signatures? -/
def compsFit (limit : Nat) : Nat → List (Nat × Nat × Nat × Nat) → Bool
  | at_, [] => decide (at_ ≤ limit)
  | at_, c :: t => decide (at_ ≤ c.2.1) && compsFit limit (c.2.1 + c.2.2.1) t

/-- The staged image of a slot, when it is whole and laid out as Table 19.10 says. -/
def stagedImage (x : FwSlot) : Option (List Byte) :=
  let n := beAt x.image 12 4
  let img := x.image.take n
  let comps := fwComps img
  let ok := decide (80 + 3405 ≤ n) && decide (n ≤ 67108864) && decide (n ≤ x.image.length) && covered x.written x.written.length 0 n &&
    beAt img 0 4 == 0x4E5A00F0 && beAt img 4 1 == 1 && beAt img 5 1 == 3 && beAt img 6 2 == 0 && beAt img 24 4 == 0 && icrcOk img &&
    ([1, 2, 3].all fun t => (comps.filter fun c => c.1 == t).length == 1) &&
    ([32, 48, 64].all fun o => beAt img (o + 1) 3 == 0) && compsFit (n - 3405) 80 comps
  if ok then some img else none

/-- The package version of a slot. -/
def slotVersion (s : State) (k : Nat) : Nat :=
  if (slotAt s k).factory then Config.factoryVersion 0 % 2 ^ 32 else beAt (slotAt s k).image 8 4

/-- FW_ACTIVATE (R412): the factory's firmware passes the checks. -/
def execFwActivate (c : Ncp) (s : State) : Res :=
  runCmd s c 0x0B02 do
    needOwner c
    needLen c 0
    need (!flag s .FW_LOCK) .locked
    let k := 1 - s.pwr.active
    if (slotAt s k).factory then return (beBytes 4 (slotVersion s k), { s with pwr := { s.pwr with pendingAct := true } })
    else
      match stagedImage (slotAt s k) with
      | none => failWith .badParam
      | some img =>
        need (fwSigned img) .notAuthorised
        let s1 := setSlot s k { image := img, written := [(0, img.length)], valid := true }
        return (beBytes 4 (beAt img 8 4), { s1 with pwr := { s1.pwr with pendingAct := true } })

/-- FW_STATUS (R412). -/
def execFwStatus (c : Ncp) (s : State) : Res :=
  runCmd s c 0x0B03 do
    needOwner c
    needLen c 0
    return (beBytes 4 (slotVersion s 0) ++ beBytes 4 (slotVersion s 1) ++ beBytes 1 s.pwr.active ++ beBytes 1 (b2n s.pwr.pendingAct), s)

end Sys2Proof.Machine
end

