-- ==== Sys2Proof/Machine/RegRows.lean ====
section
/-!
DEFINITION. Machine/RegRows.lean: the meanings of the register commands and events (Register Interface, R317, R370 to R381).
-/

namespace Sys2Proof.Machine

open Sys2Proof

/-! The register bus -/

/-- REGISTER_WRITE: a write by a requester (R366, R370, R375). A PCIe request that is not one full DWORD has no effect. -/
def execRegisterWrite (req addr : Nat) (value : Word) (dword : Bool) (s : State) : Res :=
  atUnit req 4 <|
    if req == 0 && !dword && reqOpen s 0 then emit (raise s .regBadAccess 0 (recVal addr)) (.pcie 1 0)
    else busWrite s req addr value.toNat

/-- A write to a lock register (R372). -/
def execLockBitSet (req addr : Nat) (value : Word) (s : State) : Res :=
  atUnit req 4 <|
    match regOf addr with
    | some d => if d.fields.any (fun f => f.acc == .rwl) then busWrite s req addr value.toNat else s
    | none => s

/-- START of SIEVE_CTRL through the set alias (R80, R369). -/
def execSieveStart (req half : Nat) (s : State) : Res :=
  if req < 4 ∧ half < 2 then .next (busWrite s req (0x11004000 + half * 2 ^ 16) 4) else .fault .noSuchUnit

/-- RESET of ST_CTR_CTRL (R386). -/
def execCounterResetWrite (req : Nat) (s : State) : Res := atUnit req 4 (busWrite s req 0x3000001C 1)

/-- SLOW_CLEAR of TL_SLOW_CTRL (R229). -/
def execSlowClear (req : Nat) (s : State) : Res := atUnit req 4 (busWrite s req 0x1AFF0018 1)

/-- A write of ST_RING_CTRL (R395). -/
def execRingFreezeWrite (req : Nat) (value : Word) (s : State) : Res := atUnit req 4 (busWrite s req 0x31000000 value.toNat)

/-- An access that no node has answered within 2 µs (R375): nothing is written; a PCIe read completes with Completer Abort,
and an NCP command is rejected with the place of the address in its list. Log 29 (DEDUCED). -/
def execRegisterAccessTimeout (req addr : Nat) (write : Bool) (ncp : Option (Ncp × Nat)) (s : State) : Res :=
  atUnit req 4 <|
    if !reqOpen s req then s
    else
      let s1 := raise { s with regs := { s.regs with timeouts := satAdd 16 s.regs.timeouts 1 } } .regDomainTimeout 0 (recVal addr)
      let s2 := if write then noteWrite s1 req addr .domainTimeout else s1
      match req, ncp with
      | 0, _ => if write then s2 else emit s2 (.pcie 2 0)
      | 1, some (c, i) => finish s2 c (if write then 0x0202 else 0x0201) .domainTimeout 0 i []
      | _, _ => s2

/-- Heath reads every RWV field: words whose copies differ are corrected (R371). -/
def execRwvScrub (s : State) : Res :=
  .next (if !s.pwr.hubUp then s
    else s.regs.upset.foldl (fun t e =>
      let a := e.1 / 2 ^ 20
      voteFix t (a / 2 ^ 24) (a / 2 ^ 16 % 256) (a % 2 ^ 16) (e.1 % 2 ^ 20)) s)

/-! Commands -/

/-- The list of a command: N of 1 to 1,024 and N entries of `w` bytes. -/
def regList (c : Ncp) (w : Nat) : Except Bad (List (List Byte)) := do
  needOwner c
  need (decide (2 ≤ c.body.length)) .badParam
  let n := beAt c.body 0 2
  need (decide (1 ≤ n) && decide (n ≤ 1024) && c.body.length == 2 + w * n) .badParam
  return (List.range n).map fun i => bytesAt c.body (2 + w * i) w

/-- Read a list of addresses in order. -/
def readList (s : State) (r : Nat) : List Nat → List Byte × State
  | [] => ([], s)
  | a :: t => let x := busRead s r a; let y := readList x.2 r t; (beBytes 4 x.1 ++ y.1, y.2)

/-- REG_READ (R365, R371): an unoccupied address rejects the command with its place in the list. Log 160 (DESIGN CHOICE). -/
def execRegRead (c : Ncp) (s : State) : Res :=
  match regList c 4 with
  | .error b => runCmd s c 0x0201 (.error b)
  | .ok es =>
    let addrs := es.map beNat
    match findIdx (fun a => (regOf a).isNone) 0 addrs with
    | some (i, a) => runCmd (if s.pwr.hubUp then badAddr s a else s) c 0x0201 (failWith .outOfRange 0 i)
    | none => runCmd s c 0x0201 (.ok (readList s 1 addrs))

/-- Stage and apply pairs in order: the state after them all, or the place and code of the first that is rejected.
Log 18 (DEDUCED). -/
def writeList (s : State) : Nat → List (Nat × Nat) → Except (Nat × Nat × Code) State
  | _, [] => .ok s
  | i, (a, v) :: t =>
    match regWrite s 1 a v with
    | .ok s1 => writeList s1 (i + 1) t
    | .error code => .error (i, a, code)

/-- REG_WRITE (R373, R375): all or none, each pair checked against the state left by the pairs before it. -/
def execRegWrite (c : Ncp) (s : State) : Res :=
  match regList c 8 with
  | .error b => runCmd s c 0x0202 (.error b)
  | .ok es =>
    let pairs := es.map fun e => (beAt e 0 4, beAt e 4 4)
    match writeList s 0 pairs with
    | .ok t => runCmd s c 0x0202 (.ok ([], noteWrite t 1 0 .done))
    | .error (i, a, code) => runCmd (if s.pwr.hubUp then noteWrite s 1 a code else s) c 0x0202 (failWith code 0 i)

/-- What every REG_COMMIT checks first: the owner, the length, its NOW byte, a block and instance that exist, and no timed commit
less than 10 µs ahead (R378). Gives the block and instance. -/
def commitHead (s : State) (c : Ncp) (now : Nat) : Except Bad (Nat × Nat) := do
  needOwner c
  needLen c 8
  need (beAt c.body 2 1 == now && beAt c.body 3 1 == 0) .badParam
  let blk := beAt c.body 0 1; let inst := beAt c.body 1 1
  need (!(instancesOf blk).isEmpty && (inst == 0xFE || unitExists blk inst)) .outOfRange
  need (now == 0 || beAt c.body 4 4 == 0) .badParam
  need (!(namedInstances blk inst).any fun i => match pendOf s blk i with | some p => decide (p.at_ < nowNs s + 10000) | none => false) .running
  return (blk, inst)

/-- Is any instance of those named dirty? -/
def anyDirty (s : State) (blk inst : Nat) : Bool := (namedInstances blk inst).any (dirty s blk)

/-- REG_COMMIT at a time T (R378, R379). -/
def execRegCommitAtT (c : Ncp) (s : State) : Res :=
  runCmd s c 0x0203 do
    let (blk, inst) ← commitHead s c 0
    let t := beAt c.body 4 4
    need s.yew.stepped .timePast
    let d := diff32 t (now32 s)
    need (!decide (d < 10000)) .timePast
    need (!decide (2000000000 < d)) .outOfRange
    let _ ← atStep 0 (commitAll s blk (namedInstances blk inst))
    let s1 := dropPend s blk inst
    return ([], if anyDirty s blk inst then
      { s1 with regs := { s1.regs with pend := s1.regs.pend ++ [{ blk := blk, inst := inst, at_ := expand32 s t, wanted := t }] } }
      else s)

/-- REG_COMMIT at once (R378): it drops the pending timed commit. Log 23 (DEDUCED). -/
def execRegCommitNow (c : Ncp) (s : State) : Res :=
  runCmd s c 0x0203 do
    let (blk, inst) ← commitHead s c 1
    let t ← atStep 0 (commitAll s blk (namedInstances blk inst))
    return ([], if anyDirty s blk inst then dropPend t blk inst else s)

/-- REG_COMMIT that discards the shadow and drops the pending timed commit (R378). -/
def execRegCommitDiscard (c : Ncp) (s : State) : Res :=
  runCmd s c 0x0203 do
    let (blk, inst) ← commitHead s c 2
    return ([], dropPend ((namedInstances blk inst).foldl (fun t i => dropShadow t blk i) s) blk inst)

/-- A timed commit comes due (R379). Of several that are due, the one of the lowest block and instance goes first.
Log 25 (DEDUCED). -/
def execShadowCommitApply (blk inst : Nat) (s : State) : Res :=
  .next <|
    let due := s.regs.pend.filter fun c => reached s c.at_
    match due.find? fun c => c.blk == blk && c.inst == inst with
    | none => s
    | some c => if due.any fun e => e.at_ < c.at_ || (e.at_ == c.at_ && pendRank e < pendRank c) then s else applyPend s c

/-- CABLING_ACCEPT (R317, R381): the lowest invalid swap entry takes the two ports and instance 0x00 commits at once.
Log 26 (DEDUCED). -/
def execCablingAccept (c : Ncp) (s : State) : Res :=
  runCmd s c 0x0804 do
    needOwner c
    needLen c 4
    let p := beAt c.body 0 2; let q := beAt c.body 2 2
    need (decide (p < nPorts) && decide (q < nPorts) && p != q) .badParam
    need (cabOf s p == .swap && cabOf s q == .swap && portLanes s p == portLanes s q && portMode s p == portMode s q &&
      dimCode s p == dimCode s q && !listNames s p && !listNames s q && !portFenced s p && !portFenced s q) .conflict
    match (List.range 64).find? fun k => !bitAt (regShadow s 0x00 0 (0x800 + 4 * k) 0) 31 with
    | none => failWith .noResource
    | some k =>
      need (!commitNear s 0x00 0) .running
      let s1 := regKeepShadow s 0x00 0 (0x800 + 4 * k) 0 (2 ^ 31 + p * 65536 + q)
      let s2 ← atStep 0 (commitInst s1 0x00 0 [p, q])
      return ([], dropPend s2 0x00 0)

/-! Upsets -/

/-- The bits of a register word that are stored three times. -/
def rwvMask (d : RegDesc) : Nat := d.fields.foldl (fun a f => if f.acc == .rwv then a + (2 ^ f.width - 1) * 2 ^ f.lsb else a) 0

/-- Flip a bit of one of the three copies of an RWV word (R371). -/
def upsetRegister (s : State) (addr idx copy bit : Nat) : State :=
  match regOf addr with
  | none => s
  | some d =>
    if bit < 32 ∧ bitAt (rwvMask d) bit ∧ copy < 3 then
      let x := regAddr addr
      let k := regKey x.blk x.inst x.off idx
      let e := (tfind s.regs.upset k).getD (0, 0, 0)
      let m : BitVec 32 := BitVec.ofNat 32 (2 ^ bit)
      let e2 := if copy == 0 then (e.1 ^^^ m, e.2.1, e.2.2) else if copy == 1 then (e.1, e.2.1 ^^^ m, e.2.2) else (e.1, e.2.1, e.2.2 ^^^ m)
      if e2.1 == e2.2.1 && e2.2.1 == e2.2.2 then regKeep s x.blk x.inst x.off idx (regKept s x.blk x.inst x.off idx ^^^ e2.1).toNat
      else { s with regs := { s.regs with upset := tins s.regs.upset k e2 } }
    else s

/-- An error in the bits of a used cell or clod (R57): 1 correctable, 2 not; a unit not in use is written before it is read. -/
def worse (old : Nat) (unc : Bool) : Nat := max old (if unc then 2 else 1)

/-- An upset in what the module holds (R57, R149, R210, R371). It shows when the unit is next read. Log 28 (DEDUCED).
Log 163 (DESIGN CHOICE). -/
def execUpset (target : UpsetTarget) (s : State) : Res :=
  .next <|
    match target with
    | .register addr idx copy bit => upsetRegister s addr idx copy bit
    | .cell c unc => { s with loam := { s.loam with
        cells := tadj s.loam.cells c fun r => if r.kind == .held then { r with err := worse r.err unc } else r } }
    | .clod c unc => { s with loam := { s.loam with
        clods := tadj s.loam.clods c fun r => if r.kind == .free || r.kind == .retired then r else { r with err := worse r.err unc } } }
    | .weight a page word unc =>
      if s.marl.tiles.any (fun t => t.array == a && t.pages.contains page) then
        let k := weightWord (a * 128 + page) word
        { s with marl := { s.marl with errs := tset 0 s.marl.errs k (worse (tget 0 s.marl.errs k) unc) } }
      else s
    | .laurel half tk i =>
      { s with laurel := if half == 0 then { s.laurel with r0 := markIn true tk i s.laurel.r0 }
                         else if half == 1 then { s.laurel with r1 := markIn true tk i s.laurel.r1 } else s.laurel }

end Sys2Proof.Machine
end

