-- ==== Sys2Proof/Machine/CommandRows.lean ====
section
/-!
DEFINITION. Machine/CommandRows.lean: how Heath starts queued commands (R360, R361) and which meaning an opcode has (Table 16.5).
-/

namespace Sys2Proof.Machine

open Sys2Proof

/-- The commands of families 0x01xx to 0x04xx; none for another opcode. -/
def hubOp (op : Nat) (c : Ncp) (s : State) : Option Res :=
  match op with
  | 0x0101 => some (execIdent c s)
  | 0x0102 => some (execPowerStatus c s)
  | 0x0103 => some (execPowerCap c s)
  | 0x0104 => some (execModuleReset c s)
  | 0x0201 => some (execRegRead c s)
  | 0x0202 => some (execRegWrite c s)
  | 0x0203 =>
    some (match beAt c.body 2 1 with
      | 0 => execRegCommitAtT c s
      | 1 => execRegCommitNow c s
      | 2 => execRegCommitDiscard c s
      | _ => runCmd s c 0x0203 do needOwner c; failWith .badParam)
  | 0x0301 => some (execLoadTable c s)
  | 0x0302 => some (execLoadRoutes c s)
  | 0x0303 => some (execTableRead c s)
  | 0x0401 => some (execLoadCalendar c s)
  | 0x0402 => some (execLoadGates c s)
  | 0x0403 => some (execCancelPending c s)
  | _ => none

/-- The commands of family 0x05xx. -/
def collOp (op : Nat) (c : Ncp) (s : State) : Option Res :=
  match op with
  | 0x0501 => some (execLoadList c s)
  | 0x0502 => some (execQueueOpen c s)
  | 0x0503 => some (execCollPost c s)
  | 0x0504 =>
    some (match beAt c.body 1 1 with
      | 1 => execQueueResume c s
      | 2 => execQueueSkip c s
      | 3 => execQueueFlush c s
      | 4 => execQueueClose c s
      | _ => runCmd s c 0x0504 do let _ ← needTenant s c; failWith .badParam)
  | 0x0505 => some (execCollStatus c s)
  | 0x0506 => some (execLoadTemplate c s)
  | 0x0507 => some (execLoadKprog c s)
  | 0x0508 => some (execLoadMop c s)
  | 0x0509 => some (execDropMop c s)
  | _ => none

/-- The commands of families 0x06xx to 0x08xx. -/
def fabricOp (op : Nat) (c : Ncp) (s : State) : Option Res :=
  match op with
  | 0x0601 => some (execOptBaseline c s)
  | 0x0602 => some (execOptMigrate c s)
  | 0x0603 => some (execOptComb c s)
  | 0x0604 => some (execOptRelock c s)
  | 0x0605 => some (execLoadSteer c s)
  | 0x0606 => some (execLoadCircuits c s)
  | 0x0607 => some (execOptCancel c s)
  | 0x0701 => some (execTimeStep c s)
  | 0x0702 => some (execTimeStatus c s)
  | 0x0703 => some (execTimeCal c s)
  | 0x0801 => some (execPartAdmit c s)
  | 0x0802 => some (execPartTeardown c s)
  | 0x0803 => some (execLoadCabling c s)
  | 0x0804 => some (execCablingAccept c s)
  | 0x0805 => some (execDiscover c s)
  | 0x0806 => some (execHawFence c s)
  | 0x0807 => some (execFenceClear c s)
  | 0x0808 => some (execHoldRelease c s)
  | 0x0809 => some (execProbationStart c s)
  | 0x080A => some (execMarginSweep c s)
  | 0x080B => some (execHawReport c s)
  | _ => none

/-- The commands of families 0x09xx to 0x0Bxx. -/
def trustOp (op : Nat) (c : Ncp) (s : State) : Option Res :=
  match op with
  | 0x0901 => some (execAttestCerts c s)
  | 0x0902 => some (execAttestMeasure c s)
  | 0x0903 => some (execKexInit c s)
  | 0x0904 => some (execKexFin c s)
  | 0x0905 => some (execMacsecKey c s)
  | 0x0906 => some (execOwnerSet c s)
  | 0x0907 => some (execOwnerClear c s)
  | 0x0908 => some (execDebugNonce c s)
  | 0x0909 => some (execDebugUnlock c s)
  | 0x090A => some (execHollyStatus c s)
  | 0x0A01 => some (execCtrSample c s)
  | 0x0A02 => some (execSnapshot c s)
  | 0x0A03 => some (execSnapshotRead c s)
  | 0x0A04 => some (execRingRead c s)
  | 0x0A05 => some (execTraceStart c s)
  | 0x0A06 => some (execTraceStop c s)
  | 0x0A07 => some (execCmapRead c s)
  | 0x0A08 => some (execThreshSet c s)
  | 0x0B01 => some (execFwStage c s)
  | 0x0B02 => some (execFwActivate c s)
  | 0x0B03 => some (execFwStatus c s)
  | _ => none

/-- Run a command by its opcode; every other opcode is reserved (R363). -/
def runOpcode (op : Nat) (c : Ncp) (s : State) : Res :=
  (((hubOp op c s).or (collOp op c s)).or ((fabricOp op c s).or (trustOp op c s))).getD (runCmd s c op (failWith .badOpcode))

/-- The partition that a command's parameters name, 0 for none (R361). -/
def namedPart (op : Nat) (b : List Byte) : Nat :=
  if op == 0x0801 || op == 0x0802 || op == 0x0808 then beAt b 0 2
  else if op == 0x0607 then (if beAt b 0 1 == 2 then beAt b 1 2 else 0)
  else if op == 0x0902 then beAt b 34 2
  else if op == 0x0903 || op == 0x0906 then beAt b 1 2
  else 0

/-- The scope of a command: a partition, or 0 for the module (R361). -/
def scopeOf (q : QCmd) : Nat := if q.part != 0 then q.part else namedPart q.opcode q.body

/-- May the head of a class's queue start (R360, R361)? -/
def headReady (s : State) (q : QCmd) : Bool :=
  decide (commandToken ≤ ncpLevel s q.cls) &&
    (s.ncp.running.filter fun r => r.cls == q.cls).all fun r => scopeOf q != 0 && r.scope != scopeOf q

/-- The queue that is served next: the first in rotation after the one served last whose head may start. -/
def nextHead (s : State) : Option QCmd :=
  let heads := s.ncp.queues.filterMap fun e => e.2.head?
  let ready := heads.filter (headReady s)
  ((ready.filter fun q => decide (s.ncp.turn < q.cls)) ++ ready).head?

/-- Who a class is. -/
def authOf (cls : Nat) : Authority := if cls == 0 then .owner else if cls == 0x1000 then .untagged else .tenant cls

/-- Take the head of a class's queue: its token is spent and it holds an execution slot. -/
def takeHead (s : State) (q : QCmd) : State :=
  let s1 := setNcpLevel s q.cls (ncpLevel s q.cls - commandToken)
  let run : Running := { cls := q.cls, opcode := q.opcode, seq := q.seq, part := q.part, via := q.via, scope := scopeOf q }
  { s1 with ncp := { s1.ncp with
    queues := tmod [] s1.ncp.queues q.cls fun l => l.drop 1
    running := s1.ncp.running ++ [run]
    turn := q.cls } }

/-- COMMAND_DISPATCH (R360, R361): a free execution slot starts the next command. `dma` is what the host memory holds at its image
source's address. Log 41 (DEDUCED). -/
def execCommandDispatch (dma : Option (List Byte)) (s : State) : Res :=
  if !s.pwr.hubUp || decide (8 ≤ s.ncp.running.length) then .next s
  else
    match nextHead s with
    | none => .next s
    | some q => runOpcode q.opcode { auth := authOf q.cls, seq := q.seq, via := q.via, body := q.body, dma := dma } (takeHead s q)

end Sys2Proof.Machine
end

