-- ==== Sys2Proof/Machine/Exec.lean ====
section
/-!
DEFINITION. Machine/Exec.lean: gathers the files that hold the meanings, for Machine/Dispatch.lean.
-/
end

