-- ==== Sys2Proof/Machine/Dispatch.lean ====
section
/-!
DEFINITION. Machine/Dispatch.lean: one arm per constructor of Instr.
-/

namespace Sys2Proof.Machine

def exec (i : Instr) (s : State) : Host.Outcome State Fault Refusal :=
  match i with
  | .vsbApplied => Sys2Proof.Machine.execVsbApplied s
  | .vin48Applied => Sys2Proof.Machine.execVin48Applied s
  | .resetRelease => Sys2Proof.Machine.execResetRelease s
  | .resetPinAssert => Sys2Proof.Machine.execResetPinAssert s
  | .supplyBrownout vsbLost => Sys2Proof.Machine.execSupplyBrownout vsbLost s
  | .watchdogExpiry => Sys2Proof.Machine.execWatchdogExpiry s
  | .watchdogRestart => Sys2Proof.Machine.execWatchdogRestart s
  | .commandedReset => Sys2Proof.Machine.execCommandedReset s
  | .perstAssert => Sys2Proof.Machine.execPerstAssert s
  | .refclkValid => Sys2Proof.Machine.execRefclkValid s
  | .refclkLoss => Sys2Proof.Machine.execRefclkLoss s
  | .thermalTrip die => Sys2Proof.Machine.execThermalTrip die s
  | .thermalLoopEval dies rails powerW => Sys2Proof.Machine.execThermalLoopEval dies rails powerW s
  | .mbxGo slot len window => Sys2Proof.Machine.execMbxGo slot len window s
  | .mbxReadyClear slot => Sys2Proof.Machine.execMbxReadyClear slot s
  | .ncpUdpDatagram mg srcIp srcPort dstPort ipFragment msg => Sys2Proof.Machine.execNcpUdpDatagram mg srcIp srcPort dstPort ipFragment msg s
  | .ncpInbandFrame fid => Sys2Proof.Machine.execNcpInbandFrame fid s
  | .fragAssemblyTimeout buffer => Sys2Proof.Machine.execFragAssemblyTimeout buffer s
  | .commandDispatch dma => Sys2Proof.Machine.execCommandDispatch dma s
  | .ident c => Sys2Proof.Machine.execIdent c s
  | .powerStatus c => Sys2Proof.Machine.execPowerStatus c s
  | .powerCap c => Sys2Proof.Machine.execPowerCap c s
  | .moduleReset c => Sys2Proof.Machine.execModuleReset c s
  | .regRead c => Sys2Proof.Machine.execRegRead c s
  | .regWrite c => Sys2Proof.Machine.execRegWrite c s
  | .regCommitAtT c => Sys2Proof.Machine.execRegCommitAtT c s
  | .regCommitNow c => Sys2Proof.Machine.execRegCommitNow c s
  | .regCommitDiscard c => Sys2Proof.Machine.execRegCommitDiscard c s
  | .shadowCommitApply blk inst => Sys2Proof.Machine.execShadowCommitApply blk inst s
  | .loadTable c => Sys2Proof.Machine.execLoadTable c s
  | .loadRoutes c => Sys2Proof.Machine.execLoadRoutes c s
  | .tableRead c => Sys2Proof.Machine.execTableRead c s
  | .loadCalendar c => Sys2Proof.Machine.execLoadCalendar c s
  | .loadGates c => Sys2Proof.Machine.execLoadGates c s
  | .cancelPending c => Sys2Proof.Machine.execCancelPending c s
  | .loadList c => Sys2Proof.Machine.execLoadList c s
  | .queueOpen c => Sys2Proof.Machine.execQueueOpen c s
  | .collPost c => Sys2Proof.Machine.execCollPost c s
  | .queueResume c => Sys2Proof.Machine.execQueueResume c s
  | .queueSkip c => Sys2Proof.Machine.execQueueSkip c s
  | .queueFlush c => Sys2Proof.Machine.execQueueFlush c s
  | .queueClose c => Sys2Proof.Machine.execQueueClose c s
  | .collStatus c => Sys2Proof.Machine.execCollStatus c s
  | .loadTemplate c => Sys2Proof.Machine.execLoadTemplate c s
  | .loadKprog c => Sys2Proof.Machine.execLoadKprog c s
  | .loadMop c => Sys2Proof.Machine.execLoadMop c s
  | .dropMop c => Sys2Proof.Machine.execDropMop c s
  | .optBaseline c => Sys2Proof.Machine.execOptBaseline c s
  | .optMigrate c => Sys2Proof.Machine.execOptMigrate c s
  | .optComb c => Sys2Proof.Machine.execOptComb c s
  | .optRelock c => Sys2Proof.Machine.execOptRelock c s
  | .loadSteer c => Sys2Proof.Machine.execLoadSteer c s
  | .loadCircuits c => Sys2Proof.Machine.execLoadCircuits c s
  | .optCancel c => Sys2Proof.Machine.execOptCancel c s
  | .timeStep c => Sys2Proof.Machine.execTimeStep c s
  | .timeStatus c => Sys2Proof.Machine.execTimeStatus c s
  | .timeCal c => Sys2Proof.Machine.execTimeCal c s
  | .partAdmit c => Sys2Proof.Machine.execPartAdmit c s
  | .partTeardown c => Sys2Proof.Machine.execPartTeardown c s
  | .loadCabling c => Sys2Proof.Machine.execLoadCabling c s
  | .cablingAccept c => Sys2Proof.Machine.execCablingAccept c s
  | .discover c => Sys2Proof.Machine.execDiscover c s
  | .hawFence c => Sys2Proof.Machine.execHawFence c s
  | .fenceClear c => Sys2Proof.Machine.execFenceClear c s
  | .holdRelease c => Sys2Proof.Machine.execHoldRelease c s
  | .probationStart c => Sys2Proof.Machine.execProbationStart c s
  | .marginSweep c => Sys2Proof.Machine.execMarginSweep c s
  | .marginSweepDone tests mismatches peak => Sys2Proof.Machine.execMarginSweepDone tests mismatches peak s
  | .hawReport c => Sys2Proof.Machine.execHawReport c s
  | .attestCerts c => Sys2Proof.Machine.execAttestCerts c s
  | .attestMeasure c => Sys2Proof.Machine.execAttestMeasure c s
  | .kexInit c => Sys2Proof.Machine.execKexInit c s
  | .kexFin c => Sys2Proof.Machine.execKexFin c s
  | .kexTimeout exchange => Sys2Proof.Machine.execKexTimeout exchange s
  | .macsecKey c => Sys2Proof.Machine.execMacsecKey c s
  | .ownerSet c => Sys2Proof.Machine.execOwnerSet c s
  | .ownerClear c => Sys2Proof.Machine.execOwnerClear c s
  | .debugNonce c => Sys2Proof.Machine.execDebugNonce c s
  | .debugUnlock c => Sys2Proof.Machine.execDebugUnlock c s
  | .hollyStatus c => Sys2Proof.Machine.execHollyStatus c s
  | .ctrSample c => Sys2Proof.Machine.execCtrSample c s
  | .snapshot c => Sys2Proof.Machine.execSnapshot c s
  | .snapshotRead c => Sys2Proof.Machine.execSnapshotRead c s
  | .ringRead c => Sys2Proof.Machine.execRingRead c s
  | .traceStart c => Sys2Proof.Machine.execTraceStart c s
  | .traceStop c => Sys2Proof.Machine.execTraceStop c s
  | .cmapRead c => Sys2Proof.Machine.execCmapRead c s
  | .threshSet c => Sys2Proof.Machine.execThreshSet c s
  | .fwStage c => Sys2Proof.Machine.execFwStage c s
  | .fwActivate c => Sys2Proof.Machine.execFwActivate c s
  | .fwStatus c => Sys2Proof.Machine.execFwStatus c s
  | .registerWrite req addr value dword => Sys2Proof.Machine.execRegisterWrite req addr value dword s
  | .registerAccessTimeout req addr write ncp => Sys2Proof.Machine.execRegisterAccessTimeout req addr write ncp s
  | .lockBitSet req addr value => Sys2Proof.Machine.execLockBitSet req addr value s
  | .rwvScrub => Sys2Proof.Machine.execRwvScrub s
  | .sieveStart req half => Sys2Proof.Machine.execSieveStart req half s
  | .counterResetWrite req => Sys2Proof.Machine.execCounterResetWrite req s
  | .slowClear req => Sys2Proof.Machine.execSlowClear req s
  | .ringFreezeWrite req value => Sys2Proof.Machine.execRingFreezeWrite req value s
  | .frameArrival f => Sys2Proof.Machine.execFrameArrival f s
  | .ethFrameArrival f => Sys2Proof.Machine.execEthFrameArrival f s
  | .udpDatagramArrival d => Sys2Proof.Machine.execUdpDatagramArrival d s
  | .vlinkOpen d => Sys2Proof.Machine.execVlinkOpen d s
  | .vlinkIdleRelease v => Sys2Proof.Machine.execVlinkIdleRelease v s
  | .transmitOpportunity port => Sys2Proof.Machine.execTransmitOpportunity port s
  | .tc7Departure port => Sys2Proof.Machine.execTc7Departure port s
  | .spineTc7Departure port => Sys2Proof.Machine.execSpineTc7Departure port s
  | .linkAckReceived link space ack => Sys2Proof.Machine.execLinkAckReceived link space ack s
  | .ackReport link => Sys2Proof.Machine.execAckReport link s
  | .lossEvent link space seq => Sys2Proof.Machine.execLossEvent link space seq s
  | .withheldEvent link space seq => Sys2Proof.Machine.execWithheldEvent link space seq s
  | .withholdReplay link space seq => Sys2Proof.Machine.execWithholdReplay link space seq s
  | .refusedEvent link space seq => Sys2Proof.Machine.execRefusedEvent link space seq s
  | .skipEvent link space seq => Sys2Proof.Machine.execSkipEvent link space seq s
  | .skipAnnounce link => Sys2Proof.Machine.execSkipAnnounce link s
  | .txcMarkEvent link txc => Sys2Proof.Machine.execTxcMarkEvent link txc s
  | .txcMarkSend link => Sys2Proof.Machine.execTxcMarkSend link s
  | .retryTimeout link space seq => Sys2Proof.Machine.execRetryTimeout link space seq s
  | .sinkStall port => Sys2Proof.Machine.execSinkStall port s
  | .signalPresent port => Sys2Proof.Machine.execSignalPresent port s
  | .trainTimeout port => Sys2Proof.Machine.execTrainTimeout port s
  | .helloReceived port msg => Sys2Proof.Machine.execHelloReceived port msg s
  | .linkUp port rtt => Sys2Proof.Machine.execLinkUp port rtt s
  | .alignmentMarker port lane laneId echoId => Sys2Proof.Machine.execAlignmentMarker port lane laneId echoId s
  | .laneLockLoss port lane => Sys2Proof.Machine.execLaneLockLoss port lane s
  | .laneErrorPeriod port lane symbols => Sys2Proof.Machine.execLaneErrorPeriod port lane symbols s
  | .spareRemap slice lane => Sys2Proof.Machine.execSpareRemap slice lane s
  | .degradeAgree port mask => Sys2Proof.Machine.execDegradeAgree port mask s
  | .idleTimeout domain trigger => Sys2Proof.Machine.execIdleTimeout domain trigger s
  | .domainAwake domain => Sys2Proof.Machine.execDomainAwake domain s
  | .wakeLateCheck domain => Sys2Proof.Machine.execWakeLateCheck domain s
  | .prewake port => Sys2Proof.Machine.execPrewake port s
  | .enginePrewake coll => Sys2Proof.Machine.execEnginePrewake coll s
  | .spillOutMove half => Sys2Proof.Machine.execSpillOutMove half s
  | .spillReadback queue => Sys2Proof.Machine.execSpillReadback queue s
  | .holdSpillMove fid => Sys2Proof.Machine.execHoldSpillMove fid s
  | .sievePass half tier => Sys2Proof.Machine.execSievePass half tier s
  | .gateListTakeover port => Sys2Proof.Machine.execGateListTakeover port s
  | .calendarTakeover port => Sys2Proof.Machine.execCalendarTakeover port s
  | .routeTakeover => Sys2Proof.Machine.execRouteTakeover s
  | .epochRelease => Sys2Proof.Machine.execEpochRelease s
  | .markerCopyTransmit port queue => Sys2Proof.Machine.execMarkerCopyTransmit port queue s
  | .sweepComplete key => Sys2Proof.Machine.execSweepComplete key s
  | .sweepTimeout key => Sys2Proof.Machine.execSweepTimeout key s
  | .sweepSlotRelease key => Sys2Proof.Machine.execSweepSlotRelease key s
  | .echoFrameSend half => Sys2Proof.Machine.execEchoFrameSend half s
  | .throttleIncrease port tc => Sys2Proof.Machine.execThrottleIncrease port tc s
  | .cmapSend => Sys2Proof.Machine.execCmapSend s
  | .cmapReceive fid => Sys2Proof.Machine.execCmapReceive fid s
  | .cmapStale dim => Sys2Proof.Machine.execCmapStale dim s
  | .learnProcess => Sys2Proof.Machine.execLearnProcess s
  | .agePeriod => Sys2Proof.Machine.execAgePeriod s
  | .parityRepair half tkind index => Sys2Proof.Machine.execParityRepair half tkind index s
  | .groupRecordReturn record => Sys2Proof.Machine.execGroupRecordReturn record s
  | .tokenPieceArrival fid => Sys2Proof.Machine.execTokenPieceArrival fid s
  | .assemblyTimeout tok => Sys2Proof.Machine.execAssemblyTimeout tok s
  | .tokenRouted tok rowBad colBad => Sys2Proof.Machine.execTokenRouted tok rowBad colBad s
  | .expertOutArrival fid residueBad => Sys2Proof.Machine.execExpertOutArrival fid residueBad s
  | .combineTimeout tok => Sys2Proof.Machine.execCombineTimeout tok s
  | .basisRewriteDone array page => Sys2Proof.Machine.execBasisRewriteDone array page s
  | .queueHeadAdmit queue => Sys2Proof.Machine.execQueueHeadAdmit queue s
  | .contribArrival fid rowBad colBad => Sys2Proof.Machine.execContribArrival fid rowBad colBad s
  | .chunkInputsComplete coll chunk residueBad rowBad colBad => Sys2Proof.Machine.execChunkInputsComplete coll chunk residueBad rowBad colBad s
  | .shadowRunComplete engine differs => Sys2Proof.Machine.execShadowRunComplete engine differs s
  | .shadowTimeout engine => Sys2Proof.Machine.execShadowTimeout engine s
  | .arriveReceived fid => Sys2Proof.Machine.execArriveReceived fid s
  | .nodeDoneReceived fid => Sys2Proof.Machine.execNodeDoneReceived fid s
  | .endReceived fid => Sys2Proof.Machine.execEndReceived fid s
  | .abortReceived fid => Sys2Proof.Machine.execAbortReceived fid s
  | .collDeadline coll => Sys2Proof.Machine.execCollDeadline coll s
  | .bcastChunkArrival fid => Sys2Proof.Machine.execBcastChunkArrival fid s
  | .bcAckReceived fid => Sys2Proof.Machine.execBcAckReceived fid s
  | .bcResend coll => Sys2Proof.Machine.execBcResend coll s
  | .digestReceived fid => Sys2Proof.Machine.execDigestReceived fid s
  | .repairReqReceived fid => Sys2Proof.Machine.execRepairReqReceived fid s
  | .adoptReceived fid => Sys2Proof.Machine.execAdoptReceived fid s
  | .adoptTimeout coll => Sys2Proof.Machine.execAdoptTimeout coll s
  | .ringAcquireComplete ring peaks lit => Sys2Proof.Machine.execRingAcquireComplete ring peaks lit s
  | .heaterWindowExceeded ring heat => Sys2Proof.Machine.execHeaterWindowExceeded ring heat s
  | .powerEvaluation engine means => Sys2Proof.Machine.execPowerEvaluation engine means s
  | .migrationScheduledStart lane => Sys2Proof.Machine.execMigrationScheduledStart lane s
  | .migReqReceived port msg => Sys2Proof.Machine.execMigReqReceived port msg s
  | .migReadyReceived port msg => Sys2Proof.Machine.execMigReadyReceived port msg s
  | .migSwitchReceived port msg => Sys2Proof.Machine.execMigSwitchReceived port msg s
  | .migSwitchTime lane => Sys2Proof.Machine.execMigSwitchTime lane s
  | .migDoneReceived port msg => Sys2Proof.Machine.execMigDoneReceived port msg s
  | .migAbortReceived port msg => Sys2Proof.Machine.execMigAbortReceived port msg s
  | .migAskReceived port msg => Sys2Proof.Machine.execMigAskReceived port msg s
  | .migTimeout lane => Sys2Proof.Machine.execMigTimeout lane s
  | .steerTakeover => Sys2Proof.Machine.execSteerTakeover s
  | .circuitTakeover part => Sys2Proof.Machine.execCircuitTakeover part s
  | .xcOutputFall out power => Sys2Proof.Machine.execXcOutputFall out power s
  | .timeFrameSend port => Sys2Proof.Machine.execTimeFrameSend port s
  | .timeFrameReceive fid => Sys2Proof.Machine.execTimeFrameReceive fid s
  | .rootWaitExpiry => Sys2Proof.Machine.execRootWaitExpiry s
  | .parentSilence => Sys2Proof.Machine.execParentSilence s
  | .ptpSyncReceive src domain gm time logInterval utc => Sys2Proof.Machine.execPtpSyncReceive src domain gm time logInterval utc s
  | .ptpLoss => Sys2Proof.Machine.execPtpLoss s
  | .timeBeat missed => Sys2Proof.Machine.execTimeBeat missed s
  | .hedgeBeatSend port => Sys2Proof.Machine.execHedgeBeatSend port s
  | .hedgeBeatReceive fid => Sys2Proof.Machine.execHedgeBeatReceive fid s
  | .neighbourSilent dim => Sys2Proof.Machine.execNeighbourSilent dim s
  | .proposeReceived fid => Sys2Proof.Machine.execProposeReceived fid s
  | .voteObservationDue suspect => Sys2Proof.Machine.execVoteObservationDue suspect s
  | .voteYesReceived fid => Sys2Proof.Machine.execVoteYesReceived fid s
  | .voteNoReceived fid => Sys2Proof.Machine.execVoteNoReceived fid s
  | .voteWindowExpiry suspect => Sys2Proof.Machine.execVoteWindowExpiry suspect s
  | .commitReceived fid => Sys2Proof.Machine.execCommitReceived fid s
  | .abandonReceived fid => Sys2Proof.Machine.execAbandonReceived fid s
  | .noticeReceived fid => Sys2Proof.Machine.execNoticeReceived fid s
  | .holdReceived fid => Sys2Proof.Machine.execHoldReceived fid s
  | .releaseReceived fid => Sys2Proof.Machine.execReleaseReceived fid s
  | .expulsionWindowAge => Sys2Proof.Machine.execExpulsionWindowAge s
  | .scoreRecovery => Sys2Proof.Machine.execScoreRecovery s
  | .sinkFence port => Sys2Proof.Machine.execSinkFence port s
  | .discoverySend port => Sys2Proof.Machine.execDiscoverySend port s
  | .discoveryReceive fid => Sys2Proof.Machine.execDiscoveryReceive fid s
  | .boundaryFenceApply port => Sys2Proof.Machine.execBoundaryFenceApply port s
  | .planWaitExpiry port => Sys2Proof.Machine.execPlanWaitExpiry port s
  | .probationEnd spine => Sys2Proof.Machine.execProbationEnd spine s
  | .teardownComplete => Sys2Proof.Machine.execTeardownComplete s
  | .rekeyTimer link => Sys2Proof.Machine.execRekeyTimer link s
  | .snapshotLatch => Sys2Proof.Machine.execSnapshotLatch s
  | .snapshotWritten => Sys2Proof.Machine.execSnapshotWritten s
  | .snapshotExpiry => Sys2Proof.Machine.execSnapshotExpiry s
  | .traceTimeRecord => Sys2Proof.Machine.execTraceTimeRecord s
  | .traceStopTime => Sys2Proof.Machine.execTraceStopTime s
  | .heaterAtRangeLimit ring heat => Sys2Proof.Machine.execHeaterAtRangeLimit ring heat s
  | .circuitLit out power => Sys2Proof.Machine.execCircuitLit out power s
  | .opticalControlMessageRepeat lane => Sys2Proof.Machine.execOpticalControlMessageRepeat lane s
  | .upset target => Sys2Proof.Machine.execUpset target s
  | .railOutOfRegulation rail bad => Sys2Proof.Machine.execRailOutOfRegulation rail bad s

end Sys2Proof.Machine
end

