-- ==== Sys2Proof/WellFormed.lean ====
section
/-!
DEFINITION. WellFormed.lean: the commands that can be sent or happen: every operand within the range its field or numbering
allows (Table 0.3, Tables 16.1, 16.4 and the tables of the chapters). Ill-formed commands are not excluded from the machine:
an event at a unit that does not exist faults, and a value that does not fit its field is rejected or read modulo the field.
-/

namespace Sys2Proof.WellFormed

open Sys2Proof Sys2Proof.Machine

def below (n v : Nat) : Bool := decide (v < n)

/-- At most `n` bytes. -/
def bytesTo (n : Nat) (l : List Byte) : Bool := decide (l.length ≤ n)

/-- Ports P0 to P1279. -/
def portOk (p : Nat) : Bool := below 1280 p

/-- A link is a port's, or a virtual link v at 2,048 + v. -/
def linkOk (l : Nat) : Bool := below 1280 l || (decide (2048 ≤ l) && below 6144 l)

/-- A tenant partition. -/
def partOk (p : Nat) : Bool := decide (1 ≤ p) && below 0xFFF p

def authOk : Authority → Bool
  | .tenant p => partOk p
  | _ => true

def viaOk : Transport → Bool
  | .udp mg ip port => below 2 mg && fits 128 ip && fits 16 port
  | .mailbox k => below 4 k
  | .inband port src => portOk port && fits 32 src

/-- A command as Heath executes it: the assembled body is at most 16,777,232 bytes (R355). -/
def ncpOk (c : Ncp) : Bool := authOk c.auth && viaOk c.via && fits 32 c.seq && bytesTo 16777232 c.body && c.dma.all (bytesTo 16777216)

/-- A frame received whole: an 8-byte link header, a 32-byte FFH and at most 8,160 payload bytes (Table 2.2); or a link control
block: the header and a 2-byte CRC, which over UDP is not sent (R242). -/
def rxOk (f : RxFrame) : Bool :=
  portOk f.port && fits 16 f.etype && f.linkHdr.length == 8 &&
    ((f.ffh.length == 32 && bytesTo 8160 f.payload) || (f.ffh.isEmpty && bytesTo 2 f.payload))

def targetOk : UpsetTarget → Bool
  | .register addr idx copy bit => fits 32 addr && fits 20 idx && below 3 copy && below 32 bit
  | .cell c _ => below 4194304 c
  | .clod c _ => below 50331648 c
  | .weight a p w _ => below 128 a && below 128 p && below 2048 w
  | .laurel h t i => below 2 h && fits 8 t && fits 32 i

/-- Is a command well-formed? -/
def wf : Instr → Bool
  | .vsbApplied => true
  | .vin48Applied => true
  | .resetRelease => true
  | .resetPinAssert => true
  | .supplyBrownout _ => true
  | .watchdogExpiry => true
  | .watchdogRestart => true
  | .commandedReset => true
  | .perstAssert => true
  | .refclkValid => true
  | .refclkLoss => true
  | .thermalTrip die => below 51 die
  | .thermalLoopEval dies rails powerW => decide (dies.length ≤ 51) && decide (rails.length ≤ 12) && rails.all (fun r => fits 16 r.1 && fits 16 r.2) && fits 16 powerW
  | .mbxGo slot len window => below 4 slot && fits 16 len && bytesTo 16384 window
  | .mbxReadyClear slot => below 4 slot
  | .ncpUdpDatagram mg srcIp srcPort dstPort _ msg => below 2 mg && fits 128 srcIp && fits 16 srcPort && fits 16 dstPort && bytesTo 8192 msg
  | .ncpInbandFrame _ => true
  | .fragAssemblyTimeout buffer => below 4 buffer
  | .commandDispatch dma => dma.all (bytesTo 16777216)
  | .ident c => ncpOk c
  | .powerStatus c => ncpOk c
  | .powerCap c => ncpOk c
  | .moduleReset c => ncpOk c
  | .regRead c => ncpOk c
  | .regWrite c => ncpOk c
  | .regCommitAtT c => ncpOk c
  | .regCommitNow c => ncpOk c
  | .regCommitDiscard c => ncpOk c
  | .shadowCommitApply blk inst => fits 8 blk && fits 8 inst
  | .loadTable c => ncpOk c
  | .loadRoutes c => ncpOk c
  | .tableRead c => ncpOk c
  | .loadCalendar c => ncpOk c
  | .loadGates c => ncpOk c
  | .cancelPending c => ncpOk c
  | .loadList c => ncpOk c
  | .queueOpen c => ncpOk c
  | .collPost c => ncpOk c
  | .queueResume c => ncpOk c
  | .queueSkip c => ncpOk c
  | .queueFlush c => ncpOk c
  | .queueClose c => ncpOk c
  | .collStatus c => ncpOk c
  | .loadTemplate c => ncpOk c
  | .loadKprog c => ncpOk c
  | .loadMop c => ncpOk c
  | .dropMop c => ncpOk c
  | .optBaseline c => ncpOk c
  | .optMigrate c => ncpOk c
  | .optComb c => ncpOk c
  | .optRelock c => ncpOk c
  | .loadSteer c => ncpOk c
  | .loadCircuits c => ncpOk c
  | .optCancel c => ncpOk c
  | .timeStep c => ncpOk c
  | .timeStatus c => ncpOk c
  | .timeCal c => ncpOk c
  | .partAdmit c => ncpOk c
  | .partTeardown c => ncpOk c
  | .loadCabling c => ncpOk c
  | .cablingAccept c => ncpOk c
  | .discover c => ncpOk c
  | .hawFence c => ncpOk c
  | .fenceClear c => ncpOk c
  | .holdRelease c => ncpOk c
  | .probationStart c => ncpOk c
  | .marginSweep c => ncpOk c
  | .marginSweepDone tests mismatches _ => fits 32 tests && fits 32 mismatches
  | .hawReport c => ncpOk c
  | .attestCerts c => ncpOk c
  | .attestMeasure c => ncpOk c
  | .kexInit c => ncpOk c
  | .kexFin c => ncpOk c
  | .kexTimeout exchange => fits 32 exchange
  | .macsecKey c => ncpOk c
  | .ownerSet c => ncpOk c
  | .ownerClear c => ncpOk c
  | .debugNonce c => ncpOk c
  | .debugUnlock c => ncpOk c
  | .hollyStatus c => ncpOk c
  | .ctrSample c => ncpOk c
  | .snapshot c => ncpOk c
  | .snapshotRead c => ncpOk c
  | .ringRead c => ncpOk c
  | .traceStart c => ncpOk c
  | .traceStop c => ncpOk c
  | .cmapRead c => ncpOk c
  | .threshSet c => ncpOk c
  | .fwStage c => ncpOk c
  | .fwActivate c => ncpOk c
  | .fwStatus c => ncpOk c
  | .registerWrite req addr _ _ => below 4 req && fits 32 addr
  | .registerAccessTimeout req addr _ ncp => below 4 req && fits 32 addr && ncp.all (fun x => ncpOk x.1 && below 1024 x.2)
  | .lockBitSet req addr _ => below 4 req && fits 32 addr
  | .rwvScrub => true
  | .sieveStart req half => below 4 req && below 2 half
  | .counterResetWrite req => below 4 req
  | .slowClear req => below 4 req
  | .ringFreezeWrite req _ => below 4 req
  | .frameArrival f => rxOk f
  | .ethFrameArrival f => portOk f.port && bytesTo 9216 f.bytes
  | .udpDatagramArrival d => portOk d.port && rxOk d.inner && bytesTo 128 d.hdr
  | .vlinkOpen d => portOk d.port && rxOk d.inner && bytesTo 128 d.hdr
  | .vlinkIdleRelease v => below 4096 v
  | .transmitOpportunity port => portOk port
  | .tc7Departure port => portOk port
  | .spineTc7Departure port => portOk port
  | .linkAckReceived link space ack => linkOk link && below 16 space && fits 16 ack
  | .ackReport link => linkOk link
  | .lossEvent link space seq => linkOk link && below 16 space && fits 16 seq
  | .withheldEvent link space seq => linkOk link && below 16 space && fits 16 seq
  | .withholdReplay link space seq => linkOk link && below 16 space && fits 16 seq
  | .refusedEvent link space seq => linkOk link && below 16 space && fits 16 seq
  | .skipEvent link space seq => linkOk link && below 16 space && fits 16 seq
  | .skipAnnounce link => linkOk link
  | .txcMarkEvent link txc => linkOk link && fits 32 txc
  | .txcMarkSend link => linkOk link
  | .retryTimeout link space seq => linkOk link && below 16 space && fits 16 seq
  | .sinkStall port => portOk port
  | .signalPresent port => portOk port
  | .trainTimeout port => portOk port
  | .helloReceived port msg => portOk port && bytesTo 64 msg
  | .linkUp port rtt => portOk port && fits 32 rtt
  | .alignmentMarker port lane laneId echoId => portOk port && below 8 lane && below 1296 laneId && below 1296 echoId
  | .laneLockLoss port lane => portOk port && below 8 lane
  | .laneErrorPeriod port lane symbols => portOk port && below 8 lane && fits 32 symbols
  | .spareRemap slice lane => below 16 slice && below 1296 lane
  | .degradeAgree port mask => portOk port && fits 8 mask
  | .idleTimeout domain _ => below 359 domain
  | .domainAwake domain => below 359 domain
  | .wakeLateCheck domain => below 359 domain
  | .prewake port => portOk port
  | .enginePrewake _ => true
  | .spillOutMove half => below 2 half
  | .spillReadback queue => below 20480 queue
  | .holdSpillMove _ => true
  | .sievePass half tier => below 2 half && below 2 tier
  | .gateListTakeover port => portOk port
  | .calendarTakeover port => portOk port
  | .routeTakeover => true
  | .epochRelease => true
  | .markerCopyTransmit port queue => portOk port && below 16 queue
  | .sweepComplete _ => true
  | .sweepTimeout _ => true
  | .sweepSlotRelease _ => true
  | .echoFrameSend half => below 2 half
  | .throttleIncrease port tc => portOk port && below 8 tc
  | .cmapSend => true
  | .cmapReceive _ => true
  | .cmapStale dim => below 14 dim
  | .learnProcess => true
  | .agePeriod => true
  | .parityRepair half tkind _ => below 2 half && fits 8 tkind
  | .groupRecordReturn record => fits 32 record
  | .tokenPieceArrival _ => true
  | .assemblyTimeout _ => true
  | .tokenRouted _ rowBad colBad => rowBad.all (below 128) && colBad.all (below 128)
  | .expertOutArrival _ _ => true
  | .combineTimeout _ => true
  | .basisRewriteDone array page => below 128 array && below 128 page
  | .queueHeadAdmit queue => below 128 queue
  | .contribArrival _ rowBad colBad => rowBad.all (below 128) && colBad.all (below 128)
  | .chunkInputsComplete _ chunk _ rowBad colBad => fits 32 chunk && rowBad.all (below 128) && colBad.all (below 128)
  | .shadowRunComplete engine _ => below 16 engine
  | .shadowTimeout engine => below 16 engine
  | .arriveReceived _ => true
  | .nodeDoneReceived _ => true
  | .endReceived _ => true
  | .abortReceived _ => true
  | .collDeadline _ => true
  | .bcastChunkArrival _ => true
  | .bcAckReceived _ => true
  | .bcResend _ => true
  | .digestReceived _ => true
  | .repairReqReceived _ => true
  | .adoptReceived _ => true
  | .adoptTimeout _ => true
  | .ringAcquireComplete ring peaks _ => below 2304 ring && peaks.all (fun p => fits 16 p.1)
  | .heaterWindowExceeded ring heat => below 2304 ring && fits 16 heat
  | .powerEvaluation engine means => below 16 engine && decide (means.length ≤ 38)
  | .migrationScheduledStart lane => below 1024 lane
  | .migReqReceived port msg => portOk port && bytesTo 64 msg
  | .migReadyReceived port msg => portOk port && bytesTo 64 msg
  | .migSwitchReceived port msg => portOk port && bytesTo 64 msg
  | .migSwitchTime lane => below 1024 lane
  | .migDoneReceived port msg => portOk port && bytesTo 64 msg
  | .migAbortReceived port msg => portOk port && bytesTo 64 msg
  | .migAskReceived port msg => portOk port && bytesTo 64 msg
  | .migTimeout lane => below 1024 lane
  | .steerTakeover => true
  | .circuitTakeover part => partOk part
  | .xcOutputFall out _ => below 512 out
  | .timeFrameSend port => portOk port
  | .timeFrameReceive _ => true
  | .rootWaitExpiry => true
  | .parentSilence => true
  | .ptpSyncReceive src domain gm time _ utc => below 1282 src && fits 8 domain && fits 64 gm && fits 64 time && fits 32 utc
  | .ptpLoss => true
  | .timeBeat missed => missed.all (below 359)
  | .hedgeBeatSend port => portOk port
  | .hedgeBeatReceive _ => true
  | .neighbourSilent dim => below 14 dim
  | .proposeReceived _ => true
  | .voteObservationDue suspect => below 16384 suspect
  | .voteYesReceived _ => true
  | .voteNoReceived _ => true
  | .voteWindowExpiry suspect => below 16384 suspect
  | .commitReceived _ => true
  | .abandonReceived _ => true
  | .noticeReceived _ => true
  | .holdReceived _ => true
  | .releaseReceived _ => true
  | .expulsionWindowAge => true
  | .scoreRecovery => true
  | .sinkFence port => portOk port
  | .discoverySend port => portOk port
  | .discoveryReceive _ => true
  | .boundaryFenceApply port => portOk port
  | .planWaitExpiry port => portOk port
  | .probationEnd spine => below 16384 spine
  | .teardownComplete => true
  | .rekeyTimer link => linkOk link
  | .snapshotLatch => true
  | .snapshotWritten => true
  | .snapshotExpiry => true
  | .traceTimeRecord => true
  | .traceStopTime => true
  | .heaterAtRangeLimit ring heat => below 2304 ring && fits 16 heat
  | .circuitLit out _ => below 512 out
  | .opticalControlMessageRepeat lane => below 1024 lane
  | .upset target => targetOk target
  | .railOutOfRegulation rail _ => below 12 rail

end Sys2Proof.WellFormed
end

