-- ==== Sys2Proof/Safety.lean ====
section
/-!
DEFINITION. Safety.lean: what the statements call a safe step, a frame of the queue, and an invariant.
-/

namespace Sys2Proof.Safety

open Sys2Proof Sys2Proof.Machine

/-- The command runs on the state: it answers a next state. -/
def Runs (c : Instr) (s : State) : Prop := ∃ t, exec c s = .next t

/-- Every command that waits is well-formed. -/
def QueueOk (s : State) : Prop := ∀ c ∈ s.pending, WellFormed.wf c = true

/-- A property that every step keeps. -/
def Invariant (p : State → Prop) : Prop := ∀ s t, p s → step s = .next t → p t

/-- What every step keeps of the power state (R287, R404, R407, R409, R412). -/
def PowerOk (s : State) : Prop :=
  s.raw < 2 ^ 64 ∧ s.pwr.level ≤ 15 ∧ (s.pwr.capW = 0 ∨ (1000 ≤ s.pwr.capW ∧ s.pwr.capW ≤ 2400)) ∧
  s.pwr.slots.length = 2 ∧ s.pwr.active < 2 ∧
  (s.pwr.hubUp = true → s.pwr.vin48 = true ∧ s.pwr.aon = true ∧ s.pwr.resetN = true ∧ s.pwr.tripped = false)

/-- The events after which the module may be at its reset state, and the thermal trip. -/
def mayReset : Instr → Bool
  | .vsbApplied | .resetPinAssert | .supplyBrownout _ | .watchdogExpiry | .commandedReset | .thermalTrip _ => true
  | _ => false

/-- The commands that may change the owner key (R347). -/
def mayChangeOwner (c : Instr) : Bool :=
  mayReset c || (match c with | .kexFin _ | .ownerClear _ | .commandDispatch _ => true | _ => false)

/-- The commands that may unlock debug (R348). -/
def mayUnlock : Instr → Bool
  | .debugUnlock _ | .commandDispatch _ => true
  | _ => false

/-- The commands that may change the firmware slots (R412). -/
def mayChangeFirmware (c : Instr) : Bool :=
  mayReset c || (match c with | .fwStage _ | .fwActivate _ | .commandDispatch _ => true | _ => false)

/-- The commands that may change CAP_W (R409). -/
def mayChangeCap (c : Instr) : Bool :=
  mayReset c || (match c with | .powerCap _ | .commandDispatch _ => true | _ => false)

/-- The owner's command, with the hub up. -/
def OwnerCmd (s : State) (c : Ncp) : Prop := s.pwr.hubUp = true ∧ c.auth = .owner

/-- A command of tenant p, with the hub up and no teardown of p under way. -/
def TenantCmd (s : State) (c : Ncp) (p : Nat) : Prop := s.pwr.hubUp = true ∧ c.auth = .tenant p ∧ tearingDown s p = false

/-- A command of the owner or of a tenant whose partition is not in teardown, with the hub up. -/
def KeyedCmd (s : State) (c : Ncp) : Prop :=
  s.pwr.hubUp = true ∧ (c.auth = .owner ∨ ∃ p, c.auth = .tenant p ∧ tearingDown s p = false)

/-- What lets a whole message of the owner, sent over `via` with the right tag, be queued (Table 16.2, R359, R362): its opcode is
not an untagged one, its number is fresh, it fits a unit of its transport, and its class has room. -/
def OwnerFresh (s : State) (via : Transport) (key : List Byte) (op seq : Nat) (body : List Byte) : Prop :=
  s.holly.ownerKey = some key ∧ op < 2 ^ 16 ∧ seq < 2 ^ 32 ∧ body.length + 32 ≤ unitOf via ∧ untaggedOp s op = false ∧
  seqJudge (tget {} s.ncp.seqs 0) seq = .fresh ∧ (tget [] s.ncp.queues 0).length < 64

/-- The owner's command accepted under its number and queued as the last of its class. -/
def ownerQueued (s : State) (via : Transport) (op seq : Nat) (body : List Byte) : State :=
  { s with ncp := { s.ncp with
      seqs := tins s.ncp.seqs 0 (seqAccept (tget {} s.ncp.seqs 0) seq)
      queues := tset [] s.ncp.queues 0 (tget [] s.ncp.queues 0 ++
        [{ cls := 0, opcode := op, seq := seq, part := 0, via := via, body := body }]) } }

/-- The commands of Heath that are answered at once and only by their own check (all but REG_READ and REG_WRITE, which note the
rejected access, KEX_FIN and OWNER_CLEAR, which use up keys, and those that answer when their work ends). -/
def answeredCmds : List (Ncp → Instr) :=
  [.ident, .powerStatus, .powerCap, .moduleReset, .regCommitAtT, .regCommitNow, .regCommitDiscard, .loadTable,
   .loadRoutes, .tableRead, .loadCalendar, .loadGates, .cancelPending, .loadList, .queueOpen, .collPost,
   .queueResume, .queueSkip, .queueFlush, .queueClose, .collStatus, .loadTemplate, .loadKprog, .loadMop,
   .dropMop, .optBaseline, .optMigrate, .optComb, .optRelock, .loadSteer, .loadCircuits, .optCancel, .timeStep,
   .timeStatus, .loadCabling, .cablingAccept, .discover, .hawFence, .fenceClear, .holdRelease, .probationStart,
   .hawReport, .attestCerts, .attestMeasure, .kexInit, .macsecKey, .ownerSet, .debugNonce, .debugUnlock,
   .hollyStatus, .ctrSample, .snapshot, .snapshotRead, .ringRead, .traceStart, .traceStop, .cmapRead,
   .threshSet, .fwStage, .fwActivate, .fwStatus]

/-- The outcome of a command that ends with DONE and results. -/
def done (s : State) (c : Ncp) (op : Nat) (res : List Byte) : Res := .next (finish s c op .done 0 noIndex res)

/-- The outcome of a command that a check rejects. -/
def rejected (s : State) (c : Ncp) (op : Nat) (code : Code) (step : Nat := 0) (index : Nat := noIndex) : Res :=
  .next (finish s c op code step index [])

/-- Ready to boot, but for the supplies and pins: always-on island up, no trip, hub in reset, factory firmware active. -/
def BootReady (s : State) : Prop :=
  s.pwr.aon = true ∧ s.pwr.tripped = false ∧ s.pwr.hubUp = false ∧ s.holly.fwBad = false ∧ (activeImage s).isEmpty = true

/-- The state after boot (Table 19.4, steps 6 and 7). -/
def booted (s : State) : State :=
  { s with
    pwr := { s.pwr with hubUp := true, wdogAt := s.raw, fwVersions := [1, 2, 3].map fun t => Config.factoryVersion t % 2 ^ 32 }
    loam := { s.loam with initDone := true }
    laurel := { s.laurel with ready := true } }

end Sys2Proof.Safety
end

