-- ==== Sys2Proof/Certificates/Slice0/Obligations.lean ====
section
/-!
DEFINITION. Certificates/Slice0/Obligations.lean: the statements. Each docstring says what its definition states; OBLIGATIONS.json
names the rules it rests on.
-/

set_option Elab.async false

open Sys2Proof Sys2Proof.Machine Sys2Proof.Safety

/-- A step runs the command at the front of the queue. For every command and state, a step of the state with that command
at the front of the queue is exec of that command on the state with the queue's rest. The queue is the model's own
(assumption log 1). -/
def Obligations.StepRunsTheFrontCommand : Prop :=
  ∀ (c : Instr) (s : State) (rest : List Instr),
    step { s with pending := c :: rest } = exec c { s with pending := rest }

/-- With no command waiting a tick of RAW passes while the always-on island runs. With an empty queue and the always-on
island running and no threshold armed on a slot account, a step adds one to RAW, modulo 2^64, and changes nothing
else; with the island down it changes nothing. That a tick passes on an empty queue is the model's choice (assumption
log 1). -/
def Obligations.EmptyQueuePassesOneTick : Prop :=
  ∀ s : State, s.pending = [] →
    (s.pwr.aon = false → step s = .next s) ∧
    (s.pwr.aon = true → (∀ e ∈ s.st.thr, slotSource e.1 = false) → step s = .next { s with raw := (s.raw + 1) % 2 ^ 64 })

/-- The reset state satisfies the power invariant. The state after reset satisfies the invariant of PowerInvariantKept. -/
def Obligations.PowerInvariantHoldsAtReset : Prop :=
  Sys2Proof.Safety.PowerOk State.reset

/-- Every step keeps RAW in 64 bits, L in 0 to 15, CAP_W legal, two firmware slots, and the hub up only while powered.
From every state that satisfies it, a step that answers a next state gives one that satisfies it: RAW is below 2^64;
the restriction level L is at most 15; CAP_W is 0 or 1,000 to 2,400 W; there are two firmware slots and the active one
is slot 0 or 1; and the hub runs only while VIN48 is applied, the always-on island runs, RESET_N is high and no
thermal trip holds. -/
def Obligations.PowerInvariantKept : Prop :=
  Sys2Proof.Safety.Invariant Sys2Proof.Safety.PowerOk

/-- A step takes exactly the front command from the queue, and waiting commands stay well-formed. Running a command never
adds to, drops from or reorders the commands that wait; so a step of a non-empty queue leaves the queue's rest, and
well-formed waiting commands stay well-formed. The queue is the model's own (assumption log 1). -/
def Obligations.QueueStaysWellFormed : Prop :=
  (∀ (c : Instr) (s t : State), exec c s = .next t → t.pending = s.pending) ∧
  (∀ (c : Instr) (s t : State) (rest : List Instr), s.pending = c :: rest → step s = .next t → t.pending = rest) ∧
  Sys2Proof.Safety.Invariant Sys2Proof.Safety.QueueOk

/-- Only KEX_FIN, OWNER_CLEAR, a module reset or a thermal trip changes the owner key. A command that is not KEX_FIN,
OWNER_CLEAR, a dispatch that may run one of them, one of the events that may reset the module, or a thermal trip
leaves the owner command key as it was. -/
def Obligations.OwnerKeyChangesOnlyThere : Prop :=
  ∀ (c : Instr) (s t : State), Sys2Proof.Safety.mayChangeOwner c = false → exec c s = .next t →
    t.holly.ownerKey = s.holly.ownerKey

/-- Debug is unlocked by DEBUG_UNLOCK alone. From a state with debug locked, every command but DEBUG_UNLOCK, and
COMMAND_DISPATCH (which may run it), leaves it locked. -/
def Obligations.DebugStaysLocked : Prop :=
  ∀ (c : Instr) (s t : State), s.holly.debug = false → Sys2Proof.Safety.mayUnlock c = false → exec c s = .next t →
    t.holly.debug = false

/-- Only FW_STAGE, FW_ACTIVATE, resets and trips change the firmware slots; only POWER_CAP, resets and trips change CAP_W.
A command other than FW_STAGE, FW_ACTIVATE, COMMAND_DISPATCH, a thermal trip and the events that may reset the module
leaves the firmware slots and the active slot as they were; a command other than POWER_CAP, COMMAND_DISPATCH, a
thermal trip and those events leaves CAP_W as it was. -/
def Obligations.FirmwareAndCapChangeOnlyThere : Prop :=
  ∀ (c : Instr) (s t : State), exec c s = .next t →
    (Sys2Proof.Safety.mayChangeFirmware c = false → t.pwr.slots = s.pwr.slots ∧ t.pwr.active = s.pwr.active) ∧
    (Sys2Proof.Safety.mayChangeCap c = false → t.pwr.capW = s.pwr.capW)

/-- An event at a port, domain, half, slot, requester or die that does not exist faults. An event named at a unit that
Table 0.3 does not number ends in the fault noSuchUnit: at a port of 1,280 or more, a domain of 359 or more, a half of
2 or more, a mailbox slot of 4 or more, a requester of 4 or more, a die of 51 or more, a Tilth queue of 128 or more.
The fault is the model's (assumption log 2). -/
def Obligations.NoSuchUnitFaults : Prop :=
  (∀ (s : State) (p : Nat), 1280 ≤ p → exec (.linkUp p 0) s = .fault .noSuchUnit ∧ exec (.prewake p) s = .fault .noSuchUnit ∧
      exec (.transmitOpportunity p) s = .fault .noSuchUnit ∧ exec (.hedgeBeatSend p) s = .fault .noSuchUnit) ∧
  (∀ (s : State) (d : Nat), 359 ≤ d → exec (.domainAwake d) s = .fault .noSuchUnit) ∧
  (∀ (s : State) (h : Nat), 2 ≤ h → exec (.spillOutMove h) s = .fault .noSuchUnit ∧ exec (.echoFrameSend h) s = .fault .noSuchUnit) ∧
  (∀ (s : State) (k : Nat), 4 ≤ k → exec (.mbxReadyClear k) s = .fault .noSuchUnit ∧
      exec (.slowClear k) s = .fault .noSuchUnit ∧ exec (.counterResetWrite k) s = .fault .noSuchUnit) ∧
  (∀ (s : State) (d : Nat), 51 ≤ d → exec (.thermalTrip d) s = .fault .noSuchUnit) ∧
  (∀ (s : State) (q : Nat), 128 ≤ q → exec (.queueHeadAdmit q) s = .fault .noSuchUnit)

/-- What the supply, reset-pin, watchdog and commanded-reset events do. VSB coming into range resets the module with cause
power-on; RESET_N falling, VSB or VIN48 leaving its range leave the module at its reset state (no boot follows); a
watchdog second without a restart and the due instant of a MODULE_RESET reset it; a watchdog restart moves the
watchdog's start to now; each changes nothing else. -/
def Obligations.SuppliesAndResetsComplete : Prop :=
  (∀ s : State, s.pwr.vsb = false →
      exec .vsbApplied s = .next (moduleReset { s with pwr := { s.pwr with vsb := true } } 1)) ∧
  (∀ s : State, exec .resetPinAssert s = .next (wipe { s with pwr := { s.pwr with resetN := false } } 2)) ∧
  (∀ s : State, exec (.supplyBrownout true) s = .next (wipe { s with pwr := { s.pwr with vsb := false } } 1)) ∧
  (∀ s : State, exec (.supplyBrownout false) s = .next (wipe { s with pwr := { s.pwr with vin48 := false } } 1)) ∧
  (∀ s : State, s.pwr.hubUp = true → s.pwr.wdogAt + ticksOfS 1 ≤ s.raw → exec .watchdogExpiry s = .next (moduleReset s 8)) ∧
  (∀ s : State, s.pwr.hubUp = true → exec .watchdogRestart s = .next { s with pwr := { s.pwr with wdogAt := s.raw } }) ∧
  (∀ (s : State) (t : Nat), s.pwr.resetAt = some t → t ≤ s.raw → exec .commandedReset s = .next (moduleReset s 4))

/-- A module reset restarts RAW, clears every lock and register, and loses every key. After a module reset RAW is zero;
the registers (so every lock bit), Heath, Strata, Yew, Boxwood, Shingle, the links, Kaolin, Marl, Tilth, Privet, the
cross-connect and Hawthorn are as State.reset has them; no owner key, link key, binding, exchange or MACsec key is
left and debug is locked; the supplies, the commands that wait and what has left the module stay. -/
def Obligations.ModuleResetClearsEverything : Prop :=
  ∀ (s : State) (cause : Nat), let t := moduleReset s cause; let r := State.reset
    t.raw = 0 ∧ t.regs = r.regs ∧ t.ncp = r.ncp ∧ t.st = r.st ∧ t.yew = r.yew ∧ t.bx = r.bx ∧ t.sh = r.sh ∧ t.lk = r.lk ∧
    t.kao = r.kao ∧ t.marl = r.marl ∧ t.tilth = r.tilth ∧ t.prv = r.prv ∧ t.xc = r.xc ∧ t.haw = r.haw ∧
    t.holly.ownerKey = none ∧ t.holly.links = [] ∧ t.holly.bindings = [] ∧ t.holly.kexes = [] ∧ t.holly.macsec = [] ∧
    t.holly.debug = false ∧ t.loam.frames = [] ∧ t.loam.cells = [] ∧ t.loam.clods = [] ∧ t.laurel.r0 = r.laurel.r0 ∧
    t.laurel.r1 = r.laurel.r1 ∧ t.pending = s.pending ∧ t.out = s.out ∧ t.pwr.vsb = s.pwr.vsb ∧ t.pwr.vin48 = s.pwr.vin48 ∧
    t.pwr.resetN = s.pwr.resetN ∧ t.pwr.refclk = s.pwr.refclk ∧ t.pwr.capW = 0 ∧ t.pwr.level = 0

/-- The last condition of the power sequence releases the hub and initialises the store and Laurel. With the always-on
island, every rail and REFCLK good, no trip, factory firmware active and the hub in reset, the rise of RESET_N, VIN48,
or REFCLK, or the last bad rail coming back, releases the hub: the watchdog starts, the store's and Laurel's
initialisation is done, and nothing else changes but the pin or supply itself. A rail that leaves regulation is
recorded. -/
def Obligations.BootCompletes : Prop :=
  (∀ s : State, Sys2Proof.Safety.BootReady s → s.pwr.vin48 = true → s.pwr.railsBad = [] → s.pwr.refclk = true → s.pwr.resetN = false →
      exec .resetRelease s = .next (Sys2Proof.Safety.booted { s with pwr := { s.pwr with resetN := true } })) ∧
  (∀ s : State, Sys2Proof.Safety.BootReady s → s.pwr.vin48 = false → s.pwr.railsBad = [] → s.pwr.refclk = true → s.pwr.resetN = true →
      exec .vin48Applied s = .next (Sys2Proof.Safety.booted { s with pwr := { s.pwr with vin48 := true } })) ∧
  (∀ s : State, Sys2Proof.Safety.BootReady s → s.pwr.vin48 = true → s.pwr.railsBad = [] → s.pwr.resetN = true →
      exec .refclkValid s = .next (Sys2Proof.Safety.booted { s with pwr := { s.pwr with refclk := true, pllOnRef := true } })) ∧
  (∀ (s : State) (k : Nat), k < 12 → Sys2Proof.Safety.BootReady s → s.pwr.vin48 = true → s.pwr.railsBad = [k] → s.pwr.refclk = true →
      s.pwr.resetN = true →
      exec (.railOutOfRegulation k false) s = .next (Sys2Proof.Safety.booted { s with pwr := { s.pwr with railsBad := [] } })) ∧
  (∀ (s : State) (k : Nat), k < 12 → s.pwr.railsBad.contains k = false →
      exec (.railOutOfRegulation k true) s = .next { s with pwr := { s.pwr with railsBad := s.pwr.railsBad ++ [k] } }) ∧
  (∀ s : State, (∀ p, portUp s p = false) →
      exec .refclkLoss s = .next { s with pwr := { s.pwr with refclk := false, pllOnRef := false } })

/-- A trip switches every rail but VAON off; the thermal loop steps L by one within 0 to 15. A thermal trip of a die that
has a trip temperature takes every rail but the last of Table 19.3 out of regulation, holds the trip, stops the hub,
and leaves RAW, the supplies, the pins and the firmware slots. An evaluation of the thermal loop with the hub up takes
the readings and sets L to the value R409 gives: one more, at most 15, when a die is hotter than its throttle
temperature or a set cap is exceeded; one less when every die is at least 5 degrees below its own and the power is at
most 95 per cent of a set cap; else unchanged. -/
def Obligations.TripAndThermalLoop : Prop :=
  (∀ (s : State) (d : Nat), d < 48 ∨ d = 50 →
      ∃ t, exec (.thermalTrip d) s = .next t ∧ t.pwr.tripped = true ∧ t.pwr.hubUp = false ∧ (∀ k, k < 11 → k ∈ t.pwr.railsBad) ∧
        (11 ∈ t.pwr.railsBad ↔ 11 ∈ s.pwr.railsBad) ∧ t.raw = s.raw ∧ t.pwr.vsb = s.pwr.vsb ∧ t.pwr.vin48 = s.pwr.vin48 ∧
        t.pwr.resetN = s.pwr.resetN ∧ t.pwr.slots = s.pwr.slots ∧ t.pwr.active = s.pwr.active ∧ t.pending = s.pending ∧ t.out = s.out) ∧
  (∀ (s : State) (dies : List Int) (rails : List (Nat × Nat)) (w : Nat), s.pwr.hubUp = true → dies.length ≤ 51 → rails.length ≤ 12 →
      ∃ t, exec (.thermalLoopEval dies rails w) s = .next { s with pwr := { s.pwr with
          dies := t.pwr.dies, rails := t.pwr.rails, powerW := w, level := t.pwr.level } } ∧
        (∀ i, (h : i < dies.length) → dieTemp t i = dies[i]) ∧
        (let hot := (∃ d l, dieLimits d = some l ∧ d < 51 ∧ l.1 < dieTemp t d) ∨ (s.pwr.capW ≠ 0 ∧ s.pwr.capW < w)
         let cool := (∀ d l, dieLimits d = some l → d < 51 → dieTemp t d ≤ l.1 - 50) ∧ (s.pwr.capW = 0 ∨ 100 * w ≤ 95 * s.pwr.capW)
         (hot → t.pwr.level = min 15 (s.pwr.level + 1)) ∧ (¬ hot → cool → t.pwr.level = s.pwr.level - 1) ∧
         (¬ hot → ¬ cool → t.pwr.level = s.pwr.level)))

/-- IDENT, POWER_STATUS, POWER_CAP, MODULE_RESET and the firmware commands do what Table 16.5 says and reply DONE. With
the hub up, each command with its authority and legal parameters answers DONE with its results and changes only what
it names: POWER_CAP sets CAP_W to 0 or 1,000 to 2,400 W and replies the old value; MODULE_RESET sets the reset instant
10 ms ahead; FW_STAGE writes the inactive slot; FW_ACTIVATE makes the inactive slot pending; the others only read.
PERST_N clears the mailbox slots. -/
def Obligations.PowerCommandsComplete : Prop :=
  (∀ (s : State) (c : Ncp), s.pwr.hubUp = true → c.body = [] → ∃ res, exec (.ident c) s = done s c 0x0101 res) ∧
  (∀ (s : State) (c : Ncp), OwnerCmd s c → c.body = [] → ∃ res, exec (.powerStatus c) s = done s c 0x0102 res ∧ res.length = 200) ∧
  (∀ (s : State) (c : Ncp) (w : Nat), OwnerCmd s c → c.body = beBytes 2 w → (w = 0 ∨ (1000 ≤ w ∧ w ≤ 2400)) →
      exec (.powerCap c) s = done { s with pwr := { s.pwr with capW := w } } c 0x0103 (beBytes 2 s.pwr.capW)) ∧
  (∀ (s : State) (c : Ncp) (force : Nat), OwnerCmd s c → c.body = [BitVec.ofNat 8 force] → force ≤ 1 →
      (force = 1 ∨ s.haw.pstate = .none) →
      exec (.moduleReset c) s = done { s with pwr := { s.pwr with resetAt := some (s.raw + ticksOfMs 10) } } c 0x0104 []) ∧
  (∀ (s : State) (c : Ncp) (data : List Byte), OwnerCmd s c → flag s .FW_LOCK = false → imgSource c 4 false 16777216 = .ok data →
      beAt c.body 0 4 + data.length ≤ 67108864 → s.pwr.active < 2 → s.pwr.slots.length = 2 →
      ∃ t, exec (.fwStage c) s = done { s with pwr := { s.pwr with slots := t.pwr.slots, pendingAct := false } } c 0x0B01 [] ∧
        slotAt t s.pwr.active = slotAt s s.pwr.active ∧
        (slotAt t (1 - s.pwr.active)).image = splice (slotAt s (1 - s.pwr.active)).image (beAt c.body 0 4) data ∧
        (slotAt t (1 - s.pwr.active)).valid = false) ∧
  (∀ (s : State) (c : Ncp), OwnerCmd s c → c.body = [] → flag s .FW_LOCK = false → (slotAt s (1 - s.pwr.active)).factory = true →
      exec (.fwActivate c) s = done { s with pwr := { s.pwr with pendingAct := true } } c 0x0B02
        (beBytes 4 (slotVersion s (1 - s.pwr.active)))) ∧
  (∀ (s : State) (c : Ncp), OwnerCmd s c → c.body = [] →
      exec (.fwStatus c) s = done s c 0x0B03
        (beBytes 4 (slotVersion s 0) ++ beBytes 4 (slotVersion s 1) ++ beBytes 1 s.pwr.active ++ beBytes 1 (b2n s.pwr.pendingAct))) ∧
  (∀ s : State, ∃ t, exec .perstAssert s = .next t ∧ t.ncp.mbx = [] ∧ t.regs = s.regs ∧ t.pwr = s.pwr ∧ t.st = s.st ∧
      t.loam = s.loam ∧ t.lk = s.lk ∧ t.holly = s.holly ∧ t.raw = s.raw)

/-- REG_READ and REG_WRITE act on their lists in order; a rejected REG_WRITE keeps nothing of its list. With the hub up,
an owner's REG_READ of 1 to 1,024 occupied addresses answers DONE with the words read one after another. A REG_WRITE
whose pairs, taken in order, are all accepted answers DONE with all of them kept; one whose pair i is the first
rejected answers that code with INDEX i, and nothing changes but the record of the rejected write and the reply. -/
def Obligations.RegisterCommandsComplete : Prop :=
  (∀ (s : State) (c : Ncp) (addrs : List Nat), OwnerCmd s c → c.body = beBytes 2 addrs.length ++ addrs.flatMap (beBytes 4) →
      1 ≤ addrs.length → addrs.length ≤ 1024 → (∀ a ∈ addrs, a < 2 ^ 32 ∧ (regOf a).isSome) →
      exec (.regRead c) s = done (readList s 1 addrs).2 c 0x0201 (readList s 1 addrs).1) ∧
  (∀ (s t : State) (c : Ncp) (pairs : List (Nat × Nat)), OwnerCmd s c →
      c.body = beBytes 2 pairs.length ++ pairs.flatMap (fun p => beBytes 4 p.1 ++ beBytes 4 p.2) →
      1 ≤ pairs.length → pairs.length ≤ 1024 → (∀ p ∈ pairs, p.1 < 2 ^ 32 ∧ p.2 < 2 ^ 32) → writeList s 0 pairs = .ok t →
      exec (.regWrite c) s = done (noteWrite t 1 0 .done) c 0x0202 []) ∧
  (∀ (s : State) (c : Ncp) (pairs : List (Nat × Nat)) (i a : Nat) (code : Code), OwnerCmd s c →
      c.body = beBytes 2 pairs.length ++ pairs.flatMap (fun p => beBytes 4 p.1 ++ beBytes 4 p.2) →
      1 ≤ pairs.length → pairs.length ≤ 1024 → (∀ p ∈ pairs, p.1 < 2 ^ 32 ∧ p.2 < 2 ^ 32) → writeList s 0 pairs = .error (i, a, code) →
      exec (.regWrite c) s = rejected (noteWrite s 1 a code) c 0x0202 code 0 i)

/-- What the register-bus commands do when the requester can reach the registers. A register write keeps what the register
accepts and records DONE, or keeps nothing and records the code; setting lock bits is such a write. Writing START
begins a pass of both tiers of the half's Sieve when none is begun; RESET resets the selected counter; SLOW_CLEAR
empties the slow-member list; a write of the ring control sets FREEZE as written. A read that no node answers counts a
timeout and completes with Completer Abort. -/
def Obligations.BusWritesComplete : Prop :=
  (∀ (s t : State) (r a : Nat) (v : Word), r < 4 → reqOpen s r = true → regWrite s r a v.toNat = .ok t →
      exec (.registerWrite r a v true) s = .next (noteWrite t r a .done)) ∧
  (∀ (s : State) (r a : Nat) (v : Word) (code : Code), r < 4 → reqOpen s r = true → regWrite s r a v.toNat = .error code →
      exec (.registerWrite r a v true) s = .next (noteWrite s r a code)) ∧
  (∀ (s t : State) (r a : Nat) (v : Word) (d : RegDesc), r < 4 → reqOpen s r = true → regOf a = some d →
      d.fields.any (fun f => f.acc == .rwl) = true → regWrite s r a v.toNat = .ok t →
      exec (.lockBitSet r a v) s = .next (noteWrite t r a .done)) ∧
  (∀ (s : State) (r half : Nat), r < 4 → half < 2 → reqOpen s r = true → (sieveOf s half).started = [] →
      ∃ t, exec (.sieveStart r half) s = .next t ∧ (sieveOf t half).started = [0, 1] ∧ t.loam.cells = s.loam.cells ∧
        t.loam.queues = s.loam.queues ∧ t.out = s.out) ∧
  (∀ (s : State) (r : Nat), r < 4 → reqOpen s r = true →
      exec (.counterResetWrite r) s = .next (noteWrite (ctrReset s (selOf s r 0x30 0 0) none) r 0x3000001C .done)) ∧
  (∀ (s : State) (r : Nat), r < 4 → reqOpen s r = true →
      exec (.slowClear r) s = .next (noteWrite { s with tilth := { s.tilth with slow := [] } } r 0x1AFF0018 .done)) ∧
  (∀ (s : State) (r : Nat) (v : Word), r < 4 → reqOpen s r = true →
      ∃ t, exec (.ringFreezeWrite r v) s = .next t ∧ flag t .FREEZE = bitAt v.toNat 31 ∧ t.st = s.st) ∧
  (∀ (s : State) (a : Nat), reqOpen s 0 = true →
      exec (.registerAccessTimeout 0 a false none) s = .next (emit (raise
        { s with regs := { s.regs with timeouts := satAdd 16 s.regs.timeouts 1 } } .regDomainTimeout 0 (recVal a)) (.pcie 2 0)))

/-- REG_COMMIT pends, applies or discards the shadow copies it names; CABLING_ACCEPT exchanges two ports. For a block
instance (or all, 0xFE) that exists and has no commit within 10 us: a commit at T between 10,000 ns and 2 s ahead,
whose rules hold now, pends in place of the pending one when a copy is dirty; a commit now applies the dirty copies
and drops the pending one; a discard sets the copies back and drops it. A pending commit that has come due and is the
only one applies. CABLING_ACCEPT of two swapped ports writes the lowest free swap entry and commits. -/
def Obligations.CommitsComplete : Prop :=
  (∀ (s u : State) (c : Ncp) (blk inst t : Nat), s.pwr.hubUp = true → commitHead s c 0 = .ok (blk, inst) → t = beAt c.body 4 4 →
      s.yew.stepped = true → 10000 ≤ diff32 t (now32 s) → diff32 t (now32 s) ≤ 2000000000 →
      commitAll s blk (namedInstances blk inst) = .ok u → anyDirty s blk inst = true →
      exec (.regCommitAtT c) s = done { s with regs := { s.regs with pend :=
        (dropPend s blk inst).regs.pend ++ [{ blk := blk, inst := inst, at_ := expand32 s t, wanted := t }] } } c 0x0203 []) ∧
  (∀ (s u : State) (c : Ncp) (blk inst : Nat), s.pwr.hubUp = true → commitHead s c 1 = .ok (blk, inst) →
      commitAll s blk (namedInstances blk inst) = .ok u → anyDirty s blk inst = true →
      exec (.regCommitNow c) s = done (dropPend u blk inst) c 0x0203 []) ∧
  (∀ (s : State) (c : Ncp) (blk inst : Nat), s.pwr.hubUp = true → commitHead s c 2 = .ok (blk, inst) → inst ≠ 0xFE →
      exec (.regCommitDiscard c) s = done (dropPend (dropShadow s blk inst) blk inst) c 0x0203 []) ∧
  (∀ (s u : State) (p : PendCommit), s.regs.pend = [p] → reached s p.at_ = true →
      commitAll (dropPend s p.blk p.inst) p.blk (namedInstances p.blk p.inst) = .ok u →
      exec (.shadowCommitApply p.blk p.inst) s = .next u) ∧
  (∀ (s : State) (c : Ncp) (p q k : Nat), OwnerCmd s c → c.body = beBytes 2 p ++ beBytes 2 q → p < 1280 → q < 1280 → p ≠ q →
      cabOf s p = .swap → cabOf s q = .swap → portLanes s p = portLanes s q → portMode s p = portMode s q → dimCode s p = dimCode s q →
      listNames s p = false → listNames s q = false → portFenced s p = false → portFenced s q = false →
      (List.range 64).find? (fun k => !bitAt (regShadow s 0x00 0 (0x800 + 4 * k) 0) 31) = some k → commitNear s 0x00 0 = false →
      exec (.cablingAccept c) s =
        match commitInst (regKeepShadow s 0x00 0 (0x800 + 4 * k) 0 (2 ^ 31 + p * 65536 + q)) 0x00 0 [p, q] with
        | .ok u => done (dropPend u 0x00 0) c 0x0804 []
        | .error e => rejected s c 0x0804 e)

/-- A register word read by majority survives an upset of one copy, and the scrub writes the majority back. An upset of
one copy of a word that had none leaves the value every unit reads. A read of a register answers its word and votes on
its copies; the scrub writes the kept majority of a word whose copies differ into all of them and counts REG_VOTE_FIX
with the address. An upset marks its held cell, its used or retained clod or its word of a resident weight page with the worse
of the old and the new error, or the entry of its Laurel replica, and changes nothing else. -/
def Obligations.UpsetsAndScrub : Prop :=
  (∀ (s : State) (a idx copy bit : Nat) (blk inst off k : Nat), tfind s.regs.upset (regKey (regAddr a).blk (regAddr a).inst (regAddr a).off idx) = none →
      ∃ t, exec (.upset (.register a idx copy bit)) s = .next t ∧ regActive t blk inst off k = regActive s blk inst off k ∧
        t.regs.active = s.regs.active ∧ t.regs.shadow = s.regs.shadow ∧ t.out = s.out ∧ t.st = s.st) ∧
  (∀ (s : State) (blk inst off idx : Nat) (e : BitVec 32 × BitVec 32 × BitVec 32), blk < 256 → inst < 256 → off < 65536 → idx < 2 ^ 20 →
      s.pwr.hubUp = true → s.regs.upset = [(regKey blk inst off idx, e)] →
      exec .rwvScrub s = .next (raise { s with regs := { s.regs with
        active := tset (BitVec.ofNat 32 (regReset blk inst off idx)) s.regs.active (regKey blk inst off idx)
          (regKept s blk inst off idx ^^^ majority3 e.1 e.2.1 e.2.2)
        upset := [], voteFix := satAdd 16 s.regs.voteFix 1 } } .regVoteFix 0 (recVal (blk * 2 ^ 24 + inst * 2 ^ 16 + off)))) ∧
  (∀ (s : State) (r a : Nat) (d : RegDesc), regOf a = some d → (regAddr a).blk ≠ 2 →
      busRead s r a = (regWord s r (regAddr a) d,
        voteFix s (regAddr a).blk (regAddr a).inst (regAddr a).off (copyOf s r (regAddr a) d))) ∧
  (∀ (s : State) (c : Nat) (unc : Bool), ∃ t, exec (.upset (.cell c unc)) s = .next t ∧
      t = { s with loam := { s.loam with cells := t.loam.cells } } ∧ (∀ k, k ≠ c → tfind t.loam.cells k = tfind s.loam.cells k) ∧
      (∀ r, tfind s.loam.cells c = some r → r.kind = .held → tfind t.loam.cells c = some { r with err := worse r.err unc })) ∧
  (∀ (s : State) (c : Nat) (unc : Bool), ∃ t, exec (.upset (.clod c unc)) s = .next t ∧
      t = { s with loam := { s.loam with clods := t.loam.clods } } ∧ (∀ k, k ≠ c → tfind t.loam.clods k = tfind s.loam.clods k) ∧
      (∀ r, tfind s.loam.clods c = some r → r.kind ≠ .free → r.kind ≠ .retired →
        tfind t.loam.clods c = some { r with err := worse r.err unc })) ∧
  (∀ (s : State) (a page word : Nat) (unc : Bool), ∃ t, exec (.upset (.weight a page word unc)) s = .next t ∧
      t = { s with marl := { s.marl with errs := t.marl.errs } } ∧
      (∀ k, k ≠ weightWord (a * 128 + page) word → tget 0 t.marl.errs k = tget 0 s.marl.errs k) ∧
      ((s.marl.tiles.any fun x => x.array == a && x.pages.contains page) = true →
        tget 0 t.marl.errs (weightWord (a * 128 + page) word) = worse (tget 0 s.marl.errs (weightWord (a * 128 + page) word)) unc)) ∧
  (∀ (s : State) (tk i : Nat),
      exec (.upset (.laurel 0 tk i)) s = .next { s with laurel := { s.laurel with r0 := markIn true tk i s.laurel.r0 } } ∧
      exec (.upset (.laurel 1 tk i)) s = .next { s with laurel := { s.laurel with r1 := markIn true tk i s.laurel.r1 } })

/-- A fresh, tagged message of the owner is queued over UDP, in band and by mailbox; READY, the assembly timer and
dispatch act on their slot, buffer or queue. A whole message of the owner with its right tag, an opcode that is not
untagged, a fresh number and a length its transport takes is accepted under its number and queued as the last of the
owner's class when that class has room: over UDP on an enabled management port, in band from a keyed link, and by GO
in a slot that is not busy, which then is busy. GO in a busy slot counts MBX_BUSY. Writing READY of a ready slot with
nothing waiting clears it. An assembly that is over its time is dropped and counted. Dispatch runs the next command of
the queue served, in a free slot, as its opcode says; IDENT so ends with DONE. -/
def Obligations.MailboxAndMessagesComplete : Prop :=
  (∀ (s : State) (mg ip port op seq : Nat) (key body : List Byte), mg < 2 → s.pwr.hubUp = true →
      flag s (if mg == 0 then .UDP_EN0 else .UDP_EN1) = true → OwnerFresh s (.udp mg ip port) key op seq body →
      exec (.ncpUdpDatagram mg ip port (fld s .NCP_CTRL_UDP_PORT) false (ncpMsg (some key) 0 op seq 0 body)) s =
        .next (ownerQueued s (.udp mg ip port) op seq body)) ∧
  (∀ (s s1 : State) (fid op seq : Nat) (f : StoredFrame) (key body : List Byte), takeKind s fid 9 = .ok (f, s1) → s1.pwr.hubUp = true →
      linkUnkeyed s1 f.rxLink = false → f.data = ncpMsg (some key) 0 op seq 0 body →
      OwnerFresh s1 (.inband f.inPort f.ffh.src) key op seq body →
      exec (.ncpInbandFrame fid) s = .next (ownerQueued s1 (.inband f.inPort f.ffh.src) op seq body)) ∧
  (∀ (s s1 : State) (k op seq : Nat) (w key body : List Byte), k < 4 → reqOpen s 0 = true → w = ncpMsg (some key) 0 op seq 0 body →
      (tget ({} : Mbx) s.ncp.mbx k).busy = false → OwnerFresh s (.mailbox k) key op seq body →
      s1 = { s with ncp := { s.ncp with
        mbx := tset {} (tmod {} s.ncp.mbx k fun m => { m with window := w }) k
          { tget ({} : Mbx) s.ncp.mbx k with window := w, busy := true, len := w.length } } } →
      exec (.mbxGo k w.length w) s = .next (noteWrite (ownerQueued s1 (.mailbox k) op seq body) 0 (0x03000100 + 4 * k) .done)) ∧
  (∀ (s : State) (k len : Nat) (w : List Byte), k < 4 → reqOpen s 0 = true → len ≤ 16384 → w.length ≤ 16384 →
      (tget ({} : Mbx) s.ncp.mbx k).busy = true →
      ∃ u, u = { s with ncp := { s.ncp with mbx := tmod {} s.ncp.mbx k fun m => { m with window := w } } } ∧
        exec (.mbxGo k len w) s = .next (noteWrite (raise u .mbxBusy 0 (recVal k)) 0 (0x03000100 + 4 * k) .done)) ∧
  (∀ (s : State) (k : Nat), k < 4 → reqOpen s 0 = true → (tget ({} : Mbx) s.ncp.mbx k).ready = true →
      (tget ({} : Mbx) s.ncp.mbx k).waiting = [] → (tget ({} : Mbx) s.ncp.mbx k).len ≤ 16384 →
      exec (.mbxReadyClear k) s = .next (noteWrite { s with ncp := { s.ncp with
        mbx := tset {} s.ncp.mbx k { tget ({} : Mbx) s.ncp.mbx k with ready := false } } } 0 (0x03004100 + 4 * k) .done)) ∧
  (∀ (s : State) (b : Nat) (g : Stage), tfind s.ncp.stages b = some g → s.pwr.hubUp = true →
      elapsed s g.startedAt (ticksOfMs (fld s .FRAG_TMO_MS)) = true →
      exec (.fragAssemblyTimeout b) s =
        .next (raise { s with ncp := { s.ncp with stages := tdel s.ncp.stages b } } .ncpFragTmo 0 (recVal g.opcode))) ∧
  (∀ (s : State) (q : QCmd) (dma : Option (List Byte)), s.pwr.hubUp = true → s.ncp.running.length < 8 → nextHead s = some q →
      exec (.commandDispatch dma) s =
        runOpcode q.opcode { auth := authOf q.cls, seq := q.seq, via := q.via, body := q.body, dma := dma } (takeHead s q)) ∧
  (∀ (s : State) (q : QCmd) (dma : Option (List Byte)), s.pwr.hubUp = true → s.ncp.running.length < 8 → nextHead s = some q →
      q.opcode = 0x0101 → q.body = [] →
      ∃ t res, exec (.commandDispatch dma) s = .next (finish t { auth := authOf q.cls, seq := q.seq, via := q.via, body := [], dma := dma }
        0x0101 .done 0 noIndex res) ∧ t = takeHead s q)

/-- How a sequence number is judged and accepted under a key. The first number of a key is fresh; later a number is
compared with the highest accepted H by signed 32-bit difference: above H it is fresh and becomes H; below H by more
than 63 it is stale; otherwise it is repeated when it has been accepted and fresh when not, and an accepted number is
from then on repeated while it stays within the window. -/
def Obligations.SequenceWindow : Prop :=
  (∀ (q : SeqState) (n : Nat), q.started = false → seqJudge q n = .fresh ∧ (seqAccept q n).h = n ∧ (seqAccept q n).started = true) ∧
  (∀ (q : SeqState) (n : Nat), q.started = true → 0 < diff32 n q.h → seqJudge q n = .fresh ∧ (seqAccept q n).h = n) ∧
  (∀ (q : SeqState) (n : Nat), q.started = true → diff32 n q.h < -63 → seqJudge q n = .stale) ∧
  (∀ (q : SeqState) (n : Nat), q.started = true → -63 ≤ diff32 n q.h → diff32 n q.h ≤ 0 →
      (seqAccept q n).h = q.h ∧ (seqJudge q n = .repeated ↔ n ∈ q.seen)) ∧
  (∀ (q : SeqState) (n : Nat), n < 2 ^ 32 → seqJudge q n = .fresh → seqJudge (seqAccept q n) n = .repeated)

/-- Heath keeps the replies of the last 64 numbers of a key, each cut to 248 body bytes. Keeping a reply for a number that
the key's replay state has seen makes it the newest of that key's cache, cut to 248 bytes and marked when it was cut;
at most 64 are kept, the oldest going first; other keys' caches and everything else stay. A reply to a number it has
not seen (a stale one) is not kept. -/
def Obligations.ReplyCache : Prop :=
  (∀ (s : State) (cls seq op : Nat) (body : List Byte) (q : SeqState), tfind s.ncp.seqs cls = some q → q.seen.contains seq = false →
    q.cache.length ≤ 64 → cacheReply s cls seq op body = { s with ncp := { s.ncp with seqs := tins s.ncp.seqs cls q } }) ∧
  ∀ (s : State) (cls seq op : Nat) (body : List Byte) (q : SeqState), tfind s.ncp.seqs cls = some q → q.seen.contains seq = true →
    ∃ q2, cacheReply s cls seq op body = { s with ncp := { s.ncp with seqs := tins s.ncp.seqs cls q2 } } ∧
      q2.h = q.h ∧ q2.seen = q.seen ∧ q2.started = q.started ∧ q2.cache.length ≤ 64 ∧
      q2.cache.getLast? = some (seq, beBytes 1 (b2n (decide (248 < body.length))) ++ beBytes 2 op ++ body.take 248) ∧
      (∀ e ∈ q2.cache, e.1 ≠ seq → e ∈ q.cache) ∧ (q.cache.length < 64 → ∀ e ∈ q.cache, e.1 ≠ seq → e ∈ q2.cache)

/-- A command is answered from the state it found or done; a rejected command or register write leaves the device state
unchanged. Each of 61 commands, with the hub up, either is answered with a failure made of the state it found, or ends
with DONE. Such an answer changes nothing but Heath's counts of commands and rejections, the class's last status and
reply cache, its execution slot, and the reply on its transport (a mailbox or UDP). A register write that is rejected
keeps no word: it changes only the requester's record of the rejection and its event. -/
def Obligations.RejectionKeepsState : Prop :=
  (∀ k ∈ answeredCmds, ∀ (s : State) (c : Ncp), s.pwr.hubUp = true → ∃ op,
      (∃ b : Bad, exec (k c) s = .next (finish s c op b.code b.step b.index b.results)) ∨
      (∃ res t, exec (k c) s = .next (finish t c op .done 0 noIndex res))) ∧
  (∀ (s : State) (c : Ncp) (op : Nat) (code : Code) (step index : Nat) (res : List Byte), (∀ p src, c.via ≠ .inband p src) →
      ∃ t, finish s c op code step index res = t ∧ t.regs = s.regs ∧ t.st = s.st ∧ t.yew = s.yew ∧ t.loam = s.loam ∧ t.bx = s.bx ∧
        t.sh = s.sh ∧ t.lk = s.lk ∧ t.laurel = s.laurel ∧ t.kao = s.kao ∧ t.marl = s.marl ∧ t.tilth = s.tilth ∧ t.prv = s.prv ∧
        t.xc = s.xc ∧ t.haw = s.haw ∧ t.holly = s.holly ∧ t.pwr = s.pwr ∧ t.raw = s.raw ∧
        t.ncp.stages = s.ncp.stages ∧ t.ncp.queues = s.ncp.queues ∧ t.ncp.buckets = s.ncp.buckets ∧
        t.ncp.rejects = (if isSuccess code then s.ncp.rejects else (s.ncp.rejects + 1) % 2 ^ 32)) ∧
  (∀ (s : State) (r a : Nat) (v : Word) (code : Code), r < 4 → reqOpen s r = true → isSuccess code = false → regWrite s r a v.toNat = .error code →
      ∃ t, exec (.registerWrite r a v true) s = .next t ∧ t.regs.active = s.regs.active ∧ t.regs.shadow = s.regs.shadow ∧
        t.regs.pend = s.regs.pend ∧ t.loam = s.loam ∧ t.bx = s.bx ∧ t.sh = s.sh ∧ t.lk = s.lk ∧ t.laurel = s.laurel ∧
        t.kao = s.kao ∧ t.marl = s.marl ∧ t.tilth = s.tilth ∧ t.prv = s.prv ∧ t.xc = s.xc ∧ t.holly = s.holly ∧ t.raw = s.raw)

/-- Signal, markers, HELLO, round trip and timeout carry a port through training as Table 11.3 says. At an existing port:
signal on a port that may train begins an attempt now, and the port's markers leave; a new identity received on a lane
is kept and echoed in a marker; in the marker step a marker that echoes a lane of the port is kept and, when every
lane has one, HELLO leaves and the HELLO step begins; a good HELLO of the expected FEC, reach and steering peer is
kept; a round trip within the reach brings an unprotected port up, and one beyond it fails the attempt; a training
attempt TRAIN_TMO_MS old that does not wait for admission fails, is counted and waits for signal again, a keying one
after its keying is stopped. On an up link, a marker with the right identities clears the lane's runs of mismatches. -/
def Obligations.LinkTrainingCompletes : Prop :=
  (∀ (s : State) (p : Nat), p < 1280 → mayTrain s p = true →
      ∃ u v, u = (lanesOfPort s p).foldl lockDrop (wakeDomain s (2 + tileNo p)) ∧ u.lk = s.lk ∧ u.raw = s.raw ∧
        v = setPortLink u p { portLink s p with phase := .training, step := .markers, refAt := s.raw, peerLane := [] } ∧
        exec (.signalPresent p) s = .next ((List.range (portLanes v p)).foldl (fun t i => sendMarker t p i) v)) ∧
  (∀ (s u : State) (p lane laneId : Nat), portMode s p = .fabric → u = noteLaneId s p lane laneId →
      (tfind (portLink s p).lastId lane = some laneId → u = s) ∧
      (tfind (portLink s p).lastId lane ≠ some laneId →
        u = emit (setPortLink s p { portLink s p with lastId := tins (portLink s p).lastId lane laneId })
          (.marker p lane (laneNum s p lane) (some laneId)))) ∧
  (∀ (s u : State) (p lane laneId echoId : Nat), p < 1280 → lane < portLanes s p → portMode s p = .fabric → portUp s p = false →
      (portLink s p).phase = .training → (portLink s p).step = .markers → (lanesOfPort s p).contains echoId = true →
      u = noteLaneId s p lane laneId →
      (((List.range (portLanes s p)).all fun j => (tfind (tins (portLink s p).peerLane lane laneId) j).isSome) = false →
        exec (.alignmentMarker p lane laneId echoId) s =
          .next (setPortLink u p { portLink u p with peerLane := tins (portLink s p).peerLane lane laneId })) ∧
      (((List.range (portLanes s p)).all fun j => (tfind (tins (portLink s p).peerLane lane laneId) j).isSome) = true →
        exec (.alignmentMarker p lane laneId echoId) s = .next (emit
          (setPortLink u p { portLink u p with peerLane := tins (portLink s p).peerLane lane laneId, step := .hello })
          (.hello p (helloBytes u p))))) ∧
  (∀ (s u : State) (p lane id : Nat), p < 1280 → lane < portLanes s p → portMode s p = .fabric → portUp s p = true →
      tfind (portLink s p).peerLane lane = some id → u = noteLaneId s p lane id →
      exec (.alignmentMarker p lane id (laneNum s p lane)) s = .next (setPortLink u p
        { portLink u p with
          echoRun := tset 0 (portLink s p).echoRun lane 0, idRun := tset 0 (portLink s p).idRun lane 0,
          idMismatch := putBit (portLink s p).idMismatch lane false })) ∧
  (∀ (s : State) (p : Nat) (msg : List Byte), p < 1280 → msg.length = 32 → crc16 (msg.take 30) = beAt msg 30 2 →
      portMode s p = .fabric → portUp s p = false → (portLink s p).phase = .training → (portLink s p).step = .hello →
      bitsOf (beAt msg 9 1) 7 6 = fecOf s p → bitsOf (beAt msg 9 1) 5 5 = reachOf s p → steerPeerOk s p msg = true →
      exec (.helloReceived p msg) s = .next (setPortLink s p { portLink s p with hello := msg, step := .measured })) ∧
  (∀ (s : State) (p rtt : Nat), p < 1280 → (portLink s p).phase = .training → portMode s p = .fabric →
      (portLink s p).step = .measured → rtt ≤ rttLimit (reachOf s p) → protOn s p = false →
      exec (.linkUp p rtt) s = .next (comesUp (setPortLink s p { portLink s p with rtt := rtt, step := .keying }) p)) ∧
  (∀ (s : State) (p rtt : Nat), p < 1280 → (portLink s p).phase = .training → portMode s p = .fabric →
      (portLink s p).step = .measured → rttLimit (reachOf s p) < rtt →
      exec (.linkUp p rtt) s = .next (trainFail (raise s .linkReachExceeded p (recVal rtt)) p)) ∧
  (∀ (s u : State) (p : Nat), p < 1280 → (portLink s p).phase = .training → (portLink s p).step ≠ .signal →
      awaitsAdmission s p = false → elapsed s (portLink s p).refAt (ticksOfMs (fld s .TRAIN_TMO_MS)) = true →
      ((portLink s p).step ≠ .keying → u = s) → ((portLink s p).step = .keying → u = stopKeying s p) →
      exec (.trainTimeout p) s = .next (raise (setPortLink u p { portLink u p with
        phase := .training, step := .signal, peerLane := [], refAt := s.raw }) .linkTrainFail p))

/-- A failed electrical lane is taken out; a spare or a degrade keeps the link up; symbol errors are counted. On an up
port: an electrical lane that loses lock is taken down; the corrected symbols of a period within LANE_ERR_MAX are
counted on the lane and change nothing else; a spare that serves the lane makes it good again and is counted; with
DEG_EN, agreeing on a power of two of good lanes, fewer than are active, makes the link degraded on them and is
counted, with each class whose gates no longer fit. -/
def Obligations.LanesCompleteAndDegrade : Prop :=
  (∀ (s : State) (p lane : Nat), p < 1280 → lane < portLanes s p → portUp s p = true → bitAt (portLink s p).laneOk lane = true →
      1024 ≤ laneNum s p lane → laneHolder s (laneNum s p lane) = p →
      exec (.laneLockLoss p lane) s = .next (laneDown s (laneNum s p lane))) ∧
  (∀ (s : State) (p lane n : Nat), p < 1280 → lane < portLanes s p → portUp s p = true → bitAt (portLink s p).laneOk lane = true →
      n ≤ fld s .LANE_ERR_MAX →
      exec (.laneErrorPeriod p lane n) s = .next (raiseN s .fecCeSym (carrierLane s (laneNum s p lane)) n (recVal n))) ∧
  (∀ (s : State) (lane p : Nat), 1024 ≤ lane → lane < 1280 → laneHolder s lane = p → portUp s p = true → spareServes s lane = true →
      exec (.spareRemap (sliceOf lane) lane) s = .next (raise { s with lk := { s.lk with
          ports := tset {} s.lk.ports p { portLink s p with laneOk := putBit (portLink s p).laneOk (lanePos s lane) true },
          spares := tins s.lk.spares (sliceOf lane) lane, spareAsked := tdel s.lk.spareAsked (sliceOf lane) } } .laneSpared lane)) ∧
  (∀ (s : State) (p mask : Nat), p < 1280 → portUp s p = true → lkCfg s .DEG_EN p = 1 → mask < 256 →
      mask &&& (portLink s p).laneOk = mask → (popCount 8 mask = 1 ∨ popCount 8 mask = 2 ∨ popCount 8 mask = 4) →
      popCount 8 mask < (portLink s p).active →
      exec (.degradeAgree p mask) s = .next (noteCover (raise (setPortLink s p { portLink s p with
        phase := .degraded, active := popCount 8 mask }) .linkDegraded p (recVal mask)) p))

/-- What acknowledgments, LOSS, WITHHELD, REFUSED, SKIP, TXC_MARK and the retry timers do. On an open link, for a space
below 16 and a number below 65,536: an acknowledgment runs on its space and, when it settles no number, changes no
key, frame or fence; LOSS of a number below space 14, with nothing open in space 14, marks its record due for replay
now and ends its run of withholds; WITHHELD marks it due WITHHOLD_NS later and counts it; REFUSED changes nothing;
SKIP settles an unsettled number, counted, and changes nothing for a settled one; a TXC_MARK is kept modulo 2^32. On a
live link, outside space 14, a withheld replay that has come due and may not escape is due from now; an unsettled
record of fewer than REPLAY_MAX replays whose retry time is over is counted and treated as after a LOSS. -/
def Obligations.RetryEventsComplete : Prop :=
  (∀ (s : State) (l q a : Nat), (l < 1280 ∨ (2048 ≤ l ∧ l < 6144)) → linkOpen s l = true → q < 16 → a < 65536 →
      exec (.linkAckReceived l q a) s = .next (ackTx s l q a) ∧
      ((∀ r ∈ (txOf (endOf s l) q).open_, 0 ≤ diff16 r.seq a) →
        (ackTx s l q a).holly = s.holly ∧ (ackTx s l q a).loam = s.loam ∧ (ackTx s l q a).haw = s.haw)) ∧
  (∀ (s : State) (l q n : Nat) (r : TxRec), (l < 1280 ∨ (2048 ≤ l ∧ l < 6144)) → linkOpen s l = true → q < 14 → n < 65536 →
      findTx s l q n = some r → (r.lossReplays < fld s .REPLAY_MAX) → (txOf (endOf s l) 14).open_ = [] →
      exec (.lossEvent l q n) s = .next (settleTc7 (modTx s l q n fun x => { x with replayAt := some s.raw, lossDue := true, withholds := 0 }) l)) ∧
  (∀ (s : State) (l q n : Nat) (r : TxRec), (l < 1280 ∨ (2048 ≤ l ∧ l < 6144)) → linkOpen s l = true → q < 16 → n < 65536 →
      findTx s l q n = some r →
      exec (.withheldEvent l q n) s = .next (modTx s l q n fun x =>
        { x with replayAt := some (s.raw + ticksOfNs (fld s .WITHHOLD_NS)), withholds := x.withholds + 1 })) ∧
  (∀ (s : State) (l q n : Nat), (l < 1280 ∨ (2048 ≤ l ∧ l < 6144)) → exec (.refusedEvent l q n) s = .next s) ∧
  (∀ (s : State) (l q n : Nat), (l < 1280 ∨ (2048 ≤ l ∧ l < 6144)) → linkOpen s l = true → q < 16 → n < 65536 →
      (settledRx (rxOf (endOf s l) q) n = true → exec (.skipEvent l q n) s = .next s) ∧
      (settledRx (rxOf (endOf s l) q) n = false →
        exec (.skipEvent l q n) s = .next (settleRx (raise s .lrSkip (linkPort s l)) l q n))) ∧
  (∀ (s : State) (l m : Nat), (l < 1280 ∨ (2048 ≤ l ∧ l < 6144)) → linkOpen s l = true → m < 2 ^ 32 →
      exec (.txcMarkEvent l m) s = .next (setKeys s l { linkKeys s l with mark := some m })) ∧
  (∀ (s : State) (l q n t : Nat) (r : TxRec) (f : StoredFrame), (l < 1280 ∨ (2048 ≤ l ∧ l < 6144)) → linkLive s l = true →
      q < 16 → q ≠ 14 → n < 65536 → findTx s l q n = some r → r.replayAt = some t → t ≤ s.raw → frameOf s r.fid = some f →
      mayEscape s l q r f = false →
      exec (.withholdReplay l q n) s = .next (modTx s l q n fun x => { x with replayAt := some s.raw })) ∧
  (∀ (s : State) (l q n : Nat) (r : TxRec), (l < 1280 ∨ (2048 ≤ l ∧ l < 6144)) → linkLive s l = true → q < 16 → n < 65536 →
      findTx s l q n = some r → timeoutDue s l r = true → r.lossReplays < fld s .REPLAY_MAX →
      exec (.retryTimeout l q n) s = .next (settleTc7 (eventRx (raise s .lrTimeout (linkPort s l)) l .loss q n 0) l))

/-- ACK reports, SKIP announcements and TXC marks leave as control blocks; stalled sinks and idle virtual links are given
up. On a live fabric link with no event waiting, an ACK report sends 16 items and changes no frame, key, counter or
port; with one abandoned number and no event waiting, a SKIP announcement sends it in a control block. Under a key and
outside TC7 windows a TXC_MARK leaves in a control block naming the low 32 bits of the next counter. A down-port that
is up, with a frame unsettled on a link of its own, and SINK_STALL_US after the later of that frame's first
transmission and the last acknowledgment, begins to discard; a virtual link idle for VLINK_IDLE_S is released. -/
def Obligations.LinkReportsComplete : Prop :=
  (∀ (s : State) (l : Nat), l < 1280 → linkLive s l = true → (endOf s l).events = [] → (endOf s l).ackDirty.length ≤ 16 →
      (endOf s l).ackDirty.Nodup → (∀ q ∈ (endOf s l).ackDirty, q < 16) →
      ∃ t, exec (.ackReport l) s = .next t ∧ t.loam = s.loam ∧ t.holly = s.holly ∧ t.st = s.st ∧ t.lk.ports = s.lk.ports ∧
        s.out.length + 16 = t.out.length) ∧
  (∀ (s s1 : State) (l q n : Nat) (sp : TxSpace) (hd : LinkHdr) (e2 : LinkEnd), l < 1280 → linkLive s l = true → (endOf s l).events = [] →
      (endOf s l).tx = [(q, sp)] → sp.skips = [n] → s1 = setEnd s l { endOf s l with events := [{ kind := .skip, space := q, seq := n }] } →
      nextHeader (endOf s1 l) 0 false = (hd, e2) →
      exec (.skipAnnounce l) s = .next (emit (setEnd s1 l e2) (.lcb l (linkHdrBytes hd ++ beBytes 2 (crc16 (linkHdrBytes hd))))) ∧
        hd.ekind = .skip ∧ hd.eq = q ∧ hd.eseq = n) ∧
  (∀ (s : State) (l : Nat), l < 1280 → linkLive s l = true → linkProt s l = true → (linkKeys s l).txKey.isSome = true →
      tc7Open (bxPort s l) (nowU s) = false →
      ∃ u h, exec (.txcMarkSend l) s = .next (emit (setKeys u l { linkKeys s l with markedAt := s.raw })
          (.lcb l (linkHdrBytes h ++ beBytes 2 (crc16 (linkHdrBytes h))))) ∧
        h.ekind = .txcMark ∧ h.seq = (linkKeys s l).txc / 65536 % 65536 ∧ h.eseq = (linkKeys s l).txc % 65536 ∧
        u.holly = s.holly ∧ u.loam = s.loam ∧ u.out = s.out) ∧
  (∀ (s : State) (p t : Nat), p < 1280 → isDownPort s p = true → portUp s p = true → sinkDiscard s p = false →
      stalledSince s p = some t → elapsed s t (ticksOfUs (fld s .SINK_STALL_US)) = true →
      exec (.sinkStall p) s = .next { s with haw := { s.haw with sinkFrom := tins s.haw.sinkFrom p s.raw } }) ∧
  (∀ (s : State) (v : Nat) (e : VLink), v < 4096 → tfind s.lk.vlinks v = some e →
      elapsed s e.lastSeen (ticksOfS (fld s .VLINK_IDLE_S)) = true → exec (.vlinkIdleRelease v) s = .next (vlinkDown s v))

/-- Which queues are enabled on a port in each mode. On a port that exists under the lane widths: in fabric mode the
enabled queues are 0 to 13; in Ethernet mode 0 to 9; a disabled port has none; queues 14 and 15, those of TC7, are
never enabled. An absorbed port, which does not exist, has none. -/
def Obligations.CalendarQueuesOfAPort : Prop :=
  (∀ (s : State) (p i : Nat), absorbed s p = false → portMode s p = .fabric → (queueEnabled s p i = true ↔ i ≤ 13)) ∧
  (∀ (s : State) (p i : Nat), absorbed s p = false → portMode s p = .ethernet → (queueEnabled s p i = true ↔ i ≤ 9)) ∧
  (∀ (s : State) (p i : Nat), portMode s p = .disabled ∨ absorbed s p = true → queueEnabled s p i = false) ∧
  (∀ (s : State) (p i : Nat), 14 ≤ i → queueEnabled s p i = false) ∧
  (∀ (s : State) (p : Nat), ∀ i ∈ enabledQueues s p, queueEnabled s p i = true ∧ i ≤ 13)

/-- A port with no calendar loaded runs the reset calendar of 14 slots. A port without a loaded calendar, and every port
at reset, runs 14 slots; slot k has the queues 13 - k, then (13 - k - 1), (13 - k - 2) and (13 - k - 3), all modulo
14. On an Ethernet-mode port the queues it names above 9 are never eligible. -/
def Obligations.ResetCalendar : Prop :=
  (∀ (s : State) (p : Nat), (bxPort s p).cal = none → (slotsOf (bxPort s p)).length = 14 ∧
      ∀ k, k < 14 → (slotsOf (bxPort s p))[k]? = some [13 - k, (13 - k + 14 - 1) % 14, (13 - k + 14 - 2) % 14, (13 - k + 14 - 3) % 14]) ∧
  (∀ p, (bxPort State.reset p).cal = none) ∧
  (∀ (s : State) (p i : Nat), portMode s p = .ethernet → 10 ≤ i → eligible s p i = false)

/-- A write of LOAM_THRESH out of order is rejected with BAD_PARAM. Whoever writes it, by whichever alias of its address
(plain, set, clear, toggle), a word that would make LOAM_THRESH break SPILL_OFF < SPILL_ON <= DROP_TC0 < DROP_BULK is
rejected with BAD_PARAM: the four fields are bytes 3 (SPILL_ON), 2 (SPILL_OFF), 1 (DROP_TC0) and 0 (DROP_BULK) of the
register, and each alias makes of a field's old value and the byte written the value it would take. -/
def Obligations.LoamThreshOrder : Prop :=
  ∀ (s : State) (r v aka : Nat), v < 2 ^ 32 → aka < 4 → ∀ new : Nat → Nat,
    (∀ k, new k = aliased aka 8 (v / 2 ^ (8 * k) % 256) (regActive s 0x10 0xFF 0x0C 0 / 2 ^ (8 * k) % 256)) →
    ¬ (new 2 < new 3 ∧ new 3 ≤ new 1 ∧ new 1 < new 0) →
    regWrite s r (0x10FF000C + aka * 2 ^ 14) v = .error .badParam

/-- LOAD_CALENDAR and LOAD_GATES pend on every port they name; takeovers and cancelling move or drop what pends; pre-waking
wakes. An owner's calendar image that passes its checks, with nothing pending on its ports, pends on each port
and answers DONE; so does a gate image whose reserves fit the store. Cancelling drops what pends of the named kind on
each port. Once fabric time has reached T, the pending calendar is in force from slot 0 with its starvation counts
zero, and the pending gate list is in force; each is counted. A port with a TC7 window near has its pipeline woken,
and the pipelines of the owner ports of the windows near. -/
def Obligations.CalendarsAndGatesComplete : Prop :=
  (∀ (s : State) (c : Ncp) (img : List Byte) (ss : List BxSect) (t : Nat), OwnerCmd s c → bxImage c false = .ok (img, ss) →
      bxConflict s false ss = none → checkTime s (beAt img 8 4) 3 = .ok t → (∀ x ∈ ss, (bxPort s x.port).calPend = none) →
      exec (.loadCalendar c) s = done (ss.foldl (fun (u : State) (x : BxSect) => setBx u x.port { bxPort u x.port with
        calPend := some { slots := x.entries.map calSlot, takeover := t, imgId := beAt img 16 8 } }) s) c 0x0401 []) ∧
  (∀ (s u : State) (c : Ncp) (img : List Byte) (ss : List BxSect) (t : Nat), OwnerCmd s c → bxImage c true = .ok (img, ss) →
      bxConflict s true ss = none → checkTime s (beAt img 8 4) 3 = .ok t → (∀ x ∈ ss, (bxPort s x.port).glPend = none) →
      u = ss.foldl (fun (u : State) (x : BxSect) => setBx u x.port { bxPort u x.port with
        glPend := some { entries := x.entries.map gateEnt, takeover := t, tc7Cells := x.cells, imgId := beAt img 16 8 } }) s →
      poolsFit u = true → exec (.loadGates c) s = done u c 0x0402 []) ∧
  (∀ (s : State) (c : Ncp) (ports : List Nat), OwnerCmd s c → ports.length < 65536 → (∀ p ∈ ports, p < 1280) →
      c.body = beBytes 1 1 ++ beBytes 2 ports.length ++ ports.flatMap (beBytes 2) →
      (∀ p ∈ ports, replaceable s ((bxPort s p).calPend.map (·.takeover)) = true) →
      exec (.cancelPending c) s = done (ports.foldl (fun u p => setBx u p { bxPort u p with calPend := none }) s) c 0x0403 []) ∧
  (∀ (s : State) (c : Ncp), OwnerCmd s c → c.body = [3, 0, 0] → replaceable s (s.sh.pend.map (·.takeover)) = true →
      exec (.cancelPending c) s = done { s with sh := { s.sh with pend := none } } c 0x0403 []) ∧
  (∀ (s : State) (p : Nat) (g : GateList), p < 1280 → (bxPort s p).glPend = some g → g.takeover ≤ nowNs s →
      exec (.gateListTakeover p) s =
        .next (raise (setBx s p { bxPort s p with
          gl := some g, glPend := none, glOld := (bxPort s p).gl, coverLost := [] }) .glTakeover p)) ∧
  (∀ (s : State) (p : Nat) (g : Calendar), p < 1280 → (bxPort s p).calPend = some g → g.takeover ≤ nowNs s →
      exec (.calendarTakeover p) s = .next (raise (setBx s p { bxPort s p with
        cal := some g, calPend := none, slot := 0, starve := [], starved := [] }) .calTakeover p)) ∧
  (∀ (s : State) (p : Nat), p < 1280 → soonOwners s p (fld s .BX_WAKE_PREWAKE_NS) ≠ [] →
      exec (.prewake p) s = .next (((soonOwners s p (520 + fld s .BX_WAKE_PREWAKE_NS)).filter (· < 1280)).foldl
        (fun t o => wakeDomain t (pipeDomain o)) (wakeDomain s (pipeDomain p))))

/-- An idle domain sleeps, a waking one becomes awake with stale stamps, a late one is counted once. A domain that is
awake, may sleep and has been idle for its time sleeps, and when is noted, unless a wake trigger falls in the same
cycle, which restarts its idle time. A domain whose clock resumes is awake, its idle time starts, and its stamps are
stale until the next beat (with no calendar or gate list on any port, nothing else changes). A domain not awake four
wake times after its trigger is counted once and is late from then on. -/
def Obligations.DomainsSleepAndWake : Prop :=
  (∀ (s : State) (d : Nat), d < 359 → tget SleepState.awake s.pwr.domains d = .awake → maySleep s d = true → idleExpired s d = true →
      exec (.idleTimeout d false) s = .next { s with pwr := { s.pwr with
        domains := tset .awake s.pwr.domains d .asleep, sleptAt := tset 0 s.pwr.sleptAt d s.raw } } ∧
      exec (.idleTimeout d true) s = .next { s with pwr := { s.pwr with lastWork := tset 0 s.pwr.lastWork d s.raw } }) ∧
  (∀ (s : State) (d t : Nat), d < 359 → (tget SleepState.awake s.pwr.domains d = .waking t ∨ tget SleepState.awake s.pwr.domains d = .late t) →
      s.bx.ports = [] → s.yew.regionStale.contains d = false →
      exec (.domainAwake d) s = .next { s with
        yew := { s.yew with regionStale := s.yew.regionStale ++ [d] }
        pwr := { s.pwr with domains := tset .awake s.pwr.domains d .awake, lastWork := tset 0 s.pwr.lastWork d s.raw } }) ∧
  (∀ (s : State) (d t : Nat), d < 359 → tget SleepState.awake s.pwr.domains d = .waking t →
      t + ticksOfNs (4 * wakeNs d) ≤ s.raw →
      exec (.wakeLateCheck d) s = .next (raise { s with pwr := { s.pwr with domains := tset .awake s.pwr.domains d (.late t) } }
        .wakeLate d (recVal d)))

/-- Spill starts and stops at its thresholds; the movers and Sieve do their work when it is due and nothing when it is
not. Spilling is on when the shared pool holds at least D(SPILL_ON), off below D(SPILL_OFF) when that is no more than
D(SPILL_ON), and unchanged between. A spill move with nothing spilling does only that; with spilling on, and the first
cell of the fullest queue's run readable, it adds the run to that queue's open clod. A read-back whose head segment is
not short, or with no Subsoil cell queued, changes nothing; of a short one, with room in the shared pool, it closes
the clod for spilling, checks the frames that lie in it and moves them back. A held, readable frame older than
HOLD_SPILL_NS with one holder moves to hold clods. A Sieve pass that is due runs, and one that is not changes nothing. -/
def Obligations.StoreMoversComplete : Prop :=
  (∀ (s : State), (thresholdCells s (fld s .SPILL_ON) ≤ 256 * s.loam.sharedUsed → (noteSpill s).loam.spilling = true) ∧
      (256 * s.loam.sharedUsed < thresholdCells s (fld s .SPILL_ON) → 256 * s.loam.sharedUsed < thresholdCells s (fld s .SPILL_OFF) →
        (noteSpill s).loam.spilling = false) ∧
      (256 * s.loam.sharedUsed < thresholdCells s (fld s .SPILL_ON) → thresholdCells s (fld s .SPILL_OFF) ≤ 256 * s.loam.sharedUsed →
        noteSpill s = s)) ∧
  (∀ (s : State) (half : Nat), half < 2 → (noteSpill s).loam.spilling = false → exec (.spillOutMove half) s = .next (noteSpill s)) ∧
  (∀ (s s1 : State) (half u cl used : Nat) (c : QCell) (cs run : List QCell),
      half < 2 → noteSpill s = s → s.loam.spilling = true → spillQueue s half = some u → eligibleCells s u = c :: cs →
      run = spillRun half c.part c.pos (c :: cs) → run ≠ [] → readPlaces s c.fid [c.place] = (true, s1) →
      openClodOf s1 half u c.part c.pos = some (cl, used) →
      exec (.spillOutMove half) s = .next (fillClod s1 u cl used run (c.pos + run.length == (queuePlaces s u).length))) ∧
  (∀ (s : State) (u n c : Nat), u < 20480 → headSegment (queuePlaces s u) = some (n, c) → fld s .HEAD_WIN ≤ n + 16 →
      exec (.spillReadback u) s = .next s) ∧
  (∀ (s : State) (u : Nat), u < 20480 → headSegment (queuePlaces s u) = none → exec (.spillReadback u) s = .next s) ∧
  (∀ (s s1 : State) (u n c : Nat) (fids : List Nat), u < 20480 → headSegment (queuePlaces s u) = some (n, c) → n + 16 < fld s .HEAD_WIN →
      roomIn s .shared (tget ({} : ClodRec) s.loam.clods c).used = true →
      s1 = { s with loam := { s.loam with openClod := tfilter (fun _ x => x != c) s.loam.openClod } } →
      fids = ((queueOf s u).map (·.fid)).eraseDups.filter (fun f =>
        match frameOf s f with | some x => x.places.contains (.sub c) | none => false) →
      exec (.spillReadback u) s =
        .next (fids.foldl (fun t f => readBackFrame t f (some c)) (fids.foldl (fun t f => (readFrame t f).2) s1))) ∧
  (∀ (s s1 : State) (fid u t : Nat) (f : StoredFrame), frameOf s fid = some f → heldSince s fid = some (u, t) →
      flag s .HOLD_SPILL_EN = true → f.refs = 1 → f.shares = none → t + ticksOfNs (fld s .HOLD_SPILL_NS) < s.raw →
      readFrame s fid = (true, s1) → exec (.holdSpillMove fid) s = .next (holdCells 3 s1 fid f.inHalf u)) ∧
  (∀ (s : State) (half tier : Nat), half < 2 → tier < 2 →
      (sieveDue s half tier = true → exec (.sievePass half tier) s = .next (sievePass s half tier)) ∧
      (sieveDue s half tier = false → exec (.sievePass half tier) s = .next s))

/-- LOAD_ROUTES pends a table, the takeover swaps it in and keeps the old one, the quiet interval releases it. An owner's
route image that passes its checks, carries the next epoch and a legal T, with no previous table held and nothing
pending, pends and answers DONE. Once fabric time has reached T the pending table is current, its epoch is the
spine's, the former table is previous, the quiet interval starts and the event is counted. With no frame of the old
epoch stored for 3 x MAX_TRAV_US the previous table is released and the event is counted. -/
def Obligations.RouteTablesComplete : Prop :=
  (∀ (s : State) (c : Ncp) (img : List Byte) (t : Nat), OwnerCmd s c → routeImage s c = .ok img →
      eachOk (maskOk (dimsN s)) 0 ((List.range (beAt img 6 2)).map fun i => beAt img (32 + 4 * i) 4) = .ok () →
      beAt img 5 1 % 4 = (s.sh.epoch + 1) % 4 → checkTime s (beAt img 8 4) 4 = .ok t → s.sh.prev = none → s.sh.pend = none →
      exec (.loadRoutes c) s = done { s with sh := { s.sh with pend := some {
          epoch := beAt img 5 1 % 4, takeover := t, imgId := beAt img 16 8, entries := (List.range (beAt img 6 2)).map fun i => beAt img (32 + 4 * i) 4 } } } c 0x0302 []) ∧
  (∀ (s : State) (r : RouteTable), s.sh.pend = some r → r.takeover ≤ nowNs s →
      exec .routeTakeover s = .next (raise { s with sh := { s.sh with
        cur := some r, epoch := r.epoch, prev := some s.sh.cur, pend := none, quietFrom := some s.raw } } .routeTakeover 0 (recVal r.epoch))) ∧
  (∀ (s : State) (o : Option RouteTable) (q : Nat), s.sh.prev = some o → s.sh.quietFrom = some q → oldFrames s = 0 →
      q + ticksOfUs (3 * fld s .MAX_TRAV_US) ≤ s.raw →
      exec .epochRelease s = .next (raise { s with sh := { s.sh with prev := none, quietFrom := none } } .epochRelease 0))

/-- A marker copy leaves when its queue is chosen; a complete sweep frees its frames; a timed-out one discards them and
later frees its slot. When the calendar chooses the queue whose head is a marker copy, the copy is transmitted; a copy
of a TC7 flow is given its window. A complete sweep with no earlier one holding back queues its fenced frames in order
and leaves its slot; frames that a gap in their link's order still holds stay with it, marked done; one with no fenced
frame yet is only remembered as done. A sweep that is not complete SWEEP_TMO_US after its start keeps its slot as
timed out with no frame held, and its slot is free SWEEP_TMO_US later. -/
def Obligations.SweepsComplete : Prop :=
  (∀ (s : State) (p u l : Nat) (e : QEnt) (f : StoredFrame) (k : Option Nat), p < 1280 → u ≠ 14 → headOf s p u = some (.first l e f) →
      f.ffh.kind = 8 → opportunity s p = true → calChoice s p (eligibleQueues s p) = some (u, k) →
      exec (.markerCopyTransmit p u) s = .next (transmit s p)) ∧
  (∀ (s : State) (p : Nat), p < 1280 → exec (.markerCopyTransmit p 14) s = .next (releaseTc7 s p)) ∧
  (∀ (s : State) (k : Nat) (w : Sweep), tfind s.sh.sweeps k = some w → w.timedOut = none → sweepReady s k w = true → earlierHeld s k = false →
      (w.fenced ≠ [] → (∀ f ∈ w.fenced, heldForOrder s f = false) →
        exec (.sweepComplete k) s = .next (w.fenced.foldl queueFrame { s with sh := { s.sh with sweeps := tdel s.sh.sweeps k } })) ∧
      (w.fenced = [] → exec (.sweepComplete k) s = .next { s with sh := { s.sh with sweeps := tins s.sh.sweeps k { w with done := true } } }) ∧
      (∀ (held : List Nat), held = w.fenced.filter (heldForOrder s) → held ≠ [] →
        exec (.sweepComplete k) s = .next ((w.fenced.filter fun f => !heldForOrder s f).foldl queueFrame
          { s with sh := { s.sh with sweeps := tins s.sh.sweeps k { w with done := true, fenced := held } } }))) ∧
  (∀ (s : State) (k : Nat) (w : Sweep), tfind s.sh.sweeps k = some w → w.timedOut = none → sweepReady s k w = false →
      w.started + sweepTmo s ≤ s.raw →
      ∃ t, exec (.sweepTimeout k) s = .next t ∧ tfind t.sh.sweeps k = some { w with timedOut := some s.raw, fenced := [], copies := [] } ∧
        t.raw = s.raw) ∧
  (∀ (s : State) (k t : Nat) (w : Sweep), tfind s.sh.sweeps k = some w → w.timedOut = some t → t + sweepTmo s ≤ s.raw →
      exec (.sweepSlotRelease k) s = .next { s with sh := { s.sh with sweeps := tdel s.sh.sweeps k } })

/-- Echo frames, throttle increases and congestion maps happen when they are due. The oldest echo of a half that has
waited ECE_HOLD_NS leaves as an echo frame with ECE set back to the sender, or acts at once on the sender's down-port
when the sender is behind this spine. A throttled down-port class without an echo for AI_US rises by AI, at most to 1.
A map period that is over restarts the accumulators and the period. A received map that fits Table 5.4 is kept with
its time and with the map before it, which still counts in this cycle; a map 4 periods old is stale, counted once;
CMAP_READ answers the map of its dimension. -/
def Obligations.CongestionCommandsComplete : Prop :=
  (∀ (s : State) (half : Nat) (e : EchoEnt) (t : List EchoEnt), half < 2 → tget [] s.sh.echo half = e :: t →
      e.at_ + ticksOfNs (fld s .ECE_HOLD_NS) ≤ s.raw →
      (addrSpine e.src ≠ selfSpine s →
        exec (.echoFrameSend half) s = .next (spawnUnicast { s with sh := { s.sh with echo := tset [] s.sh.echo half t } } half
          { tc := e.tc, part := e.part, src := e.dst, dst := e.src, ece := true } [])) ∧
      (∀ p, addrSpine e.src = selfSpine s → (dportLook s half (addrDown e.src)).hit = some p → (dportLook s half (addrDown e.src)).bads = [] →
        exec (.echoFrameSend half) s = .next (applyEcho { s with sh := { s.sh with echo := tset [] s.sh.echo half t } } p e.tc))) ∧
  (∀ (s : State) (p tc : Nat), p < 1280 → tc < 8 → (thrOf s p tc).r ≠ 65536 → (thrOf s p tc).aiFrom + ticksOfUs (fld s .AI_US) ≤ s.raw →
      exec (.throttleIncrease p tc) s = .next (setThr s p tc { thrOf s p tc with
        r := min 65536 ((thrOf s p tc).r + fld s .AI), tokens := thrLevel s p (thrOf s p tc), tokensAt := s.raw, aiFrom := s.raw
        lastInc := some (s.raw, (thrOf s p tc).r) })) ∧
  (∀ s : State, flag s .CMAP_EN = true → s.sh.cmapSentAt + ticksOfUs (fld s .CMAP_PERIOD_US) ≤ s.raw →
      ∃ t, exec .cmapSend s = .next t ∧ t.sh.cmapAcc = [] ∧ t.sh.cmapSentAt = s.raw) ∧
  (∀ (s s1 : State) (fid : Nat) (f : StoredFrame), takeKind s fid 0xD = .ok (f, s1) → cmapValid f.data = true → f.inDim ≤ 13 →
      exec (.cmapReceive fid) s = .next { s1 with sh := { s1.sh with
        cmapIn := tins s1.sh.cmapIn f.inDim { payload := f.data, receivedAt := s.raw
                                              before := if (tget {} s.sh.cmapIn f.inDim).receivedAt = s.raw then (tget {} s.sh.cmapIn f.inDim).before
                                                else ((tget {} s.sh.cmapIn f.inDim).payload, (tget {} s.sh.cmapIn f.inDim).receivedAt) } } }) ∧
  (∀ (s : State) (d p : Nat) (ps : List Nat), d < 14 → d < dimsN s → (tget {} s.sh.cmapIn d).stale = false →
      (tget {} s.sh.cmapIn d).receivedAt + ticksOfUs (4 * fld s .CMAP_PERIOD_US) ≤ s.raw → portsOfDim s d = p :: ps →
      exec (.cmapStale d) s = .next (raise { s with sh := { s.sh with
        cmapIn := tins s.sh.cmapIn d { tget {} s.sh.cmapIn d with stale := true } } } .cmapStale p (recVal d))) ∧
  (∀ (s : State) (c : Ncp) (d : Nat), OwnerCmd s c → c.body = beBytes 1 d → d < 14 →
      exec (.cmapRead c) s = done s c 0x0A07 (tget {} s.sh.cmapIn d).payload)

/-- LOAD_TABLE applies its records in order or keeps none; learning, ageing, parity repair and record returns do their
step. An owner's table image of kind 1 to 11 with its kind unlocked, whose records pass in order, leaves exactly their
effects and answers DONE, and a load of prefixes or next hops also looks up the next hops of the virtual links again;
TABLE_READ answers the entry found, or zeros. The learn engine writes a new MAC with the current age stamp and charges
its port; an age period advances the age and, with AGE_EN = 0, evicts nothing; the repair of an entry that is not a
learned MAC of bad parity puts the entry's good copy back; a group record that has waited 1 us is a spare again. -/
def Obligations.ForwardingTablesComplete : Prop :=
  (∀ (s t : State) (c : Ncp) (img : List Byte) (tk n : Nat), OwnerCmd s c → flag s .TDMA_LOCK = false →
      readImage c 0 0x4E5A000A 1 false = .ok img → tk = beAt img 5 1 → n = beAt img 8 4 → beAt img 4 1 = 1 → 1 ≤ tk → tk ≤ 11 →
      beAt img 6 2 = 0 → beAt img 24 4 = 0 → 1 ≤ n → n ≤ 1048576 → img.length = 32 + n * (4 + (tabLens tk).1 + (tabLens tk).2) →
      bitAt (fld s .TLOCK) (tk - 1) = false →
      loadRecs tk 0 (chunksOf (4 + (tabLens tk).1 + (tabLens tk).2) n (img.drop 32)) s = .ok t →
      exec (.loadTable c) s = done (if tk = tkV4 ∨ tk = tkV6 ∨ tk = tkNh then refreshHops t else t) c 0x0301 []) ∧
  (∀ (s : State) (c : Ncp) (tk half : Nat) (k : List Byte), OwnerCmd s c → 1 ≤ tk → tk ≤ 11 → half ≤ 1 →
      c.body = beBytes 1 tk ++ beBytes 1 half ++ k → k.length = (tabLens tk).1 → keyOk tk k = true → keyInRange tk k = true →
      exec (.tableRead c) s = done s c 0x0303 (match readEntry (replica s half) tk k with
        | some b => beBytes 1 1 ++ b
        | none => zeroBytes (1 + (tabLens tk).2))) ∧
  (∀ (s u : State) (q : LearnReq) (qs : List LearnReq), s.laurel.learnQ = q :: qs → macAny s q.key = none →
      lrnExcess { s with laurel := { s.laurel with learnQ := qs } } q.port = false →
      writeLearned { s with laurel := { s.laurel with learnQ := qs } }
        { key := q.key, port := q.port, static := false, stamp := s.laurel.age, lrnPort := q.port } = some u →
      exec .learnProcess s = .next (chargeLearn u q.port (· + 1))) ∧
  (∀ (s : State), s.laurel.agedAt + ticksOfS (fld s .AGE_PERIOD_S) ≤ s.raw → flag s .AGE_EN = false →
      exec .agePeriod s = .next { s with laurel := { s.laurel with age := (s.laurel.age + 1) % 256, agedAt := s.raw } }) ∧
  (∀ (s : State) (tk i : Nat),
      ((tfind s.laurel.r0.mac (placeOfIndex tkMac i)).filter macDrop = none ∨ tk ≠ tkMac →
        exec (.parityRepair 0 tk i) s = .next { s with laurel := { s.laurel with r0 := repairIn tk i s.laurel.r0 } }) ∧
      ((tfind s.laurel.r1.mac (placeOfIndex tkMac i)).filter macDrop = none ∨ tk ≠ tkMac →
        exec (.parityRepair 1 tk i) s = .next { s with laurel := { s.laurel with r1 := repairIn tk i s.laurel.r1 } })) ∧
  (∀ (r : Replica) (tk i : Nat), tk ≠ 2 → tk ≠ tkMac → repairIn tk i r = markIn false tk i r) ∧
  (∀ (s : State) (n a b : Nat), tfind s.laurel.r0.recWait n = some a → tfind s.laurel.r1.recWait n = some b →
      a + ticksOfUs 1 ≤ s.raw → b + ticksOfUs 1 ≤ s.raw →
      exec (.groupRecordReturn n) s = .next { s with laurel := { s.laurel with
        r0 := { s.laurel.r0 with recWait := tdel s.laurel.r0.recWait n }
        r1 := { s.laurel.r1 with recWait := tdel s.laurel.r1.recWait n } } })

/-- A program image of the owner is kept; a shadow run ends in agreement, in a mismatch or by its timeout; a token's
combine times out. An owner's program image of slot 16 or above, well-structured, unlocked and with no user, is kept
and DONE. A shadow run whose chunk has had its final read ends: it is counted on the engine, and where its results or
the partner's differ the mismatch is counted, logged at both engines and raised as KAO_SHADOW_MISMATCH. SHADOW_TMO_US
after the final read it is skipped. A token that has waited COMBINE_TMO_US since its dispatch raises KAO_COMBINE_TMO
at its combine engine and is abandoned with MEMBER_TIMEOUT. -/
def Obligations.CombineEnginesComplete : Prop :=
  (∀ (s : State) (c : Ncp) (img : List Byte), OwnerCmd s c → readImage c 0 0x4E5A0018 1 false = .ok img → kprogEncodingOk img = true →
      flag s .PROG_LOCK = false → 16 ≤ beAt img 5 1 → kStructOk [] ((kprogInstrs img).map kInstr) = true → progUsers s (beAt img 5 1) = 0 →
      exec (.loadKprog c) s = done { s with kao := { s.kao with
          progs := tins s.kao.progs (beAt img 5 1) { instrs := kprogInstrs img, imgId := beAt img 16 8, image := img } } } c 0x0507 []) ∧
  (∀ (s s2 : State) (k : Nat) (r : ShadowRun), k < 16 → readRun s k = some r →
      s2 = setKEng (endShadow s k r) k { kEng (endShadow s k r) k with
        shadowRuns := ((kEng (endShadow s k r) k).shadowRuns + 1) % 2 ^ 32 } →
      (r.lanes = r.primary → exec (.shadowRunComplete k false) s = .next s2) ∧
      (∀ (differs : Bool) (s3 : State), differs = true ∨ r.lanes ≠ r.primary →
        s3 = setKEng s2 k { kEng s2 k with
          shadowMismatch := min ((kEng s2 k).shadowMismatch + 1) 65535, log := kaoRecord s2 k 2 (k ^^^ 1) r.coll r.chunk } →
        exec (.shadowRunComplete k differs) s =
          .next (raise (setKEng s3 (k ^^^ 1) { kEng s3 (k ^^^ 1) with log := kaoRecord s2 (k ^^^ 1) 3 k r.coll r.chunk })
            .kaoShadowMismatch k (recStream r.coll r.chunk)))) ∧
  (∀ (s : State) (k t : Nat) (r : ShadowRun), k < 16 → readRun s k = some r → r.readAt = some t →
      t + ticksOfUs (fld s .SHADOW_TMO_US) ≤ s.raw → exec (.shadowTimeout k) s = .next (skipShadow s k r)) ∧
  (∀ (s : State) (k : Nat) (t : Token), tfind s.marl.tokens k = some t → t.phase = .waiting →
      t.dispAt + ticksOfUs (fld s .COMBINE_TMO_US) ≤ s.raw →
      exec (.combineTimeout k) s = .next (abandonToken (raise s .kaoCombineTmo (combineEngine t) (recTok t)) k .memberTimeout))

/-- Operators load and drop; token pieces assemble; whole tokens route; expert outputs combine; bases move off retired
pages. A tenant's operator image of its own partition that is legal, unlocked, unused and fits both halves is placed
and DONE; dropping an unused operator of its own is DONE. With the operator's Marl groups awake, the first good piece
of a token opens it, a later one is filed under it, and its last makes it whole; an incomplete token is abandoned
ASM_TMO_US after its first piece. A whole token with finite logits and no failed check is dispatched to its K best
experts with their gate weights. A piece of an expected expert output at an engine awake adds its elements, weighted
by the gate weight of its slot, to the sum of that slot, and the last piece expected finishes the combine. A basis
tile on a retired page moves to free pages of its half. -/
def Obligations.RouterEngineComplete : Prop :=
  (∀ (s t : State) (c : Ncp) (p : Nat) (img : List Byte), TenantCmd s c p → imgSource c 0 (flag s .MDMA_LOCK) 16777216 = .ok img →
      mPart (mopOfImage img) = p → mopEncodingOk img = true → flag s .MW_LOCK = false → mopOf s (beAt img 6 1) = none →
      (mKind (mopOfImage img) = 1 → routerOf s p (mLayer (mopOfImage img)) (mRop (mopOfImage img)) = none) →
      placeMop s (beAt img 6 1) (mopOfImage img) (img.length - 64) = some t →
      exec (.loadMop c) s = done (extendMeas8 t p [img]) c 0x0508 []) ∧
  (∀ (s : State) (c : Ncp) (p id : Nat) (m : Mop), TenantCmd s c p → c.body = beBytes 1 id → id < 256 → mopOf s id = some m → mPart m = p →
      flag s .MW_LOCK = false → mopInUse s id = false → exec (.dropMop c) s = done (dropMop s id) c 0x0509 []) ∧
  (∀ (s s0 s1 : State) (fid id : Nat) (f : StoredFrame) (m : Mop) (d : Tensor), takeHeld s fid 4 = some (f, s0) →
      routerOf s0 f.ffh.part f.ffh.layer (bitsOf f.ffh.oper 15 12) = some (id, m) → mopAwake s id f.inHalf (isSplit m) = true →
      readFrame (wakeMop s0 id f.inHalf (isSplit m)) fid = (true, s1) → m.failed = false → f.ffh.fmt ≠ 0 → f.ffh.fmt ≤ 7 →
      parsePayload f.ffh.fmt f.ffh.scl f.data = .ok d → f.ffh.oper % 8 < dataPieces m → d.elems.length = pieceLen m (f.ffh.oper % 8) →
      (∀ (k : Nat) (t : Token), tokenOf s1 f.ffh.part f.ffh.src f.ffh.collId f.ffh.chunk f.ffh.layer (bitsOf f.ffh.oper 15 12) = some (k, t) →
        t.phase = .assembling → t.pieces.any (·.1 == f.ffh.oper % 8) = false →
        exec (.tokenPieceArrival fid) s = .next (setTok s1 k { t with
          pieces := t.pieces ++ [(f.ffh.oper % 8, fid)], phase := if t.pieces.length + 1 = dataPieces m then .whole else .assembling })) ∧
      (tokenOf s1 f.ffh.part f.ffh.src f.ffh.collId f.ffh.chunk f.ffh.layer (bitsOf f.ffh.oper 15 12) = none →
      ∃ t, exec (.tokenPieceArrival fid) s = .next (setTok t s1.marl.nextTok
          { part := f.ffh.part, src := f.ffh.src, collId := f.ffh.collId, chunk := f.ffh.chunk, layer := f.ffh.layer
            rop := bitsOf f.ffh.oper 15 12, mop := id, half := f.inHalf, tc := f.ffh.tc, firstAt := s.raw
            pieces := [(f.ffh.oper % 8, fid)], phase := if dataPieces m = 1 then .whole else .assembling }) ∧
        t.marl.nextTok = s1.marl.nextTok + 1 ∧ t.loam = s1.loam)) ∧
  (∀ (s : State) (k : Nat) (t : Token), tfind s.marl.tokens k = some t → t.phase = .assembling →
      t.firstAt + ticksOfUs (fld s .ASM_TMO_US) ≤ s.raw →
      exec (.assemblyTimeout k) s = .next (abandonToken (raise s .marlAsmTmo (opScope t.mop t.half) (recTok t)) k .memberTimeout)) ∧
  (∀ (s s1 s2 : State) (k : Nat) (t : Token) (m0 m : Mop), tfind s.marl.tokens k = some t → t.phase = .whole →
      mopOf s t.mop = some m0 → mopAwake s t.mop t.half (isSplit m0) = true → s1 = readWeights s t.mop t.half t.collId t.chunk →
      mopOf s1 t.mop = some m → m.failed = false →
      checkRows s1 t.mop t.half t.collId t.chunk m [tokenElems s1 m t] none [] = (none, s2) →
      (∀ z ∈ tokenLogits m (tokenElems s1 m t), finite32 z = true) →
      exec (.tokenRouted k none []) s =
        (let slots := topK (tokenLogits m (tokenElems s1 m t)) (mK m)
         let ws := fillFree (gateWeights m (tokenLogits m (tokenElems s1 m t)) slots)
           (setMop s2 t.mop { m with routed := (m.routed + 1) % 2 ^ 64 })
         .next (dispatch ws.2 k m t slots ws.1))) ∧
  (∀ (s s0 s1 : State) (fid k j : Nat) (f : StoredFrame) (t : Token) (m : Mop) (d : Tensor) (a : Token × State) (fault : Bool),
      takeHeld s fid 5 = some (f, s0) →
      tokenOf s0 f.ffh.part f.ffh.dst f.ffh.collId f.ffh.chunk f.ffh.layer (bitsOf f.ffh.oper 15 12) = some (k, t) → mopOf s0 t.mop = some m →
      (onesOf 8 t.expect).find? (fun j => t.exps.getD j 0 == bitsOf f.ffh.oper 11 3) = some j → t.phase = .waiting →
      engineAwake s0 (combineEngine t) = true →
      readFrame s0 fid = (true, s1) → f.ffh.fmt ≠ 0 → f.ffh.fmt ≤ 7 → parsePayload f.ffh.fmt f.ffh.scl f.data = .ok d →
      f.ffh.oper % 8 < dataPieces m → d.elems.length = pieceLen m (f.ffh.oper % 8) → t.got.contains (j, f.ffh.oper % 8) = false →
      a = addExpert s1 k m t j (f.ffh.oper % 8) fid d →
      a.1.got = t.got ++ [(j, f.ffh.oper % 8)] ∧ a.1.phase = .waiting ∧ a.1.ws = t.ws ∧
      a.1.sums = tset {} t.sums j ((tget {} t.sums j).add (mH m) (f.ffh.oper % 8 * mPieceElems m) (d.addends [dec32 (t.ws.getD j 0)])) ∧
      (combineReady m a.1 = false → exec (.expertOutArrival fid fault) s = .next a.2) ∧
      (combineReady m a.1 = true → exec (.expertOutArrival fid fault) s = .next (finishCombine a.2 k m a.1 fault))) ∧
  (∀ (s : State) (a p b n : Nat) (t : Tile), a < 128 →
      s.marl.tiles.find? (fun t => t.array == a && t.pages.contains p && s.marl.retired.contains (a * 128 + p) &&
        (match mopOf s t.mop with | some m => mKind m == 2 | none => false)) = some t → n = t.pages.length →
      roomiest { s.marl with tiles := s.marl.tiles.filter (· != t) } (a / 64) n (fun _ => true) = some b →
      ∃ u : State, exec (.basisRewriteDone a p) s = .next { s with marl := { s.marl with tiles := u.marl.tiles, errs := u.marl.errs } } ∧
        u.marl.tiles = s.marl.tiles.map fun x => if x == t then { t with
          array := b, pages := (freePages { s.marl with tiles := s.marl.tiles.filter (· != t) } b).take n } else x)

/-- Lists, templates and queues: loading, opening, posting, resuming, skipping, flushing, closing and admitting the head.
A tenant's list image that is legal, unlocked, unused and fits is kept under its partition and number, and DONE; so is
a legal template. Opening a closed queue gives it to the tenant; posting legal descriptors appends all of them; on a
stopped queue of its own RESUME starts it, SKIP also drops its head, FLUSH drops every waiting descriptor, and CLOSE,
with no admitted collective, removes it. The head of a running queue whose wait is over is admitted, or stops the
queue with the code of its failure. -/
def Obligations.CollectiveSetupCompletes : Prop :=
  (∀ (s : State) (c : Ncp) (p : Nat) (img : List Byte) (l : TList), TenantCmd s c p → readImage c 0 0x4E5A001A 1 false = .ok img →
      beAt img 8 2 % 4096 = p → listHeadOk img = true →
      l = { lver := beAt img 10 2, imgId := beAt img 16 8, members := if beAt img 5 1 = 1 then listMembers img else [],
            nodes := if beAt img 5 1 = 1 then [] else listNodes img } →
      l.members.all (memberOk s) = true → (∀ i x, l.nodes[i]? = some x → nodeOk l.nodes.length i x = true ∧ x.spine < 2 ^ dimsN s) →
      flag s .LIST_LOCK = false → listShapeOk l = true →
      (s.tilth.colls.any fun e => e.2.part == p && (dMlist e.2.desc == beAt img 6 2 || dSlist e.2.desc == beAt img 6 2)) = false →
      listEntries s (p * 65536 + beAt img 6 2) (·.members.length) + l.members.length ≤ 2097152 →
      listEntries s (p * 65536 + beAt img 6 2) (·.nodes.length) + l.nodes.length ≤ 262144 →
      exec (.loadList c) s = done (extendMeas8 { s with tilth := { s.tilth with
        lists := tins s.tilth.lists (p * 65536 + beAt img 6 2) l } } p [img]) c 0x0501 []) ∧
  (∀ (s : State) (c : Ncp) (p q : Nat), TenantCmd s c p → c.body = beBytes 1 q → q < 128 → tfind s.tilth.queues q = none →
      exec (.queueOpen c) s = done { s with tilth := { s.tilth with queues := tins s.tilth.queues q { part := p } } } c 0x0502 []) ∧
  (∀ (s : State) (c : Ncp) (p q n : Nat) (x : TQueue) (ds : List (List Byte)), TenantCmd s c p → q < 128 → 1 ≤ n → n < 65536 → ds.length = n →
      (∀ d ∈ ds, d.length = 64 ∧ dPart d = p ∧ descOk s d = true ∧
        (dWaitV d = true → ∀ y, tfind s.tilth.queues (dWaitQ d) = some y → y.part = p)) →
      c.body = beBytes 1 q ++ beBytes 2 n ++ ds.flatten → tfind s.tilth.queues q = some x → x.part = p → x.descs.length + n ≤ 512 →
      exec (.collPost c) s = done { s with tilth := { s.tilth with
        queues := tins s.tilth.queues q { x with descs := x.descs ++ ds } } } c 0x0503 []) ∧
  (∀ (s : State) (c : Ncp) (p q : Nat) (x : TQueue), TenantCmd s c p → q < 128 → tfind s.tilth.queues q = some x → x.part = p → x.stopped = true →
      (c.body = beBytes 1 q ++ [1] → exec (.queueResume c) s = done { s with tilth := { s.tilth with
        queues := tins s.tilth.queues q { x with stopped := false } } } c 0x0504 []) ∧
      (c.body = beBytes 1 q ++ [2] → exec (.queueSkip c) s = done { s with tilth := { s.tilth with
        queues := tins s.tilth.queues q { x with descs := x.descs.drop 1, stopped := false } } } c 0x0504 []) ∧
      (c.body = beBytes 1 q ++ [3] → exec (.queueFlush c) s = done { s with tilth := { s.tilth with
        queues := tins s.tilth.queues q { x with descs := [] } } } c 0x0504 []) ∧
      (c.body = beBytes 1 q ++ [4] → (s.tilth.colls.any fun e => e.2.queue == some q) = false →
        exec (.queueClose c) s = done { s with tilth := { s.tilth with queues := tdel s.tilth.queues q } } c 0x0504 [])) ∧
  (∀ (s : State) (c : Ncp) (p : Nat), TenantCmd s c p → c.body.length = 68 → dPart (c.body.drop 4) = p → descStatic (c.body.drop 4) = true →
      dColl (c.body.drop 4) = 0 → beAt (c.body.drop 4) 38 6 = 0 → flag s .TPL_LOCK = false → s.tilth.templates.length < 256 →
      (s.tilth.colls.any fun e => e.2.queue.isNone && e.2.part == p && e.2.layer == beAt c.body 0 2 && e.2.oper == beAt c.body 2 2) = false →
      ∃ t, exec (.loadTemplate c) s = done t c 0x0506 [] ∧ t.tilth = { s.tilth with
        templates := (s.tilth.templates.filter fun t => !(t.part == p && t.layer == beAt c.body 0 2 && t.oper == beAt c.body 2 2)) ++
          [{ part := p, layer := beAt c.body 0 2, oper := beAt c.body 2 2, desc := c.body.drop 4 }] }) ∧
  (∀ (s s0 : State) (q : Nat) (x : TQueue) (d : Desc) (rest : List Desc), q < 128 → tfind s.tilth.queues q = some x → x.descs = d :: rest →
      x.stopped = false → waitOver s d = true → admittedIn s (q / 64) < 4096 → s0 = readGroup s d (q / 64) →
      (∀ u, admitColl { s0 with tilth := { s0.tilth with queues := tins s0.tilth.queues q { x with descs := rest } } } d (some q) (q / 64) 0 0 = .ok u →
        exec (.queueHeadAdmit q) s = .next u) ∧
      (∀ e, admitColl { s0 with tilth := { s0.tilth with queues := tins s0.tilth.queues q { x with descs := rest } } } d (some q) (q / 64) 0 0 = .error e →
        exec (.queueHeadAdmit q) s = .next { s0 with tilth := { s0.tilth with
          queues := tins s0.tilth.queues q { x with stopped := true, lastStatus := codeNum e } } }))

/-- Pre-waking, contributions, finished inputs, ARRIVE, NODE_DONE, END, ABORT, the deadline and COLL_STATUS. From START -
PREWAKE_NS the engines of a collective without a Marl operator are woken once. A matching contribution is filed with
its piece, and when the piece is whole and its engine awake, is noted and (in an unordered reduction) added. When all
inputs of a chunk of an unordered reduction are in at its root, the engine is awake, and the residue check of an exact
one agrees, the chunk is finalised. ARRIVE of a needed member is noted and the barrier checked; NODE_DONE is noted at
the coordinator, which then tries to complete; END ends the collective; an ABORT frame that is not the last of its
list is noted and fails the collective; the last one ends it, the coordinator telling all the ranks. Past its deadline
a failed collective ends, and another that is no TRANSFORM and has not sent its results fails with MEMBER_TIMEOUT.
COLL_STATUS answers DONE; it changes nothing but the count of free values. -/
def Obligations.CollectiveProgressCompletes : Prop :=
  (∀ (s : State) (k : Nat) (c : Coll), collOf s k = some c → c.prewoken = false → c.start ≤ nowNs s + fld s .TL_PREWAKE_PREWAKE_NS →
      dMopV c.desc = false →
      exec (.enginePrewake k) s = .next (setColl ((onesOf 16 c.engMask).foldl (fun u e => wakeDomain u (327 + e)) s) { c with prewoken := true })) ∧
  (∀ (s s0 s1 : State) (fid k key fmt len : Nat) (f : StoredFrame) (c : Coll) (x : Tensor × Nat) (colBad : List Nat), takeHeld s fid 1 = some (f, s0) →
      k = collKey f.ffh.part f.ffh.collId → collOf s0 k = some c → c.failed = none → entersHere s0 c f.ffh = false →
      readFrame s0 fid = (true, s1) → 16 ≤ f.data.length → (trailOf f.data).fp = fprint c.desc →
      pieceFor s1 c f.ffh (trailOf f.data) = some (key, fmt, len) → key < 2 ^ 25 → c.finished.contains f.ffh.chunk = false →
      (pieceOf (chunkOf c f.ffh.chunk) key).done = false → f.ffh.fmt = fmt → contribOf f = .ok x →
      (trailOf f.data).off + (trailOf f.data).n ≤ len → (pieceOf (chunkOf c f.ffh.chunk) key).got + (trailOf f.data).n ≤ len →
      (∀ u, fileFrame s1 c f.ffh.chunk key fid (trailOf f.data).n len = (false, u) → exec (.contribArrival fid none colBad) s = .next u) ∧
      (∀ u, fileFrame s1 c f.ffh.chunk key fid (trailOf f.data).n len = (true, u) → pieceWaits s c f.ffh.chunk key = none →
        dReduces c.desc = true → dOrdered c.desc = false →
        exec (.contribArrival fid none colBad) s = .next (addPiece (notePiece u k f.ffh.chunk key) k f.ffh.chunk key))) ∧
  (∀ (s : State) (k chunk : Nat) (c : Coll) (rowBad : Option Nat) (colBad : List Nat), collOf s k = some c → myNode s (treeOf s c) = some 0 →
      c.failed = none → c.finished.contains chunk = false → dReduces c.desc = true → dOrdered c.desc = false →
      chunk < chunkCount c.desc (membersOf s c).length → worksOn s c chunk = true → inputsIn s c chunk = true →
      engineAwake s (chunkEngine c chunk) = true → (dExact c.desc = true → chunkResidueOk s c chunk = true) →
      exec (.chunkInputsComplete k chunk false rowBad colBad) s = .next (finalise s c chunk rowBad colBad)) ∧
  (∀ (s s1 : State) (fid : Nat) (f : StoredFrame) (c : Coll), takeKind s fid 6 = .ok (f, s1) →
      collOf s1 (collKey f.ffh.part f.ffh.collId) = some c → c.key = collKey f.ffh.part f.ffh.collId → c.failed = none →
      (beAt f.data 0 1 = 1 → dOpc c.desc = 5 → c.arrived.contains (beAt f.data 4 4) = false → (neededMembers s1 c).contains (beAt f.data 4 4) = true →
        exec (.arriveReceived fid) s = .next (barrierCheck (notePiece
          (setColl s1 { c with arrived := c.arrived ++ [beAt f.data 4 4] }) c.key 0 (beAt f.data 4 4)) c.key)) ∧
      (beAt f.data 0 1 = 2 → (∃ i, coordOf s1 (treeOf s1 c) = some i ∧ myNode s1 (treeOf s1 c) = some i) →
        beAt f.data 4 4 < (treeOf s1 c).nodes.length →
        exec (.nodeDoneReceived fid) s = .next (tryComplete (setColl s1 { c with nodeDone := tins c.nodeDone (beAt f.data 4 4) (beAt f.data 1 1) }) c.key)) ∧
      (beAt f.data 0 1 = 4 → exec (.endReceived fid) s = .next (endColl s1 c (qualifier c))) ∧
      (beAt f.data 0 1 = 5 → f.ffh.last = false → exec (.abortReceived fid) s = .next (setColl s1 { c with
        failed := some (beAt f.data 1 1)
        abortRanks := c.abortRanks ++ (List.range (beAt f.data 12 2)).map fun i => beAt f.data (16 + 4 * i) 4 })) ∧
      (beAt f.data 0 1 = 5 → f.ffh.last = true → coordOf s1 (treeOf s1 c) ≠ myNode s1 (treeOf s1 c) →
        exec (.abortReceived fid) s = .next (endColl s1 c (beAt f.data 1 1))) ∧
      (beAt f.data 0 1 = 5 → f.ffh.last = true → (∃ i, coordOf s1 (treeOf s1 c) = some i ∧ myNode s1 (treeOf s1 c) = some i) →
        exec (.abortReceived fid) s = .next (announceFail s1 c (beAt f.data 1 1) (beAt f.data 2 1 / 16) (beAt f.data 4 4) (beAt f.data 8 4)
          (c.abortRanks ++ (List.range (beAt f.data 12 2)).map fun i => beAt f.data (16 + 4 * i) 4)))) ∧
  (∀ (s : State) (k : Nat) (c : Coll), collOf s k = some c → c.start + dTmo c.desc * 1000 ≤ nowNs s →
      (∀ st, c.failed = some st → exec (.collDeadline k) s = .next (endColl s c st)) ∧
      (c.failed = none → dOpc c.desc ≠ 6 → c.sentDone = false →
        exec (.collDeadline k) s = .next (failColl (raise s .collTimeout c.half (recColl c.part c.id 0 c.layer c.oper)) k
          { code := .memberTimeout, rank := (missingNow s c).2.headD noArg, chunk := (missingNow s c).1.getD noArg, ranks := (missingNow s c).2 }))) ∧
  (∀ (s : State) (c : Ncp) (p id : Nat) (x : Coll), TenantCmd s c p → c.body = beBytes 4 id → id < 2 ^ 32 → collOf s (collKey p id) = some x →
      ∃ t b r, exec (.collStatus c) s = done t c 0x0505 (beBytes 1 b ++ beBytes 1 (x.failed.getD (qualifier x)) ++ beBytes 2 x.engMask ++
        beBytes 4 x.finished.length ++ beBytes 4 r ++ beBytes 4 (x.lagMax / 1000)) ∧ t = { s with freeCtr := t.freeCtr })

/-- Broadcast chunks, acknowledgments, resends, digests and the repair of the tree. A good chunk that the node lacks goes
to every child, is cached and is acknowledged upward when due. A child's BC_ACK replaces what is known of it. A chunk
that a child's acknowledgment shows missing and that was sent more than BC_RESEND_US ago is sent again. The first
DIGEST is kept, passed to the children, acknowledged and compared. A REPAIR_REQ outside a broadcast is adopted and
answered with ADOPT; the ADOPT from the alternate asked ends the search; without one in BC_REPAIR_TMO_US the next
alternate left is asked. -/
def Obligations.BroadcastCompletes : Prop :=
  (∀ (s s0 s1 : State) (fid : Nat) (f : StoredFrame) (c : Coll), takeHeld s fid 3 = some (f, s0) →
      collOf s0 (collKey f.ffh.part f.ffh.collId) = some c → dOpc c.desc = 4 → c.failed = none → readFrame s0 fid = (true, s1) →
      16 ≤ f.data.length → beAt (f.data.drop (f.data.length - 16)) 0 8 = fprint c.desc →
      beAt (f.data.drop (f.data.length - 16)) 8 8 = crc64 (f.data.take (f.data.length - 16)) → c.finished.contains f.ffh.chunk = false →
      f.ffh.chunk < vecChunks c.desc → f.data.length - 16 = chunkLen c.desc f.ffh.chunk →
      ∃ c1 t, exec (.bcastChunkArrival fid) s = .next (verifyDigest t (collKey f.ffh.part f.ffh.collId)) ∧
        c1 = { c with
          cache := tins c.cache f.ffh.chunk (f.data.take (f.data.length - 16)), finished := c.finished ++ [f.ffh.chunk]
          sentAt := c.kids.foldl (fun t e => tins t (sentKey e.1 f.ffh.chunk) s.raw) c.sentAt } ∧
        (c.kids = [] → c1.finished.length % 256 ≠ 0 → c1.finished.length ≠ vecChunks c.desc → t = setColl (releaseRef s1 fid) c1)) ∧
  (∀ (s s1 : State) (fid : Nat) (f : StoredFrame) (c : Coll), takeKind s fid 6 = .ok (f, s1) →
      collOf s1 (collKey f.ffh.part f.ffh.collId) = some c → c.key = collKey f.ffh.part f.ffh.collId →
      (∀ kid, beAt f.data 0 1 = 7 → kidOf s1 c f.ffh.src = some kid →
        exec (.bcAckReceived fid) s = .next (checkDone (setColl s1 { c with kids := tins c.kids kid (ackOf f.data) }) c.key)) ∧
      (beAt f.data 0 1 = 10 → dOpc c.desc = 4 → c.digest = none → c.failed = none → c.kids = [] →
        ∃ c1, c1 = { c with digest := some ((List.range 12).map fun i => beAt f.data (16 + 4 * i) 4) } ∧
          exec (.digestReceived fid) s = .next (verifyDigest (ackParent (setColl s1 c1) c1) c.key)) ∧
      (∀ me, beAt f.data 0 1 = 8 → dOpc c.desc ≠ 4 → c.failed = none → myNode s1 (treeOf s1 c) = some me →
        beAt f.data 4 4 % 65536 < (treeOf s1 c).nodes.length →
        ∃ c1 u, c1 = { c with repaired := true, reordered := c.reordered || dOrdered c.desc } ∧
          u = adopt (setColl s1 c1) c (beAt f.data 4 4 % 65536) me ∧
          exec (.repairReqReceived fid) s = .next (tryRestart (raise (sendCtrl u c1
            (spineAddr u (nodeSpine (treeOf s1 c) (beAt f.data 4 4 % 65536))) 9 0 0 me noArg []) .bcAdopt c.half
            (recColl c.part c.id 0 c.layer c.oper)) c.key)) ∧
      (∀ o me, beAt f.data 0 1 = 9 → c.orphan = some o → myNode s1 (treeOf s1 c) = some me → beAt f.data 4 4 = o.alt →
        exec (.adoptReceived fid) s = .next (adopt (setColl s1 { c with orphan := none, repaired := true, reordered := c.reordered || dOrdered c.desc })
          c me o.alt))) ∧
  (∀ (s : State) (k kid n : Nat) (c : Coll) (x : BcChild), collOf s k = some c → dOpc c.desc = 4 → c.failed = none → c.digest = none →
      c.kids = [(kid, x)] → shownMissing c x = [n] → c.finished.contains n = true → resendDue s c kid n = true →
      exec (.bcResend k) s = .next (sendCached s k kid n true)) ∧
  (∀ (s : State) (k me alt : Nat) (c : Coll) (o : Orphan) (n : TNode), collOf s k = some c → c.orphan = some o →
      o.since + ticksOfUs (fld s .BC_REPAIR_TMO_US) ≤ s.raw → myNode s (treeOf s c) = some me → (treeOf s c).nodes[me]? = some n →
      n.alt1 = o.alt → n.alt2 = alt → alt ≠ noNode → nodeFenced s (treeOf s c) alt = false → n.alt1 ≠ n.alt2 →
      exec (.adoptTimeout k) s = .next (askAlternate s c me alt))

/-- The fingerprint of a descriptor is the four CRC-16 digests of its field classes, operation first. For every
descriptor: bits 63:48 are the CRC-16 of bytes 1, 3 to 7, 44 to 47 and 56 to 63; bits 47:32 that of byte 2; bits 31:16
that of bytes 24 to 33; bits 15:0 that of bytes 12 to 23; and nothing lies above bit 63. -/
def Obligations.FprintDigests : Prop :=
  ∀ d : Desc, fprint d < 2 ^ 64 ∧
    fprint d / 2 ^ 48 = crc16 (bytesAt d 1 1 ++ bytesAt d 3 5 ++ bytesAt d 44 4 ++ bytesAt d 56 8) ∧
    fprint d / 2 ^ 32 % 65536 = crc16 (bytesAt d 2 1) ∧
    fprint d / 2 ^ 16 % 65536 = crc16 (bytesAt d 24 10) ∧ fprint d % 65536 = crc16 (bytesAt d 12 12)

/-- A frame that arrives well takes its pipeline's stages; a damaged one is counted and nothing else. On a fabric-mode
port that receives, bad codewords are counted; a control block whose CRC agrees has its link header acted on; an
unprotected frame of the Fleornum EtherType has its link header acted on and then, with the link still up, takes its
own stages. On an Ethernet-mode port that receives, a frame that MACsec and the size and type checks pass and that is
no FFH datagram for this spine takes the Ethernet stages; such a datagram takes the stages of its virtual link, and
without one is counted as UDP_NO_VLINK; one that carries OPEN, where the link may be made, makes or resets it and then
takes its stages. -/
def Obligations.FrameArrivalsComplete : Prop :=
  (∀ (s : State) (f : RxFrame), f.port < 1280 → receives s f.port = true → portMode s f.port = .fabric →
      (0 < f.badCodewords → exec (.frameArrival f) s = .next (raiseN s .fecUeCw f.port f.badCodewords)) ∧
      (f.badCodewords = 0 → f.ffh = [] → portFenced s f.port = false → crc16 f.linkHdr = beAt f.payload 0 2 →
        exec (.frameArrival f) s = .next (settleTc7 (headerRx s f.port (linkHdrParse f.linkHdr) true) f.port)) ∧
      (∀ u, f.badCodewords = 0 → f.ffh ≠ [] → portFenced s f.port = false → f.etype = fld s .ETYPE → protOn s f.port = false → f.sealedAs = none →
        u = settleTc7 (headerRx (wakeDomain s (pipeDomain f.port)) f.port (linkHdrParse f.linkHdr) false) f.port →
        exec (.frameArrival f) s = .next (if linkLive u f.port = true then
          frameRx u f.port f.port (linkHdrParse f.linkHdr) f.ffh (unpadded f) false f.lead (fabricWire (unpadded f).length false) spineUnits
          else u))) ∧
  (∀ (s s1 s2 u : State) (f : EthFrame), f.port < 1280 → receives s f.port = true → portFenced s f.port = false →
      portMode s f.port = .ethernet → f.badCodewords = 0 → macsecPass s f.port f.macsec = some s1 → u = wakeDomain s1 (pipeDomain f.port) →
      ethScreen u f.port f.bytes spineUnits = none → ffhUdp u f.port f.bytes = (none, s2) →
      exec (.ethFrameArrival f) s = .next (ethStages s2 f.port f.lead f.bytes)) ∧
  (∀ (s s1 s2 u : State) (d : UdpFfh) (x : IpView) (v : Nat), d.port < 1280 → portMode s d.port = .ethernet → receives s d.port = true →
      portFenced s d.port = false → d.inner.badCodewords = 0 → macsecPass s d.port d.macsec = some s1 → u = wakeDomain s1 (pipeDomain d.port) →
      ethScreen u d.port (frameOfUdp d).bytes spineUnits = none → ffhUdp u d.port (frameOfUdp d).bytes = (some x, s2) → d.badChecksum = false →
      (∀ (e : VLink), (linkHdrParse d.inner.linkHdr).ekind ≠ .open → vlinkOf s2 x.v6 x.src = some (v, e) →
        exec (.udpDatagramArrival d) s = .next (settleTc7 (udpRx s2 v d x.ecn spineUnits) (2048 + v))) ∧
      ((linkHdrParse d.inner.linkHdr).ekind ≠ .open → vlinkOf s2 x.v6 x.src = none →
        exec (.udpDatagramArrival d) s = .next (raise s2 .udpNoVlink d.port)) ∧
      (∀ w, (linkHdrParse d.inner.linkHdr).ekind = .open → openVlink s2 d x = (some v, w) →
        exec (.vlinkOpen d) s = .next (udpRx w v d x.ecn spineUnits)))

/-- A transmit opportunity sends what the calendar chooses and moves the pointer; TC7 departures leave at their times. At
an opportunity of a port whose calendar, after blocked queues are noted, chooses queue i by slot k, the service of i
is noted, the pointer moves to the slot after k, and the head of i is sent; where it chooses i by no slot the pointer
stays; where it chooses none the pointer moves on four slots; then links at their rekey limit begin a rekey. Without
an opportunity nothing is sent. A TC7 departure event runs the departures of the port; that of the spine's own frames
first gives the waiting ones their windows. -/
def Obligations.DeparturesComplete : Prop :=
  (∀ (s : State) (p i k : Nat), p < 1280 → opportunity s p = true →
      calChoice (noteBlocked s p) p (eligibleQueues (noteBlocked s p) p) = some (i, some k) →
      ∃ u, u = noteService (noteBlocked s p) p i (eligibleQueues (noteBlocked s p) p) ∧
        exec (.transmitOpportunity p) s = .next (afterSending (sendHead (setBx u p { bxPort u p with
          slot := (k + 1) % (slotsOf (bxPort (noteBlocked s p) p)).length }) p i) p)) ∧
  (∀ (s : State) (p : Nat), p < 1280 → opportunity s p = true →
      (∀ i, calChoice (noteBlocked s p) p (eligibleQueues (noteBlocked s p) p) = some (i, none) →
        exec (.transmitOpportunity p) s = .next (afterSending
          (sendHead (noteService (noteBlocked s p) p i (eligibleQueues (noteBlocked s p) p)) p i) p)) ∧
      (calChoice (noteBlocked s p) p (eligibleQueues (noteBlocked s p) p) = none →
        exec (.transmitOpportunity p) s = .next (afterSending (setBx (noteBlocked s p) p { bxPort (noteBlocked s p) p with
          slot := ((bxPort (noteBlocked s p) p).slot + 4) % (slotsOf (bxPort (noteBlocked s p) p)).length }) p))) ∧
  (∀ (s : State) (p : Nat), p < 1280 → opportunity s p = false → exec (.transmitOpportunity p) s = .next (afterSending s p)) ∧
  (∀ (s : State) (p : Nat), p < 1280 → exec (.tc7Departure p) s = .next (afterSending (departTc7 s p false) p) ∧
      exec (.spineTc7Departure p) s = .next (afterSending (departTc7 (scheduleOwn s p) p true) p)) ∧
  (∀ (s : State) (p : Nat), (∀ l ∈ linksOf s p, (linkKeys s l).txKey = none) → afterSending s p = s)

/-- A sweep ends on its line or in a counted failure; a ring that strays or meets its range sweeps anew; OPT_RELOCK. A
sweep of an acquiring ring that finds its line without crossing a lane in use locks a modulator, or a lit drop filter,
at that heater power, and parks an unlit drop filter; a sweep that does not is counted, and short of the third keeps
trying. A locked ring whose heater leaves its window is judged to be on a wrong line; one whose heater comes to 0 or
25 mW sweeps anew. OPT_RELOCK of a named ring ends the migrations that use it, makes it sweep, and is DONE. -/
def Obligations.RingsComplete : Prop :=
  (∀ (s : State) (r t : Nat) (peaks : List (Nat × Int)) (lit : Bool), r < 2304 → ringState s r = 1 → sweepCrosses s r = false →
      sweepTarget peaks (ringLine r) = some t → (ringOf' s r).onEvidence = false →
      exec (.ringAcquireComplete r peaks lit) s = .next (setRing s r { ringOf' s r with
        phase := if ringDir r = 1 ∧ lit = false then .parked else .locked
        heat := t, centre := t, tempAt := engineTemp s (ringEngine r), tries := 0, onEvidence := false })) ∧
  (∀ (s : State) (r : Nat) (peaks : List (Nat × Int)) (lit : Bool), r < 2304 → ringState s r = 1 → sweepCrosses s r = false →
      sweepTarget peaks (ringLine r) = none → (ringOf' s r).tries < 2 →
      exec (.ringAcquireComplete r peaks lit) s = .next (setRing (raise s .prvAcqFail r) r { ringOf' s r with
        tries := (ringOf' s r).tries + 1 })) ∧
  (∀ (s : State) (r h : Nat), r < 2304 → (ringOf' s r).phase = .locked → (h + fld s .HWIN_UW < ringCentre s r ∨ ringCentre s r + fld s .HWIN_UW < h) →
      exec (.heaterWindowExceeded r h) s = .next (wrongLine (setRing s r { ringOf' s r with heat := h }) r)) ∧
  (∀ (s : State) (r h : Nat), r < 2304 → (ringOf' s r).phase = .locked → (h = 0 ∨ h = 25000) →
      exec (.heaterAtRangeLimit r h) s = .next (setRing s r { ringOf' s r with phase := .off, heat := h, tries := 0 })) ∧
  (∀ (s : State) (c : Ncp) (eng dir fib line r : Nat), OwnerCmd s c → c.body = beBytes 1 eng ++ beBytes 1 dir ++ beBytes 1 fib ++ beBytes 1 line →
      eng < 16 → dir < 2 → fib < 4 → line < 18 → r = ringNo eng dir fib line →
      exec (.optRelock c) s = done (setRing (abortMigs s (migUses r)) r { ringOf' s r with phase := .off, tries := 0, onEvidence := true })
        c 0x0604 [])

/-- A power evaluation keeps the means and judges every line; OPT_BASELINE records the means; OPT_COMB selects a comb. A
power period that is over keeps the means of both combs and, when the comb in use has fewer than COMB_LINES lines at
warning, judges lines 0 to 17 in turn; before that it changes nothing. OPT_BASELINE of the named engines and combs
makes each line's baseline its current mean and answers the means. OPT_COMB clears AUTO_SPENT of its engine and
switches it when the other comb is in use. -/
def Obligations.LinePowerCommandsComplete : Prop :=
  (∀ (s s1 : State) (eng : Nat) (means : List Int), eng < 16 →
      (s.raw < tget 0 s.prv.evalAt eng + ticksOfUs (fld s .POWER_PERIOD_US) → exec (.powerEvaluation eng means) s = .next s) ∧
      (tget 0 s.prv.evalAt eng + ticksOfUs (fld s .POWER_PERIOD_US) ≤ s.raw →
        s1 = keepMeans { s with prv := { s.prv with evalAt := tset 0 s.prv.evalAt eng s.raw } } eng means →
        warnCount s1 eng (combOf s1 eng) < fld s1 .COMB_LINES →
        exec (.powerEvaluation eng means) s = .next ((List.range 18).foldl (fun t l => judgeLine t eng l)
          { s1 with prv := { s1.prv with bothBad := s1.prv.bothBad.filter (· != eng) } }))) ∧
  (∀ (s : State) (c : Ncp) (mask comb : Nat) (pick : List Nat), OwnerCmd s c → mask < 65536 → comb ≤ 2 → c.body = beBytes 2 mask ++ beBytes 1 comb →
      pick = (onesOf 16 mask).flatMap (fun e => (if comb = 2 then [0, 1] else [comb]).flatMap fun b => (List.range 19).map fun l => lineNo e b l) →
      exec (.optBaseline c) s = done (pick.foldl (fun t n => setLine t n { lineOf t n with base := (lineOf t n).now }) s) c 0x0601
        (pick.flatMap fun n => i16 (lineOf s n).now)) ∧
  (∀ (s : State) (c : Ncp) (eng comb : Nat), OwnerCmd s c → eng < 16 → comb < 2 → c.body = beBytes 1 eng ++ beBytes 1 comb →
      (combOf s eng = comb → exec (.optComb c) s = done { s with prv := { s.prv with spent := s.prv.spent.filter (· != eng) } } c 0x0603 []) ∧
      (combOf s eng ≠ comb → exec (.optComb c) s =
        done (switchComb { s with prv := { s.prv with spent := s.prv.spent.filter (· != eng) } } eng) c 0x0603 []))

/-- A migration is scheduled, asked, answered, switched and done, or is aborted, as its messages and times say.
OPT_MIGRATE of a lane to a free line schedules it. At its time MIG_REQ leaves. At the receiving end MIG_REQ for a free
line is answered MIG_READY; MIG_SWITCH of an emergency, or whose time has come, switches the receiver and answers
MIG_DONE, and otherwise its time is kept, and at that time the receiver switches. At the transmitting end MIG_READY
fixes T_SW and MIG_SWITCH leaves; MIG_DONE moves the lane and is counted; MIG_ABORT before the switch ends it and is
counted; MIG_TMO_US without MIG_READY aborts it; an emergency migration that ends either way has its lane taken as
failed; an unanswered message is repeated every microsecond. MIG_ASK for the line a lane uses fails the lane. -/
def Obligations.MigrationsComplete : Prop :=
  (∀ (s : State) (c : Ncp) (lane dest t : Nat), OwnerCmd s c → lane < 1024 → (dest = 16 ∨ dest = 17 ∨ dest = baseLine lane) →
      c.body = beBytes 2 lane ++ beBytes 1 dest ++ [0] ++ beBytes 4 t → t < 2 ^ 32 → mayMigrate s lane = true → migOf s true lane = none →
      txLineOf s lane ≠ dest → txLineFree s (engineOf lane) (fibreOf lane) dest = true →
      exec (.optMigrate c) s = done (putMig { s with prv := { s.prv with nextMig := (s.prv.nextMig + 1) % 256 } }
        { tx := true, lane := lane, laneId := lane, id := s.prv.nextMig, emerg := false, fromLine := txLineOf s lane
          toLine := dest, step := .scheduled, since := s.raw, at_ := expand32 s t }) c 0x0602 []) ∧
  (∀ (s : State) (lane : Nat) (m : Mig), lane < 1024 → migOf s true lane = some m →
      (m.step = .scheduled → m.at_ ≤ nowNs s → exec (.migrationScheduledStart lane) s = .next (sendMigReq s { m with at_ := 0 })) ∧
      (m.step = .asked → m.since + ticksOfUs (fld s .MIG_TMO_US) ≤ s.raw →
        exec (.migTimeout lane) s = .next (if m.emerg = true then laneDown (abortMig s m) m.lane else abortMig s m)) ∧
      (m.msg ≠ [] → m.sentAt + 1250 ≤ s.raw → (∀ x, migOf s false lane = some x → x.msg = []) →
        ∃ t, exec (.opticalControlMessageRepeat lane) s = .next t ∧ t.out = s.out ++ [.optical (laneHolder s lane) m.msg])) ∧
  (∀ (s : State) (p n : Nat) (msg ans : List Byte), p < 1280 → optTaken s p msg = true → localLane s p (optLane msg) = some n → migOf s false n = none →
      optTo msg < 18 → spareDis s (engineOf n) (fibreOf n) = false → steered s (engineOf n) (fibreOf n) = false →
      rxLineFree s (engineOf n) (fibreOf n) (optTo msg) = true →
      ans = optMsg 2 (optId msg) (optLane msg) (optEmerg msg) (optFrom msg) (optTo msg) 0 →
      exec (.migReqReceived p msg) s = .next (sendOpt (putMig s {
        tx := false, lane := n, laneId := optLane msg, id := optId msg, emerg := optEmerg msg, fromLine := optFrom msg, toLine := optTo msg, step := .ready, since := s.raw, msg := ans, sentAt := s.raw }) n ans)) ∧
  (∀ (s : State) (p : Nat) (msg : List Byte) (m : Mig), p < 1280 → optTaken s p msg = true → migOf s true (optLane msg) = some m → m.id = optId msg →
      (m.step = .asked → ∃ t out, exec (.migReadyReceived p msg) s = .next (sendOpt (putMig s { m with
          step := .ready, at_ := t, msg := out, sentAt := s.raw }) m.lane out) ∧
        (m.emerg = true → t = nowNs s ∧ out = optMsg 3 m.id m.laneId m.emerg m.fromLine m.toLine 0) ∧
        (m.emerg = false → t = nowNs s + (portLink s (laneHolder s m.lane)).rtt / 2 + fld s .SW_MARGIN_US * 1000 ∧
          out = optMsg 3 m.id m.laneId m.emerg m.fromLine m.toLine (t % 2 ^ 32))) ∧
      (m.step = .ready → exec (.migDoneReceived p msg) s =
        .next (raise (dropMig (setTxLine s m.lane m.toLine) true m.lane) .prvMigDone m.lane (recVal m.lane))) ∧
      (∀ u, migPastSwitch s m = false →
        u = (if m.emerg = true then laneDown (raise (dropMig s true m.lane) .prvMigAbort m.lane (recVal m.lane)) m.lane
          else raise (dropMig s true m.lane) .prvMigAbort m.lane (recVal m.lane)) → localLane u p (optLane msg) = none →
        exec (.migAbortReceived p msg) s = .next u)) ∧
  (∀ (s : State) (p n : Nat) (msg : List Byte) (m : Mig), p < 1280 → optTaken s p msg = true → localLane s p (optLane msg) = some n →
      migOf s false n = some m → m.id = optId msg → m.step = .ready →
      ((optEmerg msg = true ∨ expand32 s (optTsw msg) ≤ nowNs s) → exec (.migSwitchReceived p msg) s = .next (migSwitch s m)) ∧
      (optEmerg msg = false → nowNs s < expand32 s (optTsw msg) →
        exec (.migSwitchReceived p msg) s = .next (putMig s { m with at_ := expand32 s (optTsw msg), msg := [] }))) ∧
  (∀ (s : State) (lane : Nat) (m : Mig), lane < 1024 → migOf s false lane = some m → m.step = .ready → m.at_ ≠ 0 → m.at_ ≤ nowNs s →
      exec (.migSwitchTime lane) s = .next (migSwitch s m)) ∧
  (∀ (s : State) (p : Nat) (msg : List Byte), p < 1280 → optTaken s p msg = true → optLane msg < 1024 → laneHolder s (optLane msg) = p →
      txLineOf s (optLane msg) = optFrom msg → exec (.migAskReceived p msg) s = .next (laneFailed s (optLane msg)))

/-- Steering images and circuit images pend, take over, and can be cancelled; circuits light and their loss is counted. A
steering image whose fields, structure and T pass, with nothing pending, pends; once T is reached each named port is
moved in order. A tenant's circuit image for its own partition, clashing with none, pends; once T is reached its
circuits are the partition's, and the cross-connect wakes. A circuit that finishes switching is lit at its power and
counted; a lit circuit 3 dB below that power is lost and counted once. OPT_CANCEL drops what pends. -/
def Obligations.SteeringAndCircuitsComplete : Prop :=
  (∀ (s : State) (c : Ncp) (img : List Byte) (n t : Nat) (raws : List (List Byte)), OwnerCmd s c → readImage c 0 0x4E5A0022 1 false = .ok img →
      n = beAt img 6 2 → beAt img 4 1 = 1 → beAt img 5 1 = 1 → 1 ≤ n → n ≤ 1280 → img.length = 32 + 12 * n → beAt img 24 4 = 0 →
      raws = (List.range n).map (fun i => bytesAt img (32 + 12 * i) 12) → (∀ e ∈ raws, steerEncodingOk e = true ∧ (steerEnt e).port < 1280) →
      flag s .STEER_LOCK = false → (∀ i e, (raws.map steerEnt)[i]? = some e → steerStructOk s (raws.map steerEnt) i e = true) →
      checkTime s (beAt img 8 4) 5 = .ok t → s.prv.steerPend = none →
      exec (.loadSteer c) s = done { s with prv := { s.prv with
        steerPend := some { takeover := t, imgId := beAt img 16 8, entries := raws.map steerEnt } } } c 0x0605 []) ∧
  (∀ (s : State) (img : SteerImg), s.prv.steerPend = some img → img.takeover ≤ nowNs s →
      exec .steerTakeover s = .next (img.entries.foldl steerPort { s with prv := { s.prv with steerPend := none } })) ∧
  (∀ (s : State) (c : Ncp) (p : Nat) (img : List Byte) (n t : Nat) (raws : List (List Byte)), TenantCmd s c p →
      readImage c 0 0x4E5A0023 1 false = .ok img → n = beAt img 6 2 → beAt img 24 2 = p → p < 4096 → beAt img 4 1 = 2 → beAt img 5 1 = 1 → n ≤ 512 →
      img.length = 32 + 4 * n → beAt img 26 2 = 0 → raws = (List.range n).map (fun i => bytesAt img (32 + 4 * i) 4) →
      (∀ e ∈ raws, circuitEncodingOk e = true) → flag s .CIRC_LOCK = false → holdsPart s = true → s.haw.part = p →
      (∀ i e, (raws.map circuitEnt)[i]? = some e → (((raws.map circuitEnt).take i).any (circuitClash e)) = false ∧
        (otherCircuits s p).any (circuitClash e) = false) →
      checkTime s (beAt img 8 4) 5 = .ok t → tfind s.xc.pend p = none →
      exec (.loadCircuits c) s = done (extendMeas8 { s with xc := { s.xc with
        pend := tins s.xc.pend p { takeover := t, circuits := raws.map circuitEnt } } } p [img]) c 0x0606 []) ∧
  (∀ (s : State) (part : Nat) (img : CircuitImg), tfind s.xc.pend part = some img → img.takeover ≤ nowNs s →
      exec (.circuitTakeover part) s = .next (circuitTakeover s part img)) ∧
  (∀ (s : State) (out : Nat) (pw : Int) (x : Circuit), out < 512 → tfind s.xc.circuits out = some x →
      (x.lit = false → exec (.circuitLit out pw) s = .next (raise { s with xc := { s.xc with
        circuits := tins s.xc.circuits out { x with lit := true, setup := pw, now := pw } } } .xcLit out (recVal x.part x.part))) ∧
      (x.lit = true → x.lost = false → pw ≤ x.setup - 300 → exec (.xcOutputFall out pw) s = .next (raise { s with xc := { s.xc with
        circuits := tins s.xc.circuits out { x with now := pw, lost := true } } } .xcLoss out (recVal x.part x.part))) ∧
      (x.lit = true → x.setup - 300 < pw → exec (.xcOutputFall out pw) s = .next { s with xc := { s.xc with
        circuits := tins s.xc.circuits out { x with now := pw, lost := false } } })) ∧
  (∀ (s : State) (c : Ncp), OwnerCmd s c → c.body = [1, 0, 0] → replaceable s (s.prv.steerPend.map (·.takeover)) = true →
      exec (.optCancel c) s = done { s with prv := { s.prv with steerPend := none } } c 0x0607 []) ∧
  (∀ (s : State) (c : Ncp) (p : Nat), TenantCmd s c p → p < 4096 → c.body = [2] ++ beBytes 2 p → replaceable s ((tfind s.xc.pend p).map (·.takeover)) = true →
      exec (.optCancel c) s = done { s with xc := { s.xc with pend := tdel s.xc.pend p } } c 0x0607 [])

/-- TIME frames, the root's step, silence of the parents, TIME_STEP, TIME_STATUS and TIME_CAL. A change of RATE does not
move local time. A port due sends a TIME frame with the next number; a received one of version 1 is noted with its
arrival stamp. A root that has waited ROOT_WAIT_S, or is given TIME_STEP, steps once and is locked. With both parents
silent a tracking or locked spine holds the mean of its servo rates over and counts it. TIME_STATUS answers and
TIME_CAL of legal ports starts; neither changes anything else. -/
def Obligations.FabricTimeCompletes : Prop :=
  (∀ (s : State) (r : Nat), localExact (setRate s r) = localExact s) ∧
  (∀ (s : State) (p : Nat), p < 1280 → timePort s p = true → (yewPort s p).sentAt + ticksOfUs (fld s .SYNC_PERIOD_US) ≤ s.raw →
      exec (.timeFrameSend p) s = .next (sendTime s p)) ∧
  (∀ (s s1 : State) (fid : Nat) (f : StoredFrame), takeKind s fid 0xA = .ok (f, s1) → beAt f.data 0 1 / 16 = 1 → sampleOf s1 f.inPort f.data = none →
      exec (.timeFrameReceive fid) s = .next (setYewPort s1 f.inPort { yewPort s1 f.inPort with rx := some (beAt f.data 2 2, f.rxStamp) })) ∧
  (∀ s : State, flag s .ROOT_EN = true → s.yew.stepped = false → s.yew.rootWaitFrom + ticksOfS (fld s .ROOT_WAIT_S) ≤ s.raw →
      ∃ t, exec .rootWaitExpiry s = .next t ∧ t.yew.stepped = true ∧ t.yew.phase = .locked ∧ t.yew.root = selfSpine s ∧ t.yew.offset = s.yew.offset) ∧
  (∀ (s : State) (c : Ncp) (t : Nat), OwnerCmd s c → c.body = beBytes 8 t → t < 2 ^ 64 → flag s .ROOT_EN = true → s.yew.stepped = false →
      exec (.timeStep c) s = done (rootStep s (localExact s - ((t * 2 ^ 40 : Nat) : Int))) c 0x0701 [] ∧
      localExact (rootStep s (localExact s - ((t * 2 ^ 40 : Nat) : Int))) = ((t * 2 ^ 40 : Nat) : Int)) ∧
  (∀ s : State, flag s .ROOT_EN = false → (flag s .PRI_V = true → parentSilent s (fld s .PARENT_PRI) = true) →
      flag s .ALT_V = false → (s.yew.phase = .tracking ∨ s.yew.phase = .locked) → s.yew.servo ≠ [] →
      ∃ u, u = setRate s (s.yew.servo.foldl (· + ·) 0 / s.yew.servo.length) ∧
        exec .parentSilence s = .next (raise { u with yew := { u.yew with phase := .holdover, lockRun := 0, unlockRun := 0 } } .yewHoldover 0)) ∧
  (∀ (s : State) (c : Ncp), OwnerCmd s c → c.body = [] → ∃ res, exec (.timeStatus c) s = done s c 0x0702 res ∧ res.length = 48) ∧
  (∀ (s : State) (c : Ncp) (ref : Nat) (ports : List Nat), OwnerCmd s c → ref < 1280 → ports ≠ [] → ports.length < 65536 →
      c.body = beBytes 2 ref ++ beBytes 2 ports.length ++ ports.flatMap (beBytes 2) → isSpinePort s ref = true →
      (∀ p ∈ ports, p < 1280 ∧ dimCode s p = dimCode s ref) → flag s .ROOT_EN = true → s.yew.cal = none →
      exec (.timeCal c) s = .next { s with yew := { s.yew with cal := some { cmd := c, refPort := ref, ports := ports } } })

/-- PTP Syncs are noted and the fourth steps the root; a loss is counted; a beat brings RAW to the next multiple of 1,250.
A Sync on the selected source and domain counts the run of its grandmaster; the first three of a run only note it; the
fourth steps an unstepped root. Four intervals without a Sync after a run of four end the run and count PTP_LOST. A
time beat that reaches every region brings RAW to the next multiple of 1,250 and clears the stale mark of every awake
region. -/
def Obligations.WorldTimeAndBeatsComplete : Prop :=
  (∀ (s : State) (src domain gm time utc : Nat) (k : Int), ptpFrom s src = true → domain = fld s .DOMAIN →
      (s.yew.ptpRun < 3 → gm = s.yew.ptpMaster →
        exec (.ptpSyncReceive src domain gm time k utc) s = .next { s with yew := { s.yew with
          ptpMaster := gm, ptpRun := s.yew.ptpRun + 1, ptpLast := s.raw, ptpInterval := k, ptpLost := false, utcOfs := utc % 65536 } }) ∧
      (gm ≠ s.yew.ptpMaster →
        exec (.ptpSyncReceive src domain gm time k utc) s = .next { s with yew := { s.yew with
          ptpMaster := gm, ptpRun := 1, ptpLast := s.raw, ptpInterval := k, ptpLost := false, utcOfs := utc % 65536 } }) ∧
      (3 ≤ s.yew.ptpRun → gm = s.yew.ptpMaster → s.yew.stepped = false →
        ∃ t, exec (.ptpSyncReceive src domain gm time k utc) s = .next t ∧ t.yew.stepped = true ∧ t.yew.phase = .locked ∧
          localExact t = ((time * 2 ^ 24 : Nat) : Int))) ∧
  (∀ s : State, flag s .ROOT_EN = true → flag s .PTP_EN = true → 4 ≤ s.yew.ptpRun → s.yew.ptpLast + fourSyncs s.yew.ptpInterval ≤ s.raw →
      exec .ptpLoss s = .next (raise { s with yew := { s.yew with ptpRun := 0, ptpLost := true } } .ptpLost 0)) ∧
  (∀ s : State, s.pwr.aon = true → s.st.thr = [] → s.raw < 2 ^ 64 - 1250 → ∃ t, exec (.timeBeat []) s = .next t ∧ t.raw % 1250 = 0 ∧ s.raw < t.raw ∧ t.raw ≤ s.raw + 1250 ∧
      t.out = s.out ++ [.beat t.raw s.yew.offset s.yew.rate] ∧
      (∀ r, r ∈ t.yew.regionStale → r ∈ s.yew.regionStale ∧ tget SleepState.awake s.pwr.domains r ≠ .awake))

/-- The quality of a stamp is the worse of the module's and the region's, as a 2-bit number. Qualities are 0 GOOD, 1
HOLDOVER, 2 STALE, 3 INVALID. The quality of a stamp taken in a region is at least the module's, at least STALE in a
stale region, one of these two, and at most 3 when the parent's is. -/
def Obligations.QualityOfAStamp : Prop :=
  ∀ (s : State) (root : Bool) (region : Nat), s.yew.parentQual ≤ 3 →
    moduleQual s root ≤ qualIn s root region ∧ qualIn s root region ≤ 3 ∧
    (s.yew.regionStale.contains region = true → 2 ≤ qualIn s root region) ∧
    (s.yew.regionStale.contains region = false → qualIn s root region = moduleQual s root) ∧
    (qualIn s root region = moduleQual s root ∨ qualIn s root region = 2) ∧
    (s.yew.phase = .locked → root = true → moduleQual s root = 0)

/-- PART_ADMIT, boundary fences, LOAD_CABLING, DISCOVER, DISCOVERY and the plan wait. A PART_ADMIT whose parameters,
binding, time, state and closure pass, on a spine with no boundary port, activates the partition at once. 10 us after
its DISCOVERY a boundary port is fenced, and with the last of an admission the partition is active. A legal cabling
plan takes effect at acceptance and every port is judged. DISCOVER answers, for each port of its range, its cabling
state, fence, reported peer and swap partner. DISCOVERY leaves a port when due; a received one is kept and judged, and
one with the boundary bit also fences the port, counted. A planned neighbour not up for PLAN_WAIT_S is judged absent,
counted. -/
def Obligations.PartitionsAndCablingComplete : Prop :=
  (∀ (s : State) (c : Ncp) (part base free dev : Nat), s.pwr.hubUp = true → c.auth = .owner → c.body.length = 172 →
      part = beAt c.body 0 2 → base = beAt c.body 2 2 → free = beAt c.body 4 2 → dev = beAt c.body 8 4 → 1 ≤ part → part ≤ 0xFFE →
      beAt c.body 6 2 = 0 → base &&& free = 0 → base < 2 ^ dimsN s → free < 2 ^ dimsN s → 2 ^ popCount 14 free ≤ dev → dev ≤ 2 ^ 24 →
      selfSpine s &&& free ^^^ selfSpine s = base → (tfind s.holly.bindings part).isSome = true → s.yew.stepped = true →
      s.haw.pstate = .none → s.haw.admitting = none → flag s .DISC_MODE = false → closed s base free = true →
      boundaryPorts s free ((portsOfMap (c.body.drop 12)).filter fun p => dimCode s p == 0xF) = [] →
      exec (.partAdmit c) s = .next (admitNow s { cmd := c, part := part, base := base, free := free, devices := dev,
                                                  bypass := (portsOfMap (c.body.drop 12)).filter fun p => dimCode s p == 0xF,
                                                  hash := crc32 (c.body.take 12) })) ∧
  (∀ (s : State) (p t : Nat), p < 1280 → tfind s.haw.boundaryAt p = some t → t + 12500 ≤ s.raw → portFenced s p = false →
      s.haw.admitting = none → (fencePort s p .boundary).haw.admitting = none →
      exec (.boundaryFenceApply p) s = .next (fencePort s p .boundary)) ∧
  (∀ (s : State) (c : Ncp) (img : List Byte) (n : Nat) (raws : List (List Byte)), OwnerCmd s c → readImage c 0 0x4E5A0028 1 false = .ok img →
      n = beAt img 6 2 → beAt img 4 1 = 1 → beAt img 5 1 = 1 → n ≤ 1280 → img.length = 32 + 16 * n → beAt img 8 4 = 0 → beAt img 24 4 = 0 →
      raws = (List.range n).map (fun i => bytesAt img (32 + 16 * i) 16) → (∀ e ∈ raws, planEncodingOk e = true ∧ (planEnt e).1 < 1280) →
      flag s .PLAN_LOCK = false → ((raws.map planEnt).map (·.1)).Nodup →
      exec (.loadCabling c) s = done (judgeAll { s with haw := { s.haw with
        plan := (raws.map planEnt).foldl (fun t e => tins t e.1 e.2) [], planAt := s.raw, planLoaded := true, cab := [] } }) c 0x0803 []) ∧
  (∀ (s : State) (c : Ncp) (first n : Nat), OwnerCmd s c → c.body = beBytes 2 first ++ beBytes 2 n → first + n ≤ 1280 →
      exec (.discover c) s = done s c 0x0805 (((List.range n).map (first + ·)).flatMap fun p => beBytes 2 p ++ beBytes 1 (cabCode s p) ++
        beBytes 1 (fenceCode s p) ++ beBytes 4 (peerView s p).1 ++ beBytes 2 (peerView s p).2.1 ++ beBytes 2 (peerView s p).2.2 ++
        beBytes 2 (tget 0 s.haw.swapWith p) ++ zeroBytes 2)) ∧
  (∀ (s : State) (p : Nat), p < 1280 → portUp s p = true → portMode s p = .fabric → portFenced s p = false → tfind s.haw.discSentAt p = none →
      exec (.discoverySend p) s = .next (sendDiscovery s p false)) ∧
  (∀ (s s1 : State) (fid : Nat) (f : StoredFrame), takeKind s fid 0xC = .ok (f, s1) → f.data.length = 32 → beAt f.data 0 1 / 16 = 1 →
      bitAt (beAt f.data 0 1) 3 = false →
      (idOf s1 f.inPort).disc ≠ some f.data →
      exec (.discoveryReceive fid) s = .next (judgePort (setId s1 f.inPort { idOf s1 f.inPort with disc := some f.data }) f.inPort)) ∧
  (∀ (s s1 : State) (fid : Nat) (f : StoredFrame), takeKind s fid 0xC = .ok (f, s1) → f.data.length = 32 → beAt f.data 0 1 / 16 = 1 →
      bitAt (beAt f.data 0 1) 3 = true → (idOf s1 f.inPort).disc = some f.data → portFenced s1 f.inPort = false →
      exec (.discoveryReceive fid) s = .next (raise (fencePort s1 f.inPort .boundary) .hawBoundaryPeer f.inPort)) ∧
  (∀ (s : State) (p : Nat), p < 1280 → flag s .DISC_MODE = false → (tfind s.haw.plan p).isSome = true → portEnabled s p = true →
      portFenced s p = false → portUp s p = false → cabOf s p ≠ .absent →
      max s.haw.planAt (tget 0 s.haw.waitFrom p) + ticksOfS (fld s .PLAN_WAIT_S) ≤ s.raw →
      exec (.planWaitExpiry p) s = .next (raise (setCab s p .absent) .hawAbsent p))

/-- HAW_FENCE, FENCE_CLEAR, HOLD_RELEASE, PROBATION_START, PROBATION_END, HAW_REPORT, the sink fence, the budget window
and SCORE. An owner's HAW_FENCE fences a port, proposes a spine with evidence MANUAL, or fences its own down-port with
notice. FENCE_CLEAR lifts a port's fence, clears a spine's bits when no vote on it is open, or drops a remote pair; in
the cycle of a commit that fenced the spine the commit stands and FENCE_CLEAR of it, or of the port it fenced, changes
nothing. HOLD_RELEASE of the held partition floods RELEASE and ends HOLD with EXPELLED zero. PROBATION_START of a
weakly fenced spine floods the notice and starts it; at its end a spine that has never failed it and whose last beat
is at most 2 x BEAT_US old passes, and one that failed or sent no beat has every port toward it fenced. HAW_REPORT
only answers. The budget window forgets expulsions older than BUDGET_WIN_S; each second SCORE rises by RECOVER_PER_S
to at most 1,000; a down-port in sink discard for SINK_FENCE_MS outside HOLD is fenced with notice. -/
def Obligations.FencesByCommandComplete : Prop :=
  (∀ (s : State) (c : Ncp) (n : Nat), OwnerCmd s c →
      (c.body = [1, 0] ++ beBytes 2 n → n < 1280 → absorbed s n = false → portFenced s n = false →
        exec (.hawFence c) s = done (fencePort s n .fault) c 0x0806 []) ∧
      (c.body = [2, 0] ++ beBytes 2 n → n < 2 ^ dimsN s → n < 16384 → (spineBits s n).fenced = false →
        exec (.hawFence c) s = done (proposeStrong s n 4) c 0x0806 []) ∧
      (∀ p, c.body = [3, 0] ++ beBytes 2 n → n < 65536 → downPortOf s 0 n = some p → portFenced s p = false →
        exec (.hawFence c) s = done (noticeDown (fencePort s p .fault) n 4) c 0x0806 [])) ∧
  (∀ (s : State) (c : Ncp) (n dp : Nat), OwnerCmd s c →
      (c.body = [1, 0] ++ beBytes 2 n ++ [0, 0] → n < 1280 → exec (.fenceClear c) s =
        done (if (isSpinePort s n && fenceOf s n == .fault && justCommitted s (neighbourOf s (selfSpine s) (dimCode s n))) = true then s
          else unfencePort s n) c 0x0807 []) ∧
      (c.body = [2, 0] ++ beBytes 2 n ++ [0, 0] → n < 16384 → voteOn s n = none →
        exec (.fenceClear c) s = done (if justCommitted s n = true then s else clearSpine s n) c 0x0807 []) ∧
      (c.body = [3, 0] ++ beBytes 2 n ++ beBytes 2 dp → n < 65536 → dp < 1024 →
        exec (.fenceClear c) s = done { s with haw := { s.haw with rfence := s.haw.rfence.filter (· != (n, dp)) } } c 0x0807 [])) ∧
  (∀ (s : State) (c : Ncp), OwnerCmd s c → c.body = beBytes 2 s.haw.part → s.haw.part < 4096 → holdsPart s = true → s.haw.hold = true →
      ∃ u, u = flood s (hedgeBase s 9) ∧
        exec (.holdRelease c) s = done { u with haw := { u.haw with hold := false, expelled := [] } } c 0x0808 []) ∧
  (∀ (s : State) (c : Ncp) (x : Nat), OwnerCmd s c → c.body = beBytes 2 x → x < 16384 → (spineBits s x).fenced = true → (spineBits s x).weak = true →
      exec (.probationStart c) s = done (startProbation (flood s { hedgeBase s 7 with evid := 2, suspect := x }) x) c 0x0809 []) ∧
  (∀ (s s1 : State) (x : Nat) (p : Probation), x < 16384 → tfind s.haw.probation x = some p → p.since + ticksOfS (fld s .PROB_S) ≤ s.raw →
      s1 = { s with haw := { s.haw with probation := tdel s.haw.probation x } } →
      (∀ t, p.failed = false → p.lastBeat = some t → t ≤ s.raw → s.raw ≤ t + ticksOfUs (2 * fld s .BEAT_US) →
        exec (.probationEnd x) s = .next (raise (setSpine s1 x fun b => { b with probation := false, cleared := true }) .hawProbPass 0 (recVal x))) ∧
      (∀ s2, p.failed = true ∨ p.lastBeat = none → s2 = setSpine s1 x (fun b => { b with probation := false }) →
        exec (.probationEnd x) s =
          .next (raise ((portsToward s2 x).foldl (fun t q => fencePort t q .fault) s2) .hawProbFail 0 (recVal x)))) ∧
  (∀ (s : State) (c : Ncp), OwnerCmd s c → c.body = [] → ∃ res, exec (.hawReport c) s = done s c 0x080B res ∧
      res.take 6 = beBytes 2 s.haw.score ++ beBytes 4 s.haw.expelled.length) ∧
  (∀ s : State, exec .expulsionWindowAge s = .next { s with haw := { s.haw with
      expelled := s.haw.expelled.filter fun t => !elapsed s t (ticksOfS (fld s .BUDGET_WIN_S)) } }) ∧
  (∀ s : State, s.haw.recoveredAt + ticksOfS 1 ≤ s.raw → exec .scoreRecovery s = .next (proposeSelf { s with haw := { s.haw with
      score := min 1000 (s.haw.score + fld s .RECOVER_PER_S), recoveredAt := s.raw } })) ∧
  (∀ (s : State) (p t : Nat), p < 1280 → tfind s.haw.sinkFrom p = some t → t + ticksOfMs (fld s .SINK_FENCE_MS) ≤ s.raw → s.haw.hold = false →
      portFenced s p = false →
      ∃ u, u = fencePort { s with haw := { s.haw with sinkFrom := tdel s.haw.sinkFrom p } } p .fault ∧
        exec (.sinkFence p) s = .next (countExpulsion (noticeDown u ((fieldOfPort s p).getD 0) 3) (ownPart u)))

/-- Beats, proposals, votes, commits, abandons, notices, HOLD and RELEASE. A spine-to-spine port that is due sends a beat,
once the spine's own fence has been proposed when due; a neighbour's beat is noted. A silent or dark neighbour that
may be observed and is under no vote is proposed. A flooded message of another spine, taken once: a proposal on which
this spine has no vote leaves its suspect out of the other votes and is kept; a vote is counted at the proposer, once
for each voter; COMMIT is applied and its result noted; ABANDON closes the vote it names and its result is noted;
NOTICE, HOLD and RELEASE of the own partition take effect. A vote unanswered at VOTE_WINDOW_US is abandoned by its
proposer; an observation that is due votes. -/
def Obligations.HedgeVoteCompletes : Prop :=
  (∀ (s s0 : State) (p : Nat), p < 1280 → s0 = proposeSelf s → isSpinePort s0 p = true → portUp s0 p = true → portMode s0 p = .fabric →
      portFenced s0 p = false → quarantined s0 p = false → tget 0 s0.haw.beatSent p + ticksOfUs (fld s0 .BEAT_US) ≤ s0.raw →
      exec (.hedgeBeatSend p) s = .next (sendHedge { s0 with haw := { s0.haw with beatSent := tins s0.haw.beatSent p s.raw } } p
        (hedgeBytes (hedgeBase s0 1)))) ∧
  (∀ (s s1 : State) (fid : Nat) (e : Nat × Nat) (f g : StoredFrame), (s.loam.inbox.find? fun e => e.1 == fid) = some e → frameOf s fid = some f →
      f.ffh.kind = 0xB → (hedgeParse f.data).htype = 1 → takeKind s fid 0xB = .ok (g, s1) → hedgeOk g.data = true → dimCode s1 g.inPort ≤ 13 →
      (hedgeParse g.data).degraded = false → (neighOf s1 (dimCode s1 g.inPort)).degraded = false →
      exec (.hedgeBeatReceive fid) s = .next (probationBeat (setNeigh s1 (dimCode s1 g.inPort)
        { lastBeat := s1.raw, heard := true, degraded := false, score := (hedgeParse g.data).score })
        (neighbourOf s1 (selfSpine s1) (dimCode s1 g.inPort)) (hedgeParse g.data).score)) ∧
  (∀ (s : State) (d x : Nat), d < 14 → x = neighbourOf s (selfSpine s) d → (voteDims s).contains d = true → observable s d = true →
      (silentDim s d = true ∨ darkDim s d = true) → (spineBits s x).fenced = false → voteOn s x = none →
      exec (.neighbourSilent d) s = .next (propose s x (if darkDim s d then 1 else 2))) ∧
  (∀ (s : State) (x : Nat) (v : Vote), voteOn s x = some v →
      (v.voted = false → votesYes s v = true → exec (.voteObservationDue x) s = .next (castVote s v true)) ∧
      (v.voted = false → votesYes s v = false → v.since + silenceTicks s ≤ s.raw → exec (.voteObservationDue x) s = .next (castVote s v false)) ∧
      (v.mine = true → v.since + ticksOfUs (fld s .VOTE_WINDOW_US) ≤ s.raw → exec (.voteWindowExpiry x) s = .next (abandonVote s v))) ∧
  (∀ (s s1 : State) (fid : Nat) (h : Hedge), h.htype ≠ 0 →
      (floodIn s fid 2 = some (h, s1) → (spineBits s1 h.suspect).fenced = false → voteOn s1 h.suspect = none →
        (voterSet s1 h.suspect).contains (selfSpine s1) = false →
        exec (.proposeReceived fid) s =
          .next (putVote (leaveOut s1 h.suspect) { suspect := h.suspect, origin := h.origin, vseq := h.vseq, evid := h.evid, part := h.part, since := s1.raw, voters := voterSet s1 h.suspect, voted := true })) ∧
      (∀ v, voteOn s1 h.suspect = some v → v.mine = true → v.vseq = h.vseq → v.voters.contains h.origin = true →
        v.yes.contains h.origin = false → v.no.contains h.origin = false →
        (floodIn s fid 3 = some (h, s1) → exec (.voteYesReceived fid) s = .next (settleVote s1 { v with yes := v.yes ++ [h.origin] })) ∧
        (floodIn s fid 4 = some (h, s1) → exec (.voteNoReceived fid) s = .next (settleVote s1 { v with no := v.no ++ [h.origin] }))) ∧
      (floodIn s fid 5 = some (h, s1) → exec (.commitReceived fid) s =
        .next (noteResult (applyCommit s1 h) (if h.degraded then 3 else 1) h.evid h.voters h.yes h.suspect)) ∧
      (∀ v, floodIn s fid 6 = some (h, s1) → voteOn s1 h.suspect = some v → v.origin = h.origin → v.vseq = h.vseq →
        exec (.abandonReceived fid) s = .next (noteResult (dropVote s1 h.suspect) 2 h.evid h.voters h.yes h.suspect)) ∧
      (floodIn s fid 7 = some (h, s1) → h.dpV = true → h.evid ≠ 3 →
        exec (.noticeReceived fid) s = .next (downNotice (addRfence s1 h.suspect h.dport) h.suspect h.dport)) ∧
      (floodIn s fid 8 = some (h, s1) → holdsPart s1 = true → h.part = s1.haw.part → exec (.holdReceived fid) s = .next (enterHold s1)) ∧
      (floodIn s fid 9 = some (h, s1) → holdsPart s1 = true → h.part = s1.haw.part →
        exec (.releaseReceived fid) s = .next { s1 with haw := { s1.haw with hold := false, expelled := [] } }))

/-- CTR_SAMPLE, THRESH_SET, the snapshot commands and their events, and RING_READ. An owner's sample of 1 to 1,024 valid
sources answers their values and its tag, and with RESET sets each to zero under its tag. A threshold of zero is
disarmed and any other is armed, with room. A snapshot of a legal mask and time, with room, pends in the lowest free
slot. When its time comes it is latched and counted; written, it is complete and an alert says so; SNAP_HOLD_S later
it is freed. Reads answer a snapshot from an offset, and a ring's 8,192 bytes. -/
def Obligations.CountersAndSnapshotsComplete : Prop :=
  (∀ (s : State) (c : Ncp) (rst : Nat) (srcs : List Nat), OwnerCmd s c → rst ≤ 1 → 1 ≤ srcs.length → srcs.length ≤ 1024 →
      c.body = beBytes 1 rst ++ beBytes 2 srcs.length ++ srcs.flatMap (beBytes 4) → (∀ x ∈ srcs, x < 2 ^ 32 ∧ sourceValid x = true) →
      exec (.ctrSample c) s = done (if rst = 1 then srcs.eraseDups.foldl (fun t x => ctrReset t x (some (0, c.seq))) s else s) c 0x0A01
        (srcs.flatMap (fun x => beBytes 8 (ctrRead s x)) ++ beBytes 2 0 ++ zeroBytes 2 ++ beBytes 4 c.seq)) ∧
  (∀ (s : State) (c : Ncp) (src v : Nat), OwnerCmd s c → c.body = beBytes 4 src ++ beBytes 8 v → src < 2 ^ 32 → v < 2 ^ 64 → sourceValid src = true →
      (v = 0 → exec (.threshSet c) s = done (checkThreshold { s with st := { s.st with thr := tdel s.st.thr src } } src 0) c 0x0A08 []) ∧
      (v ≠ 0 → s.st.thr.length < 4096 → exec (.threshSet c) s =
        done (checkThreshold { s with st := { s.st with thr := tins s.st.thr src { value := v } } } src 0) c 0x0A08 [])) ∧
  (∀ (s : State) (c : Ncp) (t mask k : Nat), OwnerCmd s c → c.body = beBytes 4 t ++ beBytes 8 mask → t < 2 ^ 32 → mask < 2 ^ 22 → s.yew.stepped = true →
      10000 ≤ diff32 t (now32 s) → diff32 t (now32 s) ≤ 2000000000 → s.st.snaps.length < 4 →
      (s.st.snaps.map fun x => snapSize s x.mask x.part).foldl (· + ·) 0 + snapSize s mask 0 ≤ fld s .SNAP_CELLS * 256 →
      (List.range 4).find? (fun k => s.st.snaps.all fun x => x.slot != k) = some k →
      exec (.snapshot c) s = done { s with st := { s.st with nextSnap := s.st.nextSnap + 1, snaps := s.st.snaps ++
        [{ id := s.st.nextSnap, slot := k, tReq := t, at_ := expand32 s t, mask := mask, part := 0, seq := c.seq }] } } c 0x0A02
        (beBytes 4 s.st.nextSnap)) ∧
  (∀ (s : State) (x : Snap), s.st.snaps = [x] →
      (x.phase = .pending → x.at_ ≤ nowNs s → exec .snapshotLatch s =
        .next (raise { s with st := { s.st with snaps := [latch s x] } } .snapTaken 0 (recVal x.id x.part))) ∧
      (x.phase = .writing → exec .snapshotWritten s =
        .next (sendAlert { s with st := { s.st with snaps := [{ x with phase := .complete, doneAt := s.raw }] } } 0x03 x.id 0 0)) ∧
      (x.phase = .complete → x.doneAt + ticksOfS (fld s .SNAP_HOLD_S) ≤ s.raw → exec .snapshotExpiry s =
        .next (raise { s with st := { s.st with snaps := [] } } .snapExpired 0 (recVal x.id x.part)))) ∧
  (∀ (s : State) (c : Ncp) (id off : Nat) (x : Snap), OwnerCmd s c → c.body = beBytes 4 id ++ beBytes 4 off → id < 2 ^ 32 → off < 2 ^ 32 →
      s.st.snaps.find? (fun x => x.id == id) = some x → off < (snapBytes x).length →
      exec (.snapshotRead c) s = done s c 0x0A03 (((snapBytes x).drop off).take 65528)) ∧
  (∀ (s : State) (c : Ncp) (blk inst : Nat), OwnerCmd s c → c.body = beBytes 1 blk ++ beBytes 1 inst ++ [0, 0] → blk < 256 → inst < 255 →
      unitExists blk inst = true →
      exec (.ringRead c) s = done s c 0x0A04 (ringImage (tget {} s.st.rings (blk * 256 + inst)).recs))

/-- TRACE_START, TRACE_STOP, the time record and the stop time. A trace whose parameters and authority are right, with
none running and staging that fits, starts with its counts zero and replies DONE; stopped by its owner or at STOP_T it
drains, frees its staging and tells its bytes. Every millisecond a time record is staged when TMODE takes one, and the
staging drains. Draining an empty staging on an enabled port sends nothing. -/
def Obligations.TraceCompletes : Prop :=
  (∀ (s s1 : State) (c : Ncp) (id : Nat), OwnerCmd s c → c.body.length = 32 → traceParamsOk c.body = true → mayTrace s c.auth c.body = true →
      s.st.trace = none → beAt c.body 24 4 = 0 → reserve s ((tracePart c.body).getD 0) (beAt c.body 20 4) 0 = some (id, s1) →
      exec (.traceStart c) s = done { s1 with st := { s1.st with
        trace := some { params := c.body, authPart := 0, resv := id, lastTime := s.raw, stopAt := none }, traceBytes := 0, traceDrops := 0 } }
        c 0x0A05 []) ∧
  (∀ (s : State) (c : Ncp), OwnerCmd s c → c.body = [] →
      exec (.traceStop c) s = done (traceStop s) c 0x0A06 (beBytes 8 (traceStop s).st.traceBytes)) ∧
  (∀ (s : State) (t : Trace), s.st.trace = some t → t.lastTime + 1250000 ≤ s.raw → bitAt (beAt t.params 0 1) 3 = false →
      exec .traceTimeRecord s = .next (traceDrain { s with st := { s.st with trace := some { t with lastTime := s.raw } } })) ∧
  (∀ (s : State) (t : Trace) (x : Nat), s.st.trace = some t → t.stopAt = some x → x ≤ nowNs s → exec .traceStopTime s = .next (traceStop s)) ∧
  (∀ (s : State) (t : Trace), s.st.trace = some t → t.staged = [] → t.stagedBytes = 0 → t.lostSince = 0 → flag s .TP_EN = true → traceDrain s = s)

/-- PART_TEARDOWN begins and its completion answers; MARGIN_SWEEP runs and answers. PART_TEARDOWN of the spine's partition
marks the teardown, ends its votes and commands, erases its keys and discards what its units hold, and waits; its
completion clears the partition's state, judges the ports and replies DONE. MARGIN_SWEEP of an idle engine with a
legal trim starts; at its end without mismatches it replies its counts and peak. -/
def Obligations.TeardownAndMarginComplete : Prop :=
  (∀ (s : State) (c : Ncp), OwnerCmd s c → c.body = beBytes 2 s.haw.part → s.haw.part < 4096 → holdsPart s = true → s.haw.pstate = .active →
      ∃ u, u = startTeardown s s.haw.part ∧ exec (.partTeardown c) s = .next { u with haw := { u.haw with teardown := some c } }) ∧
  (∀ (s : State) (c : Ncp), s.haw.pstate = .teardown → s.haw.teardown = some c →
      exec .teardownComplete s = done (endTeardown s) c 0x0802 []) ∧
  (∀ (s : State) (p : Nat), ∃ u, eraseKeys s p false = raise u .hollyErase 0 (recVal p p) ∧ u.holly.bindings = tdel s.holly.bindings p ∧
      u.holly.links = s.holly.links ∧ u.holly.ownerKey = s.holly.ownerKey ∧ u.ncp.seqs = tdel s.ncp.seqs p ∧ u.loam = s.loam) ∧
  (∀ (s : State) (c : Ncp) (u ms : Nat), OwnerCmd s c → u < 16 → 1 ≤ ms → ms ≤ 10000 → c.body = beBytes 1 u ++ [0, 0, 0] ++ beBytes 2 ms ++ [0] →
      unitBusy s u = false → s.haw.margin = none →
      exec (.marginSweep c) s = .next { s with haw := { s.haw with
        margin := some { cmd := c, unit := u, vofs := 0, load := 0, endAt := s.raw + ticksOfMs ms } } }) ∧
  (∀ (s : State) (m : Margin) (tests : Nat) (peak : Int), s.haw.margin = some m → m.endAt ≤ s.raw →
      exec (.marginSweepDone tests 0 peak) s = done { s with haw := { s.haw with margin := none } } m.cmd 0x080A
        (beBytes 4 tests ++ beBytes 4 0 ++ beBytes 2 (s16 peak)))

/-- KEX_INIT and OWNER_SET open an exchange, KEX_FIN installs what its purpose installs, and exchanges and keys age. An
untagged KEX_INIT of a legal, unbound partition, and OWNER_SET over the mailbox with no owner, open an exchange and
answer with its number. KEX_FIN of an exchange less than 10 ms old that something bars is rejected and leaves the
exchange open; with nothing in its way, and authentication and confirmation right, it ends the exchange, installs an
owner key, a binding or link keys, and is DONE; a wrong one ends it, is counted and rejected. After 10 ms an exchange
is discarded. A keyed link older than REKEY_S is due for an exchange. -/
def Obligations.KeyExchangeCompletes : Prop :=
  (∀ (s : State) (c : Ncp) (p : Nat), s.pwr.hubUp = true → c.auth = .untagged → c.body.length = 1316 → beAt c.body 0 1 = 2 → beAt c.body 1 2 = p →
      1 ≤ p → p ≤ 0xFFE → s.holly.debug = false → tearingDown s p = false → tfind s.holly.bindings p = none →
      exec (.kexInit c) s = done (kexStart s c 0).2 c 0x0903 (kexStart s c 0).1 ∧
      tfind (kexStart s c 0).2.holly.kexes s.holly.nextKex ≠ none ∧ (kexStart s c 0).2.holly.nextKex = s.holly.nextKex + 1) ∧
  (∀ (s : State) (c : Ncp), s.pwr.hubUp = true → c.auth = .untagged → overMailbox c.via = true → c.body.length = 1316 → beAt c.body 0 1 = 1 →
      beAt c.body 1 2 = 0 → s.holly.ownerKey = none → flag s .OWNER_LOCK = false →
      exec (.ownerSet c) s = done (kexStart s c 0).2 c 0x0906 (kexStart s c 0).1) ∧
  (∀ (s : State) (c : Ncp) (k : Kex) (auth : List Byte), s.pwr.hubUp = true → c.auth = .untagged → 52 ≤ c.body.length →
      kexOf s (beAt c.body 0 4) = some k → finAuth k c.body = some auth →
      (∀ code, finBars s k = some code → exec (.kexFin c) s = rejected s c 0x0904 code) ∧
      (finBars s k = none → finAuthOk s k auth = true → finConfirmed k c.body = true →
        exec (.kexFin c) s = done (installKex (dropKex s (beAt c.body 0 4) k) k auth) c 0x0904 []) ∧
      (finBars s k = none → (finAuthOk s k auth = false ∨ finConfirmed k c.body = false) →
        exec (.kexFin c) s = rejected (raise (dropKex s (beAt c.body 0 4) k) .hollyKexFail 0 (recVal k.part)) c 0x0904 .notAuthorised)) ∧
  (∀ (s : State) (k : Kex) (auth : List Byte),
      (k.purpose = 1 → (installKex s k auth).holly.ownerKey = some (hkdfExpand k.secret (ascii "NZ1280 ock") 48)) ∧
      (k.purpose = 2 → (∃ b, (installKex s k auth).holly.bindings = tins s.holly.bindings k.part b ∧ b.pms = k.secret) ∧
        (installKex s k auth).holly.ownerKey = s.holly.ownerKey)) ∧
  (∀ (s : State) (id : Nat) (k : Kex), tfind s.holly.kexes id = some k → k.since + 12500000 ≤ s.raw → exec (.kexTimeout id) s = .next (dropKex s id k)) ∧
  (∀ (s : State) (l : Nat), linkLive s l = true → (linkKeys s l).txKey.isSome = true → (linkKeys s l).exchanging = false →
      (linkKeys s l).keyedAt + ticksOfS (fld s .REKEY_S) ≤ s.raw →
      exec (.rekeyTimer l) s = .next (setKeys s l { linkKeys s l with exchanging := true }))

/-- Attestation, MACsec keys, OWNER_CLEAR, DEBUG_NONCE, DEBUG_UNLOCK and HOLLY_STATUS. Certificates and measurements
answer; the second takes one free value, its nonce. The owner's MACSEC_KEY on an Ethernet-mode port of no bound
partition, installs its association when the wrapped key unwraps and is NOT_AUTHORISED otherwise. OWNER_CLEAR with no
binding replies, then leaves no owner key. DEBUG_NONCE answers 32 bytes and keeps them with their time. DEBUG_UNLOCK
with a good token drops every link key and unlocks debug; with another it is NOT_AUTHORISED. HOLLY_STATUS only
answers. -/
def Obligations.HollyCommandsComplete : Prop :=
  (∀ (s : State) (c : Ncp) (k : Nat), s.pwr.hubUp = true → c.body = beBytes 1 k → k ≤ 3 →
      exec (.attestCerts c) s = done s c 0x0901 (Config.certChain k (aliasBase s))) ∧
  (∀ (s : State) (c : Ncp) (nonce : List Byte) (mask part : Nat), s.pwr.hubUp = true → nonce.length = 32 → mask < 512 → part < 0xFFF →
      c.body = nonce ++ beBytes 2 mask ++ beBytes 2 part →
      ∃ n sig, exec (.attestMeasure c) s = done { s with freeCtr := s.freeCtr + 1 } c 0x0902
        ((onesOf 9 mask).flatMap (measurement s part) ++ beBytes 32 n ++ sig)) ∧
  (∀ (s : State) (c : Ncp) (p sci an suite : Nat), OwnerCmd s c → c.body.length = 68 → beAt c.body 0 2 = p → beAt c.body 2 8 = sci →
      beAt c.body 10 1 = an → beAt c.body 11 1 = suite → p < 1280 → absorbed s p = false → portMode s p = .ethernet → an < 4 → suite < 2 →
      s.haw.pstate ≠ .teardown → (holdsPart s = true → tfind s.holly.bindings s.haw.part = none) →
      exec (.macsecKey c) s = match Config.keyUnwrap (s.holly.ownerKey.getD []) (bytesAt c.body 28 40) with
        | some key => done (installSa s p sci an { part := 0, key := beNat (bytesAt key 0 32), pn := 1, xpn := suite == 1,
                                                   salt := beAt c.body 12 4 * 2 ^ 96 + beAt c.body 16 12 }) c 0x0905 []
        | none => rejected s c 0x0905 .notAuthorised) ∧
  (∀ (s : State) (c : Ncp), OwnerCmd s c → c.body = [] → s.holly.bindings = [] → flag s .OWNER_LOCK = false →
      ∃ t, exec (.ownerClear c) s = .next t ∧ t.holly = { s.holly with ownerKey := none, meas6 := zeroBytes 48 } ∧ tfind t.ncp.seqs 0 = tfind (tdel (finish s c 0x0907 .done 0 noIndex []).ncp.seqs 0) 0 ∧
        t.out = (finish s c 0x0907 .done 0 noIndex []).out) ∧
  (∀ (s : State) (c : Ncp), s.pwr.hubUp = true → c.body = [] →
      ∃ n, exec (.debugNonce c) s = done { s with freeCtr := s.freeCtr + 1, holly := { s.holly with nonce := some (beBytes 32 n, s.raw) } } c 0x0908
        (beBytes 32 n)) ∧
  (∀ (s : State) (c : Ncp), OwnerCmd s c → c.body.length = 3449 → flag s .DEBUG_LOCK = false →
      if debugTokenOk s c.body = true then
        ∃ t, exec (.debugUnlock c) s = done t c 0x0909 [] ∧ t.holly.debug = true ∧ t.holly.links = [] ∧ t.holly.nonce = none ∧
          t.holly.scope = beAt c.body 40 4
      else exec (.debugUnlock c) s = rejected s c 0x0909 .notAuthorised) ∧
  (∀ (s : State) (c : Ncp), OwnerCmd s c → c.body = [] → ∃ res, exec (.hollyStatus c) s = done s c 0x090A res ∧
      res.length = 38 + 2 * s.holly.bindings.length)

/-- Fabric headers, link headers and messages read back as they were written. Reading a fabric header back from the 32
bytes it is written as gives every field again, for every value the fields admit. The same holds of the eight bytes of
a link header, for every event kind. The header of a message, tagged or untagged, reads back as its version, flags,
opcode, number, partition and length, with the reserved bits clear and the tag in place. -/
def Obligations.HeadersRoundTrip : Prop :=
  (∀ h : Ffh, h.ver < 16 → h.tc < 8 → h.epoch < 4 → h.ecn < 4 → h.part < 4096 → h.fmt < 16 → h.src < 2 ^ 32 → h.dst < 2 ^ 32 →
      h.collId < 2 ^ 32 → h.chunk < 2 ^ 32 → h.layer < 65536 → h.oper < 65536 → h.plen < 65536 → h.kind < 16 → h.rsv < 4 → h.hops < 256 →
      h.sweepId < 65536 → (ffhBytes h).length = 32 ∧ ffhParse (ffhBytes h) = { h with hcrc := crc16 (ffhHead h) }) ∧
  (∀ h : LinkHdr, h.seq < 65536 → h.aq < 16 → h.ack < 65536 → h.eq < 16 → h.eseq < 65536 →
      (linkHdrBytes h).length = 8 ∧ linkHdrParse (linkHdrBytes h) = h) ∧
  (∀ (key : Option (List Byte)) (reply frag : Bool) (op seq part : Nat) (body : List Byte), op < 65536 → seq < 2 ^ 32 → part < 0xFFF →
      body.length < 2 ^ 32 →
      ncpParse (ncpMsg key (bitv reply 7 + bitv frag 5) op seq part body) =
        { ver := 1, reply := reply, unauth := key.isNone, frag := frag, opcode := op, seq := seq, part := part, len := body.length,
          reservedOk := true,
          tag := match key with
                 | some k => (hmac384 k (ncpHead (bitv reply 7 + bitv frag 5) op seq part body.length ++ body)).take 16
                 | none => zeroBytes 16 })
end

