-- ==== Sys2Proof/Laws/Exec.lean ====
section
/-!
SUPPORT. Laws/Exec.lean: the one meaning that exec calls for each command.
-/

set_option Elab.async false

namespace Sys2Proof.Laws

open Sys2Proof Sys2Proof.Machine

@[simp] theorem exec_vsbApplied (s : State) : exec .vsbApplied s = execVsbApplied s := rfl
@[simp] theorem exec_vin48Applied (s : State) : exec .vin48Applied s = execVin48Applied s := rfl
@[simp] theorem exec_resetRelease (s : State) : exec .resetRelease s = execResetRelease s := rfl
@[simp] theorem exec_resetPinAssert (s : State) : exec .resetPinAssert s = execResetPinAssert s := rfl
@[simp] theorem exec_supplyBrownout (vsbLost : Bool) (s : State) : exec (.supplyBrownout vsbLost) s = execSupplyBrownout vsbLost s := rfl
@[simp] theorem exec_watchdogExpiry (s : State) : exec .watchdogExpiry s = execWatchdogExpiry s := rfl
@[simp] theorem exec_watchdogRestart (s : State) : exec .watchdogRestart s = execWatchdogRestart s := rfl
@[simp] theorem exec_commandedReset (s : State) : exec .commandedReset s = execCommandedReset s := rfl
@[simp] theorem exec_perstAssert (s : State) : exec .perstAssert s = execPerstAssert s := rfl
@[simp] theorem exec_refclkValid (s : State) : exec .refclkValid s = execRefclkValid s := rfl
@[simp] theorem exec_refclkLoss (s : State) : exec .refclkLoss s = execRefclkLoss s := rfl
@[simp] theorem exec_thermalTrip (die : Nat) (s : State) : exec (.thermalTrip die) s = execThermalTrip die s := rfl
@[simp] theorem exec_thermalLoopEval (dies : List Int) (rails : List (Nat × Nat)) (powerW : Nat) (s : State) : exec (.thermalLoopEval dies rails powerW) s = execThermalLoopEval dies rails powerW s := rfl
@[simp] theorem exec_mbxGo (slot : Nat) (len : Nat) (window : List Byte) (s : State) : exec (.mbxGo slot len window) s = execMbxGo slot len window s := rfl
@[simp] theorem exec_mbxReadyClear (slot : Nat) (s : State) : exec (.mbxReadyClear slot) s = execMbxReadyClear slot s := rfl
@[simp] theorem exec_ncpUdpDatagram (mg : Nat) (srcIp : Nat) (srcPort : Nat) (dstPort : Nat) (ipFragment : Bool) (msg : List Byte) (s : State) : exec (.ncpUdpDatagram mg srcIp srcPort dstPort ipFragment msg) s = execNcpUdpDatagram mg srcIp srcPort dstPort ipFragment msg s := rfl
@[simp] theorem exec_ncpInbandFrame (fid : Nat) (s : State) : exec (.ncpInbandFrame fid) s = execNcpInbandFrame fid s := rfl
@[simp] theorem exec_fragAssemblyTimeout (buffer : Nat) (s : State) : exec (.fragAssemblyTimeout buffer) s = execFragAssemblyTimeout buffer s := rfl
@[simp] theorem exec_commandDispatch (dma : Option (List Byte)) (s : State) : exec (.commandDispatch dma) s = execCommandDispatch dma s := rfl
@[simp] theorem exec_ident (c : Ncp) (s : State) : exec (.ident c) s = execIdent c s := rfl
@[simp] theorem exec_powerStatus (c : Ncp) (s : State) : exec (.powerStatus c) s = execPowerStatus c s := rfl
@[simp] theorem exec_powerCap (c : Ncp) (s : State) : exec (.powerCap c) s = execPowerCap c s := rfl
@[simp] theorem exec_moduleReset (c : Ncp) (s : State) : exec (.moduleReset c) s = execModuleReset c s := rfl
@[simp] theorem exec_regRead (c : Ncp) (s : State) : exec (.regRead c) s = execRegRead c s := rfl
@[simp] theorem exec_regWrite (c : Ncp) (s : State) : exec (.regWrite c) s = execRegWrite c s := rfl
@[simp] theorem exec_regCommitAtT (c : Ncp) (s : State) : exec (.regCommitAtT c) s = execRegCommitAtT c s := rfl
@[simp] theorem exec_regCommitNow (c : Ncp) (s : State) : exec (.regCommitNow c) s = execRegCommitNow c s := rfl
@[simp] theorem exec_regCommitDiscard (c : Ncp) (s : State) : exec (.regCommitDiscard c) s = execRegCommitDiscard c s := rfl
@[simp] theorem exec_shadowCommitApply (blk : Nat) (inst : Nat) (s : State) : exec (.shadowCommitApply blk inst) s = execShadowCommitApply blk inst s := rfl
@[simp] theorem exec_loadTable (c : Ncp) (s : State) : exec (.loadTable c) s = execLoadTable c s := rfl
@[simp] theorem exec_loadRoutes (c : Ncp) (s : State) : exec (.loadRoutes c) s = execLoadRoutes c s := rfl
@[simp] theorem exec_tableRead (c : Ncp) (s : State) : exec (.tableRead c) s = execTableRead c s := rfl
@[simp] theorem exec_loadCalendar (c : Ncp) (s : State) : exec (.loadCalendar c) s = execLoadCalendar c s := rfl
@[simp] theorem exec_loadGates (c : Ncp) (s : State) : exec (.loadGates c) s = execLoadGates c s := rfl
@[simp] theorem exec_cancelPending (c : Ncp) (s : State) : exec (.cancelPending c) s = execCancelPending c s := rfl
@[simp] theorem exec_loadList (c : Ncp) (s : State) : exec (.loadList c) s = execLoadList c s := rfl
@[simp] theorem exec_queueOpen (c : Ncp) (s : State) : exec (.queueOpen c) s = execQueueOpen c s := rfl
@[simp] theorem exec_collPost (c : Ncp) (s : State) : exec (.collPost c) s = execCollPost c s := rfl
@[simp] theorem exec_queueResume (c : Ncp) (s : State) : exec (.queueResume c) s = execQueueResume c s := rfl
@[simp] theorem exec_queueSkip (c : Ncp) (s : State) : exec (.queueSkip c) s = execQueueSkip c s := rfl
@[simp] theorem exec_queueFlush (c : Ncp) (s : State) : exec (.queueFlush c) s = execQueueFlush c s := rfl
@[simp] theorem exec_queueClose (c : Ncp) (s : State) : exec (.queueClose c) s = execQueueClose c s := rfl
@[simp] theorem exec_collStatus (c : Ncp) (s : State) : exec (.collStatus c) s = execCollStatus c s := rfl
@[simp] theorem exec_loadTemplate (c : Ncp) (s : State) : exec (.loadTemplate c) s = execLoadTemplate c s := rfl
@[simp] theorem exec_loadKprog (c : Ncp) (s : State) : exec (.loadKprog c) s = execLoadKprog c s := rfl
@[simp] theorem exec_loadMop (c : Ncp) (s : State) : exec (.loadMop c) s = execLoadMop c s := rfl
@[simp] theorem exec_dropMop (c : Ncp) (s : State) : exec (.dropMop c) s = execDropMop c s := rfl
@[simp] theorem exec_optBaseline (c : Ncp) (s : State) : exec (.optBaseline c) s = execOptBaseline c s := rfl
@[simp] theorem exec_optMigrate (c : Ncp) (s : State) : exec (.optMigrate c) s = execOptMigrate c s := rfl
@[simp] theorem exec_optComb (c : Ncp) (s : State) : exec (.optComb c) s = execOptComb c s := rfl
@[simp] theorem exec_optRelock (c : Ncp) (s : State) : exec (.optRelock c) s = execOptRelock c s := rfl
@[simp] theorem exec_loadSteer (c : Ncp) (s : State) : exec (.loadSteer c) s = execLoadSteer c s := rfl
@[simp] theorem exec_loadCircuits (c : Ncp) (s : State) : exec (.loadCircuits c) s = execLoadCircuits c s := rfl
@[simp] theorem exec_optCancel (c : Ncp) (s : State) : exec (.optCancel c) s = execOptCancel c s := rfl
@[simp] theorem exec_timeStep (c : Ncp) (s : State) : exec (.timeStep c) s = execTimeStep c s := rfl
@[simp] theorem exec_timeStatus (c : Ncp) (s : State) : exec (.timeStatus c) s = execTimeStatus c s := rfl
@[simp] theorem exec_timeCal (c : Ncp) (s : State) : exec (.timeCal c) s = execTimeCal c s := rfl
@[simp] theorem exec_partAdmit (c : Ncp) (s : State) : exec (.partAdmit c) s = execPartAdmit c s := rfl
@[simp] theorem exec_partTeardown (c : Ncp) (s : State) : exec (.partTeardown c) s = execPartTeardown c s := rfl
@[simp] theorem exec_loadCabling (c : Ncp) (s : State) : exec (.loadCabling c) s = execLoadCabling c s := rfl
@[simp] theorem exec_cablingAccept (c : Ncp) (s : State) : exec (.cablingAccept c) s = execCablingAccept c s := rfl
@[simp] theorem exec_discover (c : Ncp) (s : State) : exec (.discover c) s = execDiscover c s := rfl
@[simp] theorem exec_hawFence (c : Ncp) (s : State) : exec (.hawFence c) s = execHawFence c s := rfl
@[simp] theorem exec_fenceClear (c : Ncp) (s : State) : exec (.fenceClear c) s = execFenceClear c s := rfl
@[simp] theorem exec_holdRelease (c : Ncp) (s : State) : exec (.holdRelease c) s = execHoldRelease c s := rfl
@[simp] theorem exec_probationStart (c : Ncp) (s : State) : exec (.probationStart c) s = execProbationStart c s := rfl
@[simp] theorem exec_marginSweep (c : Ncp) (s : State) : exec (.marginSweep c) s = execMarginSweep c s := rfl
@[simp] theorem exec_marginSweepDone (tests : Nat) (mismatches : Nat) (peak : Int) (s : State) : exec (.marginSweepDone tests mismatches peak) s = execMarginSweepDone tests mismatches peak s := rfl
@[simp] theorem exec_hawReport (c : Ncp) (s : State) : exec (.hawReport c) s = execHawReport c s := rfl
@[simp] theorem exec_attestCerts (c : Ncp) (s : State) : exec (.attestCerts c) s = execAttestCerts c s := rfl
@[simp] theorem exec_attestMeasure (c : Ncp) (s : State) : exec (.attestMeasure c) s = execAttestMeasure c s := rfl
@[simp] theorem exec_kexInit (c : Ncp) (s : State) : exec (.kexInit c) s = execKexInit c s := rfl
@[simp] theorem exec_kexFin (c : Ncp) (s : State) : exec (.kexFin c) s = execKexFin c s := rfl
@[simp] theorem exec_kexTimeout (exchange : Nat) (s : State) : exec (.kexTimeout exchange) s = execKexTimeout exchange s := rfl
@[simp] theorem exec_macsecKey (c : Ncp) (s : State) : exec (.macsecKey c) s = execMacsecKey c s := rfl
@[simp] theorem exec_ownerSet (c : Ncp) (s : State) : exec (.ownerSet c) s = execOwnerSet c s := rfl
@[simp] theorem exec_ownerClear (c : Ncp) (s : State) : exec (.ownerClear c) s = execOwnerClear c s := rfl
@[simp] theorem exec_debugNonce (c : Ncp) (s : State) : exec (.debugNonce c) s = execDebugNonce c s := rfl
@[simp] theorem exec_debugUnlock (c : Ncp) (s : State) : exec (.debugUnlock c) s = execDebugUnlock c s := rfl
@[simp] theorem exec_hollyStatus (c : Ncp) (s : State) : exec (.hollyStatus c) s = execHollyStatus c s := rfl
@[simp] theorem exec_ctrSample (c : Ncp) (s : State) : exec (.ctrSample c) s = execCtrSample c s := rfl
@[simp] theorem exec_snapshot (c : Ncp) (s : State) : exec (.snapshot c) s = execSnapshot c s := rfl
@[simp] theorem exec_snapshotRead (c : Ncp) (s : State) : exec (.snapshotRead c) s = execSnapshotRead c s := rfl
@[simp] theorem exec_ringRead (c : Ncp) (s : State) : exec (.ringRead c) s = execRingRead c s := rfl
@[simp] theorem exec_traceStart (c : Ncp) (s : State) : exec (.traceStart c) s = execTraceStart c s := rfl
@[simp] theorem exec_traceStop (c : Ncp) (s : State) : exec (.traceStop c) s = execTraceStop c s := rfl
@[simp] theorem exec_cmapRead (c : Ncp) (s : State) : exec (.cmapRead c) s = execCmapRead c s := rfl
@[simp] theorem exec_threshSet (c : Ncp) (s : State) : exec (.threshSet c) s = execThreshSet c s := rfl
@[simp] theorem exec_fwStage (c : Ncp) (s : State) : exec (.fwStage c) s = execFwStage c s := rfl
@[simp] theorem exec_fwActivate (c : Ncp) (s : State) : exec (.fwActivate c) s = execFwActivate c s := rfl
@[simp] theorem exec_fwStatus (c : Ncp) (s : State) : exec (.fwStatus c) s = execFwStatus c s := rfl
@[simp] theorem exec_registerWrite (req : Nat) (addr : Nat) (value : Word) (dword : Bool) (s : State) : exec (.registerWrite req addr value dword) s = execRegisterWrite req addr value dword s := rfl
@[simp] theorem exec_registerAccessTimeout (req : Nat) (addr : Nat) (write : Bool) (ncp : Option (Ncp × Nat)) (s : State) : exec (.registerAccessTimeout req addr write ncp) s = execRegisterAccessTimeout req addr write ncp s := rfl
@[simp] theorem exec_lockBitSet (req : Nat) (addr : Nat) (value : Word) (s : State) : exec (.lockBitSet req addr value) s = execLockBitSet req addr value s := rfl
@[simp] theorem exec_rwvScrub (s : State) : exec .rwvScrub s = execRwvScrub s := rfl
@[simp] theorem exec_sieveStart (req : Nat) (half : Nat) (s : State) : exec (.sieveStart req half) s = execSieveStart req half s := rfl
@[simp] theorem exec_counterResetWrite (req : Nat) (s : State) : exec (.counterResetWrite req) s = execCounterResetWrite req s := rfl
@[simp] theorem exec_slowClear (req : Nat) (s : State) : exec (.slowClear req) s = execSlowClear req s := rfl
@[simp] theorem exec_ringFreezeWrite (req : Nat) (value : Word) (s : State) : exec (.ringFreezeWrite req value) s = execRingFreezeWrite req value s := rfl
@[simp] theorem exec_frameArrival (f : RxFrame) (s : State) : exec (.frameArrival f) s = execFrameArrival f s := rfl
@[simp] theorem exec_ethFrameArrival (f : EthFrame) (s : State) : exec (.ethFrameArrival f) s = execEthFrameArrival f s := rfl
@[simp] theorem exec_udpDatagramArrival (d : UdpFfh) (s : State) : exec (.udpDatagramArrival d) s = execUdpDatagramArrival d s := rfl
@[simp] theorem exec_vlinkOpen (d : UdpFfh) (s : State) : exec (.vlinkOpen d) s = execVlinkOpen d s := rfl
@[simp] theorem exec_vlinkIdleRelease (v : Nat) (s : State) : exec (.vlinkIdleRelease v) s = execVlinkIdleRelease v s := rfl
@[simp] theorem exec_transmitOpportunity (port : Nat) (s : State) : exec (.transmitOpportunity port) s = execTransmitOpportunity port s := rfl
@[simp] theorem exec_tc7Departure (port : Nat) (s : State) : exec (.tc7Departure port) s = execTc7Departure port s := rfl
@[simp] theorem exec_spineTc7Departure (port : Nat) (s : State) : exec (.spineTc7Departure port) s = execSpineTc7Departure port s := rfl
@[simp] theorem exec_linkAckReceived (link : Nat) (space : Nat) (ack : Nat) (s : State) : exec (.linkAckReceived link space ack) s = execLinkAckReceived link space ack s := rfl
@[simp] theorem exec_ackReport (link : Nat) (s : State) : exec (.ackReport link) s = execAckReport link s := rfl
@[simp] theorem exec_lossEvent (link : Nat) (space : Nat) (seq : Nat) (s : State) : exec (.lossEvent link space seq) s = execLossEvent link space seq s := rfl
@[simp] theorem exec_withheldEvent (link : Nat) (space : Nat) (seq : Nat) (s : State) : exec (.withheldEvent link space seq) s = execWithheldEvent link space seq s := rfl
@[simp] theorem exec_withholdReplay (link : Nat) (space : Nat) (seq : Nat) (s : State) : exec (.withholdReplay link space seq) s = execWithholdReplay link space seq s := rfl
@[simp] theorem exec_refusedEvent (link : Nat) (space : Nat) (seq : Nat) (s : State) : exec (.refusedEvent link space seq) s = execRefusedEvent link space seq s := rfl
@[simp] theorem exec_skipEvent (link : Nat) (space : Nat) (seq : Nat) (s : State) : exec (.skipEvent link space seq) s = execSkipEvent link space seq s := rfl
@[simp] theorem exec_skipAnnounce (link : Nat) (s : State) : exec (.skipAnnounce link) s = execSkipAnnounce link s := rfl
@[simp] theorem exec_txcMarkEvent (link : Nat) (txc : Nat) (s : State) : exec (.txcMarkEvent link txc) s = execTxcMarkEvent link txc s := rfl
@[simp] theorem exec_txcMarkSend (link : Nat) (s : State) : exec (.txcMarkSend link) s = execTxcMarkSend link s := rfl
@[simp] theorem exec_retryTimeout (link : Nat) (space : Nat) (seq : Nat) (s : State) : exec (.retryTimeout link space seq) s = execRetryTimeout link space seq s := rfl
@[simp] theorem exec_sinkStall (port : Nat) (s : State) : exec (.sinkStall port) s = execSinkStall port s := rfl
@[simp] theorem exec_signalPresent (port : Nat) (s : State) : exec (.signalPresent port) s = execSignalPresent port s := rfl
@[simp] theorem exec_trainTimeout (port : Nat) (s : State) : exec (.trainTimeout port) s = execTrainTimeout port s := rfl
@[simp] theorem exec_helloReceived (port : Nat) (msg : List Byte) (s : State) : exec (.helloReceived port msg) s = execHelloReceived port msg s := rfl
@[simp] theorem exec_linkUp (port : Nat) (rtt : Nat) (s : State) : exec (.linkUp port rtt) s = execLinkUp port rtt s := rfl
@[simp] theorem exec_alignmentMarker (port : Nat) (lane : Nat) (laneId : Nat) (echoId : Nat) (s : State) : exec (.alignmentMarker port lane laneId echoId) s = execAlignmentMarker port lane laneId echoId s := rfl
@[simp] theorem exec_laneLockLoss (port : Nat) (lane : Nat) (s : State) : exec (.laneLockLoss port lane) s = execLaneLockLoss port lane s := rfl
@[simp] theorem exec_laneErrorPeriod (port : Nat) (lane : Nat) (symbols : Nat) (s : State) : exec (.laneErrorPeriod port lane symbols) s = execLaneErrorPeriod port lane symbols s := rfl
@[simp] theorem exec_spareRemap (slice : Nat) (lane : Nat) (s : State) : exec (.spareRemap slice lane) s = execSpareRemap slice lane s := rfl
@[simp] theorem exec_degradeAgree (port : Nat) (mask : Nat) (s : State) : exec (.degradeAgree port mask) s = execDegradeAgree port mask s := rfl
@[simp] theorem exec_idleTimeout (domain : Nat) (trigger : Bool) (s : State) : exec (.idleTimeout domain trigger) s = execIdleTimeout domain trigger s := rfl
@[simp] theorem exec_domainAwake (domain : Nat) (s : State) : exec (.domainAwake domain) s = execDomainAwake domain s := rfl
@[simp] theorem exec_wakeLateCheck (domain : Nat) (s : State) : exec (.wakeLateCheck domain) s = execWakeLateCheck domain s := rfl
@[simp] theorem exec_prewake (port : Nat) (s : State) : exec (.prewake port) s = execPrewake port s := rfl
@[simp] theorem exec_enginePrewake (coll : Nat) (s : State) : exec (.enginePrewake coll) s = execEnginePrewake coll s := rfl
@[simp] theorem exec_spillOutMove (half : Nat) (s : State) : exec (.spillOutMove half) s = execSpillOutMove half s := rfl
@[simp] theorem exec_spillReadback (queue : Nat) (s : State) : exec (.spillReadback queue) s = execSpillReadback queue s := rfl
@[simp] theorem exec_holdSpillMove (fid : Nat) (s : State) : exec (.holdSpillMove fid) s = execHoldSpillMove fid s := rfl
@[simp] theorem exec_sievePass (half : Nat) (tier : Nat) (s : State) : exec (.sievePass half tier) s = execSievePass half tier s := rfl
@[simp] theorem exec_gateListTakeover (port : Nat) (s : State) : exec (.gateListTakeover port) s = execGateListTakeover port s := rfl
@[simp] theorem exec_calendarTakeover (port : Nat) (s : State) : exec (.calendarTakeover port) s = execCalendarTakeover port s := rfl
@[simp] theorem exec_routeTakeover (s : State) : exec .routeTakeover s = execRouteTakeover s := rfl
@[simp] theorem exec_epochRelease (s : State) : exec .epochRelease s = execEpochRelease s := rfl
@[simp] theorem exec_markerCopyTransmit (port : Nat) (queue : Nat) (s : State) : exec (.markerCopyTransmit port queue) s = execMarkerCopyTransmit port queue s := rfl
@[simp] theorem exec_sweepComplete (key : Nat) (s : State) : exec (.sweepComplete key) s = execSweepComplete key s := rfl
@[simp] theorem exec_sweepTimeout (key : Nat) (s : State) : exec (.sweepTimeout key) s = execSweepTimeout key s := rfl
@[simp] theorem exec_sweepSlotRelease (key : Nat) (s : State) : exec (.sweepSlotRelease key) s = execSweepSlotRelease key s := rfl
@[simp] theorem exec_echoFrameSend (half : Nat) (s : State) : exec (.echoFrameSend half) s = execEchoFrameSend half s := rfl
@[simp] theorem exec_throttleIncrease (port : Nat) (tc : Nat) (s : State) : exec (.throttleIncrease port tc) s = execThrottleIncrease port tc s := rfl
@[simp] theorem exec_cmapSend (s : State) : exec .cmapSend s = execCmapSend s := rfl
@[simp] theorem exec_cmapReceive (fid : Nat) (s : State) : exec (.cmapReceive fid) s = execCmapReceive fid s := rfl
@[simp] theorem exec_cmapStale (dim : Nat) (s : State) : exec (.cmapStale dim) s = execCmapStale dim s := rfl
@[simp] theorem exec_learnProcess (s : State) : exec .learnProcess s = execLearnProcess s := rfl
@[simp] theorem exec_agePeriod (s : State) : exec .agePeriod s = execAgePeriod s := rfl
@[simp] theorem exec_parityRepair (half : Nat) (tkind : Nat) (index : Nat) (s : State) : exec (.parityRepair half tkind index) s = execParityRepair half tkind index s := rfl
@[simp] theorem exec_groupRecordReturn (record : Nat) (s : State) : exec (.groupRecordReturn record) s = execGroupRecordReturn record s := rfl
@[simp] theorem exec_tokenPieceArrival (fid : Nat) (s : State) : exec (.tokenPieceArrival fid) s = execTokenPieceArrival fid s := rfl
@[simp] theorem exec_assemblyTimeout (tok : Nat) (s : State) : exec (.assemblyTimeout tok) s = execAssemblyTimeout tok s := rfl
@[simp] theorem exec_tokenRouted (tok : Nat) (rowBad : Option Nat) (colBad : List Nat) (s : State) : exec (.tokenRouted tok rowBad colBad) s = execTokenRouted tok rowBad colBad s := rfl
@[simp] theorem exec_expertOutArrival (fid : Nat) (residueBad : Bool) (s : State) : exec (.expertOutArrival fid residueBad) s = execExpertOutArrival fid residueBad s := rfl
@[simp] theorem exec_combineTimeout (tok : Nat) (s : State) : exec (.combineTimeout tok) s = execCombineTimeout tok s := rfl
@[simp] theorem exec_basisRewriteDone (array : Nat) (page : Nat) (s : State) : exec (.basisRewriteDone array page) s = execBasisRewriteDone array page s := rfl
@[simp] theorem exec_queueHeadAdmit (queue : Nat) (s : State) : exec (.queueHeadAdmit queue) s = execQueueHeadAdmit queue s := rfl
@[simp] theorem exec_contribArrival (fid : Nat) (rowBad : Option Nat) (colBad : List Nat) (s : State) : exec (.contribArrival fid rowBad colBad) s = execContribArrival fid rowBad colBad s := rfl
@[simp] theorem exec_chunkInputsComplete (coll : Nat) (chunk : Nat) (residueBad : Bool) (rowBad : Option Nat) (colBad : List Nat) (s : State) : exec (.chunkInputsComplete coll chunk residueBad rowBad colBad) s = execChunkInputsComplete coll chunk residueBad rowBad colBad s := rfl
@[simp] theorem exec_shadowRunComplete (engine : Nat) (differs : Bool) (s : State) : exec (.shadowRunComplete engine differs) s = execShadowRunComplete engine differs s := rfl
@[simp] theorem exec_shadowTimeout (engine : Nat) (s : State) : exec (.shadowTimeout engine) s = execShadowTimeout engine s := rfl
@[simp] theorem exec_arriveReceived (fid : Nat) (s : State) : exec (.arriveReceived fid) s = execArriveReceived fid s := rfl
@[simp] theorem exec_nodeDoneReceived (fid : Nat) (s : State) : exec (.nodeDoneReceived fid) s = execNodeDoneReceived fid s := rfl
@[simp] theorem exec_endReceived (fid : Nat) (s : State) : exec (.endReceived fid) s = execEndReceived fid s := rfl
@[simp] theorem exec_abortReceived (fid : Nat) (s : State) : exec (.abortReceived fid) s = execAbortReceived fid s := rfl
@[simp] theorem exec_collDeadline (coll : Nat) (s : State) : exec (.collDeadline coll) s = execCollDeadline coll s := rfl
@[simp] theorem exec_bcastChunkArrival (fid : Nat) (s : State) : exec (.bcastChunkArrival fid) s = execBcastChunkArrival fid s := rfl
@[simp] theorem exec_bcAckReceived (fid : Nat) (s : State) : exec (.bcAckReceived fid) s = execBcAckReceived fid s := rfl
@[simp] theorem exec_bcResend (coll : Nat) (s : State) : exec (.bcResend coll) s = execBcResend coll s := rfl
@[simp] theorem exec_digestReceived (fid : Nat) (s : State) : exec (.digestReceived fid) s = execDigestReceived fid s := rfl
@[simp] theorem exec_repairReqReceived (fid : Nat) (s : State) : exec (.repairReqReceived fid) s = execRepairReqReceived fid s := rfl
@[simp] theorem exec_adoptReceived (fid : Nat) (s : State) : exec (.adoptReceived fid) s = execAdoptReceived fid s := rfl
@[simp] theorem exec_adoptTimeout (coll : Nat) (s : State) : exec (.adoptTimeout coll) s = execAdoptTimeout coll s := rfl
@[simp] theorem exec_ringAcquireComplete (ring : Nat) (peaks : List (Nat × Int)) (lit : Bool) (s : State) : exec (.ringAcquireComplete ring peaks lit) s = execRingAcquireComplete ring peaks lit s := rfl
@[simp] theorem exec_heaterWindowExceeded (ring : Nat) (heat : Nat) (s : State) : exec (.heaterWindowExceeded ring heat) s = execHeaterWindowExceeded ring heat s := rfl
@[simp] theorem exec_powerEvaluation (engine : Nat) (means : List Int) (s : State) : exec (.powerEvaluation engine means) s = execPowerEvaluation engine means s := rfl
@[simp] theorem exec_migrationScheduledStart (lane : Nat) (s : State) : exec (.migrationScheduledStart lane) s = execMigrationScheduledStart lane s := rfl
@[simp] theorem exec_migReqReceived (port : Nat) (msg : List Byte) (s : State) : exec (.migReqReceived port msg) s = execMigReqReceived port msg s := rfl
@[simp] theorem exec_migReadyReceived (port : Nat) (msg : List Byte) (s : State) : exec (.migReadyReceived port msg) s = execMigReadyReceived port msg s := rfl
@[simp] theorem exec_migSwitchReceived (port : Nat) (msg : List Byte) (s : State) : exec (.migSwitchReceived port msg) s = execMigSwitchReceived port msg s := rfl
@[simp] theorem exec_migSwitchTime (lane : Nat) (s : State) : exec (.migSwitchTime lane) s = execMigSwitchTime lane s := rfl
@[simp] theorem exec_migDoneReceived (port : Nat) (msg : List Byte) (s : State) : exec (.migDoneReceived port msg) s = execMigDoneReceived port msg s := rfl
@[simp] theorem exec_migAbortReceived (port : Nat) (msg : List Byte) (s : State) : exec (.migAbortReceived port msg) s = execMigAbortReceived port msg s := rfl
@[simp] theorem exec_migAskReceived (port : Nat) (msg : List Byte) (s : State) : exec (.migAskReceived port msg) s = execMigAskReceived port msg s := rfl
@[simp] theorem exec_migTimeout (lane : Nat) (s : State) : exec (.migTimeout lane) s = execMigTimeout lane s := rfl
@[simp] theorem exec_steerTakeover (s : State) : exec .steerTakeover s = execSteerTakeover s := rfl
@[simp] theorem exec_circuitTakeover (part : Nat) (s : State) : exec (.circuitTakeover part) s = execCircuitTakeover part s := rfl
@[simp] theorem exec_xcOutputFall (out : Nat) (power : Int) (s : State) : exec (.xcOutputFall out power) s = execXcOutputFall out power s := rfl
@[simp] theorem exec_timeFrameSend (port : Nat) (s : State) : exec (.timeFrameSend port) s = execTimeFrameSend port s := rfl
@[simp] theorem exec_timeFrameReceive (fid : Nat) (s : State) : exec (.timeFrameReceive fid) s = execTimeFrameReceive fid s := rfl
@[simp] theorem exec_rootWaitExpiry (s : State) : exec .rootWaitExpiry s = execRootWaitExpiry s := rfl
@[simp] theorem exec_parentSilence (s : State) : exec .parentSilence s = execParentSilence s := rfl
@[simp] theorem exec_ptpSyncReceive (src : Nat) (domain : Nat) (gm : Nat) (time : Nat) (logInterval : Int) (utc : Nat) (s : State) : exec (.ptpSyncReceive src domain gm time logInterval utc) s = execPtpSyncReceive src domain gm time logInterval utc s := rfl
@[simp] theorem exec_ptpLoss (s : State) : exec .ptpLoss s = execPtpLoss s := rfl
@[simp] theorem exec_timeBeat (missed : List Nat) (s : State) : exec (.timeBeat missed) s = execTimeBeat missed s := rfl
@[simp] theorem exec_hedgeBeatSend (port : Nat) (s : State) : exec (.hedgeBeatSend port) s = execHedgeBeatSend port s := rfl
@[simp] theorem exec_hedgeBeatReceive (fid : Nat) (s : State) : exec (.hedgeBeatReceive fid) s = execHedgeBeatReceive fid s := rfl
@[simp] theorem exec_neighbourSilent (dim : Nat) (s : State) : exec (.neighbourSilent dim) s = execNeighbourSilent dim s := rfl
@[simp] theorem exec_proposeReceived (fid : Nat) (s : State) : exec (.proposeReceived fid) s = execProposeReceived fid s := rfl
@[simp] theorem exec_voteObservationDue (suspect : Nat) (s : State) : exec (.voteObservationDue suspect) s = execVoteObservationDue suspect s := rfl
@[simp] theorem exec_voteYesReceived (fid : Nat) (s : State) : exec (.voteYesReceived fid) s = execVoteYesReceived fid s := rfl
@[simp] theorem exec_voteNoReceived (fid : Nat) (s : State) : exec (.voteNoReceived fid) s = execVoteNoReceived fid s := rfl
@[simp] theorem exec_voteWindowExpiry (suspect : Nat) (s : State) : exec (.voteWindowExpiry suspect) s = execVoteWindowExpiry suspect s := rfl
@[simp] theorem exec_commitReceived (fid : Nat) (s : State) : exec (.commitReceived fid) s = execCommitReceived fid s := rfl
@[simp] theorem exec_abandonReceived (fid : Nat) (s : State) : exec (.abandonReceived fid) s = execAbandonReceived fid s := rfl
@[simp] theorem exec_noticeReceived (fid : Nat) (s : State) : exec (.noticeReceived fid) s = execNoticeReceived fid s := rfl
@[simp] theorem exec_holdReceived (fid : Nat) (s : State) : exec (.holdReceived fid) s = execHoldReceived fid s := rfl
@[simp] theorem exec_releaseReceived (fid : Nat) (s : State) : exec (.releaseReceived fid) s = execReleaseReceived fid s := rfl
@[simp] theorem exec_expulsionWindowAge (s : State) : exec .expulsionWindowAge s = execExpulsionWindowAge s := rfl
@[simp] theorem exec_scoreRecovery (s : State) : exec .scoreRecovery s = execScoreRecovery s := rfl
@[simp] theorem exec_sinkFence (port : Nat) (s : State) : exec (.sinkFence port) s = execSinkFence port s := rfl
@[simp] theorem exec_discoverySend (port : Nat) (s : State) : exec (.discoverySend port) s = execDiscoverySend port s := rfl
@[simp] theorem exec_discoveryReceive (fid : Nat) (s : State) : exec (.discoveryReceive fid) s = execDiscoveryReceive fid s := rfl
@[simp] theorem exec_boundaryFenceApply (port : Nat) (s : State) : exec (.boundaryFenceApply port) s = execBoundaryFenceApply port s := rfl
@[simp] theorem exec_planWaitExpiry (port : Nat) (s : State) : exec (.planWaitExpiry port) s = execPlanWaitExpiry port s := rfl
@[simp] theorem exec_probationEnd (spine : Nat) (s : State) : exec (.probationEnd spine) s = execProbationEnd spine s := rfl
@[simp] theorem exec_teardownComplete (s : State) : exec .teardownComplete s = execTeardownComplete s := rfl
@[simp] theorem exec_rekeyTimer (link : Nat) (s : State) : exec (.rekeyTimer link) s = execRekeyTimer link s := rfl
@[simp] theorem exec_snapshotLatch (s : State) : exec .snapshotLatch s = execSnapshotLatch s := rfl
@[simp] theorem exec_snapshotWritten (s : State) : exec .snapshotWritten s = execSnapshotWritten s := rfl
@[simp] theorem exec_snapshotExpiry (s : State) : exec .snapshotExpiry s = execSnapshotExpiry s := rfl
@[simp] theorem exec_traceTimeRecord (s : State) : exec .traceTimeRecord s = execTraceTimeRecord s := rfl
@[simp] theorem exec_traceStopTime (s : State) : exec .traceStopTime s = execTraceStopTime s := rfl
@[simp] theorem exec_heaterAtRangeLimit (ring : Nat) (heat : Nat) (s : State) : exec (.heaterAtRangeLimit ring heat) s = execHeaterAtRangeLimit ring heat s := rfl
@[simp] theorem exec_circuitLit (out : Nat) (power : Int) (s : State) : exec (.circuitLit out power) s = execCircuitLit out power s := rfl
@[simp] theorem exec_opticalControlMessageRepeat (lane : Nat) (s : State) : exec (.opticalControlMessageRepeat lane) s = execOpticalControlMessageRepeat lane s := rfl
@[simp] theorem exec_upset (target : UpsetTarget) (s : State) : exec (.upset target) s = execUpset target s := rfl
@[simp] theorem exec_railOutOfRegulation (rail : Nat) (bad : Bool) (s : State) : exec (.railOutOfRegulation rail bad) s = execRailOutOfRegulation rail bad s := rfl

end Sys2Proof.Laws
end

