-- ==== Sys2Proof/Laws/State.lean ====
section
/-!
SUPPORT. Laws/State.lean: what each named update of the state leaves alone, field by field.
-/

set_option Elab.async false

namespace Sys2Proof.Laws

open Sys2Proof Sys2Proof.Machine

/-! setCab -/

@[simp] theorem setCab_pending (s : State) (p : Nat) (c : Cab) : (setCab s p c).pending = s.pending := rfl
@[simp] theorem setCab_raw (s : State) (p : Nat) (c : Cab) : (setCab s p c).raw = s.raw := rfl
@[simp] theorem setCab_pwr (s : State) (p : Nat) (c : Cab) : (setCab s p c).pwr = s.pwr := rfl
@[simp] theorem setCab_regs (s : State) (p : Nat) (c : Cab) : (setCab s p c).regs = s.regs := rfl
@[simp] theorem setCab_ncp (s : State) (p : Nat) (c : Cab) : (setCab s p c).ncp = s.ncp := rfl
@[simp] theorem setCab_st (s : State) (p : Nat) (c : Cab) : (setCab s p c).st = s.st := rfl
@[simp] theorem setCab_yew (s : State) (p : Nat) (c : Cab) : (setCab s p c).yew = s.yew := rfl
@[simp] theorem setCab_loam (s : State) (p : Nat) (c : Cab) : (setCab s p c).loam = s.loam := rfl
@[simp] theorem setCab_bx (s : State) (p : Nat) (c : Cab) : (setCab s p c).bx = s.bx := rfl
@[simp] theorem setCab_sh (s : State) (p : Nat) (c : Cab) : (setCab s p c).sh = s.sh := rfl
@[simp] theorem setCab_lk (s : State) (p : Nat) (c : Cab) : (setCab s p c).lk = s.lk := rfl
@[simp] theorem setCab_laurel (s : State) (p : Nat) (c : Cab) : (setCab s p c).laurel = s.laurel := rfl
@[simp] theorem setCab_kao (s : State) (p : Nat) (c : Cab) : (setCab s p c).kao = s.kao := rfl
@[simp] theorem setCab_marl (s : State) (p : Nat) (c : Cab) : (setCab s p c).marl = s.marl := rfl
@[simp] theorem setCab_tilth (s : State) (p : Nat) (c : Cab) : (setCab s p c).tilth = s.tilth := rfl
@[simp] theorem setCab_prv (s : State) (p : Nat) (c : Cab) : (setCab s p c).prv = s.prv := rfl
@[simp] theorem setCab_xc (s : State) (p : Nat) (c : Cab) : (setCab s p c).xc = s.xc := rfl
@[simp] theorem setCab_holly (s : State) (p : Nat) (c : Cab) : (setCab s p c).holly = s.holly := rfl
@[simp] theorem setCab_out (s : State) (p : Nat) (c : Cab) : (setCab s p c).out = s.out := rfl
@[simp] theorem setCab_freeCtr (s : State) (p : Nat) (c : Cab) : (setCab s p c).freeCtr = s.freeCtr := rfl

/-! setId -/

@[simp] theorem setId_pending (s : State) (p : Nat) (i : PeerId) : (setId s p i).pending = s.pending := rfl
@[simp] theorem setId_raw (s : State) (p : Nat) (i : PeerId) : (setId s p i).raw = s.raw := rfl
@[simp] theorem setId_pwr (s : State) (p : Nat) (i : PeerId) : (setId s p i).pwr = s.pwr := rfl
@[simp] theorem setId_regs (s : State) (p : Nat) (i : PeerId) : (setId s p i).regs = s.regs := rfl
@[simp] theorem setId_ncp (s : State) (p : Nat) (i : PeerId) : (setId s p i).ncp = s.ncp := rfl
@[simp] theorem setId_st (s : State) (p : Nat) (i : PeerId) : (setId s p i).st = s.st := rfl
@[simp] theorem setId_yew (s : State) (p : Nat) (i : PeerId) : (setId s p i).yew = s.yew := rfl
@[simp] theorem setId_loam (s : State) (p : Nat) (i : PeerId) : (setId s p i).loam = s.loam := rfl
@[simp] theorem setId_bx (s : State) (p : Nat) (i : PeerId) : (setId s p i).bx = s.bx := rfl
@[simp] theorem setId_sh (s : State) (p : Nat) (i : PeerId) : (setId s p i).sh = s.sh := rfl
@[simp] theorem setId_lk (s : State) (p : Nat) (i : PeerId) : (setId s p i).lk = s.lk := rfl
@[simp] theorem setId_laurel (s : State) (p : Nat) (i : PeerId) : (setId s p i).laurel = s.laurel := rfl
@[simp] theorem setId_kao (s : State) (p : Nat) (i : PeerId) : (setId s p i).kao = s.kao := rfl
@[simp] theorem setId_marl (s : State) (p : Nat) (i : PeerId) : (setId s p i).marl = s.marl := rfl
@[simp] theorem setId_tilth (s : State) (p : Nat) (i : PeerId) : (setId s p i).tilth = s.tilth := rfl
@[simp] theorem setId_prv (s : State) (p : Nat) (i : PeerId) : (setId s p i).prv = s.prv := rfl
@[simp] theorem setId_xc (s : State) (p : Nat) (i : PeerId) : (setId s p i).xc = s.xc := rfl
@[simp] theorem setId_holly (s : State) (p : Nat) (i : PeerId) : (setId s p i).holly = s.holly := rfl
@[simp] theorem setId_out (s : State) (p : Nat) (i : PeerId) : (setId s p i).out = s.out := rfl
@[simp] theorem setId_freeCtr (s : State) (p : Nat) (i : PeerId) : (setId s p i).freeCtr = s.freeCtr := rfl

/-! setSpine -/

@[simp] theorem setSpine_pending (s : State) (x : Nat) (g : SpineBits → SpineBits) : (setSpine s x g).pending = s.pending := rfl
@[simp] theorem setSpine_raw (s : State) (x : Nat) (g : SpineBits → SpineBits) : (setSpine s x g).raw = s.raw := rfl
@[simp] theorem setSpine_pwr (s : State) (x : Nat) (g : SpineBits → SpineBits) : (setSpine s x g).pwr = s.pwr := rfl
@[simp] theorem setSpine_regs (s : State) (x : Nat) (g : SpineBits → SpineBits) : (setSpine s x g).regs = s.regs := rfl
@[simp] theorem setSpine_ncp (s : State) (x : Nat) (g : SpineBits → SpineBits) : (setSpine s x g).ncp = s.ncp := rfl
@[simp] theorem setSpine_st (s : State) (x : Nat) (g : SpineBits → SpineBits) : (setSpine s x g).st = s.st := rfl
@[simp] theorem setSpine_yew (s : State) (x : Nat) (g : SpineBits → SpineBits) : (setSpine s x g).yew = s.yew := rfl
@[simp] theorem setSpine_loam (s : State) (x : Nat) (g : SpineBits → SpineBits) : (setSpine s x g).loam = s.loam := rfl
@[simp] theorem setSpine_bx (s : State) (x : Nat) (g : SpineBits → SpineBits) : (setSpine s x g).bx = s.bx := rfl
@[simp] theorem setSpine_sh (s : State) (x : Nat) (g : SpineBits → SpineBits) : (setSpine s x g).sh = s.sh := rfl
@[simp] theorem setSpine_lk (s : State) (x : Nat) (g : SpineBits → SpineBits) : (setSpine s x g).lk = s.lk := rfl
@[simp] theorem setSpine_laurel (s : State) (x : Nat) (g : SpineBits → SpineBits) : (setSpine s x g).laurel = s.laurel := rfl
@[simp] theorem setSpine_kao (s : State) (x : Nat) (g : SpineBits → SpineBits) : (setSpine s x g).kao = s.kao := rfl
@[simp] theorem setSpine_marl (s : State) (x : Nat) (g : SpineBits → SpineBits) : (setSpine s x g).marl = s.marl := rfl
@[simp] theorem setSpine_tilth (s : State) (x : Nat) (g : SpineBits → SpineBits) : (setSpine s x g).tilth = s.tilth := rfl
@[simp] theorem setSpine_prv (s : State) (x : Nat) (g : SpineBits → SpineBits) : (setSpine s x g).prv = s.prv := rfl
@[simp] theorem setSpine_xc (s : State) (x : Nat) (g : SpineBits → SpineBits) : (setSpine s x g).xc = s.xc := rfl
@[simp] theorem setSpine_holly (s : State) (x : Nat) (g : SpineBits → SpineBits) : (setSpine s x g).holly = s.holly := rfl
@[simp] theorem setSpine_out (s : State) (x : Nat) (g : SpineBits → SpineBits) : (setSpine s x g).out = s.out := rfl
@[simp] theorem setSpine_freeCtr (s : State) (x : Nat) (g : SpineBits → SpineBits) : (setSpine s x g).freeCtr = s.freeCtr := rfl

/-! setNeigh -/

@[simp] theorem setNeigh_pending (s : State) (d : Nat) (n : Neigh) : (setNeigh s d n).pending = s.pending := rfl
@[simp] theorem setNeigh_raw (s : State) (d : Nat) (n : Neigh) : (setNeigh s d n).raw = s.raw := rfl
@[simp] theorem setNeigh_pwr (s : State) (d : Nat) (n : Neigh) : (setNeigh s d n).pwr = s.pwr := rfl
@[simp] theorem setNeigh_regs (s : State) (d : Nat) (n : Neigh) : (setNeigh s d n).regs = s.regs := rfl
@[simp] theorem setNeigh_ncp (s : State) (d : Nat) (n : Neigh) : (setNeigh s d n).ncp = s.ncp := rfl
@[simp] theorem setNeigh_st (s : State) (d : Nat) (n : Neigh) : (setNeigh s d n).st = s.st := rfl
@[simp] theorem setNeigh_yew (s : State) (d : Nat) (n : Neigh) : (setNeigh s d n).yew = s.yew := rfl
@[simp] theorem setNeigh_loam (s : State) (d : Nat) (n : Neigh) : (setNeigh s d n).loam = s.loam := rfl
@[simp] theorem setNeigh_bx (s : State) (d : Nat) (n : Neigh) : (setNeigh s d n).bx = s.bx := rfl
@[simp] theorem setNeigh_sh (s : State) (d : Nat) (n : Neigh) : (setNeigh s d n).sh = s.sh := rfl
@[simp] theorem setNeigh_lk (s : State) (d : Nat) (n : Neigh) : (setNeigh s d n).lk = s.lk := rfl
@[simp] theorem setNeigh_laurel (s : State) (d : Nat) (n : Neigh) : (setNeigh s d n).laurel = s.laurel := rfl
@[simp] theorem setNeigh_kao (s : State) (d : Nat) (n : Neigh) : (setNeigh s d n).kao = s.kao := rfl
@[simp] theorem setNeigh_marl (s : State) (d : Nat) (n : Neigh) : (setNeigh s d n).marl = s.marl := rfl
@[simp] theorem setNeigh_tilth (s : State) (d : Nat) (n : Neigh) : (setNeigh s d n).tilth = s.tilth := rfl
@[simp] theorem setNeigh_prv (s : State) (d : Nat) (n : Neigh) : (setNeigh s d n).prv = s.prv := rfl
@[simp] theorem setNeigh_xc (s : State) (d : Nat) (n : Neigh) : (setNeigh s d n).xc = s.xc := rfl
@[simp] theorem setNeigh_holly (s : State) (d : Nat) (n : Neigh) : (setNeigh s d n).holly = s.holly := rfl
@[simp] theorem setNeigh_out (s : State) (d : Nat) (n : Neigh) : (setNeigh s d n).out = s.out := rfl
@[simp] theorem setNeigh_freeCtr (s : State) (d : Nat) (n : Neigh) : (setNeigh s d n).freeCtr = s.freeCtr := rfl

/-! dropVote -/

@[simp] theorem dropVote_pending (s : State) (x : Nat) : (dropVote s x).pending = s.pending := rfl
@[simp] theorem dropVote_raw (s : State) (x : Nat) : (dropVote s x).raw = s.raw := rfl
@[simp] theorem dropVote_pwr (s : State) (x : Nat) : (dropVote s x).pwr = s.pwr := rfl
@[simp] theorem dropVote_regs (s : State) (x : Nat) : (dropVote s x).regs = s.regs := rfl
@[simp] theorem dropVote_ncp (s : State) (x : Nat) : (dropVote s x).ncp = s.ncp := rfl
@[simp] theorem dropVote_st (s : State) (x : Nat) : (dropVote s x).st = s.st := rfl
@[simp] theorem dropVote_yew (s : State) (x : Nat) : (dropVote s x).yew = s.yew := rfl
@[simp] theorem dropVote_loam (s : State) (x : Nat) : (dropVote s x).loam = s.loam := rfl
@[simp] theorem dropVote_bx (s : State) (x : Nat) : (dropVote s x).bx = s.bx := rfl
@[simp] theorem dropVote_sh (s : State) (x : Nat) : (dropVote s x).sh = s.sh := rfl
@[simp] theorem dropVote_lk (s : State) (x : Nat) : (dropVote s x).lk = s.lk := rfl
@[simp] theorem dropVote_laurel (s : State) (x : Nat) : (dropVote s x).laurel = s.laurel := rfl
@[simp] theorem dropVote_kao (s : State) (x : Nat) : (dropVote s x).kao = s.kao := rfl
@[simp] theorem dropVote_marl (s : State) (x : Nat) : (dropVote s x).marl = s.marl := rfl
@[simp] theorem dropVote_tilth (s : State) (x : Nat) : (dropVote s x).tilth = s.tilth := rfl
@[simp] theorem dropVote_prv (s : State) (x : Nat) : (dropVote s x).prv = s.prv := rfl
@[simp] theorem dropVote_xc (s : State) (x : Nat) : (dropVote s x).xc = s.xc := rfl
@[simp] theorem dropVote_holly (s : State) (x : Nat) : (dropVote s x).holly = s.holly := rfl
@[simp] theorem dropVote_out (s : State) (x : Nat) : (dropVote s x).out = s.out := rfl
@[simp] theorem dropVote_freeCtr (s : State) (x : Nat) : (dropVote s x).freeCtr = s.freeCtr := rfl

/-! bumpVseq -/

@[simp] theorem bumpVseq_pending (s : State) : (bumpVseq s).pending = s.pending := rfl
@[simp] theorem bumpVseq_raw (s : State) : (bumpVseq s).raw = s.raw := rfl
@[simp] theorem bumpVseq_pwr (s : State) : (bumpVseq s).pwr = s.pwr := rfl
@[simp] theorem bumpVseq_regs (s : State) : (bumpVseq s).regs = s.regs := rfl
@[simp] theorem bumpVseq_ncp (s : State) : (bumpVseq s).ncp = s.ncp := rfl
@[simp] theorem bumpVseq_st (s : State) : (bumpVseq s).st = s.st := rfl
@[simp] theorem bumpVseq_yew (s : State) : (bumpVseq s).yew = s.yew := rfl
@[simp] theorem bumpVseq_loam (s : State) : (bumpVseq s).loam = s.loam := rfl
@[simp] theorem bumpVseq_bx (s : State) : (bumpVseq s).bx = s.bx := rfl
@[simp] theorem bumpVseq_sh (s : State) : (bumpVseq s).sh = s.sh := rfl
@[simp] theorem bumpVseq_lk (s : State) : (bumpVseq s).lk = s.lk := rfl
@[simp] theorem bumpVseq_laurel (s : State) : (bumpVseq s).laurel = s.laurel := rfl
@[simp] theorem bumpVseq_kao (s : State) : (bumpVseq s).kao = s.kao := rfl
@[simp] theorem bumpVseq_marl (s : State) : (bumpVseq s).marl = s.marl := rfl
@[simp] theorem bumpVseq_tilth (s : State) : (bumpVseq s).tilth = s.tilth := rfl
@[simp] theorem bumpVseq_prv (s : State) : (bumpVseq s).prv = s.prv := rfl
@[simp] theorem bumpVseq_xc (s : State) : (bumpVseq s).xc = s.xc := rfl
@[simp] theorem bumpVseq_holly (s : State) : (bumpVseq s).holly = s.holly := rfl
@[simp] theorem bumpVseq_out (s : State) : (bumpVseq s).out = s.out := rfl
@[simp] theorem bumpVseq_freeCtr (s : State) : (bumpVseq s).freeCtr = s.freeCtr := rfl

/-! freshSeq -/

@[simp] theorem freshSeq_pending (s : State) (cls : Nat) : (freshSeq s cls).pending = s.pending := rfl
@[simp] theorem freshSeq_raw (s : State) (cls : Nat) : (freshSeq s cls).raw = s.raw := rfl
@[simp] theorem freshSeq_pwr (s : State) (cls : Nat) : (freshSeq s cls).pwr = s.pwr := rfl
@[simp] theorem freshSeq_regs (s : State) (cls : Nat) : (freshSeq s cls).regs = s.regs := rfl
@[simp] theorem freshSeq_st (s : State) (cls : Nat) : (freshSeq s cls).st = s.st := rfl
@[simp] theorem freshSeq_yew (s : State) (cls : Nat) : (freshSeq s cls).yew = s.yew := rfl
@[simp] theorem freshSeq_loam (s : State) (cls : Nat) : (freshSeq s cls).loam = s.loam := rfl
@[simp] theorem freshSeq_bx (s : State) (cls : Nat) : (freshSeq s cls).bx = s.bx := rfl
@[simp] theorem freshSeq_sh (s : State) (cls : Nat) : (freshSeq s cls).sh = s.sh := rfl
@[simp] theorem freshSeq_lk (s : State) (cls : Nat) : (freshSeq s cls).lk = s.lk := rfl
@[simp] theorem freshSeq_laurel (s : State) (cls : Nat) : (freshSeq s cls).laurel = s.laurel := rfl
@[simp] theorem freshSeq_kao (s : State) (cls : Nat) : (freshSeq s cls).kao = s.kao := rfl
@[simp] theorem freshSeq_marl (s : State) (cls : Nat) : (freshSeq s cls).marl = s.marl := rfl
@[simp] theorem freshSeq_tilth (s : State) (cls : Nat) : (freshSeq s cls).tilth = s.tilth := rfl
@[simp] theorem freshSeq_prv (s : State) (cls : Nat) : (freshSeq s cls).prv = s.prv := rfl
@[simp] theorem freshSeq_xc (s : State) (cls : Nat) : (freshSeq s cls).xc = s.xc := rfl
@[simp] theorem freshSeq_haw (s : State) (cls : Nat) : (freshSeq s cls).haw = s.haw := rfl
@[simp] theorem freshSeq_holly (s : State) (cls : Nat) : (freshSeq s cls).holly = s.holly := rfl
@[simp] theorem freshSeq_out (s : State) (cls : Nat) : (freshSeq s cls).out = s.out := rfl
@[simp] theorem freshSeq_freeCtr (s : State) (cls : Nat) : (freshSeq s cls).freeCtr = s.freeCtr := rfl

/-! setSweep -/

@[simp] theorem setSweep_pending (s : State) (k : Nat) (w : Sweep) : (setSweep s k w).pending = s.pending := rfl
@[simp] theorem setSweep_raw (s : State) (k : Nat) (w : Sweep) : (setSweep s k w).raw = s.raw := rfl
@[simp] theorem setSweep_pwr (s : State) (k : Nat) (w : Sweep) : (setSweep s k w).pwr = s.pwr := rfl
@[simp] theorem setSweep_regs (s : State) (k : Nat) (w : Sweep) : (setSweep s k w).regs = s.regs := rfl
@[simp] theorem setSweep_ncp (s : State) (k : Nat) (w : Sweep) : (setSweep s k w).ncp = s.ncp := rfl
@[simp] theorem setSweep_st (s : State) (k : Nat) (w : Sweep) : (setSweep s k w).st = s.st := rfl
@[simp] theorem setSweep_yew (s : State) (k : Nat) (w : Sweep) : (setSweep s k w).yew = s.yew := rfl
@[simp] theorem setSweep_loam (s : State) (k : Nat) (w : Sweep) : (setSweep s k w).loam = s.loam := rfl
@[simp] theorem setSweep_bx (s : State) (k : Nat) (w : Sweep) : (setSweep s k w).bx = s.bx := rfl
@[simp] theorem setSweep_lk (s : State) (k : Nat) (w : Sweep) : (setSweep s k w).lk = s.lk := rfl
@[simp] theorem setSweep_laurel (s : State) (k : Nat) (w : Sweep) : (setSweep s k w).laurel = s.laurel := rfl
@[simp] theorem setSweep_kao (s : State) (k : Nat) (w : Sweep) : (setSweep s k w).kao = s.kao := rfl
@[simp] theorem setSweep_marl (s : State) (k : Nat) (w : Sweep) : (setSweep s k w).marl = s.marl := rfl
@[simp] theorem setSweep_tilth (s : State) (k : Nat) (w : Sweep) : (setSweep s k w).tilth = s.tilth := rfl
@[simp] theorem setSweep_prv (s : State) (k : Nat) (w : Sweep) : (setSweep s k w).prv = s.prv := rfl
@[simp] theorem setSweep_xc (s : State) (k : Nat) (w : Sweep) : (setSweep s k w).xc = s.xc := rfl
@[simp] theorem setSweep_haw (s : State) (k : Nat) (w : Sweep) : (setSweep s k w).haw = s.haw := rfl
@[simp] theorem setSweep_holly (s : State) (k : Nat) (w : Sweep) : (setSweep s k w).holly = s.holly := rfl
@[simp] theorem setSweep_out (s : State) (k : Nat) (w : Sweep) : (setSweep s k w).out = s.out := rfl
@[simp] theorem setSweep_freeCtr (s : State) (k : Nat) (w : Sweep) : (setSweep s k w).freeCtr = s.freeCtr := rfl

/-! dropSweep -/

@[simp] theorem dropSweep_pending (s : State) (k : Nat) : (dropSweep s k).pending = s.pending := rfl
@[simp] theorem dropSweep_raw (s : State) (k : Nat) : (dropSweep s k).raw = s.raw := rfl
@[simp] theorem dropSweep_pwr (s : State) (k : Nat) : (dropSweep s k).pwr = s.pwr := rfl
@[simp] theorem dropSweep_regs (s : State) (k : Nat) : (dropSweep s k).regs = s.regs := rfl
@[simp] theorem dropSweep_ncp (s : State) (k : Nat) : (dropSweep s k).ncp = s.ncp := rfl
@[simp] theorem dropSweep_st (s : State) (k : Nat) : (dropSweep s k).st = s.st := rfl
@[simp] theorem dropSweep_yew (s : State) (k : Nat) : (dropSweep s k).yew = s.yew := rfl
@[simp] theorem dropSweep_loam (s : State) (k : Nat) : (dropSweep s k).loam = s.loam := rfl
@[simp] theorem dropSweep_bx (s : State) (k : Nat) : (dropSweep s k).bx = s.bx := rfl
@[simp] theorem dropSweep_lk (s : State) (k : Nat) : (dropSweep s k).lk = s.lk := rfl
@[simp] theorem dropSweep_laurel (s : State) (k : Nat) : (dropSweep s k).laurel = s.laurel := rfl
@[simp] theorem dropSweep_kao (s : State) (k : Nat) : (dropSweep s k).kao = s.kao := rfl
@[simp] theorem dropSweep_marl (s : State) (k : Nat) : (dropSweep s k).marl = s.marl := rfl
@[simp] theorem dropSweep_tilth (s : State) (k : Nat) : (dropSweep s k).tilth = s.tilth := rfl
@[simp] theorem dropSweep_prv (s : State) (k : Nat) : (dropSweep s k).prv = s.prv := rfl
@[simp] theorem dropSweep_xc (s : State) (k : Nat) : (dropSweep s k).xc = s.xc := rfl
@[simp] theorem dropSweep_haw (s : State) (k : Nat) : (dropSweep s k).haw = s.haw := rfl
@[simp] theorem dropSweep_holly (s : State) (k : Nat) : (dropSweep s k).holly = s.holly := rfl
@[simp] theorem dropSweep_out (s : State) (k : Nat) : (dropSweep s k).out = s.out := rfl
@[simp] theorem dropSweep_freeCtr (s : State) (k : Nat) : (dropSweep s k).freeCtr = s.freeCtr := rfl

/-! setKEng -/

@[simp] theorem setKEng_pending (s : State) (k : Nat) (e : KEngine) : (setKEng s k e).pending = s.pending := rfl
@[simp] theorem setKEng_raw (s : State) (k : Nat) (e : KEngine) : (setKEng s k e).raw = s.raw := rfl
@[simp] theorem setKEng_pwr (s : State) (k : Nat) (e : KEngine) : (setKEng s k e).pwr = s.pwr := rfl
@[simp] theorem setKEng_regs (s : State) (k : Nat) (e : KEngine) : (setKEng s k e).regs = s.regs := rfl
@[simp] theorem setKEng_ncp (s : State) (k : Nat) (e : KEngine) : (setKEng s k e).ncp = s.ncp := rfl
@[simp] theorem setKEng_st (s : State) (k : Nat) (e : KEngine) : (setKEng s k e).st = s.st := rfl
@[simp] theorem setKEng_yew (s : State) (k : Nat) (e : KEngine) : (setKEng s k e).yew = s.yew := rfl
@[simp] theorem setKEng_loam (s : State) (k : Nat) (e : KEngine) : (setKEng s k e).loam = s.loam := rfl
@[simp] theorem setKEng_bx (s : State) (k : Nat) (e : KEngine) : (setKEng s k e).bx = s.bx := rfl
@[simp] theorem setKEng_sh (s : State) (k : Nat) (e : KEngine) : (setKEng s k e).sh = s.sh := rfl
@[simp] theorem setKEng_lk (s : State) (k : Nat) (e : KEngine) : (setKEng s k e).lk = s.lk := rfl
@[simp] theorem setKEng_laurel (s : State) (k : Nat) (e : KEngine) : (setKEng s k e).laurel = s.laurel := rfl
@[simp] theorem setKEng_marl (s : State) (k : Nat) (e : KEngine) : (setKEng s k e).marl = s.marl := rfl
@[simp] theorem setKEng_tilth (s : State) (k : Nat) (e : KEngine) : (setKEng s k e).tilth = s.tilth := rfl
@[simp] theorem setKEng_prv (s : State) (k : Nat) (e : KEngine) : (setKEng s k e).prv = s.prv := rfl
@[simp] theorem setKEng_xc (s : State) (k : Nat) (e : KEngine) : (setKEng s k e).xc = s.xc := rfl
@[simp] theorem setKEng_haw (s : State) (k : Nat) (e : KEngine) : (setKEng s k e).haw = s.haw := rfl
@[simp] theorem setKEng_holly (s : State) (k : Nat) (e : KEngine) : (setKEng s k e).holly = s.holly := rfl
@[simp] theorem setKEng_out (s : State) (k : Nat) (e : KEngine) : (setKEng s k e).out = s.out := rfl
@[simp] theorem setKEng_freeCtr (s : State) (k : Nat) (e : KEngine) : (setKEng s k e).freeCtr = s.freeCtr := rfl

/-! setEnd -/

@[simp] theorem setEnd_pending (s : State) (l : Nat) (e : LinkEnd) : (setEnd s l e).pending = s.pending := rfl
@[simp] theorem setEnd_raw (s : State) (l : Nat) (e : LinkEnd) : (setEnd s l e).raw = s.raw := rfl
@[simp] theorem setEnd_pwr (s : State) (l : Nat) (e : LinkEnd) : (setEnd s l e).pwr = s.pwr := rfl
@[simp] theorem setEnd_regs (s : State) (l : Nat) (e : LinkEnd) : (setEnd s l e).regs = s.regs := rfl
@[simp] theorem setEnd_ncp (s : State) (l : Nat) (e : LinkEnd) : (setEnd s l e).ncp = s.ncp := rfl
@[simp] theorem setEnd_st (s : State) (l : Nat) (e : LinkEnd) : (setEnd s l e).st = s.st := rfl
@[simp] theorem setEnd_yew (s : State) (l : Nat) (e : LinkEnd) : (setEnd s l e).yew = s.yew := rfl
@[simp] theorem setEnd_loam (s : State) (l : Nat) (e : LinkEnd) : (setEnd s l e).loam = s.loam := rfl
@[simp] theorem setEnd_bx (s : State) (l : Nat) (e : LinkEnd) : (setEnd s l e).bx = s.bx := rfl
@[simp] theorem setEnd_sh (s : State) (l : Nat) (e : LinkEnd) : (setEnd s l e).sh = s.sh := rfl
@[simp] theorem setEnd_laurel (s : State) (l : Nat) (e : LinkEnd) : (setEnd s l e).laurel = s.laurel := rfl
@[simp] theorem setEnd_kao (s : State) (l : Nat) (e : LinkEnd) : (setEnd s l e).kao = s.kao := rfl
@[simp] theorem setEnd_marl (s : State) (l : Nat) (e : LinkEnd) : (setEnd s l e).marl = s.marl := rfl
@[simp] theorem setEnd_tilth (s : State) (l : Nat) (e : LinkEnd) : (setEnd s l e).tilth = s.tilth := rfl
@[simp] theorem setEnd_prv (s : State) (l : Nat) (e : LinkEnd) : (setEnd s l e).prv = s.prv := rfl
@[simp] theorem setEnd_xc (s : State) (l : Nat) (e : LinkEnd) : (setEnd s l e).xc = s.xc := rfl
@[simp] theorem setEnd_haw (s : State) (l : Nat) (e : LinkEnd) : (setEnd s l e).haw = s.haw := rfl
@[simp] theorem setEnd_holly (s : State) (l : Nat) (e : LinkEnd) : (setEnd s l e).holly = s.holly := rfl
@[simp] theorem setEnd_out (s : State) (l : Nat) (e : LinkEnd) : (setEnd s l e).out = s.out := rfl
@[simp] theorem setEnd_freeCtr (s : State) (l : Nat) (e : LinkEnd) : (setEnd s l e).freeCtr = s.freeCtr := rfl

/-! setPortLink -/

@[simp] theorem setPortLink_pending (s : State) (p : Nat) (l : PortLink) : (setPortLink s p l).pending = s.pending := rfl
@[simp] theorem setPortLink_raw (s : State) (p : Nat) (l : PortLink) : (setPortLink s p l).raw = s.raw := rfl
@[simp] theorem setPortLink_pwr (s : State) (p : Nat) (l : PortLink) : (setPortLink s p l).pwr = s.pwr := rfl
@[simp] theorem setPortLink_regs (s : State) (p : Nat) (l : PortLink) : (setPortLink s p l).regs = s.regs := rfl
@[simp] theorem setPortLink_ncp (s : State) (p : Nat) (l : PortLink) : (setPortLink s p l).ncp = s.ncp := rfl
@[simp] theorem setPortLink_st (s : State) (p : Nat) (l : PortLink) : (setPortLink s p l).st = s.st := rfl
@[simp] theorem setPortLink_yew (s : State) (p : Nat) (l : PortLink) : (setPortLink s p l).yew = s.yew := rfl
@[simp] theorem setPortLink_loam (s : State) (p : Nat) (l : PortLink) : (setPortLink s p l).loam = s.loam := rfl
@[simp] theorem setPortLink_bx (s : State) (p : Nat) (l : PortLink) : (setPortLink s p l).bx = s.bx := rfl
@[simp] theorem setPortLink_sh (s : State) (p : Nat) (l : PortLink) : (setPortLink s p l).sh = s.sh := rfl
@[simp] theorem setPortLink_laurel (s : State) (p : Nat) (l : PortLink) : (setPortLink s p l).laurel = s.laurel := rfl
@[simp] theorem setPortLink_kao (s : State) (p : Nat) (l : PortLink) : (setPortLink s p l).kao = s.kao := rfl
@[simp] theorem setPortLink_marl (s : State) (p : Nat) (l : PortLink) : (setPortLink s p l).marl = s.marl := rfl
@[simp] theorem setPortLink_tilth (s : State) (p : Nat) (l : PortLink) : (setPortLink s p l).tilth = s.tilth := rfl
@[simp] theorem setPortLink_prv (s : State) (p : Nat) (l : PortLink) : (setPortLink s p l).prv = s.prv := rfl
@[simp] theorem setPortLink_xc (s : State) (p : Nat) (l : PortLink) : (setPortLink s p l).xc = s.xc := rfl
@[simp] theorem setPortLink_haw (s : State) (p : Nat) (l : PortLink) : (setPortLink s p l).haw = s.haw := rfl
@[simp] theorem setPortLink_holly (s : State) (p : Nat) (l : PortLink) : (setPortLink s p l).holly = s.holly := rfl
@[simp] theorem setPortLink_out (s : State) (p : Nat) (l : PortLink) : (setPortLink s p l).out = s.out := rfl
@[simp] theorem setPortLink_freeCtr (s : State) (p : Nat) (l : PortLink) : (setPortLink s p l).freeCtr = s.freeCtr := rfl

/-! setKeys -/

@[simp] theorem setKeys_pending (s : State) (l : Nat) (k : LinkKeys) : (setKeys s l k).pending = s.pending := rfl
@[simp] theorem setKeys_raw (s : State) (l : Nat) (k : LinkKeys) : (setKeys s l k).raw = s.raw := rfl
@[simp] theorem setKeys_pwr (s : State) (l : Nat) (k : LinkKeys) : (setKeys s l k).pwr = s.pwr := rfl
@[simp] theorem setKeys_regs (s : State) (l : Nat) (k : LinkKeys) : (setKeys s l k).regs = s.regs := rfl
@[simp] theorem setKeys_ncp (s : State) (l : Nat) (k : LinkKeys) : (setKeys s l k).ncp = s.ncp := rfl
@[simp] theorem setKeys_st (s : State) (l : Nat) (k : LinkKeys) : (setKeys s l k).st = s.st := rfl
@[simp] theorem setKeys_yew (s : State) (l : Nat) (k : LinkKeys) : (setKeys s l k).yew = s.yew := rfl
@[simp] theorem setKeys_loam (s : State) (l : Nat) (k : LinkKeys) : (setKeys s l k).loam = s.loam := rfl
@[simp] theorem setKeys_bx (s : State) (l : Nat) (k : LinkKeys) : (setKeys s l k).bx = s.bx := rfl
@[simp] theorem setKeys_sh (s : State) (l : Nat) (k : LinkKeys) : (setKeys s l k).sh = s.sh := rfl
@[simp] theorem setKeys_lk (s : State) (l : Nat) (k : LinkKeys) : (setKeys s l k).lk = s.lk := rfl
@[simp] theorem setKeys_laurel (s : State) (l : Nat) (k : LinkKeys) : (setKeys s l k).laurel = s.laurel := rfl
@[simp] theorem setKeys_kao (s : State) (l : Nat) (k : LinkKeys) : (setKeys s l k).kao = s.kao := rfl
@[simp] theorem setKeys_marl (s : State) (l : Nat) (k : LinkKeys) : (setKeys s l k).marl = s.marl := rfl
@[simp] theorem setKeys_tilth (s : State) (l : Nat) (k : LinkKeys) : (setKeys s l k).tilth = s.tilth := rfl
@[simp] theorem setKeys_prv (s : State) (l : Nat) (k : LinkKeys) : (setKeys s l k).prv = s.prv := rfl
@[simp] theorem setKeys_xc (s : State) (l : Nat) (k : LinkKeys) : (setKeys s l k).xc = s.xc := rfl
@[simp] theorem setKeys_haw (s : State) (l : Nat) (k : LinkKeys) : (setKeys s l k).haw = s.haw := rfl
@[simp] theorem setKeys_out (s : State) (l : Nat) (k : LinkKeys) : (setKeys s l k).out = s.out := rfl
@[simp] theorem setKeys_freeCtr (s : State) (l : Nat) (k : LinkKeys) : (setKeys s l k).freeCtr = s.freeCtr := rfl

/-! dropKeys -/

@[simp] theorem dropKeys_pending (s : State) (l : Nat) : (dropKeys s l).pending = s.pending := rfl
@[simp] theorem dropKeys_raw (s : State) (l : Nat) : (dropKeys s l).raw = s.raw := rfl
@[simp] theorem dropKeys_pwr (s : State) (l : Nat) : (dropKeys s l).pwr = s.pwr := rfl
@[simp] theorem dropKeys_regs (s : State) (l : Nat) : (dropKeys s l).regs = s.regs := rfl
@[simp] theorem dropKeys_ncp (s : State) (l : Nat) : (dropKeys s l).ncp = s.ncp := rfl
@[simp] theorem dropKeys_st (s : State) (l : Nat) : (dropKeys s l).st = s.st := rfl
@[simp] theorem dropKeys_yew (s : State) (l : Nat) : (dropKeys s l).yew = s.yew := rfl
@[simp] theorem dropKeys_loam (s : State) (l : Nat) : (dropKeys s l).loam = s.loam := rfl
@[simp] theorem dropKeys_bx (s : State) (l : Nat) : (dropKeys s l).bx = s.bx := rfl
@[simp] theorem dropKeys_sh (s : State) (l : Nat) : (dropKeys s l).sh = s.sh := rfl
@[simp] theorem dropKeys_lk (s : State) (l : Nat) : (dropKeys s l).lk = s.lk := rfl
@[simp] theorem dropKeys_laurel (s : State) (l : Nat) : (dropKeys s l).laurel = s.laurel := rfl
@[simp] theorem dropKeys_kao (s : State) (l : Nat) : (dropKeys s l).kao = s.kao := rfl
@[simp] theorem dropKeys_marl (s : State) (l : Nat) : (dropKeys s l).marl = s.marl := rfl
@[simp] theorem dropKeys_tilth (s : State) (l : Nat) : (dropKeys s l).tilth = s.tilth := rfl
@[simp] theorem dropKeys_prv (s : State) (l : Nat) : (dropKeys s l).prv = s.prv := rfl
@[simp] theorem dropKeys_xc (s : State) (l : Nat) : (dropKeys s l).xc = s.xc := rfl
@[simp] theorem dropKeys_haw (s : State) (l : Nat) : (dropKeys s l).haw = s.haw := rfl
@[simp] theorem dropKeys_out (s : State) (l : Nat) : (dropKeys s l).out = s.out := rfl
@[simp] theorem dropKeys_freeCtr (s : State) (l : Nat) : (dropKeys s l).freeCtr = s.freeCtr := rfl

/-! setBx -/

@[simp] theorem setBx_pending (s : State) (p : Nat) (b : BxPort) : (setBx s p b).pending = s.pending := rfl
@[simp] theorem setBx_raw (s : State) (p : Nat) (b : BxPort) : (setBx s p b).raw = s.raw := rfl
@[simp] theorem setBx_pwr (s : State) (p : Nat) (b : BxPort) : (setBx s p b).pwr = s.pwr := rfl
@[simp] theorem setBx_regs (s : State) (p : Nat) (b : BxPort) : (setBx s p b).regs = s.regs := rfl
@[simp] theorem setBx_ncp (s : State) (p : Nat) (b : BxPort) : (setBx s p b).ncp = s.ncp := rfl
@[simp] theorem setBx_st (s : State) (p : Nat) (b : BxPort) : (setBx s p b).st = s.st := rfl
@[simp] theorem setBx_yew (s : State) (p : Nat) (b : BxPort) : (setBx s p b).yew = s.yew := rfl
@[simp] theorem setBx_loam (s : State) (p : Nat) (b : BxPort) : (setBx s p b).loam = s.loam := rfl
@[simp] theorem setBx_sh (s : State) (p : Nat) (b : BxPort) : (setBx s p b).sh = s.sh := rfl
@[simp] theorem setBx_lk (s : State) (p : Nat) (b : BxPort) : (setBx s p b).lk = s.lk := rfl
@[simp] theorem setBx_laurel (s : State) (p : Nat) (b : BxPort) : (setBx s p b).laurel = s.laurel := rfl
@[simp] theorem setBx_kao (s : State) (p : Nat) (b : BxPort) : (setBx s p b).kao = s.kao := rfl
@[simp] theorem setBx_marl (s : State) (p : Nat) (b : BxPort) : (setBx s p b).marl = s.marl := rfl
@[simp] theorem setBx_tilth (s : State) (p : Nat) (b : BxPort) : (setBx s p b).tilth = s.tilth := rfl
@[simp] theorem setBx_prv (s : State) (p : Nat) (b : BxPort) : (setBx s p b).prv = s.prv := rfl
@[simp] theorem setBx_xc (s : State) (p : Nat) (b : BxPort) : (setBx s p b).xc = s.xc := rfl
@[simp] theorem setBx_haw (s : State) (p : Nat) (b : BxPort) : (setBx s p b).haw = s.haw := rfl
@[simp] theorem setBx_holly (s : State) (p : Nat) (b : BxPort) : (setBx s p b).holly = s.holly := rfl
@[simp] theorem setBx_out (s : State) (p : Nat) (b : BxPort) : (setBx s p b).out = s.out := rfl
@[simp] theorem setBx_freeCtr (s : State) (p : Nat) (b : BxPort) : (setBx s p b).freeCtr = s.freeCtr := rfl

/-! setQueue -/

@[simp] theorem setQueue_pending (s : State) (u : Nat) (q : List QEnt) : (setQueue s u q).pending = s.pending := rfl
@[simp] theorem setQueue_raw (s : State) (u : Nat) (q : List QEnt) : (setQueue s u q).raw = s.raw := rfl
@[simp] theorem setQueue_pwr (s : State) (u : Nat) (q : List QEnt) : (setQueue s u q).pwr = s.pwr := rfl
@[simp] theorem setQueue_regs (s : State) (u : Nat) (q : List QEnt) : (setQueue s u q).regs = s.regs := rfl
@[simp] theorem setQueue_ncp (s : State) (u : Nat) (q : List QEnt) : (setQueue s u q).ncp = s.ncp := rfl
@[simp] theorem setQueue_st (s : State) (u : Nat) (q : List QEnt) : (setQueue s u q).st = s.st := rfl
@[simp] theorem setQueue_yew (s : State) (u : Nat) (q : List QEnt) : (setQueue s u q).yew = s.yew := rfl
@[simp] theorem setQueue_bx (s : State) (u : Nat) (q : List QEnt) : (setQueue s u q).bx = s.bx := rfl
@[simp] theorem setQueue_sh (s : State) (u : Nat) (q : List QEnt) : (setQueue s u q).sh = s.sh := rfl
@[simp] theorem setQueue_lk (s : State) (u : Nat) (q : List QEnt) : (setQueue s u q).lk = s.lk := rfl
@[simp] theorem setQueue_laurel (s : State) (u : Nat) (q : List QEnt) : (setQueue s u q).laurel = s.laurel := rfl
@[simp] theorem setQueue_kao (s : State) (u : Nat) (q : List QEnt) : (setQueue s u q).kao = s.kao := rfl
@[simp] theorem setQueue_marl (s : State) (u : Nat) (q : List QEnt) : (setQueue s u q).marl = s.marl := rfl
@[simp] theorem setQueue_tilth (s : State) (u : Nat) (q : List QEnt) : (setQueue s u q).tilth = s.tilth := rfl
@[simp] theorem setQueue_prv (s : State) (u : Nat) (q : List QEnt) : (setQueue s u q).prv = s.prv := rfl
@[simp] theorem setQueue_xc (s : State) (u : Nat) (q : List QEnt) : (setQueue s u q).xc = s.xc := rfl
@[simp] theorem setQueue_haw (s : State) (u : Nat) (q : List QEnt) : (setQueue s u q).haw = s.haw := rfl
@[simp] theorem setQueue_holly (s : State) (u : Nat) (q : List QEnt) : (setQueue s u q).holly = s.holly := rfl
@[simp] theorem setQueue_out (s : State) (u : Nat) (q : List QEnt) : (setQueue s u q).out = s.out := rfl
@[simp] theorem setQueue_freeCtr (s : State) (u : Nat) (q : List QEnt) : (setQueue s u q).freeCtr = s.freeCtr := rfl

/-! setMop -/

@[simp] theorem setMop_pending (s : State) (id : Nat) (m : Mop) : (setMop s id m).pending = s.pending := rfl
@[simp] theorem setMop_raw (s : State) (id : Nat) (m : Mop) : (setMop s id m).raw = s.raw := rfl
@[simp] theorem setMop_pwr (s : State) (id : Nat) (m : Mop) : (setMop s id m).pwr = s.pwr := rfl
@[simp] theorem setMop_regs (s : State) (id : Nat) (m : Mop) : (setMop s id m).regs = s.regs := rfl
@[simp] theorem setMop_ncp (s : State) (id : Nat) (m : Mop) : (setMop s id m).ncp = s.ncp := rfl
@[simp] theorem setMop_st (s : State) (id : Nat) (m : Mop) : (setMop s id m).st = s.st := rfl
@[simp] theorem setMop_yew (s : State) (id : Nat) (m : Mop) : (setMop s id m).yew = s.yew := rfl
@[simp] theorem setMop_loam (s : State) (id : Nat) (m : Mop) : (setMop s id m).loam = s.loam := rfl
@[simp] theorem setMop_bx (s : State) (id : Nat) (m : Mop) : (setMop s id m).bx = s.bx := rfl
@[simp] theorem setMop_sh (s : State) (id : Nat) (m : Mop) : (setMop s id m).sh = s.sh := rfl
@[simp] theorem setMop_lk (s : State) (id : Nat) (m : Mop) : (setMop s id m).lk = s.lk := rfl
@[simp] theorem setMop_laurel (s : State) (id : Nat) (m : Mop) : (setMop s id m).laurel = s.laurel := rfl
@[simp] theorem setMop_kao (s : State) (id : Nat) (m : Mop) : (setMop s id m).kao = s.kao := rfl
@[simp] theorem setMop_tilth (s : State) (id : Nat) (m : Mop) : (setMop s id m).tilth = s.tilth := rfl
@[simp] theorem setMop_prv (s : State) (id : Nat) (m : Mop) : (setMop s id m).prv = s.prv := rfl
@[simp] theorem setMop_xc (s : State) (id : Nat) (m : Mop) : (setMop s id m).xc = s.xc := rfl
@[simp] theorem setMop_haw (s : State) (id : Nat) (m : Mop) : (setMop s id m).haw = s.haw := rfl
@[simp] theorem setMop_holly (s : State) (id : Nat) (m : Mop) : (setMop s id m).holly = s.holly := rfl
@[simp] theorem setMop_out (s : State) (id : Nat) (m : Mop) : (setMop s id m).out = s.out := rfl
@[simp] theorem setMop_freeCtr (s : State) (id : Nat) (m : Mop) : (setMop s id m).freeCtr = s.freeCtr := rfl

/-! setArray -/

@[simp] theorem setArray_pending (s : State) (a : Nat) (x : MArray) : (setArray s a x).pending = s.pending := rfl
@[simp] theorem setArray_raw (s : State) (a : Nat) (x : MArray) : (setArray s a x).raw = s.raw := rfl
@[simp] theorem setArray_pwr (s : State) (a : Nat) (x : MArray) : (setArray s a x).pwr = s.pwr := rfl
@[simp] theorem setArray_regs (s : State) (a : Nat) (x : MArray) : (setArray s a x).regs = s.regs := rfl
@[simp] theorem setArray_ncp (s : State) (a : Nat) (x : MArray) : (setArray s a x).ncp = s.ncp := rfl
@[simp] theorem setArray_st (s : State) (a : Nat) (x : MArray) : (setArray s a x).st = s.st := rfl
@[simp] theorem setArray_yew (s : State) (a : Nat) (x : MArray) : (setArray s a x).yew = s.yew := rfl
@[simp] theorem setArray_loam (s : State) (a : Nat) (x : MArray) : (setArray s a x).loam = s.loam := rfl
@[simp] theorem setArray_bx (s : State) (a : Nat) (x : MArray) : (setArray s a x).bx = s.bx := rfl
@[simp] theorem setArray_sh (s : State) (a : Nat) (x : MArray) : (setArray s a x).sh = s.sh := rfl
@[simp] theorem setArray_lk (s : State) (a : Nat) (x : MArray) : (setArray s a x).lk = s.lk := rfl
@[simp] theorem setArray_laurel (s : State) (a : Nat) (x : MArray) : (setArray s a x).laurel = s.laurel := rfl
@[simp] theorem setArray_kao (s : State) (a : Nat) (x : MArray) : (setArray s a x).kao = s.kao := rfl
@[simp] theorem setArray_tilth (s : State) (a : Nat) (x : MArray) : (setArray s a x).tilth = s.tilth := rfl
@[simp] theorem setArray_prv (s : State) (a : Nat) (x : MArray) : (setArray s a x).prv = s.prv := rfl
@[simp] theorem setArray_xc (s : State) (a : Nat) (x : MArray) : (setArray s a x).xc = s.xc := rfl
@[simp] theorem setArray_haw (s : State) (a : Nat) (x : MArray) : (setArray s a x).haw = s.haw := rfl
@[simp] theorem setArray_holly (s : State) (a : Nat) (x : MArray) : (setArray s a x).holly = s.holly := rfl
@[simp] theorem setArray_out (s : State) (a : Nat) (x : MArray) : (setArray s a x).out = s.out := rfl
@[simp] theorem setArray_freeCtr (s : State) (a : Nat) (x : MArray) : (setArray s a x).freeCtr = s.freeCtr := rfl

/-! setTok -/

@[simp] theorem setTok_pending (s : State) (k : Nat) (t : Token) : (setTok s k t).pending = s.pending := rfl
@[simp] theorem setTok_raw (s : State) (k : Nat) (t : Token) : (setTok s k t).raw = s.raw := rfl
@[simp] theorem setTok_pwr (s : State) (k : Nat) (t : Token) : (setTok s k t).pwr = s.pwr := rfl
@[simp] theorem setTok_regs (s : State) (k : Nat) (t : Token) : (setTok s k t).regs = s.regs := rfl
@[simp] theorem setTok_ncp (s : State) (k : Nat) (t : Token) : (setTok s k t).ncp = s.ncp := rfl
@[simp] theorem setTok_st (s : State) (k : Nat) (t : Token) : (setTok s k t).st = s.st := rfl
@[simp] theorem setTok_yew (s : State) (k : Nat) (t : Token) : (setTok s k t).yew = s.yew := rfl
@[simp] theorem setTok_loam (s : State) (k : Nat) (t : Token) : (setTok s k t).loam = s.loam := rfl
@[simp] theorem setTok_bx (s : State) (k : Nat) (t : Token) : (setTok s k t).bx = s.bx := rfl
@[simp] theorem setTok_sh (s : State) (k : Nat) (t : Token) : (setTok s k t).sh = s.sh := rfl
@[simp] theorem setTok_lk (s : State) (k : Nat) (t : Token) : (setTok s k t).lk = s.lk := rfl
@[simp] theorem setTok_laurel (s : State) (k : Nat) (t : Token) : (setTok s k t).laurel = s.laurel := rfl
@[simp] theorem setTok_kao (s : State) (k : Nat) (t : Token) : (setTok s k t).kao = s.kao := rfl
@[simp] theorem setTok_tilth (s : State) (k : Nat) (t : Token) : (setTok s k t).tilth = s.tilth := rfl
@[simp] theorem setTok_prv (s : State) (k : Nat) (t : Token) : (setTok s k t).prv = s.prv := rfl
@[simp] theorem setTok_xc (s : State) (k : Nat) (t : Token) : (setTok s k t).xc = s.xc := rfl
@[simp] theorem setTok_haw (s : State) (k : Nat) (t : Token) : (setTok s k t).haw = s.haw := rfl
@[simp] theorem setTok_holly (s : State) (k : Nat) (t : Token) : (setTok s k t).holly = s.holly := rfl
@[simp] theorem setTok_out (s : State) (k : Nat) (t : Token) : (setTok s k t).out = s.out := rfl
@[simp] theorem setTok_freeCtr (s : State) (k : Nat) (t : Token) : (setTok s k t).freeCtr = s.freeCtr := rfl

/-! setRing -/

@[simp] theorem setRing_pending (s : State) (r : Nat) (x : OptRing) : (setRing s r x).pending = s.pending := rfl
@[simp] theorem setRing_raw (s : State) (r : Nat) (x : OptRing) : (setRing s r x).raw = s.raw := rfl
@[simp] theorem setRing_pwr (s : State) (r : Nat) (x : OptRing) : (setRing s r x).pwr = s.pwr := rfl
@[simp] theorem setRing_regs (s : State) (r : Nat) (x : OptRing) : (setRing s r x).regs = s.regs := rfl
@[simp] theorem setRing_ncp (s : State) (r : Nat) (x : OptRing) : (setRing s r x).ncp = s.ncp := rfl
@[simp] theorem setRing_st (s : State) (r : Nat) (x : OptRing) : (setRing s r x).st = s.st := rfl
@[simp] theorem setRing_yew (s : State) (r : Nat) (x : OptRing) : (setRing s r x).yew = s.yew := rfl
@[simp] theorem setRing_loam (s : State) (r : Nat) (x : OptRing) : (setRing s r x).loam = s.loam := rfl
@[simp] theorem setRing_bx (s : State) (r : Nat) (x : OptRing) : (setRing s r x).bx = s.bx := rfl
@[simp] theorem setRing_sh (s : State) (r : Nat) (x : OptRing) : (setRing s r x).sh = s.sh := rfl
@[simp] theorem setRing_lk (s : State) (r : Nat) (x : OptRing) : (setRing s r x).lk = s.lk := rfl
@[simp] theorem setRing_laurel (s : State) (r : Nat) (x : OptRing) : (setRing s r x).laurel = s.laurel := rfl
@[simp] theorem setRing_kao (s : State) (r : Nat) (x : OptRing) : (setRing s r x).kao = s.kao := rfl
@[simp] theorem setRing_marl (s : State) (r : Nat) (x : OptRing) : (setRing s r x).marl = s.marl := rfl
@[simp] theorem setRing_tilth (s : State) (r : Nat) (x : OptRing) : (setRing s r x).tilth = s.tilth := rfl
@[simp] theorem setRing_xc (s : State) (r : Nat) (x : OptRing) : (setRing s r x).xc = s.xc := rfl
@[simp] theorem setRing_haw (s : State) (r : Nat) (x : OptRing) : (setRing s r x).haw = s.haw := rfl
@[simp] theorem setRing_holly (s : State) (r : Nat) (x : OptRing) : (setRing s r x).holly = s.holly := rfl
@[simp] theorem setRing_out (s : State) (r : Nat) (x : OptRing) : (setRing s r x).out = s.out := rfl
@[simp] theorem setRing_freeCtr (s : State) (r : Nat) (x : OptRing) : (setRing s r x).freeCtr = s.freeCtr := rfl

/-! setLine -/

@[simp] theorem setLine_pending (s : State) (n : Nat) (l : CombLine) : (setLine s n l).pending = s.pending := rfl
@[simp] theorem setLine_raw (s : State) (n : Nat) (l : CombLine) : (setLine s n l).raw = s.raw := rfl
@[simp] theorem setLine_pwr (s : State) (n : Nat) (l : CombLine) : (setLine s n l).pwr = s.pwr := rfl
@[simp] theorem setLine_regs (s : State) (n : Nat) (l : CombLine) : (setLine s n l).regs = s.regs := rfl
@[simp] theorem setLine_ncp (s : State) (n : Nat) (l : CombLine) : (setLine s n l).ncp = s.ncp := rfl
@[simp] theorem setLine_st (s : State) (n : Nat) (l : CombLine) : (setLine s n l).st = s.st := rfl
@[simp] theorem setLine_yew (s : State) (n : Nat) (l : CombLine) : (setLine s n l).yew = s.yew := rfl
@[simp] theorem setLine_loam (s : State) (n : Nat) (l : CombLine) : (setLine s n l).loam = s.loam := rfl
@[simp] theorem setLine_bx (s : State) (n : Nat) (l : CombLine) : (setLine s n l).bx = s.bx := rfl
@[simp] theorem setLine_sh (s : State) (n : Nat) (l : CombLine) : (setLine s n l).sh = s.sh := rfl
@[simp] theorem setLine_lk (s : State) (n : Nat) (l : CombLine) : (setLine s n l).lk = s.lk := rfl
@[simp] theorem setLine_laurel (s : State) (n : Nat) (l : CombLine) : (setLine s n l).laurel = s.laurel := rfl
@[simp] theorem setLine_kao (s : State) (n : Nat) (l : CombLine) : (setLine s n l).kao = s.kao := rfl
@[simp] theorem setLine_marl (s : State) (n : Nat) (l : CombLine) : (setLine s n l).marl = s.marl := rfl
@[simp] theorem setLine_tilth (s : State) (n : Nat) (l : CombLine) : (setLine s n l).tilth = s.tilth := rfl
@[simp] theorem setLine_xc (s : State) (n : Nat) (l : CombLine) : (setLine s n l).xc = s.xc := rfl
@[simp] theorem setLine_haw (s : State) (n : Nat) (l : CombLine) : (setLine s n l).haw = s.haw := rfl
@[simp] theorem setLine_holly (s : State) (n : Nat) (l : CombLine) : (setLine s n l).holly = s.holly := rfl
@[simp] theorem setLine_out (s : State) (n : Nat) (l : CombLine) : (setLine s n l).out = s.out := rfl
@[simp] theorem setLine_freeCtr (s : State) (n : Nat) (l : CombLine) : (setLine s n l).freeCtr = s.freeCtr := rfl

/-! setSieve -/

@[simp] theorem setSieve_pending (s : State) (half : Nat) (x : SieveHalf) : (setSieve s half x).pending = s.pending := rfl
@[simp] theorem setSieve_raw (s : State) (half : Nat) (x : SieveHalf) : (setSieve s half x).raw = s.raw := rfl
@[simp] theorem setSieve_pwr (s : State) (half : Nat) (x : SieveHalf) : (setSieve s half x).pwr = s.pwr := rfl
@[simp] theorem setSieve_regs (s : State) (half : Nat) (x : SieveHalf) : (setSieve s half x).regs = s.regs := rfl
@[simp] theorem setSieve_ncp (s : State) (half : Nat) (x : SieveHalf) : (setSieve s half x).ncp = s.ncp := rfl
@[simp] theorem setSieve_st (s : State) (half : Nat) (x : SieveHalf) : (setSieve s half x).st = s.st := rfl
@[simp] theorem setSieve_yew (s : State) (half : Nat) (x : SieveHalf) : (setSieve s half x).yew = s.yew := rfl
@[simp] theorem setSieve_bx (s : State) (half : Nat) (x : SieveHalf) : (setSieve s half x).bx = s.bx := rfl
@[simp] theorem setSieve_sh (s : State) (half : Nat) (x : SieveHalf) : (setSieve s half x).sh = s.sh := rfl
@[simp] theorem setSieve_lk (s : State) (half : Nat) (x : SieveHalf) : (setSieve s half x).lk = s.lk := rfl
@[simp] theorem setSieve_laurel (s : State) (half : Nat) (x : SieveHalf) : (setSieve s half x).laurel = s.laurel := rfl
@[simp] theorem setSieve_kao (s : State) (half : Nat) (x : SieveHalf) : (setSieve s half x).kao = s.kao := rfl
@[simp] theorem setSieve_marl (s : State) (half : Nat) (x : SieveHalf) : (setSieve s half x).marl = s.marl := rfl
@[simp] theorem setSieve_tilth (s : State) (half : Nat) (x : SieveHalf) : (setSieve s half x).tilth = s.tilth := rfl
@[simp] theorem setSieve_prv (s : State) (half : Nat) (x : SieveHalf) : (setSieve s half x).prv = s.prv := rfl
@[simp] theorem setSieve_xc (s : State) (half : Nat) (x : SieveHalf) : (setSieve s half x).xc = s.xc := rfl
@[simp] theorem setSieve_haw (s : State) (half : Nat) (x : SieveHalf) : (setSieve s half x).haw = s.haw := rfl
@[simp] theorem setSieve_holly (s : State) (half : Nat) (x : SieveHalf) : (setSieve s half x).holly = s.holly := rfl
@[simp] theorem setSieve_out (s : State) (half : Nat) (x : SieveHalf) : (setSieve s half x).out = s.out := rfl
@[simp] theorem setSieve_freeCtr (s : State) (half : Nat) (x : SieveHalf) : (setSieve s half x).freeCtr = s.freeCtr := rfl

/-! setColl -/

@[simp] theorem setColl_pending (s : State) (c : Coll) : (setColl s c).pending = s.pending := rfl
@[simp] theorem setColl_raw (s : State) (c : Coll) : (setColl s c).raw = s.raw := rfl
@[simp] theorem setColl_pwr (s : State) (c : Coll) : (setColl s c).pwr = s.pwr := rfl
@[simp] theorem setColl_regs (s : State) (c : Coll) : (setColl s c).regs = s.regs := rfl
@[simp] theorem setColl_ncp (s : State) (c : Coll) : (setColl s c).ncp = s.ncp := rfl
@[simp] theorem setColl_st (s : State) (c : Coll) : (setColl s c).st = s.st := rfl
@[simp] theorem setColl_yew (s : State) (c : Coll) : (setColl s c).yew = s.yew := rfl
@[simp] theorem setColl_loam (s : State) (c : Coll) : (setColl s c).loam = s.loam := rfl
@[simp] theorem setColl_bx (s : State) (c : Coll) : (setColl s c).bx = s.bx := rfl
@[simp] theorem setColl_sh (s : State) (c : Coll) : (setColl s c).sh = s.sh := rfl
@[simp] theorem setColl_lk (s : State) (c : Coll) : (setColl s c).lk = s.lk := rfl
@[simp] theorem setColl_laurel (s : State) (c : Coll) : (setColl s c).laurel = s.laurel := rfl
@[simp] theorem setColl_kao (s : State) (c : Coll) : (setColl s c).kao = s.kao := rfl
@[simp] theorem setColl_marl (s : State) (c : Coll) : (setColl s c).marl = s.marl := rfl
@[simp] theorem setColl_prv (s : State) (c : Coll) : (setColl s c).prv = s.prv := rfl
@[simp] theorem setColl_xc (s : State) (c : Coll) : (setColl s c).xc = s.xc := rfl
@[simp] theorem setColl_haw (s : State) (c : Coll) : (setColl s c).haw = s.haw := rfl
@[simp] theorem setColl_holly (s : State) (c : Coll) : (setColl s c).holly = s.holly := rfl
@[simp] theorem setColl_out (s : State) (c : Coll) : (setColl s c).out = s.out := rfl
@[simp] theorem setColl_freeCtr (s : State) (c : Coll) : (setColl s c).freeCtr = s.freeCtr := rfl

/-! setQueueT -/

@[simp] theorem setQueueT_pending (s : State) (q : Nat) (x : TQueue) : (setQueueT s q x).pending = s.pending := rfl
@[simp] theorem setQueueT_raw (s : State) (q : Nat) (x : TQueue) : (setQueueT s q x).raw = s.raw := rfl
@[simp] theorem setQueueT_pwr (s : State) (q : Nat) (x : TQueue) : (setQueueT s q x).pwr = s.pwr := rfl
@[simp] theorem setQueueT_regs (s : State) (q : Nat) (x : TQueue) : (setQueueT s q x).regs = s.regs := rfl
@[simp] theorem setQueueT_ncp (s : State) (q : Nat) (x : TQueue) : (setQueueT s q x).ncp = s.ncp := rfl
@[simp] theorem setQueueT_st (s : State) (q : Nat) (x : TQueue) : (setQueueT s q x).st = s.st := rfl
@[simp] theorem setQueueT_yew (s : State) (q : Nat) (x : TQueue) : (setQueueT s q x).yew = s.yew := rfl
@[simp] theorem setQueueT_loam (s : State) (q : Nat) (x : TQueue) : (setQueueT s q x).loam = s.loam := rfl
@[simp] theorem setQueueT_bx (s : State) (q : Nat) (x : TQueue) : (setQueueT s q x).bx = s.bx := rfl
@[simp] theorem setQueueT_sh (s : State) (q : Nat) (x : TQueue) : (setQueueT s q x).sh = s.sh := rfl
@[simp] theorem setQueueT_lk (s : State) (q : Nat) (x : TQueue) : (setQueueT s q x).lk = s.lk := rfl
@[simp] theorem setQueueT_laurel (s : State) (q : Nat) (x : TQueue) : (setQueueT s q x).laurel = s.laurel := rfl
@[simp] theorem setQueueT_kao (s : State) (q : Nat) (x : TQueue) : (setQueueT s q x).kao = s.kao := rfl
@[simp] theorem setQueueT_marl (s : State) (q : Nat) (x : TQueue) : (setQueueT s q x).marl = s.marl := rfl
@[simp] theorem setQueueT_prv (s : State) (q : Nat) (x : TQueue) : (setQueueT s q x).prv = s.prv := rfl
@[simp] theorem setQueueT_xc (s : State) (q : Nat) (x : TQueue) : (setQueueT s q x).xc = s.xc := rfl
@[simp] theorem setQueueT_haw (s : State) (q : Nat) (x : TQueue) : (setQueueT s q x).haw = s.haw := rfl
@[simp] theorem setQueueT_holly (s : State) (q : Nat) (x : TQueue) : (setQueueT s q x).holly = s.holly := rfl
@[simp] theorem setQueueT_out (s : State) (q : Nat) (x : TQueue) : (setQueueT s q x).out = s.out := rfl
@[simp] theorem setQueueT_freeCtr (s : State) (q : Nat) (x : TQueue) : (setQueueT s q x).freeCtr = s.freeCtr := rfl

/-! setThr -/

@[simp] theorem setThr_pending (s : State) (p tc : Nat) (t : Throttle) : (setThr s p tc t).pending = s.pending := rfl
@[simp] theorem setThr_raw (s : State) (p tc : Nat) (t : Throttle) : (setThr s p tc t).raw = s.raw := rfl
@[simp] theorem setThr_pwr (s : State) (p tc : Nat) (t : Throttle) : (setThr s p tc t).pwr = s.pwr := rfl
@[simp] theorem setThr_regs (s : State) (p tc : Nat) (t : Throttle) : (setThr s p tc t).regs = s.regs := rfl
@[simp] theorem setThr_ncp (s : State) (p tc : Nat) (t : Throttle) : (setThr s p tc t).ncp = s.ncp := rfl
@[simp] theorem setThr_st (s : State) (p tc : Nat) (t : Throttle) : (setThr s p tc t).st = s.st := rfl
@[simp] theorem setThr_yew (s : State) (p tc : Nat) (t : Throttle) : (setThr s p tc t).yew = s.yew := rfl
@[simp] theorem setThr_loam (s : State) (p tc : Nat) (t : Throttle) : (setThr s p tc t).loam = s.loam := rfl
@[simp] theorem setThr_bx (s : State) (p tc : Nat) (t : Throttle) : (setThr s p tc t).bx = s.bx := rfl
@[simp] theorem setThr_lk (s : State) (p tc : Nat) (t : Throttle) : (setThr s p tc t).lk = s.lk := rfl
@[simp] theorem setThr_laurel (s : State) (p tc : Nat) (t : Throttle) : (setThr s p tc t).laurel = s.laurel := rfl
@[simp] theorem setThr_kao (s : State) (p tc : Nat) (t : Throttle) : (setThr s p tc t).kao = s.kao := rfl
@[simp] theorem setThr_marl (s : State) (p tc : Nat) (t : Throttle) : (setThr s p tc t).marl = s.marl := rfl
@[simp] theorem setThr_tilth (s : State) (p tc : Nat) (t : Throttle) : (setThr s p tc t).tilth = s.tilth := rfl
@[simp] theorem setThr_prv (s : State) (p tc : Nat) (t : Throttle) : (setThr s p tc t).prv = s.prv := rfl
@[simp] theorem setThr_xc (s : State) (p tc : Nat) (t : Throttle) : (setThr s p tc t).xc = s.xc := rfl
@[simp] theorem setThr_haw (s : State) (p tc : Nat) (t : Throttle) : (setThr s p tc t).haw = s.haw := rfl
@[simp] theorem setThr_holly (s : State) (p tc : Nat) (t : Throttle) : (setThr s p tc t).holly = s.holly := rfl
@[simp] theorem setThr_out (s : State) (p tc : Nat) (t : Throttle) : (setThr s p tc t).out = s.out := rfl
@[simp] theorem setThr_freeCtr (s : State) (p tc : Nat) (t : Throttle) : (setThr s p tc t).freeCtr = s.freeCtr := rfl

/-! setYewPort -/

@[simp] theorem setYewPort_pending (s : State) (p : Nat) (y : YewPort) : (setYewPort s p y).pending = s.pending := rfl
@[simp] theorem setYewPort_raw (s : State) (p : Nat) (y : YewPort) : (setYewPort s p y).raw = s.raw := rfl
@[simp] theorem setYewPort_pwr (s : State) (p : Nat) (y : YewPort) : (setYewPort s p y).pwr = s.pwr := rfl
@[simp] theorem setYewPort_regs (s : State) (p : Nat) (y : YewPort) : (setYewPort s p y).regs = s.regs := rfl
@[simp] theorem setYewPort_ncp (s : State) (p : Nat) (y : YewPort) : (setYewPort s p y).ncp = s.ncp := rfl
@[simp] theorem setYewPort_st (s : State) (p : Nat) (y : YewPort) : (setYewPort s p y).st = s.st := rfl
@[simp] theorem setYewPort_loam (s : State) (p : Nat) (y : YewPort) : (setYewPort s p y).loam = s.loam := rfl
@[simp] theorem setYewPort_bx (s : State) (p : Nat) (y : YewPort) : (setYewPort s p y).bx = s.bx := rfl
@[simp] theorem setYewPort_sh (s : State) (p : Nat) (y : YewPort) : (setYewPort s p y).sh = s.sh := rfl
@[simp] theorem setYewPort_lk (s : State) (p : Nat) (y : YewPort) : (setYewPort s p y).lk = s.lk := rfl
@[simp] theorem setYewPort_laurel (s : State) (p : Nat) (y : YewPort) : (setYewPort s p y).laurel = s.laurel := rfl
@[simp] theorem setYewPort_kao (s : State) (p : Nat) (y : YewPort) : (setYewPort s p y).kao = s.kao := rfl
@[simp] theorem setYewPort_marl (s : State) (p : Nat) (y : YewPort) : (setYewPort s p y).marl = s.marl := rfl
@[simp] theorem setYewPort_tilth (s : State) (p : Nat) (y : YewPort) : (setYewPort s p y).tilth = s.tilth := rfl
@[simp] theorem setYewPort_prv (s : State) (p : Nat) (y : YewPort) : (setYewPort s p y).prv = s.prv := rfl
@[simp] theorem setYewPort_xc (s : State) (p : Nat) (y : YewPort) : (setYewPort s p y).xc = s.xc := rfl
@[simp] theorem setYewPort_haw (s : State) (p : Nat) (y : YewPort) : (setYewPort s p y).haw = s.haw := rfl
@[simp] theorem setYewPort_holly (s : State) (p : Nat) (y : YewPort) : (setYewPort s p y).holly = s.holly := rfl
@[simp] theorem setYewPort_out (s : State) (p : Nat) (y : YewPort) : (setYewPort s p y).out = s.out := rfl
@[simp] theorem setYewPort_freeCtr (s : State) (p : Nat) (y : YewPort) : (setYewPort s p y).freeCtr = s.freeCtr := rfl

/-! setDomain -/

@[simp] theorem setDomain_pending (s : State) (d : Nat) (x : SleepState) : (setDomain s d x).pending = s.pending := rfl
@[simp] theorem setDomain_raw (s : State) (d : Nat) (x : SleepState) : (setDomain s d x).raw = s.raw := rfl
@[simp] theorem setDomain_regs (s : State) (d : Nat) (x : SleepState) : (setDomain s d x).regs = s.regs := rfl
@[simp] theorem setDomain_ncp (s : State) (d : Nat) (x : SleepState) : (setDomain s d x).ncp = s.ncp := rfl
@[simp] theorem setDomain_st (s : State) (d : Nat) (x : SleepState) : (setDomain s d x).st = s.st := rfl
@[simp] theorem setDomain_yew (s : State) (d : Nat) (x : SleepState) : (setDomain s d x).yew = s.yew := rfl
@[simp] theorem setDomain_loam (s : State) (d : Nat) (x : SleepState) : (setDomain s d x).loam = s.loam := rfl
@[simp] theorem setDomain_bx (s : State) (d : Nat) (x : SleepState) : (setDomain s d x).bx = s.bx := rfl
@[simp] theorem setDomain_sh (s : State) (d : Nat) (x : SleepState) : (setDomain s d x).sh = s.sh := rfl
@[simp] theorem setDomain_lk (s : State) (d : Nat) (x : SleepState) : (setDomain s d x).lk = s.lk := rfl
@[simp] theorem setDomain_laurel (s : State) (d : Nat) (x : SleepState) : (setDomain s d x).laurel = s.laurel := rfl
@[simp] theorem setDomain_kao (s : State) (d : Nat) (x : SleepState) : (setDomain s d x).kao = s.kao := rfl
@[simp] theorem setDomain_marl (s : State) (d : Nat) (x : SleepState) : (setDomain s d x).marl = s.marl := rfl
@[simp] theorem setDomain_tilth (s : State) (d : Nat) (x : SleepState) : (setDomain s d x).tilth = s.tilth := rfl
@[simp] theorem setDomain_prv (s : State) (d : Nat) (x : SleepState) : (setDomain s d x).prv = s.prv := rfl
@[simp] theorem setDomain_xc (s : State) (d : Nat) (x : SleepState) : (setDomain s d x).xc = s.xc := rfl
@[simp] theorem setDomain_haw (s : State) (d : Nat) (x : SleepState) : (setDomain s d x).haw = s.haw := rfl
@[simp] theorem setDomain_holly (s : State) (d : Nat) (x : SleepState) : (setDomain s d x).holly = s.holly := rfl
@[simp] theorem setDomain_out (s : State) (d : Nat) (x : SleepState) : (setDomain s d x).out = s.out := rfl
@[simp] theorem setDomain_freeCtr (s : State) (d : Nat) (x : SleepState) : (setDomain s d x).freeCtr = s.freeCtr := rfl

/-! setTxLine -/

@[simp] theorem setTxLine_pending (s : State) (lane l : Nat) : (setTxLine s lane l).pending = s.pending := rfl
@[simp] theorem setTxLine_raw (s : State) (lane l : Nat) : (setTxLine s lane l).raw = s.raw := rfl
@[simp] theorem setTxLine_pwr (s : State) (lane l : Nat) : (setTxLine s lane l).pwr = s.pwr := rfl
@[simp] theorem setTxLine_regs (s : State) (lane l : Nat) : (setTxLine s lane l).regs = s.regs := rfl
@[simp] theorem setTxLine_ncp (s : State) (lane l : Nat) : (setTxLine s lane l).ncp = s.ncp := rfl
@[simp] theorem setTxLine_st (s : State) (lane l : Nat) : (setTxLine s lane l).st = s.st := rfl
@[simp] theorem setTxLine_yew (s : State) (lane l : Nat) : (setTxLine s lane l).yew = s.yew := rfl
@[simp] theorem setTxLine_loam (s : State) (lane l : Nat) : (setTxLine s lane l).loam = s.loam := rfl
@[simp] theorem setTxLine_bx (s : State) (lane l : Nat) : (setTxLine s lane l).bx = s.bx := rfl
@[simp] theorem setTxLine_sh (s : State) (lane l : Nat) : (setTxLine s lane l).sh = s.sh := rfl
@[simp] theorem setTxLine_lk (s : State) (lane l : Nat) : (setTxLine s lane l).lk = s.lk := rfl
@[simp] theorem setTxLine_laurel (s : State) (lane l : Nat) : (setTxLine s lane l).laurel = s.laurel := rfl
@[simp] theorem setTxLine_kao (s : State) (lane l : Nat) : (setTxLine s lane l).kao = s.kao := rfl
@[simp] theorem setTxLine_marl (s : State) (lane l : Nat) : (setTxLine s lane l).marl = s.marl := rfl
@[simp] theorem setTxLine_tilth (s : State) (lane l : Nat) : (setTxLine s lane l).tilth = s.tilth := rfl
@[simp] theorem setTxLine_xc (s : State) (lane l : Nat) : (setTxLine s lane l).xc = s.xc := rfl
@[simp] theorem setTxLine_haw (s : State) (lane l : Nat) : (setTxLine s lane l).haw = s.haw := rfl
@[simp] theorem setTxLine_holly (s : State) (lane l : Nat) : (setTxLine s lane l).holly = s.holly := rfl
@[simp] theorem setTxLine_out (s : State) (lane l : Nat) : (setTxLine s lane l).out = s.out := rfl
@[simp] theorem setTxLine_freeCtr (s : State) (lane l : Nat) : (setTxLine s lane l).freeCtr = s.freeCtr := rfl

/-! setRxLine -/

@[simp] theorem setRxLine_pending (s : State) (lane l : Nat) : (setRxLine s lane l).pending = s.pending := rfl
@[simp] theorem setRxLine_raw (s : State) (lane l : Nat) : (setRxLine s lane l).raw = s.raw := rfl
@[simp] theorem setRxLine_pwr (s : State) (lane l : Nat) : (setRxLine s lane l).pwr = s.pwr := rfl
@[simp] theorem setRxLine_regs (s : State) (lane l : Nat) : (setRxLine s lane l).regs = s.regs := rfl
@[simp] theorem setRxLine_ncp (s : State) (lane l : Nat) : (setRxLine s lane l).ncp = s.ncp := rfl
@[simp] theorem setRxLine_st (s : State) (lane l : Nat) : (setRxLine s lane l).st = s.st := rfl
@[simp] theorem setRxLine_yew (s : State) (lane l : Nat) : (setRxLine s lane l).yew = s.yew := rfl
@[simp] theorem setRxLine_loam (s : State) (lane l : Nat) : (setRxLine s lane l).loam = s.loam := rfl
@[simp] theorem setRxLine_bx (s : State) (lane l : Nat) : (setRxLine s lane l).bx = s.bx := rfl
@[simp] theorem setRxLine_sh (s : State) (lane l : Nat) : (setRxLine s lane l).sh = s.sh := rfl
@[simp] theorem setRxLine_lk (s : State) (lane l : Nat) : (setRxLine s lane l).lk = s.lk := rfl
@[simp] theorem setRxLine_laurel (s : State) (lane l : Nat) : (setRxLine s lane l).laurel = s.laurel := rfl
@[simp] theorem setRxLine_kao (s : State) (lane l : Nat) : (setRxLine s lane l).kao = s.kao := rfl
@[simp] theorem setRxLine_marl (s : State) (lane l : Nat) : (setRxLine s lane l).marl = s.marl := rfl
@[simp] theorem setRxLine_tilth (s : State) (lane l : Nat) : (setRxLine s lane l).tilth = s.tilth := rfl
@[simp] theorem setRxLine_xc (s : State) (lane l : Nat) : (setRxLine s lane l).xc = s.xc := rfl
@[simp] theorem setRxLine_haw (s : State) (lane l : Nat) : (setRxLine s lane l).haw = s.haw := rfl
@[simp] theorem setRxLine_holly (s : State) (lane l : Nat) : (setRxLine s lane l).holly = s.holly := rfl
@[simp] theorem setRxLine_out (s : State) (lane l : Nat) : (setRxLine s lane l).out = s.out := rfl
@[simp] theorem setRxLine_freeCtr (s : State) (lane l : Nat) : (setRxLine s lane l).freeCtr = s.freeCtr := rfl

/-! putMig -/

@[simp] theorem putMig_pending (s : State) (m : Mig) : (putMig s m).pending = s.pending := rfl
@[simp] theorem putMig_raw (s : State) (m : Mig) : (putMig s m).raw = s.raw := rfl
@[simp] theorem putMig_pwr (s : State) (m : Mig) : (putMig s m).pwr = s.pwr := rfl
@[simp] theorem putMig_regs (s : State) (m : Mig) : (putMig s m).regs = s.regs := rfl
@[simp] theorem putMig_ncp (s : State) (m : Mig) : (putMig s m).ncp = s.ncp := rfl
@[simp] theorem putMig_st (s : State) (m : Mig) : (putMig s m).st = s.st := rfl
@[simp] theorem putMig_yew (s : State) (m : Mig) : (putMig s m).yew = s.yew := rfl
@[simp] theorem putMig_loam (s : State) (m : Mig) : (putMig s m).loam = s.loam := rfl
@[simp] theorem putMig_bx (s : State) (m : Mig) : (putMig s m).bx = s.bx := rfl
@[simp] theorem putMig_sh (s : State) (m : Mig) : (putMig s m).sh = s.sh := rfl
@[simp] theorem putMig_lk (s : State) (m : Mig) : (putMig s m).lk = s.lk := rfl
@[simp] theorem putMig_laurel (s : State) (m : Mig) : (putMig s m).laurel = s.laurel := rfl
@[simp] theorem putMig_kao (s : State) (m : Mig) : (putMig s m).kao = s.kao := rfl
@[simp] theorem putMig_marl (s : State) (m : Mig) : (putMig s m).marl = s.marl := rfl
@[simp] theorem putMig_tilth (s : State) (m : Mig) : (putMig s m).tilth = s.tilth := rfl
@[simp] theorem putMig_xc (s : State) (m : Mig) : (putMig s m).xc = s.xc := rfl
@[simp] theorem putMig_haw (s : State) (m : Mig) : (putMig s m).haw = s.haw := rfl
@[simp] theorem putMig_holly (s : State) (m : Mig) : (putMig s m).holly = s.holly := rfl
@[simp] theorem putMig_out (s : State) (m : Mig) : (putMig s m).out = s.out := rfl
@[simp] theorem putMig_freeCtr (s : State) (m : Mig) : (putMig s m).freeCtr = s.freeCtr := rfl

/-! dropMig -/

@[simp] theorem dropMig_pending (s : State) (tx : Bool) (lane : Nat) : (dropMig s tx lane).pending = s.pending := rfl
@[simp] theorem dropMig_raw (s : State) (tx : Bool) (lane : Nat) : (dropMig s tx lane).raw = s.raw := rfl
@[simp] theorem dropMig_pwr (s : State) (tx : Bool) (lane : Nat) : (dropMig s tx lane).pwr = s.pwr := rfl
@[simp] theorem dropMig_regs (s : State) (tx : Bool) (lane : Nat) : (dropMig s tx lane).regs = s.regs := rfl
@[simp] theorem dropMig_ncp (s : State) (tx : Bool) (lane : Nat) : (dropMig s tx lane).ncp = s.ncp := rfl
@[simp] theorem dropMig_st (s : State) (tx : Bool) (lane : Nat) : (dropMig s tx lane).st = s.st := rfl
@[simp] theorem dropMig_yew (s : State) (tx : Bool) (lane : Nat) : (dropMig s tx lane).yew = s.yew := rfl
@[simp] theorem dropMig_loam (s : State) (tx : Bool) (lane : Nat) : (dropMig s tx lane).loam = s.loam := rfl
@[simp] theorem dropMig_bx (s : State) (tx : Bool) (lane : Nat) : (dropMig s tx lane).bx = s.bx := rfl
@[simp] theorem dropMig_sh (s : State) (tx : Bool) (lane : Nat) : (dropMig s tx lane).sh = s.sh := rfl
@[simp] theorem dropMig_lk (s : State) (tx : Bool) (lane : Nat) : (dropMig s tx lane).lk = s.lk := rfl
@[simp] theorem dropMig_laurel (s : State) (tx : Bool) (lane : Nat) : (dropMig s tx lane).laurel = s.laurel := rfl
@[simp] theorem dropMig_kao (s : State) (tx : Bool) (lane : Nat) : (dropMig s tx lane).kao = s.kao := rfl
@[simp] theorem dropMig_marl (s : State) (tx : Bool) (lane : Nat) : (dropMig s tx lane).marl = s.marl := rfl
@[simp] theorem dropMig_tilth (s : State) (tx : Bool) (lane : Nat) : (dropMig s tx lane).tilth = s.tilth := rfl
@[simp] theorem dropMig_xc (s : State) (tx : Bool) (lane : Nat) : (dropMig s tx lane).xc = s.xc := rfl
@[simp] theorem dropMig_haw (s : State) (tx : Bool) (lane : Nat) : (dropMig s tx lane).haw = s.haw := rfl
@[simp] theorem dropMig_holly (s : State) (tx : Bool) (lane : Nat) : (dropMig s tx lane).holly = s.holly := rfl
@[simp] theorem dropMig_out (s : State) (tx : Bool) (lane : Nat) : (dropMig s tx lane).out = s.out := rfl
@[simp] theorem dropMig_freeCtr (s : State) (tx : Bool) (lane : Nat) : (dropMig s tx lane).freeCtr = s.freeCtr := rfl

/-! enqueue -/

@[simp] theorem enqueue_pending (s : State) (u : Nat) (e : QEnt) : (enqueue s u e).pending = s.pending := rfl
@[simp] theorem enqueue_raw (s : State) (u : Nat) (e : QEnt) : (enqueue s u e).raw = s.raw := rfl
@[simp] theorem enqueue_pwr (s : State) (u : Nat) (e : QEnt) : (enqueue s u e).pwr = s.pwr := rfl
@[simp] theorem enqueue_regs (s : State) (u : Nat) (e : QEnt) : (enqueue s u e).regs = s.regs := rfl
@[simp] theorem enqueue_ncp (s : State) (u : Nat) (e : QEnt) : (enqueue s u e).ncp = s.ncp := rfl
@[simp] theorem enqueue_st (s : State) (u : Nat) (e : QEnt) : (enqueue s u e).st = s.st := rfl
@[simp] theorem enqueue_yew (s : State) (u : Nat) (e : QEnt) : (enqueue s u e).yew = s.yew := rfl
@[simp] theorem enqueue_bx (s : State) (u : Nat) (e : QEnt) : (enqueue s u e).bx = s.bx := rfl
@[simp] theorem enqueue_sh (s : State) (u : Nat) (e : QEnt) : (enqueue s u e).sh = s.sh := rfl
@[simp] theorem enqueue_lk (s : State) (u : Nat) (e : QEnt) : (enqueue s u e).lk = s.lk := rfl
@[simp] theorem enqueue_laurel (s : State) (u : Nat) (e : QEnt) : (enqueue s u e).laurel = s.laurel := rfl
@[simp] theorem enqueue_kao (s : State) (u : Nat) (e : QEnt) : (enqueue s u e).kao = s.kao := rfl
@[simp] theorem enqueue_marl (s : State) (u : Nat) (e : QEnt) : (enqueue s u e).marl = s.marl := rfl
@[simp] theorem enqueue_tilth (s : State) (u : Nat) (e : QEnt) : (enqueue s u e).tilth = s.tilth := rfl
@[simp] theorem enqueue_prv (s : State) (u : Nat) (e : QEnt) : (enqueue s u e).prv = s.prv := rfl
@[simp] theorem enqueue_xc (s : State) (u : Nat) (e : QEnt) : (enqueue s u e).xc = s.xc := rfl
@[simp] theorem enqueue_haw (s : State) (u : Nat) (e : QEnt) : (enqueue s u e).haw = s.haw := rfl
@[simp] theorem enqueue_holly (s : State) (u : Nat) (e : QEnt) : (enqueue s u e).holly = s.holly := rfl
@[simp] theorem enqueue_out (s : State) (u : Nat) (e : QEnt) : (enqueue s u e).out = s.out := rfl
@[simp] theorem enqueue_freeCtr (s : State) (u : Nat) (e : QEnt) : (enqueue s u e).freeCtr = s.freeCtr := rfl

/-! freeSpares -/

@[simp] theorem freeSpares_pending (s : State) (p : Nat) : (freeSpares s p).pending = s.pending := rfl
@[simp] theorem freeSpares_raw (s : State) (p : Nat) : (freeSpares s p).raw = s.raw := rfl
@[simp] theorem freeSpares_pwr (s : State) (p : Nat) : (freeSpares s p).pwr = s.pwr := rfl
@[simp] theorem freeSpares_regs (s : State) (p : Nat) : (freeSpares s p).regs = s.regs := rfl
@[simp] theorem freeSpares_ncp (s : State) (p : Nat) : (freeSpares s p).ncp = s.ncp := rfl
@[simp] theorem freeSpares_st (s : State) (p : Nat) : (freeSpares s p).st = s.st := rfl
@[simp] theorem freeSpares_yew (s : State) (p : Nat) : (freeSpares s p).yew = s.yew := rfl
@[simp] theorem freeSpares_loam (s : State) (p : Nat) : (freeSpares s p).loam = s.loam := rfl
@[simp] theorem freeSpares_bx (s : State) (p : Nat) : (freeSpares s p).bx = s.bx := rfl
@[simp] theorem freeSpares_sh (s : State) (p : Nat) : (freeSpares s p).sh = s.sh := rfl
@[simp] theorem freeSpares_laurel (s : State) (p : Nat) : (freeSpares s p).laurel = s.laurel := rfl
@[simp] theorem freeSpares_kao (s : State) (p : Nat) : (freeSpares s p).kao = s.kao := rfl
@[simp] theorem freeSpares_marl (s : State) (p : Nat) : (freeSpares s p).marl = s.marl := rfl
@[simp] theorem freeSpares_tilth (s : State) (p : Nat) : (freeSpares s p).tilth = s.tilth := rfl
@[simp] theorem freeSpares_prv (s : State) (p : Nat) : (freeSpares s p).prv = s.prv := rfl
@[simp] theorem freeSpares_xc (s : State) (p : Nat) : (freeSpares s p).xc = s.xc := rfl
@[simp] theorem freeSpares_haw (s : State) (p : Nat) : (freeSpares s p).haw = s.haw := rfl
@[simp] theorem freeSpares_holly (s : State) (p : Nat) : (freeSpares s p).holly = s.holly := rfl
@[simp] theorem freeSpares_out (s : State) (p : Nat) : (freeSpares s p).out = s.out := rfl
@[simp] theorem freeSpares_freeCtr (s : State) (p : Nat) : (freeSpares s p).freeCtr = s.freeCtr := rfl

/-! dropPend -/

@[simp] theorem dropPend_pending (s : State) (blk inst : Nat) : (dropPend s blk inst).pending = s.pending := rfl
@[simp] theorem dropPend_raw (s : State) (blk inst : Nat) : (dropPend s blk inst).raw = s.raw := rfl
@[simp] theorem dropPend_pwr (s : State) (blk inst : Nat) : (dropPend s blk inst).pwr = s.pwr := rfl
@[simp] theorem dropPend_ncp (s : State) (blk inst : Nat) : (dropPend s blk inst).ncp = s.ncp := rfl
@[simp] theorem dropPend_st (s : State) (blk inst : Nat) : (dropPend s blk inst).st = s.st := rfl
@[simp] theorem dropPend_yew (s : State) (blk inst : Nat) : (dropPend s blk inst).yew = s.yew := rfl
@[simp] theorem dropPend_loam (s : State) (blk inst : Nat) : (dropPend s blk inst).loam = s.loam := rfl
@[simp] theorem dropPend_bx (s : State) (blk inst : Nat) : (dropPend s blk inst).bx = s.bx := rfl
@[simp] theorem dropPend_sh (s : State) (blk inst : Nat) : (dropPend s blk inst).sh = s.sh := rfl
@[simp] theorem dropPend_lk (s : State) (blk inst : Nat) : (dropPend s blk inst).lk = s.lk := rfl
@[simp] theorem dropPend_laurel (s : State) (blk inst : Nat) : (dropPend s blk inst).laurel = s.laurel := rfl
@[simp] theorem dropPend_kao (s : State) (blk inst : Nat) : (dropPend s blk inst).kao = s.kao := rfl
@[simp] theorem dropPend_marl (s : State) (blk inst : Nat) : (dropPend s blk inst).marl = s.marl := rfl
@[simp] theorem dropPend_tilth (s : State) (blk inst : Nat) : (dropPend s blk inst).tilth = s.tilth := rfl
@[simp] theorem dropPend_prv (s : State) (blk inst : Nat) : (dropPend s blk inst).prv = s.prv := rfl
@[simp] theorem dropPend_xc (s : State) (blk inst : Nat) : (dropPend s blk inst).xc = s.xc := rfl
@[simp] theorem dropPend_haw (s : State) (blk inst : Nat) : (dropPend s blk inst).haw = s.haw := rfl
@[simp] theorem dropPend_holly (s : State) (blk inst : Nat) : (dropPend s blk inst).holly = s.holly := rfl
@[simp] theorem dropPend_out (s : State) (blk inst : Nat) : (dropPend s blk inst).out = s.out := rfl
@[simp] theorem dropPend_freeCtr (s : State) (blk inst : Nat) : (dropPend s blk inst).freeCtr = s.freeCtr := rfl

/-! emit -/

@[simp] theorem emit_pending (s : State) (e : Emit) : (emit s e).pending = s.pending := rfl
@[simp] theorem emit_raw (s : State) (e : Emit) : (emit s e).raw = s.raw := rfl
@[simp] theorem emit_pwr (s : State) (e : Emit) : (emit s e).pwr = s.pwr := rfl
@[simp] theorem emit_regs (s : State) (e : Emit) : (emit s e).regs = s.regs := rfl
@[simp] theorem emit_ncp (s : State) (e : Emit) : (emit s e).ncp = s.ncp := rfl
@[simp] theorem emit_st (s : State) (e : Emit) : (emit s e).st = s.st := rfl
@[simp] theorem emit_yew (s : State) (e : Emit) : (emit s e).yew = s.yew := rfl
@[simp] theorem emit_loam (s : State) (e : Emit) : (emit s e).loam = s.loam := rfl
@[simp] theorem emit_bx (s : State) (e : Emit) : (emit s e).bx = s.bx := rfl
@[simp] theorem emit_sh (s : State) (e : Emit) : (emit s e).sh = s.sh := rfl
@[simp] theorem emit_lk (s : State) (e : Emit) : (emit s e).lk = s.lk := rfl
@[simp] theorem emit_laurel (s : State) (e : Emit) : (emit s e).laurel = s.laurel := rfl
@[simp] theorem emit_kao (s : State) (e : Emit) : (emit s e).kao = s.kao := rfl
@[simp] theorem emit_marl (s : State) (e : Emit) : (emit s e).marl = s.marl := rfl
@[simp] theorem emit_tilth (s : State) (e : Emit) : (emit s e).tilth = s.tilth := rfl
@[simp] theorem emit_prv (s : State) (e : Emit) : (emit s e).prv = s.prv := rfl
@[simp] theorem emit_xc (s : State) (e : Emit) : (emit s e).xc = s.xc := rfl
@[simp] theorem emit_haw (s : State) (e : Emit) : (emit s e).haw = s.haw := rfl
@[simp] theorem emit_holly (s : State) (e : Emit) : (emit s e).holly = s.holly := rfl
@[simp] theorem emit_freeCtr (s : State) (e : Emit) : (emit s e).freeCtr = s.freeCtr := rfl

/-! regKeep -/

@[simp] theorem regKeep_pending (s : State) (blk inst off idx v : Nat) : (regKeep s blk inst off idx v).pending = s.pending := rfl
@[simp] theorem regKeep_raw (s : State) (blk inst off idx v : Nat) : (regKeep s blk inst off idx v).raw = s.raw := rfl
@[simp] theorem regKeep_pwr (s : State) (blk inst off idx v : Nat) : (regKeep s blk inst off idx v).pwr = s.pwr := rfl
@[simp] theorem regKeep_ncp (s : State) (blk inst off idx v : Nat) : (regKeep s blk inst off idx v).ncp = s.ncp := rfl
@[simp] theorem regKeep_st (s : State) (blk inst off idx v : Nat) : (regKeep s blk inst off idx v).st = s.st := rfl
@[simp] theorem regKeep_yew (s : State) (blk inst off idx v : Nat) : (regKeep s blk inst off idx v).yew = s.yew := rfl
@[simp] theorem regKeep_loam (s : State) (blk inst off idx v : Nat) : (regKeep s blk inst off idx v).loam = s.loam := rfl
@[simp] theorem regKeep_bx (s : State) (blk inst off idx v : Nat) : (regKeep s blk inst off idx v).bx = s.bx := rfl
@[simp] theorem regKeep_sh (s : State) (blk inst off idx v : Nat) : (regKeep s blk inst off idx v).sh = s.sh := rfl
@[simp] theorem regKeep_lk (s : State) (blk inst off idx v : Nat) : (regKeep s blk inst off idx v).lk = s.lk := rfl
@[simp] theorem regKeep_laurel (s : State) (blk inst off idx v : Nat) : (regKeep s blk inst off idx v).laurel = s.laurel := rfl
@[simp] theorem regKeep_kao (s : State) (blk inst off idx v : Nat) : (regKeep s blk inst off idx v).kao = s.kao := rfl
@[simp] theorem regKeep_marl (s : State) (blk inst off idx v : Nat) : (regKeep s blk inst off idx v).marl = s.marl := rfl
@[simp] theorem regKeep_tilth (s : State) (blk inst off idx v : Nat) : (regKeep s blk inst off idx v).tilth = s.tilth := rfl
@[simp] theorem regKeep_prv (s : State) (blk inst off idx v : Nat) : (regKeep s blk inst off idx v).prv = s.prv := rfl
@[simp] theorem regKeep_xc (s : State) (blk inst off idx v : Nat) : (regKeep s blk inst off idx v).xc = s.xc := rfl
@[simp] theorem regKeep_haw (s : State) (blk inst off idx v : Nat) : (regKeep s blk inst off idx v).haw = s.haw := rfl
@[simp] theorem regKeep_holly (s : State) (blk inst off idx v : Nat) : (regKeep s blk inst off idx v).holly = s.holly := rfl
@[simp] theorem regKeep_out (s : State) (blk inst off idx v : Nat) : (regKeep s blk inst off idx v).out = s.out := rfl
@[simp] theorem regKeep_freeCtr (s : State) (blk inst off idx v : Nat) : (regKeep s blk inst off idx v).freeCtr = s.freeCtr := rfl

/-! regKeepShadow -/

@[simp] theorem regKeepShadow_pending (s : State) (blk inst off idx v : Nat) : (regKeepShadow s blk inst off idx v).pending = s.pending := rfl
@[simp] theorem regKeepShadow_raw (s : State) (blk inst off idx v : Nat) : (regKeepShadow s blk inst off idx v).raw = s.raw := rfl
@[simp] theorem regKeepShadow_pwr (s : State) (blk inst off idx v : Nat) : (regKeepShadow s blk inst off idx v).pwr = s.pwr := rfl
@[simp] theorem regKeepShadow_ncp (s : State) (blk inst off idx v : Nat) : (regKeepShadow s blk inst off idx v).ncp = s.ncp := rfl
@[simp] theorem regKeepShadow_st (s : State) (blk inst off idx v : Nat) : (regKeepShadow s blk inst off idx v).st = s.st := rfl
@[simp] theorem regKeepShadow_yew (s : State) (blk inst off idx v : Nat) : (regKeepShadow s blk inst off idx v).yew = s.yew := rfl
@[simp] theorem regKeepShadow_loam (s : State) (blk inst off idx v : Nat) : (regKeepShadow s blk inst off idx v).loam = s.loam := rfl
@[simp] theorem regKeepShadow_bx (s : State) (blk inst off idx v : Nat) : (regKeepShadow s blk inst off idx v).bx = s.bx := rfl
@[simp] theorem regKeepShadow_sh (s : State) (blk inst off idx v : Nat) : (regKeepShadow s blk inst off idx v).sh = s.sh := rfl
@[simp] theorem regKeepShadow_lk (s : State) (blk inst off idx v : Nat) : (regKeepShadow s blk inst off idx v).lk = s.lk := rfl
@[simp] theorem regKeepShadow_laurel (s : State) (blk inst off idx v : Nat) : (regKeepShadow s blk inst off idx v).laurel = s.laurel := rfl
@[simp] theorem regKeepShadow_kao (s : State) (blk inst off idx v : Nat) : (regKeepShadow s blk inst off idx v).kao = s.kao := rfl
@[simp] theorem regKeepShadow_marl (s : State) (blk inst off idx v : Nat) : (regKeepShadow s blk inst off idx v).marl = s.marl := rfl
@[simp] theorem regKeepShadow_tilth (s : State) (blk inst off idx v : Nat) : (regKeepShadow s blk inst off idx v).tilth = s.tilth := rfl
@[simp] theorem regKeepShadow_prv (s : State) (blk inst off idx v : Nat) : (regKeepShadow s blk inst off idx v).prv = s.prv := rfl
@[simp] theorem regKeepShadow_xc (s : State) (blk inst off idx v : Nat) : (regKeepShadow s blk inst off idx v).xc = s.xc := rfl
@[simp] theorem regKeepShadow_haw (s : State) (blk inst off idx v : Nat) : (regKeepShadow s blk inst off idx v).haw = s.haw := rfl
@[simp] theorem regKeepShadow_holly (s : State) (blk inst off idx v : Nat) : (regKeepShadow s blk inst off idx v).holly = s.holly := rfl
@[simp] theorem regKeepShadow_out (s : State) (blk inst off idx v : Nat) : (regKeepShadow s blk inst off idx v).out = s.out := rfl
@[simp] theorem regKeepShadow_freeCtr (s : State) (blk inst off idx v : Nat) : (regKeepShadow s blk inst off idx v).freeCtr = s.freeCtr := rfl

end Sys2Proof.Laws
end

