-- ==== Sys2Proof/Laws/Ops.lean ====
section
/-!
SUPPORT. Laws/Ops.lean: everything that raising events and answering a command can do.
-/

set_option Elab.async false

namespace Sys2Proof.Laws

open Sys2Proof Sys2Proof.Machine

/-- Only the telemetry, the score, the freeze bit and the sent items may differ. -/
def Raised (s t : State) : Prop := t = { s with st := t.st, haw := t.haw, regs := t.regs, out := t.out }

theorem Raised.refl (s : State) : Raised s s := rfl

theorem Raised.trans {s t u : State} (h : Raised s t) (g : Raised t u) : Raised s u := by
  unfold Raised at *; rw [g, h]

theorem raised_with (s : State) (st ha re ou) : Raised s { s with st := st, haw := ha, regs := re, out := ou } := rfl

theorem raised_ite {p : Prop} [Decidable p] {s a b : State} (h : Raised s a) (g : Raised s b) : Raised s (if p then a else b) := by
  split <;> assumption

theorem raised_foldl {α : Type} {f : State → α → State} (h : ∀ t x, Raised t (f t x)) (l : List α) (s : State) : Raised s (l.foldl f s) := by
  induction l generalizing s with
  | nil => exact Raised.refl s
  | cons a l ih => exact (h s a).trans (ih _)

theorem raised_ctrAdd (s : State) (src n : Nat) : Raised s (ctrAdd s src n) := rfl

theorem raised_traceStage (s : State) (r : List Byte) : Raised s (traceStage s r) := by
  unfold traceStage; split
  · exact Raised.refl s
  · dsimp only; split <;> rfl

theorem raised_record (s : State) (e : Ev) (scope : Nat) (r : Rec) : Raised s (record s e scope r) := by
  unfold record
  refine raised_ite (Raised.refl s) ?_
  dsimp only
  have h : Raised s (if flag s .FREEZE then s else ringPush s (ringOf e scope)
      { time := nowNs s, qual := qualOf s (regionOf e scope), akind := r.akind, rseq := 0, source := sourceOf e scope, part := r.part, args := r.args }) :=
    raised_ite (Raised.refl s) rfl
  split
  · exact h
  · exact raised_ite (h.trans (raised_traceStage _ _)) h

theorem raised_bump (s : State) (e : Ev) (scope n : Nat) (r : Rec) : Raised s (bump s e scope n r) :=
  (raised_ctrAdd s _ n).trans (raised_record _ _ _ _)

theorem raised_sendAlert (s : State) (kind source value arg : Nat) : Raised s (sendAlert s kind source value arg) := by
  unfold sendAlert
  dsimp only
  split
  · split <;> rfl
  · refine Raised.trans ?_ (raised_bump _ _ _ _ _)
    rfl

theorem raised_checkThreshold (s : State) (src arg : Nat) : Raised s (checkThreshold s src arg) := by
  unfold checkThreshold
  split
  · refine raised_ite ?_ (Raised.refl s)
    refine Raised.trans ?_ (raised_sendAlert _ _ _ _ _)
    refine Raised.trans ?_ (raised_bump _ _ _ _ _)
    rfl
  · exact Raised.refl s

theorem raised_setFld (s : State) (f : Fld) (v : Nat) : Raised s (setFld s f v) := by
  unfold setFld setFldAt regKeep; exact raised_with s s.st s.haw _ s.out

theorem raised_alarmFreeze (s : State) : Raised s (alarmFreeze s) := by
  unfold alarmFreeze
  refine raised_ite ?_ (Raised.refl s)
  refine Raised.trans ?_ (raised_bump _ _ _ _ _)
  exact (raised_setFld s .FREEZE 1).trans (raised_with _ _ _ _ _)

/-- An event changes its telemetry, the score it is evidence of, and what is sent: nothing else. -/
theorem raised_raiseN (s : State) (e : Ev) (scope n : Nat) (r : Rec) : Raised s (raiseN s e scope n r) := by
  unfold raiseN
  refine raised_ite (Raised.refl s) ?_
  dsimp only
  have h1 := (raised_bump s e scope n r).trans (raised_checkThreshold _ (sourceOf e scope) (r.args.getD 0 0))
  have tail : ∀ t, Raised s t → Raised s (match evidenceClass e with
      | some k => if countsAsEvidence s e scope then evidence t k else t
      | none => t) := by
    intro t ht
    split
    · exact raised_ite (ht.trans rfl) ht
    · exact ht
  refine tail _ (Raised.trans ?_ (raised_foldl (fun t q => raised_checkThreshold t q 0) _ _))
  exact raised_ite (h1.trans ((raised_sendAlert _ _ _ _ _).trans (raised_alarmFreeze _))) h1

theorem raised_raise (s : State) (e : Ev) (scope : Nat) (r : Rec) : Raised s (raise s e scope r) := raised_raiseN s e scope 1 r

@[simp] theorem raise_pending (s : State) (e : Ev) (scope : Nat) (r : Rec) : (raise s e scope r).pending = s.pending := by rw [raised_raise]
@[simp] theorem raise_raw (s : State) (e : Ev) (scope : Nat) (r : Rec) : (raise s e scope r).raw = s.raw := by rw [raised_raise]
@[simp] theorem raise_pwr (s : State) (e : Ev) (scope : Nat) (r : Rec) : (raise s e scope r).pwr = s.pwr := by rw [raised_raise]
@[simp] theorem raise_ncp (s : State) (e : Ev) (scope : Nat) (r : Rec) : (raise s e scope r).ncp = s.ncp := by rw [raised_raise]
@[simp] theorem raise_yew (s : State) (e : Ev) (scope : Nat) (r : Rec) : (raise s e scope r).yew = s.yew := by rw [raised_raise]
@[simp] theorem raise_loam (s : State) (e : Ev) (scope : Nat) (r : Rec) : (raise s e scope r).loam = s.loam := by rw [raised_raise]
@[simp] theorem raise_bx (s : State) (e : Ev) (scope : Nat) (r : Rec) : (raise s e scope r).bx = s.bx := by rw [raised_raise]
@[simp] theorem raise_sh (s : State) (e : Ev) (scope : Nat) (r : Rec) : (raise s e scope r).sh = s.sh := by rw [raised_raise]
@[simp] theorem raise_lk (s : State) (e : Ev) (scope : Nat) (r : Rec) : (raise s e scope r).lk = s.lk := by rw [raised_raise]
@[simp] theorem raise_laurel (s : State) (e : Ev) (scope : Nat) (r : Rec) : (raise s e scope r).laurel = s.laurel := by rw [raised_raise]
@[simp] theorem raise_kao (s : State) (e : Ev) (scope : Nat) (r : Rec) : (raise s e scope r).kao = s.kao := by rw [raised_raise]
@[simp] theorem raise_marl (s : State) (e : Ev) (scope : Nat) (r : Rec) : (raise s e scope r).marl = s.marl := by rw [raised_raise]
@[simp] theorem raise_tilth (s : State) (e : Ev) (scope : Nat) (r : Rec) : (raise s e scope r).tilth = s.tilth := by rw [raised_raise]
@[simp] theorem raise_prv (s : State) (e : Ev) (scope : Nat) (r : Rec) : (raise s e scope r).prv = s.prv := by rw [raised_raise]
@[simp] theorem raise_xc (s : State) (e : Ev) (scope : Nat) (r : Rec) : (raise s e scope r).xc = s.xc := by rw [raised_raise]
@[simp] theorem raise_holly (s : State) (e : Ev) (scope : Nat) (r : Rec) : (raise s e scope r).holly = s.holly := by rw [raised_raise]
@[simp] theorem raise_freeCtr (s : State) (e : Ev) (scope : Nat) (r : Rec) : (raise s e scope r).freeCtr = s.freeCtr := by rw [raised_raise]

/-! Answers -/

/-- Only Heath's command state and the sent items may differ. -/
def Answered (s t : State) : Prop := t = { s with ncp := t.ncp, out := t.out }

theorem Answered.trans {s t u : State} (h : Answered s t) (g : Answered t u) : Answered s u := by
  unfold Answered at *; rw [g, h]

theorem answered_cacheReply (s : State) (cls seq op : Nat) (body : List Byte) : Answered s (cacheReply s cls seq op body) := by
  unfold cacheReply; split <;> rfl

theorem answered_mbxPump (s : State) (k : Nat) : Answered s (mbxPump s k) := by
  unfold mbxPump; dsimp only; split
  · rfl
  · split <;> rfl

theorem answered_emits (s : State) (via : Transport) (msgs : List (List Byte)) : Answered s (msgs.foldl (fun t m => emit t (.reply via m)) s) := by
  induction msgs generalizing s with
  | nil => rfl
  | cons m l ih => exact Answered.trans (t := emit s (.reply via m)) rfl (ih _)

/-- An answer over UDP or a mailbox changes Heath's command state and what is sent: nothing else. -/
theorem answered_finish (s : State) (c : Ncp) (op : Nat) (code : Code) (step index : Nat) (res : List Byte)
    (h : ∀ p src, c.via ≠ .inband p src) : Answered s (finish s c op code step index res) := by
  unfold finish
  dsimp only
  have h1 : ∀ u : State, Answered s u → Answered s (deliver u c.via (replyMsgs (keyOfAuth s c.auth) c.via false op c.seq (partOf c.auth)
      (replyBody code step index res))) := by
    intro u hu
    unfold deliver
    split
    · exact hu.trans (answered_emits _ _ _)
    · split
      · exact hu
      · refine hu.trans (Answered.trans ?_ (answered_mbxPump _ _))
        rfl
    · exact absurd ‹_› (h _ _)
  refine h1 _ ?_
  split
  · rfl
  · refine Answered.trans ?_ (answered_cacheReply _ _ _ _ _)
    rfl

end Sys2Proof.Laws
end

