-- ==== Sys2Proof/Laws/Store.lean ====
section
/-!
SUPPORT. Laws/Store.lean: bounds on the reserved pools and the spill thresholds of Loam.
-/

set_option Elab.async false

namespace Sys2Proof.Laws

open Sys2Proof Sys2Proof.Machine

theorem foldl_add_le {k : Nat} (l : List Nat) (h : ∀ x ∈ l, x ≤ k) (a : Nat) : l.foldl (· + ·) a ≤ a + k * l.length := by
  induction l generalizing a with
  | nil => simp
  | cons x l ih =>
    have h1 := h x List.mem_cons_self
    have h2 := ih (fun y hy => h y (List.mem_cons_of_mem _ hy)) (a + x)
    simp only [List.foldl_cons, List.length_cons, Nat.mul_add, Nat.mul_one]
    omega

theorem escClasses_le (s : State) (p : Nat) : escClasses s p ≤ 6 := by
  unfold escClasses; split
  · exact Nat.zero_le _
  · split <;> decide

theorem enabledTiles_le (s : State) : enabledTiles s ≤ 160 := by
  unfold enabledTiles
  exact Nat.le_trans (List.length_filter_le _ _) (by simp)

/-- The reserved pools never exceed what the tiles, the ports, the gate lists and the reservations ask for (Table 3.5). -/
theorem reservedCells_le (s : State) :
    reservedCells s ≤ 160 * fld s .LAND_RESV + fld s .TC6_RESV + tc7ResvAll s + 7680 * fld s .ESC_RESV + resvCells s := by
  have h : ((List.range nPorts).map (escClasses s)).foldl (· + ·) 0 ≤ 7680 := by
    have := foldl_add_le (k := 6) ((List.range nPorts).map (escClasses s)) (by simp only [List.mem_map]; rintro x ⟨p, -, rfl⟩; exact escClasses_le s p) 0
    simpa [nPorts] using this
  have h1 := Nat.mul_le_mul_right (fld s .LAND_RESV) (enabledTiles_le s)
  have h2 := Nat.mul_le_mul_right (fld s .ESC_RESV) h
  unfold reservedCells
  dsimp only
  omega

theorem sharedSize_le (s : State) : sharedSize s ≤ 4194304 := by
  have h : nCells = 4194304 := rfl
  unfold sharedSize; omega

theorem sharedSize_ge {s : State} {n : Nat} (h : retiredCells s + reservedCells s ≤ n) : 4194304 - n ≤ sharedSize s := by
  have h : nCells = 4194304 := rfl
  unfold sharedSize; omega

theorem thresholdCells_le (s : State) (x : Nat) : thresholdCells s x ≤ 4194304 * x :=
  Nat.mul_le_mul_right _ (sharedSize_le s)

theorem thresholdCells_ge {s : State} {n : Nat} (x : Nat) (h : retiredCells s + reservedCells s ≤ n) :
    (4194304 - n) * x ≤ thresholdCells s x :=
  Nat.mul_le_mul_right _ (sharedSize_ge h)

end Sys2Proof.Laws
end

