-- ==== Sys2Proof/Laws/Table.lean ====
section
/-!
SUPPORT. Laws/Table.lean: reading after writing a sparse table, the rising order of its keys, and the lengths of the byte strings of
Bits.lean.
-/

set_option Elab.async false

namespace Sys2Proof.Laws

open Sys2Proof Sys2Proof.Machine

variable {α : Type}

/-! Reading after writing -/

@[simp] theorem tfind_tins_self (t : Table α) (k : Nat) (v : α) : tfind (tins t k v) k = some v := by
  induction t with
  | nil => simp [tins, tfind]
  | cons e t ih => obtain ⟨j, w⟩ := e; simp only [tins]; split <;> (try split) <;> simp_all [tfind]

theorem tfind_tins_other (t : Table α) {j k : Nat} (v : α) (h : j ≠ k) : tfind (tins t k v) j = tfind t j := by
  induction t with
  | nil => simp [tins, tfind, Ne.symm h]
  | cons e t ih =>
    obtain ⟨i, w⟩ := e
    simp only [tins]
    split
    · simp [tfind, Ne.symm h]
    · split
      · subst i; simp [tfind, Ne.symm h]
      · simp [tfind, ih]

theorem tfind_tdel_other (t : Table α) {j k : Nat} (h : j ≠ k) : tfind (tdel t k) j = tfind t j := by
  induction t with
  | nil => rfl
  | cons e t ih =>
    obtain ⟨i, w⟩ := e
    simp only [tdel]
    split
    · subst i; simp [tfind, Ne.symm h]
    · simp [tfind, ih]

theorem tget_eq_tfind (d : α) (t : Table α) (k : Nat) : tget d t k = (tfind t k).getD d := by
  induction t with
  | nil => rfl
  | cons e t ih => obtain ⟨i, w⟩ := e; simp only [tget, tfind]; split <;> simp_all

theorem tget_tset_other [DecidableEq α] (d : α) (t : Table α) {j k : Nat} (v : α) (h : j ≠ k) : tget d (tset d t k v) j = tget d t j := by
  unfold tset; split
  · rw [tget_eq_tfind, tget_eq_tfind, tfind_tdel_other t h]
  · rw [tget_eq_tfind, tget_eq_tfind, tfind_tins_other t v h]

/-! The rising order -/

/-- The keys of a table rise strictly. -/
def Rising (t : Table α) : Prop := (t.map (·.1)).Pairwise (· < ·)

@[simp] theorem rising_nil : Rising ([] : Table α) := by simp [Rising]

theorem rising_cons {k : Nat} {v : α} {t : Table α} : Rising ((k, v) :: t) ↔ (∀ e ∈ t, k < e.1) ∧ Rising t := by
  simp [Rising, List.pairwise_cons]

theorem mem_tdel {t : Table α} {k : Nat} {e : Nat × α} (h : e ∈ tdel t k) : e ∈ t := by
  induction t with
  | nil => exact h
  | cons f t ih =>
    obtain ⟨i, w⟩ := f
    simp only [tdel] at h
    split at h
    · exact List.mem_cons_of_mem _ h
    · rcases List.mem_cons.1 h with h | h
      · exact h ▸ List.mem_cons_self
      · exact List.mem_cons_of_mem _ (ih h)

theorem mem_tins {t : Table α} {k : Nat} {v : α} {e : Nat × α} (h : e ∈ tins t k v) : e = (k, v) ∨ e ∈ t := by
  induction t with
  | nil => simpa [tins] using h
  | cons f t ih =>
    obtain ⟨i, w⟩ := f
    simp only [tins] at h
    split at h
    · simpa using h
    · split at h
      · rcases List.mem_cons.1 h with h | h
        · exact Or.inl h
        · exact Or.inr (List.mem_cons_of_mem _ h)
      · rcases List.mem_cons.1 h with h | h
        · exact Or.inr (h ▸ List.mem_cons_self)
        · rcases ih h with h | h
          · exact Or.inl h
          · exact Or.inr (List.mem_cons_of_mem _ h)

theorem rising_tdel {t : Table α} (k : Nat) (h : Rising t) : Rising (tdel t k) := by
  induction t with
  | nil => exact h
  | cons e t ih =>
    obtain ⟨i, w⟩ := e
    rw [rising_cons] at h
    simp only [tdel]
    split
    · exact h.2
    · exact rising_cons.2 ⟨fun e he => h.1 e (mem_tdel he), ih h.2⟩

theorem rising_tins {t : Table α} (k : Nat) (v : α) (h : Rising t) : Rising (tins t k v) := by
  induction t with
  | nil => simp [tins, Rising]
  | cons e t ih =>
    obtain ⟨i, w⟩ := e
    have h' := rising_cons.1 h
    simp only [tins]
    split
    · rename_i hk
      refine rising_cons.2 ⟨fun e he => ?_, h⟩
      rcases List.mem_cons.1 he with he | he
      · exact he ▸ hk
      · exact Nat.lt_trans hk (h'.1 e he)
    · split
      · subst i; exact rising_cons.2 h'
      · refine rising_cons.2 ⟨fun e he => ?_, ih h'.2⟩
        rcases mem_tins he with he | he
        · subst he; simp; omega
        · exact h'.1 e he

theorem rising_tset [DecidableEq α] (d : α) {t : Table α} (k : Nat) (v : α) (h : Rising t) : Rising (tset d t k v) := by
  unfold tset; split
  · exact rising_tdel k h
  · exact rising_tins k v h

theorem tfind_none_of_rising {t : Table α} {k : Nat} (h : ∀ e ∈ t, k < e.1) : tfind t k = none := by
  induction t with
  | nil => rfl
  | cons e t ih =>
    obtain ⟨i, w⟩ := e
    have := h (i, w) List.mem_cons_self
    simp only [tfind]
    rw [if_neg (by simp at this; omega)]
    exact ih fun e he => h e (List.mem_cons_of_mem _ he)

theorem tfind_tdel_self {t : Table α} (k : Nat) (h : Rising t) : tfind (tdel t k) k = none := by
  induction t with
  | nil => rfl
  | cons e t ih =>
    obtain ⟨i, w⟩ := e
    rw [rising_cons] at h
    simp only [tdel]
    split
    · subst i; exact tfind_none_of_rising h.1
    · simp only [tfind]; rw [if_neg ‹_›]; exact ih h.2

theorem tget_tset_self [DecidableEq α] (d : α) {t : Table α} (k : Nat) (v : α) (h : Rising t) : tget d (tset d t k v) k = v := by
  unfold tset; split
  · rw [tget_eq_tfind, tfind_tdel_self k h]; simp_all
  · rw [tget_eq_tfind, tfind_tins_self]; rfl

/-! The canonical form -/

theorem keysAbove_some {b : Nat} {t : Table α} : keysAbove (some b) t = true ↔ (∀ e ∈ t, b < e.1) ∧ Rising t := by
  induction t generalizing b with
  | nil => simp [keysAbove]
  | cons e t ih =>
    obtain ⟨i, w⟩ := e
    simp only [keysAbove, Bool.and_eq_true, decide_eq_true_eq, ih, rising_cons, List.mem_cons]
    constructor
    · rintro ⟨h, h1, h2⟩
      refine ⟨?_, h1, h2⟩
      rintro e (rfl | he)
      · exact h
      · exact Nat.lt_trans h (h1 e he)
    · rintro ⟨h, h1, h2⟩
      exact ⟨h (i, w) (Or.inl rfl), h1, h2⟩

theorem keysAbove_none {t : Table α} : keysAbove none t = true ↔ Rising t := by
  cases t with
  | nil => simp [keysAbove]
  | cons e t => obtain ⟨i, w⟩ := e; simp only [keysAbove, keysAbove_some, rising_cons]

theorem tableWf_iff [DecidableEq α] {d : α} {t : Table α} : tableWf d t = true ↔ Rising t ∧ ∀ e ∈ t, e.2 ≠ d := by
  simp [tableWf, keysAbove_none]

/-- A write keeps the canonical form: rising keys, and no entry equal to what an unlisted key reads as. -/
theorem tableWf_tset [DecidableEq α] {d : α} {t : Table α} (k : Nat) (v : α) (h : tableWf d t = true) : tableWf d (tset d t k v) = true := by
  rw [tableWf_iff] at *
  refine ⟨rising_tset d k v h.1, fun e he => ?_⟩
  unfold tset at he
  split at he
  · exact h.2 e (mem_tdel he)
  · rcases mem_tins he with rfl | he
    · assumption
    · exact h.2 e he

theorem tableWf_tmod [DecidableEq α] {d : α} {t : Table α} (k : Nat) (f : α → α) (h : tableWf d t = true) : tableWf d (tmod d t k f) = true :=
  tableWf_tset k _ h

/-! Bytes -/

@[simp] theorem beBytes_length (n v : Nat) : (beBytes n v).length = n := by
  induction n <;> simp_all [beBytes]

@[simp] theorem zeroBytes_length (n : Nat) : (zeroBytes n).length = n := by simp [zeroBytes]

@[simp] theorem bytesAt_length (l : List Byte) (off n : Nat) : (bytesAt l off n).length = n := by
  simp only [bytesAt, List.length_append, List.length_replicate, List.length_take, List.length_drop]; omega

theorem beNat_append (a b : List Byte) : beNat (a ++ b) = beNat a * 256 ^ b.length + beNat b := by
  have key : ∀ (l : List Byte) (x : Nat), l.foldl (fun a b => a * 256 + b.toNat) x = x * 256 ^ l.length + beNat l := by
    intro l
    induction l with
    | nil => intro x; simp [beNat]
    | cons c l ih =>
      intro x
      simp only [List.foldl_cons, beNat, List.length_cons]
      rw [ih, ih (0 * 256 + c.toNat), Nat.pow_succ, Nat.add_mul, Nat.zero_mul, Nat.zero_add, Nat.mul_assoc, Nat.mul_comm 256,
        Nat.add_assoc]
  rw [beNat, List.foldl_append, key, ← beNat]

/-- A number reads back from its bytes, modulo their range. -/
theorem beNat_beBytes (n v : Nat) : beNat (beBytes n v) = v % 256 ^ n := by
  induction n with
  | zero => simp [beBytes, beNat, Nat.mod_one]
  | succ n ih =>
    have h : beBytes (n + 1) v = [BitVec.ofNat 8 (v / 256 ^ n)] ++ beBytes n v := rfl
    rw [h, beNat_append, ih, beBytes_length]
    have e : v % 256 ^ (n + 1) = v % 256 ^ n + 256 ^ n * (v / 256 ^ n % 256) := Nat.mod_mul
    rw [e]
    simp only [beNat, List.foldl_cons, List.foldl_nil, BitVec.toNat_ofNat, Nat.zero_mul, Nat.zero_add]
    rw [Nat.mul_comm, Nat.add_comm]

theorem bytesAt_append_right {a b : List Byte} {off n : Nat} (h : a.length ≤ off) : bytesAt (a ++ b) off n = bytesAt b (off - a.length) n := by
  simp [bytesAt, List.drop_append, h, List.drop_eq_nil_of_le]

theorem bytesAt_append_left {a b : List Byte} {n : Nat} (h : a.length = n) : bytesAt (a ++ b) 0 n = a := by
  subst h; simp [bytesAt]

theorem beAt_append_right {a b : List Byte} {off n : Nat} (h : a.length ≤ off) : beAt (a ++ b) off n = beAt b (off - a.length) n := by
  simp [beAt, bytesAt_append_right h]

/-- The first field of a packed byte string. -/
theorem beAt_beBytes_append (n v : Nat) (b : List Byte) : beAt (beBytes n v ++ b) 0 n = v % 256 ^ n := by
  rw [beAt, bytesAt_append_left (beBytes_length n v), beNat_beBytes]

theorem beAt_beBytes (n v : Nat) : beAt (beBytes n v) 0 n = v % 256 ^ n := by
  simpa using beAt_beBytes_append n v []

end Sys2Proof.Laws
end

