-- ==== Sys2Proof/Laws/View.lean ====
section
/-!
SUPPORT. Laws/View.lean: what a command keeps of the queue, RAW, the power state, the owner key and debug: the shared operations.
-/

set_option Elab.async false

namespace Sys2Proof.Laws

open Sys2Proof Sys2Proof.Machine

/-! The view -/

/-- What almost no command changes: the queue, RAW, the core of the power state, the owner key and debug. -/
structure View where
  pending : List Instr
  raw : Nat
  pwr : Power
  ownerKey : Option (List Byte)
  debug : Bool

/-- The power state without the sleep of the domains, its times and the reset cause. -/
def pwrCore (p : Power) : Power := { p with domains := [], lastWork := [], sleptAt := [], cause := 0 }

/-- The view of a state. -/
def view (s : State) : View :=
  { pending := s.pending, raw := s.raw, pwr := pwrCore s.pwr, ownerKey := s.holly.ownerKey, debug := s.holly.debug }

@[simp] theorem view_with (s : State) (re nc st ye lo bx sh lk la ka ma ti pr xc ha ou fr) :
    view ⟨s.pending, s.raw, s.pwr, re, nc, st, ye, lo, bx, sh, lk, la, ka, ma, ti, pr, xc, ha, s.holly, ou, fr⟩ = view s := rfl

@[simp] theorem view_with_holly (s : State) (re nc st ye lo bx sh lk la ka ma ti pr xc ha ou fr li bi ke nk mc m5 m6 sc fb er no) :
    view ⟨s.pending, s.raw, s.pwr, re, nc, st, ye, lo, bx, sh, lk, la, ka, ma, ti, pr, xc, ha,
      ⟨s.holly.ownerKey, li, bi, ke, nk, mc, m5, m6, s.holly.debug, sc, fb, er, no⟩, ou, fr⟩ = view s := rfl

@[simp] theorem view_ite {p : Prop} [Decidable p] (a b : State) : view (if p then a else b) = if p then view a else view b := apply_ite _ _ _ _
@[simp] theorem view_ite2 {α} {p : Prop} [Decidable p] (a b : α × State) : view (if p then a else b).2 = if p then view a.2 else view b.2 := by split <;> rfl
@[simp] theorem view_ite1 {α} {p : Prop} [Decidable p] (a b : State × α) : view (if p then a else b).1 = if p then view a.1 else view b.1 := by split <;> rfl

@[simp] theorem view_foldl {α} {f : State → α → State} (l : List α) (s : State) (h : ∀ t x, view (f t x) = view t) :
    view (l.foldl f s) = view s := by
  induction l generalizing s with
  | nil => rfl
  | cons a l ih => simp [ih, h]

theorem view_if {p : Prop} [Decidable p] {a b : State} {v : View} (h : view a = v) (g : view b = v) :
    view (if p then a else b) = v := by split <;> assumption

theorem snd_view {α : Type} {x : α × State} {a : α} {t : State} {v : View} (h : x = (a, t)) (hx : view x.2 = v) : view t = v := by
  subst h; exact hx

/-- An outcome that, where it is a next state, keeps the view. -/
def keeps (s : State) : Res → Prop
  | .next t => view t = view s
  | _ => True

@[simp] theorem keeps_next (s t : State) : keeps s (.next t) ↔ view t = view s := Iff.rfl
@[simp] theorem keeps_fault (s : State) (r) : keeps s (.fault r) := trivial
@[simp] theorem keeps_refused (s : State) (r) : keeps s (.refused r) := trivial
@[simp] theorem keeps_ite (s : State) {p : Prop} [Decidable p] (a b : Res) : keeps s (if p then a else b) ↔ if p then keeps s a else keeps s b := by split <;> rfl

theorem keeps_atUnit {s : State} {u n : Nat} {t : State} (h : view t = view s) : keeps s (atUnit u n t) := by
  unfold atUnit; split <;> simp [h]
theorem keeps_atPort {s : State} {p : Nat} {t : State} (h : view t = view s) : keeps s (atPort p t) := by
  unfold atPort; split <;> simp [h]
theorem keeps_atLink {s : State} {l : Nat} {t : State} (h : view t = view s) : keeps s (atLink l t) := by
  unfold atLink; split <;> simp [h]
theorem keeps_atLane {s : State} {p i : Nat} {t u : State} (h : view t = view s) : keeps s (atLane u p i t) := by
  unfold atLane; split <;> simp [h]

def okr (s : State) : Except Bad (List Byte × State) → Prop
  | .ok x => view x.2 = view s
  | .error _ => True
def oks (s : State) : Except Bad State → Prop
  | .ok x => view x = view s
  | .error _ => True
@[simp] theorem okr_ok (s : State) (x) : okr s (.ok x) ↔ view x.2 = view s := Iff.rfl
@[simp] theorem okr_pure (s : State) (x) : okr s (pure x) ↔ view x.2 = view s := Iff.rfl
@[simp] theorem okr_error (s : State) (b) : okr s (.error b) := trivial
@[simp] theorem okr_fail (s : State) (a b c) : okr s (failWith a b c) := trivial
@[simp] theorem oks_ok (s : State) (x) : oks s (.ok x) ↔ view x = view s := Iff.rfl
@[simp] theorem oks_pure (s : State) (x) : oks s (pure x) ↔ view x = view s := Iff.rfl
@[simp] theorem oks_error (s : State) (b) : oks s (.error b) := trivial
@[simp] theorem oks_fail (s : State) (a b c) : oks s (failWith a b c) := trivial
theorem okr_bind {α} {s : State} {x : Except Bad α} {f} (h : ∀ a, x = .ok a → okr s (f a)) : okr s (x >>= f) := by
  cases x with
  | error b => trivial
  | ok a => exact h a rfl
theorem oks_bind {α} {s : State} {x : Except Bad α} {f} (h : ∀ a, x = .ok a → oks s (f a)) : oks s (x >>= f) := by
  cases x with
  | error b => trivial
  | ok a => exact h a rfl
theorem ok_of_atStep {α} {k : Nat} {r : Except Code α} {a} (h : atStep k r = .ok a) : r = .ok a := by
  cases r with
  | error e => cases h
  | ok b => cases h; rfl

/-! Time -/

@[simp] theorem view_takeFree (s : State) (bound : Nat) : view (takeFree s bound).2 = view s := by
  simp [takeFree]

@[simp] theorem view_emit (s : State) (e : Emit) : view (emit s e) = view s := by
  simp [emit]

/-! Regs -/

@[simp] theorem view_regKeep (s : State) (blk inst off idx v : Nat) : view (regKeep s blk inst off idx v) = view s := by
  simp [regKeep]

@[simp] theorem view_regKeepShadow (s : State) (blk inst off idx v : Nat) : view (regKeepShadow s blk inst off idx v) = view s := by
  simp [regKeepShadow]

@[simp] theorem view_setFldAt (s : State) (f : Fld) (inst k idx v : Nat) : view (setFldAt s f inst k idx v) = view s := by
  simp [setFldAt]

@[simp] theorem view_setFld (s : State) (f : Fld) (v : Nat) : view (setFld s f v) = view s := by
  simp [setFld]

/-! Ports -/

@[simp] theorem view_setPortLink (s : State) (p : Nat) (l : PortLink) : view (setPortLink s p l) = view s := by
  simp [setPortLink]

/-! Ops -/

@[simp] theorem view_atPort (p : Nat) (t : State) : keeps t (atPort p t) := by
  simp [atPort]

@[simp] theorem view_atUnit (u n : Nat) (t : State) : keeps t (atUnit u n t) := by
  simp [atUnit]

@[simp] theorem view_ringPush (s : State) (path : Nat) (r : RingRec) : view (ringPush s path r) = view s := by
  simp [ringPush]

@[simp] theorem view_ctrAdd (s : State) (src n : Nat) : view (ctrAdd s src n) = view s := by
  simp [ctrAdd]

@[simp] theorem view_evidence (s : State) (cls : Nat) : view (evidence s cls) = view s := by
  simp [evidence]

@[simp] theorem view_traceStage (s : State) (r : List Byte) : view (traceStage s r) = view s := by
  unfold traceStage
  repeat' split
  all_goals simp [*]

@[simp] theorem view_record (s : State) (e : Ev) (scope : Nat) (r : Rec) : view (record s e scope r) = view s := by
  unfold record
  repeat' split
  all_goals simp [*]

@[simp] theorem view_bump (s : State) (e : Ev) (scope n : Nat) (r : Rec) : view (bump s e scope n r) = view s := by
  simp [bump]

@[simp] theorem view_sendAlert (s : State) (kind source value arg : Nat) : view (sendAlert s kind source value arg) = view s := by
  unfold sendAlert
  try dsimp only
  repeat' split
  all_goals simp [*]

@[simp] theorem view_checkThreshold (s : State) (src arg : Nat) : view (checkThreshold s src arg) = view s := by
  unfold checkThreshold
  repeat' split
  all_goals simp [*]

@[simp] theorem view_alarmFreeze (s : State) : view (alarmFreeze s) = view s := by
  unfold alarmFreeze
  refine view_if ?_ rfl
  extract_lets s1 src
  rw [view_bump, view_with]
  exact view_setFld s .FREEZE 1

@[simp] theorem view_raiseN (s : State) (e : Ev) (scope n : Nat) (r : Rec) : view (raiseN s e scope n r) = view s := by
  unfold raiseN
  repeat' split
  all_goals simp [*]

@[simp] theorem view_raise (s : State) (e : Ev) (scope : Nat) (r : Rec) : view (raise s e scope r) = view s := by
  simp [raise]

@[simp] theorem view_raiseEach (s : State) (e : Ev) (scopes : List Nat) (r : Rec) : view (raiseEach s e scopes r) = view s := by
  simp [raiseEach]

@[simp] theorem view_slotThresholds (s : State) : view (slotThresholds s) = view s := by
  simp [slotThresholds]

@[simp] theorem view_ctrReset (s : State) (src : Nat) (tag : Option (Nat × Nat)) : view (ctrReset s src tag) = view s := by
  unfold ctrReset
  repeat' split
  all_goals simp [*]

/-! LoamOps -/

@[simp] theorem view_setBx (s : State) (p : Nat) (b : BxPort) : view (setBx s p b) = view s := by
  simp [setBx]

@[simp] theorem view_noteSpill (s : State) : view (noteSpill s) = view s := by
  simp [noteSpill]

@[simp] theorem view_noteOld (s : State) (e : Nat) : view (noteOld s e) = view s := by
  simp [noteOld]

@[simp] theorem view_storeFrame (s : State) (f : StoredFrame) (n refs : Nat) : view (storeFrame s f n refs).2 = view s := by
  simp [storeFrame]

@[simp] theorem view_setRefs (s : State) (fid refs : Nat) : view (setRefs s fid refs) = view s := by
  unfold setRefs
  repeat' split
  all_goals simp [*]

@[simp] theorem view_setDests (s : State) (fid : Nat) (d : List (Nat × QEnt)) : view (setDests s fid d) = view s := by
  simp [setDests]

@[simp] theorem view_setFfh (s : State) (fid : Nat) (g : Ffh → Ffh) : view (setFfh s fid g) = view s := by
  simp [setFfh]

@[simp] theorem view_dropCells (s : State) (fid : Nat) : view (dropCells s fid) = view s := by
  unfold dropCells
  repeat' split
  all_goals simp [*]

@[simp] theorem view_releaseCells (s : State) (fid : Nat) : view (releaseCells s fid) = view s := by
  unfold releaseCells
  repeat' split
  all_goals simp [*]

@[simp] theorem view_dropFrame (s : State) (fid : Nat) : view (dropFrame s fid) = view s := by
  unfold dropFrame
  repeat' split
  all_goals simp [*]

@[simp] theorem view_releaseRef (s : State) (fid : Nat) : view (releaseRef s fid) = view s := by
  unfold releaseRef
  repeat' split
  all_goals simp [*]

@[simp] theorem view_setQueue (s : State) (u : Nat) (q : List QEnt) : view (setQueue s u q) = view s := by
  simp [setQueue]

@[simp] theorem view_enqueue (s : State) (u : Nat) (e : QEnt) : view (enqueue s u e) = view s := by
  simp [enqueue]

theorem view_reserve {s : State} {part cells clods : Nat} {x} (h : reserve s part cells clods = some x) : view x.2 = view s := by
  unfold reserve at h
  dsimp only at h
  repeat' split at h
  all_goals (try cases h)
  all_goals simp [*]

@[simp] theorem view_unreserve (s : State) (id : Nat) : view (unreserve s id) = view s := by
  unfold unreserve
  repeat' split
  all_goals simp [*]

@[simp] theorem view_setPlace (s : State) (fid i : Nat) (p : Place) : view (setPlace s fid i p) = view s := by
  unfold setPlace
  split <;> simp

@[simp] theorem view_moveDown (s : State) (clod : Nat) (fid i : Nat) : view (moveDown s clod fid i) = view s := by
  unfold moveDown
  repeat' split
  all_goals simp [*]

@[simp] theorem view_readBackFrame (s : State) (fid : Nat) (only : Option Nat) : view (readBackFrame s fid only) = view s := by
  unfold readBackFrame
  all_goals (try (repeat' split))
  all_goals (try simp [*])
  all_goals (try (apply view_foldl; intro _ _))
  all_goals (try (repeat' split))
  all_goals (try simp [*])
  all_goals (try (apply view_foldl; intro _ _))
  all_goals (try (repeat' split))
  all_goals simp [*]

/-! LaurelOps -/

@[simp] theorem view_parityHits (s : State) (half : Nat) (bads : List (Nat × Nat)) : view (parityHits s half bads) = view s := by
  simp [parityHits]

@[simp] theorem view_readVlan (s : State) (p vid : Nat) : view (readVlan s p vid) = view s := by
  simp [readVlan]

theorem view_trapToHeath {s : State} {port : Nat} {bytes : List Byte} {x} (h : trapToHeath s port bytes = some x) : view x = view s := by
  unfold trapToHeath at h
  dsimp only at h
  repeat' split at h
  all_goals (try cases h)
  all_goals simp [*]

theorem view_lldpTake {s : State} {port : Nat} {x} (h : lldpTake s port = some x) : view x = view s := by
  unfold lldpTake at h
  dsimp only at h
  repeat' split at h
  all_goals (try cases h)
  all_goals simp [*]

@[simp] theorem view_learnRequest (s : State) (half key port : Nat) : view (learnRequest s half key port) = view s := by
  simp [learnRequest]

@[simp] theorem view_mapReplicas (s : State) (g : Replica → Replica) : view (mapReplicas s g) = view s := by
  simp [mapReplicas]

/-! Windows -/

@[simp] theorem view_police (s : State) (p tc len t : Nat) : view (police s p tc len t).2 = view s := by
  simp [police]

@[simp] theorem view_shaperTake (s : State) (p tc wire : Nat) : view (shaperTake s p tc wire) = view s := by
  simp [shaperTake]

@[simp] theorem view_addDep (s : State) (p : Nat) (d : Departure) : view (addDep s p d) = view s := by
  simp [addDep]

/-! Observe -/

@[simp] theorem view_matchLayers (s : State) (part layer oper stored : Nat) : view (matchLayers s part layer oper stored) = view s := by
  simp [matchLayers]

@[simp] theorem view_traceFrame (s : State) (v : TraceView) : view (traceFrame s v) = view s := by
  unfold traceFrame
  repeat' split
  all_goals simp [*]

end Sys2Proof.Laws
end

