-- ==== Sys2Proof/Laws/ViewPath.lean ====
section
/-!
SUPPORT. Laws/ViewPath.lean: what the operations of the frame path and of the answers keep of the queue, RAW, the power state and the keys.
-/

set_option Elab.async false

namespace Sys2Proof.Laws

open Sys2Proof Sys2Proof.Machine

/-! Route -/

theorem view_chooseScored {s : State} {slice tc : Nat} {cand : List (Nat × Nat)} {x} (h : chooseScored s slice tc cand = some x) : view x.2 = view s := by
  unfold chooseScored at h
  dsimp only at h
  repeat' split at h
  all_goals (try cases h)
  all_goals simp [*]

@[simp] theorem view_routeByPlan (s0 : State) (h : Ffh) (a : Arrival) (esc keep : Bool) : view (routeByPlan s0 h a esc keep).2 = view s0 := by
  unfold routeByPlan
  extract_lets s t entry
  have hs : view s = view s0 := by simp [s]
  clear_value s
  split; · exact hs
  split; · exact hs
  split; · exact hs
  split; · exact hs
  extract_lets escape
  have he : view escape.2 = view s0 := by simp only [escape]; repeat' split
                                          all_goals exact hs
  clear_value escape
  split; · exact he
  rename_i pick _
  have hp : ∀ x, pick = some x → view x.2 = view s0 := by
    intro x hx
    simp only [pick] at hx
    split at hx
    · obtain ⟨a, _, rfl⟩ := Option.map_eq_some_iff.mp hx; exact hs
    · split at hx <;> rw [view_chooseScored hx, hs]
  clear_value pick
  cases pick with
  | none => exact hs
  | some x =>
    have hx := hp x rfl
    dsimp only
    repeat' split
    all_goals exact hx

@[simp] theorem view_routeAway (s : State) (h : Ffh) (a : Arrival) (esc keep : Bool) : view (routeAway s h a esc keep).2 = view s := by
  unfold routeAway
  try dsimp only
  repeat' split
  all_goals simp [*]

@[simp] theorem view_routeHere (s : State) (h : Ffh) (a : Arrival) (esc : Bool) : view (routeHere s h a esc).2 = view s := by
  unfold routeHere
  try dsimp only
  repeat' split
  all_goals simp [*]

@[simp] theorem view_routeUnicast (s : State) (h : Ffh) (a : Arrival) : view (routeUnicast s h a).2 = view s := by
  simp [routeUnicast]

@[simp] theorem view_wakeDomain (s : State) (d : Nat) : view (wakeDomain s d) = view s := by
  unfold wakeDomain; split <;> rfl

@[simp] theorem view_unholdCopy (s : State) (fid : Nat) : view (unholdCopy s fid) = view s := by
  simp [unholdCopy]

@[simp] theorem view_discardCopy (s : State) (fid : Nat) : view (discardCopy s fid) = view s := by
  simp [discardCopy]

@[simp] theorem view_reroute (s : State) (u : Nat) (e : QEnt) (f : StoredFrame) : view (reroute s u e f).2.2 = view s := by
  unfold reroute
  dsimp only
  split; · rfl
  split
  · split <;> rfl
  · split; · rfl
    generalize hr : routeAway s f.ffh (arrivalOf f (u % 16 % 2 == 1)) (u % 16 % 2 == 1) true = r
    have hv := congrArg (fun x => view x.2) hr
    simp at hv
    rcases r with ⟨_ | _ | _, s1⟩ <;> simp_all
    split
    · next h => exact view_trapToHeath h
    · rfl

@[simp] theorem view_setSweep (s : State) (k : Nat) (w : Sweep) : view (setSweep s k w) = view s := by
  simp [setSweep]

@[simp] theorem view_dropSweep (s : State) (k : Nat) : view (dropSweep s k) = view s := by
  simp [dropSweep]

@[simp] theorem view_collectCopy (s : State) (h : Ffh) (payload : List Byte) : view (collectCopy s h payload) = view s := by
  unfold collectCopy
  try dsimp only
  repeat' split
  all_goals simp [*]

@[simp] theorem view_dropTc7Copy (s : State) (p fid : Nat) : view (dropTc7Copy s p fid) = view s := by
  simp [dropTc7Copy]

@[simp] theorem view_scheduleTc7 (s : State) (p : Nat) (e : QEnt) : view (scheduleTc7 s p e) = view s := by
  unfold scheduleTc7
  try dsimp only
  repeat' split
  all_goals simp [*]

@[simp] theorem view_scheduleOwn (s : State) (p : Nat) : view (scheduleOwn s p) = view s := by
  unfold scheduleOwn
  all_goals (try (repeat' split))
  all_goals (try simp [*])
  all_goals (try (apply view_foldl; intro _ _))
  all_goals (try (repeat' split))
  all_goals (try simp [*])
  all_goals (try (apply view_foldl; intro _ _))
  all_goals (try (repeat' split))
  all_goals simp [*]

@[simp] theorem view_queueTc7 (s : State) (u : Nat) (e : QEnt) (f : StoredFrame) : view (queueTc7 s u e f) = view s := by
  simp [queueTc7]

@[simp] theorem view_releaseTc7 (s : State) (p : Nat) : view (releaseTc7 s p) = view s := by
  unfold releaseTc7
  all_goals (try (repeat' split))
  all_goals (try simp [*])
  all_goals (try (apply view_foldl; intro _ _))
  all_goals (try (repeat' split))
  all_goals (try simp [*])
  all_goals (try (apply view_foldl; intro _ _))
  all_goals (try (repeat' split))
  all_goals simp [*]

@[simp] theorem view_dropTc7Queue (s : State) (p : Nat) : view (dropTc7Queue s p) = view s := by
  simp [dropTc7Queue]

@[simp] theorem view_enqueueCopy (s : State) (u : Nat) (e : QEnt) : view (enqueueCopy s u e) = view s := by
  unfold enqueueCopy
  try dsimp only
  repeat' split
  all_goals simp [*]

@[simp] theorem view_queueCopy (s : State) (f : StoredFrame) (u : Nat) (e : QEnt) : view (queueCopy s f u e) = view s := by
  simp [queueCopy]

@[simp] theorem view_unfence (s : State) (k : Nat) (w : Sweep) (fid : Nat) : view (unfence s k w fid) = view s := by
  simp [unfence]

@[simp] theorem view_queueFrame (s : State) (fid : Nat) : view (queueFrame s fid) = view s := by
  unfold queueFrame
  repeat' split
  all_goals simp [*]

@[simp] theorem view_rerouteAll (s : State) (p : Nat) : view (rerouteAll s p) = view s := by
  simp [rerouteAll]

/-! PrivetBase -/

@[simp] theorem view_setTxLine (s : State) (lane l : Nat) : view (setTxLine s lane l) = view s := by
  simp [setTxLine]

@[simp] theorem view_setRxLine (s : State) (lane l : Nat) : view (setRxLine s lane l) = view s := by
  simp [setRxLine]

@[simp] theorem view_setRing (s : State) (r : Nat) (x : OptRing) : view (setRing s r x) = view s := by
  simp [setRing]

@[simp] theorem view_sendOpt (s : State) (lane : Nat) (msg : List Byte) : view (sendOpt s lane msg) = view s := by
  simp [sendOpt]

@[simp] theorem view_dropMig (s : State) (tx : Bool) (lane : Nat) : view (dropMig s tx lane) = view s := by
  simp [dropMig]

@[simp] theorem view_putMig (s : State) (m : Mig) : view (putMig s m) = view s := by
  simp [putMig]

@[simp] theorem view_sendMigReq (s : State) (m : Mig) : view (sendMigReq s m) = view s := by
  simp [sendMigReq]

@[simp] theorem view_startMig (s : State) (lane toLine : Nat) (emerg : Bool) : view (startMig s lane toLine emerg) = view s := by
  simp [startMig]

@[simp] theorem view_abortMig (s : State) (m : Mig) : view (abortMig s m) = view s := by
  simp [abortMig]

@[simp] theorem view_abortMigs (s : State) (p : Mig → Bool) : view (abortMigs s p) = view s := by
  simp [abortMigs]

@[simp] theorem view_fenceLanes (s : State) (p : Nat) : view (fenceLanes s p) = view s := by
  simp [fenceLanes]

/-! LinkOps -/

@[simp] theorem view_setEnd (s : State) (l : Nat) (e : LinkEnd) : view (setEnd s l e) = view s := by
  simp [setEnd]

@[simp] theorem view_setKeys (s : State) (l : Nat) (k : LinkKeys) : view (setKeys s l k) = view s := by
  simp [setKeys]

@[simp] theorem view_sealTx (s : State) (l : Nat) : view (sealTx s l).2 = view s := by
  unfold sealTx
  try dsimp only
  repeat' split
  all_goals simp [*]

@[simp] theorem view_openRx (s : State) (l : Nat) (sealed : Option Seal) : view (openRx s l sealed).2 = view s := by
  unfold openRx
  repeat' split
  all_goals simp [*]

@[simp] theorem view_queueHeld (s : State) (fid : Nat) : view (queueHeld s fid) = view s := by
  unfold queueHeld
  try dsimp only
  repeat' split
  all_goals simp [*]

@[simp] theorem view_releaseHeldN (n : Nat) (s : State) (l q : Nat) : view (releaseHeldN n s l q) = view s := by
  induction n generalizing s with
  | zero => rfl
  | succ n ih => unfold releaseHeldN; dsimp only; (repeat' split) <;> simp [ih]

@[simp] theorem view_releaseHeld (s : State) (l q : Nat) : view (releaseHeld s l q) = view s := by
  simp [releaseHeld]

@[simp] theorem view_settleRx (s : State) (l q n : Nat) : view (settleRx s l q n) = view s := by
  simp [settleRx]

@[simp] theorem view_holdRx (s : State) (l q n fid : Nat) : view (holdRx s l q n fid) = view s := by
  simp [holdRx]

@[simp] theorem view_admitRx (s : State) (l q n fid : Nat) : view (admitRx s l q n fid) = view s := by
  simp [admitRx]

@[simp] theorem view_releaseHold (s : State) (fid : Nat) : view (releaseHold s fid) = view s := by
  simp [releaseHold]

@[simp] theorem view_noteDelay (s : State) (l : Nat) (r : TxRec) : view (noteDelay s l r) = view s := by
  unfold noteDelay
  repeat' split
  all_goals simp [*]

@[simp] theorem view_noteSinkAck (s : State) (l : Nat) : view (noteSinkAck s l) = view s := by
  simp [noteSinkAck]

@[simp] theorem view_ackTx (s : State) (l q a : Nat) : view (ackTx s l q a) = view s := by
  simp [ackTx]

@[simp] theorem view_modTx (s : State) (l q n : Nat) (g : TxRec → TxRec) : view (modTx s l q n g) = view s := by
  simp [modTx]

@[simp] theorem view_skipTx (s : State) (l q n : Nat) : view (skipTx s l q n) = view s := by
  simp [skipTx]

@[simp] theorem view_skipRx (s : State) (l q n : Nat) : view (skipRx s l q n) = view s := by
  simp [skipRx]

@[simp] theorem view_discardSent (s : State) (l : Nat) : view (discardSent s l) = view s := by
  simp [discardSent]

@[simp] theorem view_abandonGaps (s : State) (l : Nat) : view (abandonGaps s l) = view s := by
  simp [abandonGaps]

@[simp] theorem view_dropKeys (s : State) (l : Nat) : view (dropKeys s l) = view s := by
  simp [dropKeys]

@[simp] theorem view_freshEnd (s : State) (l : Nat) : view (freshEnd s l) = view s := by
  simp [freshEnd]

@[simp] theorem view_dropDeparture (s : State) (p : Nat) (d : Departure) : view (dropDeparture s p d) = view s := by
  unfold dropDeparture
  try dsimp only
  repeat' split
  all_goals simp [*]

@[simp] theorem view_freeSpares (s : State) (p : Nat) : view (freeSpares s p) = view s := by
  simp [freeSpares]

@[simp] theorem view_emptyLink (s : State) (p : Nat) : view (emptyLink s p) = view s := by
  simp [emptyLink]

@[simp] theorem view_stopKeying (s : State) (p : Nat) : view (stopKeying s p) = view s := by
  simp [stopKeying]

@[simp] theorem view_linkDown (s : State) (p : Nat) : view (linkDown s p) = view s := by
  simp [linkDown, dropKeys]

@[simp] theorem view_vlinkDown (s : State) (v : Nat) : view (vlinkDown s v) = view s := by
  simp [vlinkDown, dropKeys]

@[simp] theorem view_replayLimit (s : State) (l : Nat) : view (replayLimit s l) = view s := by
  simp [replayLimit]

/-! Ecc -/

@[simp] theorem view_unqueue (s : State) (fid : Nat) : view (unqueue s fid) = view s := by
  simp [unqueue]

@[simp] theorem view_abandonSent (s : State) (fid : Nat) : view (abandonSent s fid) = view s := by
  unfold abandonSent
  all_goals (try (repeat' split))
  all_goals (try simp [*])
  all_goals (try (apply view_foldl; intro _ _))
  all_goals (try (repeat' split))
  all_goals (try simp [*])
  all_goals (try (apply view_foldl; intro _ _))
  all_goals (try (repeat' split))
  all_goals simp [*]

@[simp] theorem view_unwait (s : State) (fid : Nat) : view (unwait s fid) = view s := by
  simp [unwait]

@[simp] theorem view_discardFrame (s : State) (fid : Nat) : view (discardFrame s fid) = view s := by
  simp [discardFrame]

@[simp] theorem view_discardAll (s : State) (fid : Nat) : view (discardAll s fid) = view s := by
  simp [discardAll]

@[simp] theorem view_forgetPlace (s : State) (fid : Nat) (x : Place) : view (forgetPlace s fid x) = view s := by
  simp [forgetPlace]

@[simp] theorem view_retireTop (s : State) (fid c : Nat) : view (retireTop s fid c) = view s := by
  unfold retireTop
  repeat' split
  all_goals simp [*]

@[simp] theorem view_retireSub (s : State) (c : Nat) : view (retireSub s c).2 = view s := by
  simp [retireSub]

@[simp] theorem view_correct (s : State) (x : Place) : view (correct s x) = view s := by
  unfold correct
  repeat' split
  all_goals simp [*]

@[simp] theorem view_readPlaces (s : State) (fid : Nat) (places : List Place) : view (readPlaces s fid places).2 = view s := by
  unfold readPlaces
  split
  · rfl
  · dsimp only
    split
    · simp
    · refine (view_foldl _ _ ?_).trans (by simp)
      intro t x
      cases x <;> simp

@[simp] theorem view_readFrame (s : State) (fid : Nat) : view (readFrame s fid).2 = view s := by
  unfold readFrame
  repeat' split
  all_goals simp [*]

/-! Ingress -/

structure UnitsOk (u : Units) : Prop where
  judge : ∀ s f, view (u.judge s f).2 = view s
  passes : ∀ s k h, view (u.passes s k h).2 = view s
  note : ∀ s f, view (u.note s f) = view s
  lldp : ∀ s p b, view (u.lldp s p b) = view s

@[simp] theorem view_setThr (s : State) (p tc : Nat) (t : Throttle) : view (setThr s p tc t) = view s := by
  simp [setThr]

@[simp] theorem view_applyEcho (s : State) (p tc : Nat) : view (applyEcho s p tc) = view s := by
  unfold applyEcho
  repeat' split
  all_goals simp [*]

theorem view_throttleTake {s : State} {p tc wire : Nat} {x} (h : throttleTake s p tc wire = some x) : view x = view s := by
  unfold throttleTake at h
  dsimp only at h
  repeat' split at h
  all_goals (try cases h)
  all_goals simp [*]

@[simp] theorem view_takeEcho (s : State) (p : Nat) (h : Ffh) : view (takeEcho s p h).2 = view s := by
  unfold takeEcho
  try dsimp only
  repeat' split
  all_goals simp [*]

theorem view_openSweep {s : State} {half : Nat} {h : Ffh} {x} (h : openSweep s half h = some x) : view x = view s := by
  unfold openSweep at h
  dsimp only at h
  repeat' split at h
  all_goals (try cases h)
  all_goals simp [*]

@[simp] theorem view_releaseSweep (s : State) (k : Nat) : view (releaseSweep s k) = view s := by
  unfold releaseSweep
  repeat' split
  all_goals simp [*]

@[simp] theorem view_traceIn (s : State) (refused : Bool) (p lead : Nat) (h : Ffh) (payload : List Byte) : view (traceIn s refused p lead h payload) = view s := by
  simp [traceIn]

@[simp] theorem view_refuseRx (s : State) (c : RxCtx) (e : Ev) (scope : Nat) : view (refuseRx s c e scope) = view s := by
  simp [refuseRx]

@[simp] theorem view_withholdRx (s : State) (c : RxCtx) (e : Ev) (scope : Nat) : view (withholdRx s c e scope) = view s := by
  simp [withholdRx]

@[simp] theorem view_noteAdmitted (s : State) (c : RxCtx) : view (noteAdmitted s c) = view s := by
  unfold noteAdmitted
  repeat' split
  all_goals simp [*]

@[simp] theorem view_loamTurnsAway (s : State) (c : RxCtx) (a : Admission) : view (loamTurnsAway s c a) = view s := by
  unfold loamTurnsAway
  repeat' split
  all_goals simp [*]

@[simp] theorem view_admitOwn (s : State) (c : RxCtx) (units : Units) (hu : UnitsOk units) : view (admitOwn s c units) = view s := by
  unfold admitOwn
  dsimp only
  have hj := hu.judge s { frameOfRx s c .shared with consumed := true }
  split
  all_goals (rename_i h1; rw [h1] at hj; try simp at hj)
  all_goals (try split)
  all_goals simp [hj]

@[simp] theorem view_admitTc7 (s : State) (c : RxCtx) (units : Units) (copies : List (Nat × QEnt)) (hu : UnitsOk units): view (admitTc7 s c units copies) = view s := by
  unfold admitTc7
  dsimp only
  repeat' split
  all_goals (try simp [hu.note])

@[simp] theorem view_admitTo (s : State) (c : RxCtx) (units : Units) (copies : List (Nat × QEnt)) (hu : UnitsOk units) : view (admitTo s c units copies) = view s := by
  unfold admitTo
  split; · simp [hu]
  dsimp only
  generalize admission s c.h.tc c.h.esc (cellsOfRx c) c.port _ c.h.part = ad
  cases ad with
  | accept pool => dsimp only; split <;> simp [hu.note]
  | _ => simp

@[simp] theorem view_issueCopy (s0 : State) (c : RxCtx) (n total grp : Nat) (t : State) (x : Nat × Nat × Option Nat) : view (issueCopy s0 c n total grp t x) = view t := by
  unfold issueCopy
  split
  · simp
  · split <;> simp

@[simp] theorem view_trapRx (s : State) (c : RxCtx) : view (trapRx s c) = view s := by
  unfold trapRx
  repeat' split
  all_goals (try have hv0 := view_trapToHeath (by assumption))
  all_goals simp [*]

@[simp] theorem view_issueCopies (s : State) (c : RxCtx) : view (issueCopies s c) = view s := by
  unfold issueCopies
  dsimp only
  repeat' split
  all_goals (try simp)

@[simp] theorem view_markerRx (s : State) (c : RxCtx) : view (markerRx s c) = view s := by
  unfold markerRx
  dsimp only
  repeat' split
  all_goals (try simp)
  all_goals (try (first | exact snd_view (by assumption) (by simp) | exact view_openSweep (by assumption)))

@[simp] theorem view_fencedRx (s : State) (c : RxCtx) (u : Nat) (e : QEnt) : view (fencedRx s c u e) = view s := by
  unfold fencedRx
  try dsimp only
  repeat' split
  all_goals simp [*]

@[simp] theorem view_unicastRx (s : State) (c : RxCtx) (units : Units) (hu : UnitsOk units) : view (unicastRx s c units) = view s := by
  unfold unicastRx
  try dsimp only
  repeat' split
  all_goals (try have hv0 := view_trapToHeath (by assumption))
  all_goals simp [*]

@[simp] theorem view_admitLater (s : State) (c : RxCtx) (units : Units) (first : Nat) (hu : UnitsOk units) : view (admitLater s c units first) = view s := by
  unfold admitLater
  split <;> simp [hu.note]

@[simp] theorem view_multicastRx (s : State) (c : RxCtx) (units : Units) (hu : UnitsOk units) : view (multicastRx s c units) = view s := by
  unfold multicastRx
  try dsimp only
  repeat' split
  all_goals simp [*]

@[simp] theorem view_echoHere (s : State) (half dst tc : Nat) : view (echoHere s half dst tc) = view s := by
  unfold echoHere
  try dsimp only
  repeat' split
  all_goals simp [*]

@[simp] theorem view_echoRx (s : State) (c : RxCtx) : view (echoRx s c) = view s := by
  unfold echoRx
  try dsimp only
  repeat' split
  all_goals simp [*]

@[simp] theorem view_stagesRx (s0 : State) (c : RxCtx) (units : Units) (hu : UnitsOk units) : view (stagesRx s0 c units) = view s0 := by
  unfold stagesRx
  dsimp only
  repeat' split
  all_goals (try simp [hu])
  all_goals (try (first | exact (snd_view (by assumption) (hu.passes _ _ _)).trans ((view_throttleTake (by assumption)).trans (by first | simp | (split <;> simp))) | exact (snd_view (by assumption) (hu.passes _ _ _)).trans (by simp) | exact (view_throttleTake (by assumption)).trans (by simp)))

@[simp] theorem view_eventRx (s : State) (l : Nat) (k : EKind) (q n seq : Nat) : view (eventRx s l k q n seq) = view s := by
  unfold eventRx
  repeat' split
  all_goals simp [*]

@[simp] theorem view_lossRx (s : State) (l q n : Nat) : view (lossRx s l q n) = view s := by
  simp [lossRx]

@[simp] theorem view_headerRx (s : State) (l : Nat) (h : LinkHdr) (block : Bool) : view (headerRx s l h block) = view s := by
  unfold headerRx
  repeat' split
  all_goals simp [*]

@[simp] theorem view_frameRx (s : State) (l p : Nat) (hdr : LinkHdr) (ffh payload : List Byte) (ce : Bool) (lead wire : Nat) (units : Units) (hu : UnitsOk units) : view (frameRx s l p hdr ffh payload ce lead wire units) = view s := by
  unfold frameRx
  repeat' split
  all_goals simp [*]

/-! EthIngress -/

@[simp] theorem view_ethForward (s : State) (half p part vid : Nat) (v : EthView) (vl : VlanEnt) (b : List Byte) : view (ethForward s half p part vid v vl b).2 = view s := by
  unfold ethForward
  try dsimp only
  repeat' split
  all_goals simp [*]

@[simp] theorem view_learnFrom (s : State) (half p key : Nat) : view (learnFrom s half p key).2 = view s := by
  unfold learnFrom
  try dsimp only
  repeat' split
  all_goals simp [*]

@[simp] theorem view_ethAdmit (s : State) (p part tc vid lead : Nat) (b : List Byte) (ports : List Nat) : view (ethAdmit s p part tc vid lead b ports) = view s := by
  unfold ethAdmit
  try dsimp only
  repeat' split
  all_goals simp [*]

theorem view_ethScreen {s : State} {p : Nat} {b : List Byte} {units : Units} {x} (h : ethScreen s p b units = some x) (hu : UnitsOk units) : view x = view s := by
  unfold ethScreen at h
  dsimp only at h
  repeat' split at h
  all_goals (first | contradiction | (cases h; first | rfl | (simp; done) | (rw [hu.lldp]; simpa using view_lldpTake (by assumption))))

@[simp] theorem view_ffhUdp (s : State) (p : Nat) (b : List Byte) : view (ffhUdp s p b).2 = view s := by
  unfold ffhUdp
  repeat' split
  all_goals simp [*]

@[simp] theorem view_ethStages (s : State) (p lead : Nat) (b : List Byte) : view (ethStages s p lead b) = view s := by
  unfold ethStages
  extract_lets v half part tc pol vid acl s1 vl s2 ln
  have h1 : view s1 = view s := by simp [s1, pol]
  have hp : view pol.2 = view s := by simp [pol]
  refine view_if rfl (view_if (by simp) (view_if (by simp) (view_if (by simp [hp]) (view_if (by simp [hp]) ?_))))
  split
  · simp [h1]
  · split
    · next h => exact (view_trapToHeath h).trans h1
    · simp [h1]
  · have h2 : view s2 = view s := by simp [s2, h1]
    split
    · simp [h2]
    · refine view_if (by simp [h2]) ?_
      have hl : view ln.2 = view s := by simp [ln, h2]
      refine view_if hl ?_
      generalize hr : ethForward _ _ _ _ _ _ _ _ = r
      have hv : view r.2 = view s := by simp [← hr, hl]
      rcases r with ⟨o, s3⟩
      rcases o with ⟨l, out, nvid⟩ | _ | e
      · simpa using hv
      · dsimp only
        split
        · next h => exact (view_trapToHeath h).trans hv
        · simpa using hv
      · cases e <;> simpa using hv

theorem view_macsecPass {s : State} {p : Nat} {q : Option Seal} {x} (h : macsecPass s p q = some x) : view x = view s := by
  unfold macsecPass at h
  dsimp only at h
  repeat' split at h
  all_goals (try cases h)
  all_goals simp [*]

@[simp] theorem view_peerNextHop (s : State) (p : Nat) (v6 : Bool) (ip : Nat) : view (peerNextHop s p v6 ip).2 = view s := by
  unfold peerNextHop
  try dsimp only
  repeat' split
  all_goals simp [*]

@[simp] theorem view_refreshHops (s : State) : view (refreshHops s) = view s := by
  simp [refreshHops]

@[simp] theorem view_openVlink (s : State) (d : UdpFfh) (x : IpView) : view (openVlink s d x).2 = view s := by
  unfold openVlink
  try dsimp only
  repeat' split
  all_goals simp [*]

@[simp] theorem view_unreadable (s : State) (l p : Nat) (hdr : LinkHdr) : view (unreadable s l p hdr) = view s := by
  simp [unreadable]

@[simp] theorem view_udpRx (s : State) (v : Nat) (d : UdpFfh) (ecn : Nat) (units : Units) (hu : UnitsOk units) : view (udpRx s v d ecn units) = view s := by
  unfold udpRx
  extract_lets l p hdr k0 s0 wire body
  have hv : view s0 = view s := by simp only [s0]; split <;> rfl
  have hb : ∀ t, view (body t) = view t := fun t => by simp [body, hu]
  clear_value s0 body
  refine view_if (by simp [hv]) (view_if (view_if (by simp [hv, hb]) (by simp [hv])) (view_if (view_if (by simp [hv, hb]) (by simp [hv])) ?_))
  have ho := view_openRx s0 l d.inner.sealedAs
  split <;> simp_all

/-! Egress -/

@[simp] theorem view_ecnDecide (s : State) (p tc : Nat) : view (ecnDecide s p tc).2 = view s := by
  simp [ecnDecide]

@[simp] theorem view_noteSent (s : State) (p tc wire : Nat) (marked : Bool) : view (noteSent s p tc wire marked) = view s := by
  simp [noteSent]

@[simp] theorem view_markFrame (s : State) (p : Nat) (h : Ffh) : view (markFrame s p h).2 = view s := by
  simp [markFrame]

@[simp] theorem view_formEcho (s : State) (p : Nat) (h : Ffh) : view (formEcho s p h) = view s := by
  simp [formEcho]

theorem view_macsecSeal {s : State} {p : Nat} {x} (h : macsecSeal s p = some x) : view x.2 = view s := by
  unfold macsecSeal at h
  dsimp only at h
  repeat' split at h
  all_goals (try cases h)
  all_goals simp [*]

@[simp] theorem view_emitFrame (s : State) (p : Nat) (lh ffh payload : List Byte) (sl : Option Seal) : view (emitFrame s p lh ffh payload sl) = view s := by
  simp [emitFrame]

@[simp] theorem view_emitUdp (s : State) (v : Nat) (e : VLink) (h : Ffh) (lh ffh payload : List Byte) (sl : Option Seal) : view (emitUdp s v e h lh ffh payload sl) = view s := by
  unfold emitUdp
  repeat' split
  all_goals (try have hv0 := view_macsecSeal (by assumption))
  all_goals simp [*]

@[simp] theorem view_emitOn (s : State) (l seq : Nat) (replay : Bool) (h : Ffh) (payload : List Byte) : view (emitOn s l seq replay h payload) = view s := by
  unfold emitOn
  try dsimp only
  repeat' split
  all_goals (try have hv0 := view_macsecSeal (by assumption))
  all_goals simp [*]

@[simp] theorem view_sendControlBlock (s : State) (l : Nat) (hd : LinkHdr) : view (sendControlBlock s l hd) = view s := by
  unfold sendControlBlock
  try dsimp only
  repeat' split
  all_goals (try have hv0 := view_macsecSeal (by assumption))
  all_goals simp [*]

@[simp] theorem view_traceOut (s : State) (p : Nat) (h : Ffh) (payload : List Byte) : view (traceOut s p h payload) = view s := by
  simp [traceOut]

@[simp] theorem view_occupy (s : State) (p wire : Nat) : view (occupy s p wire) = view s := by
  simp [occupy]

@[simp] theorem view_noteTimeTx (s : State) (p : Nat) (f : StoredFrame) (again : Bool) : view (noteTimeTx s p f again) = view s := by
  simp [noteTimeTx]

@[simp] theorem view_sendFirst (s : State) (l p i : Nat) (e : QEnt) (f : StoredFrame) : view (sendFirst s l p i e f) = view s := by
  simp [sendFirst]

@[simp] theorem view_sendReplay (s : State) (l p i : Nat) (r : TxRec) (f : StoredFrame) : view (sendReplay s l p i r f) = view s := by
  simp [sendReplay]

@[simp] theorem view_sendEth (s00 : State) (p : Nat) (e : QEnt) (f : StoredFrame) : view (sendEth s00 p e f) = view s00 := by
  unfold sendEth
  try dsimp only
  repeat' split
  all_goals (try have hv0 := view_macsecSeal (by assumption))
  all_goals simp [*]

@[simp] theorem view_moveToEscape (s : State) (l i : Nat) (r : TxRec) (f : StoredFrame) : view (moveToEscape s l i r f) = view s := by
  unfold moveToEscape
  try dsimp only
  repeat' split
  all_goals simp [*]

@[simp] theorem view_abandonTc7 (s : State) (l i : Nat) (r : TxRec) : view (abandonTc7 s l i r) = view s := by
  simp [abandonTc7]

@[simp] theorem view_replayTc7 (s : State) (l i : Nat) (r : TxRec) : view (replayTc7 s l i r) = view s := by
  unfold replayTc7
  try dsimp only
  repeat' split
  all_goals simp [*]

@[simp] theorem view_blockQueue (s : State) (l i : Nat) : view (blockQueue s l i) = view s := by
  simp [blockQueue]

@[simp] theorem view_noteBlocked (s : State) (p : Nat) : view (noteBlocked s p) = view s := by
  unfold noteBlocked
  all_goals (try (repeat' split))
  all_goals (try simp [*])
  all_goals (try (apply view_foldl; intro _ _))
  all_goals (try (repeat' split))
  all_goals (try simp [*])
  all_goals (try (apply view_foldl; intro _ _))
  all_goals (try (repeat' split))
  all_goals simp [*]

@[simp] theorem view_popQueue (s : State) (p i : Nat) : view (popQueue s p i) = view s := by
  simp [popQueue]

@[simp] theorem view_sendRead (s : State) (p i : Nat) : view (sendRead s p i) = view s := by
  unfold sendRead
  repeat' split
  all_goals simp [*]

@[simp] theorem view_sendHead (s : State) (p i : Nat) : view (sendHead s p i) = view s := by
  unfold sendHead
  split; · rfl
  rename_i hd _
  have hv := view_readFrame s (headFid hd)
  split <;> simp_all

@[simp] theorem view_noteService (s : State) (p served : Nat) (elig : List Nat) : view (noteService s p served elig) = view s := by
  simp [noteService]

@[simp] theorem view_transmit (s : State) (p : Nat) : view (transmit s p) = view s := by
  unfold transmit
  try dsimp only
  repeat' split
  all_goals simp [*]

@[simp] theorem view_forgetDep (s : State) (p : Nat) (d : Departure) : view (forgetDep s p d) = view s := by
  simp [forgetDep]

@[simp] theorem view_departOn (s : State) (l p : Nat) (d : Departure) (f : StoredFrame) : view (departOn s l p d f) = view s := by
  unfold departOn
  repeat' split
  all_goals simp [*]

@[simp] theorem view_departTc7 (s : State) (p : Nat) (own : Bool) : view (departTc7 s p own) = view s := by
  unfold departTc7
  try dsimp only
  repeat' split
  all_goals simp [*]

theorem view_takeHeld {s : State} {fid kind : Nat} {x} (h : takeHeld s fid kind = some x) : view x.2 = view s := by
  unfold takeHeld at h
  repeat' split at h
  all_goals (try contradiction)
  cases h; rfl

@[simp] theorem view_dropHeld (s : State) (fid : Nat) : view (dropHeld s fid) = view s := by
  unfold dropHeld
  split
  all_goals (next hr => simpa using snd_view hr (by simp))

theorem view_takeKind {s : State} {fid kind : Nat} {x} (h : takeKind s fid kind = .ok x) : view x.2 = view s := by
  unfold takeKind at h
  repeat' split at h
  all_goals (try contradiction)
  next ht _ _ hr => cases h; have h1 := view_takeHeld ht; simpa using (snd_view hr (view_readFrame _ _)).trans h1

theorem view_takeKind_error {s : State} {fid kind : Nat} {t} (h : takeKind s fid kind = .error t) : view t = view s := by
  unfold takeKind at h
  repeat' split at h
  all_goals (try contradiction)
  · cases h; rfl
  · next ht _ _ hr => cases h; have h1 := view_takeHeld ht; simpa using (snd_view hr (view_readFrame _ _)).trans h1

@[simp] theorem view_spawnTo (s : State) (h : Ffh) (payload : List Byte) (pool : Pool) (dests : List (Nat × QEnt)) : view (spawnTo s h payload pool dests) = view s := by
  unfold spawnTo
  try dsimp only
  repeat' split
  all_goals simp [*]

@[simp] theorem view_spawnShare (s : State) (src : Nat) (h : Ffh) (dest : Nat × QEnt) : view (spawnShare s src h dest) = view s := by
  unfold spawnShare
  repeat' split
  all_goals simp [*]

@[simp] theorem view_spawnControl (s : State) (p : Nat) (h : Ffh) (payload : List Byte) : view (spawnControl s p h payload) = view s := by
  simp [spawnControl]

@[simp] theorem view_spawnTc7 (s : State) (h : Ffh) (payload : List Byte) (pool : Pool) (u : Nat) (e : QEnt) : view (spawnTc7 s h payload pool u e) = view s := by
  simp [spawnTc7]

@[simp] theorem view_trapOwn (s : State) (h : Ffh) (payload : List Byte) : view (trapOwn s h payload) = view s := by
  unfold trapOwn
  repeat' split
  all_goals (try have hv0 := view_trapToHeath (by assumption))
  all_goals simp [*]

@[simp] theorem view_spawnUnicast (s : State) (half : Nat) (h : Ffh) (payload : List Byte) (pool : Pool) : view (spawnUnicast s half h payload pool) = view s := by
  unfold spawnUnicast
  try dsimp only
  repeat' split
  all_goals simp [*]

@[simp] theorem view_spawnGroup (s : State) (half : Nat) (h : Ffh) (payload : List Byte) (group : Nat) (pool : Pool) : view (spawnGroup s half h payload group pool) = view s := by
  unfold spawnGroup
  try dsimp only
  repeat' split
  all_goals simp [*]

/-! Answer -/

@[simp] theorem view_extendMeas8 (s : State) (part : Nat) (items : List (List Byte)) : view (extendMeas8 s part items) = view s := by
  simp [extendMeas8]

@[simp] theorem view_mbxPump (s : State) (k : Nat) : view (mbxPump s k) = view s := by
  unfold mbxPump
  try dsimp only
  repeat' split
  all_goals simp [*]

@[simp] theorem view_inbandReply (s : State) (port src : Nat) (msg : List Byte) : view (inbandReply s port src msg) = view s := by
  simp [inbandReply]

@[simp] theorem view_deliver (s : State) (via : Transport) (msgs : List (List Byte)) : view (deliver s via msgs) = view s := by
  unfold deliver
  repeat' split
  all_goals simp [*]

@[simp] theorem view_cacheReply (s : State) (cls seq op : Nat) (body : List Byte) : view (cacheReply s cls seq op body) = view s := by
  unfold cacheReply
  repeat' split
  all_goals simp [*]

@[simp] theorem view_finish (s : State) (c : Ncp) (op : Nat) (code : Code) (step index : Nat) (results : List Byte) : view (finish s c op code step index results) = view s := by
  unfold finish
  repeat' split
  all_goals simp [*]

theorem keeps_runCmd {s u : State} {c : Ncp} {op : Nat} {r} (hu : view u = view s) (h : okr s r) : keeps s (runCmd u c op r) := by
  unfold runCmd
  split
  · simpa using hu
  · cases r with
    | error b => simpa using hu
    | ok x => simpa using h

theorem keeps_runLong {s u : State} {c : Ncp} {op : Nat} {r} (hu : view u = view s) (h : oks s r) : keeps s (runLong u c op r) := by
  unfold runLong
  split
  · simpa using hu
  · cases r with
    | error b => simpa using hu
    | ok x => simpa using h

end Sys2Proof.Laws
end

