-- ==== Sys2Proof/Laws/ViewEngines.lean ====
section
/-!
SUPPORT. Laws/ViewEngines.lean: what the operations of the engines, optics and fault decisions keep of the queue, RAW, the power state and the keys.
-/

set_option Elab.async false

namespace Sys2Proof.Laws

open Sys2Proof Sys2Proof.Machine

/-! KaoOps -/

@[simp] theorem view_setKEng (s : State) (k : Nat) (e : KEngine) : view (setKEng s k e) = view s := by
  simp [setKEng]

@[simp] theorem view_pageOut (k need n : Nat) (s : State) : view (pageOut k need n s) = view s := by
  induction n generalizing s with
  | zero => rfl
  | succ n ih => unfold pageOut; dsimp only; split; · rfl
                 split <;> simp [ih]

@[simp] theorem view_touchChunk (s : State) (k coll chunk len : Nat) (opening : Bool) : view (touchChunk s k coll chunk len opening) = view s := by
  unfold touchChunk
  dsimp only
  repeat' split
  all_goals simp

@[simp] theorem view_closeChunk (s : State) (k coll chunk : Nat) : view (closeChunk s k coll chunk) = view s := by
  simp [closeChunk]

@[simp] theorem view_noteAdds (s : State) (k n : Nat) : view (noteAdds s k n) = view s := by
  simp [noteAdds]

@[simp] theorem view_countConv (s : State) (scope : Nat) (cs : List Conv) (r : Rec) : view (countConv s scope cs r) = view s := by
  simp [countConv]

@[simp] theorem view_countPayFault (s : State) (scope : Nat) (x : PayFault) (r : Rec) : view (countPayFault s scope x r) = view s := by
  unfold countPayFault
  repeat' split
  all_goals simp [*]

@[simp] theorem view_residueFails (s : State) (k coll chunk : Nat) : view (residueFails s k coll chunk) = view s := by
  simp [residueFails]

@[simp] theorem view_openOnEngine (s : State) (k coll chunk : Nat) (lanes : List Lane) : view (openOnEngine s k coll chunk lanes).2 = view s := by
  simp [openOnEngine]

@[simp] theorem view_modShadow (s : State) (k coll chunk : Nat) (g : ShadowRun → ShadowRun) : view (modShadow s k coll chunk g) = view s := by
  simp [modShadow]

@[simp] theorem view_releaseInputs (s : State) (k coll chunk : Nat) (fids : List Nat) : view (releaseInputs s k coll chunk fids) = view s := by
  unfold releaseInputs
  repeat' split
  all_goals simp [*]

@[simp] theorem view_endShadow (s : State) (k : Nat) (r : ShadowRun) : view (endShadow s k r) = view s := by
  simp [endShadow]

@[simp] theorem view_skipShadow (s : State) (k : Nat) (r : ShadowRun) : view (skipShadow s k r) = view s := by
  simp [skipShadow]

@[simp] theorem view_shadowAdd (s : State) (k coll chunk : Nat) (g : List Lane → List Lane) : view (shadowAdd s k coll chunk g) = view s := by
  simp [shadowAdd]

@[simp] theorem view_readShadow (s : State) (k coll chunk : Nat) (lanes : List Lane) : view (readShadow s k coll chunk lanes) = view s := by
  simp [readShadow]

@[simp] theorem view_dropRun (s : State) (k coll chunk : Nat) : view (dropRun s k coll chunk) = view s := by
  unfold dropRun
  repeat' split
  all_goals simp [*]

/-! MarlOps -/

theorem view_takeClods {kind : ClodKind} {part owner half n : Nat} {s : State} {x}
    (h : takeClods kind part owner half n s = some x) : view x.2 = view s := by
  induction n generalizing s x with
  | zero => cases h; rfl
  | succ n ih =>
    unfold takeClods at h
    dsimp only at h
    split at h
    · cases h
    · obtain ⟨a, h1, rfl⟩ := Option.map_eq_some_iff.mp h
      simpa using ih h1

theorem view_reserveUnits {s : State} {part cells clods : Nat} {kind : ClodKind} {half : Nat} {x} (h : reserveUnits s part cells clods kind half = some x) : view x.2 = view s := by
  unfold reserveUnits at h
  split at h; · cases h
  split at h; · cases h
  rename_i id s1 h1
  have hv := view_reserve h1
  obtain ⟨a, h2, rfl⟩ := Option.map_eq_some_iff.mp h
  have hw := view_takeClods h2
  simp_all

@[simp] theorem view_releaseUnits (s : State) (id : Nat) : view (releaseUnits s id) = view s := by
  unfold releaseUnits
  repeat' split
  all_goals simp [*]

@[simp] theorem view_setMop (s : State) (id : Nat) (m : Mop) : view (setMop s id m) = view s := by
  simp [setMop]

@[simp] theorem view_setArray (s : State) (a : Nat) (x : MArray) : view (setArray s a x) = view s := by
  simp [setArray]

@[simp] theorem view_wakeMop (s : State) (id half : Nat) (split : Bool) : view (wakeMop s id half split) = view s := by
  simp [wakeMop]

@[simp] theorem view_readPage (s : State) (id coll chunk : Nat) (t : Tile) (p : Nat) : view (readPage s id coll chunk t p) = view s := by
  unfold readPage
  try dsimp only
  repeat' split
  all_goals simp [*]

@[simp] theorem view_readWeights (s : State) (id half coll chunk : Nat) : view (readWeights s id half coll chunk) = view s := by
  unfold readWeights
  repeat' split
  all_goals simp [*]

@[simp] theorem view_rowFails (s : State) (a mop coll chunk : Nat) : view (rowFails s a mop coll chunk) = view s := by
  simp [rowFails]

@[simp] theorem view_colFails (s : State) (a mop coll chunk : Nat) : view (colFails s a mop coll chunk) = view s := by
  simp [colFails]

@[simp] theorem view_checkRow (mop half coll chunk : Nat) (m : Mop) (colBad : List Nat) (r : List Nat × State) (xs : List Val) :
    view (checkRow mop half coll chunk m colBad r xs).2 = view r.2 := by
  simp [checkRow]

theorem view_foldl_checkRow (mop half coll chunk : Nat) (m : Mop) (colBad : List Nat) (rows : List (List Val)) (r : List Nat × State) :
    view (rows.foldl (checkRow mop half coll chunk m colBad) r).2 = view r.2 := by
  induction rows generalizing r with
  | nil => rfl
  | cons a l ih => simp [ih]

@[simp] theorem view_checkRows (s : State) (mop half coll chunk : Nat) (m : Mop) (rows : List (List Val)) (rowBad : Option Nat) (colBad : List Nat) :
    view (checkRows s mop half coll chunk m rows rowBad colBad).2 = view s :=
  view_foldl_checkRow mop half coll chunk m colBad rows ([], s)

@[simp] theorem view_setTok (s : State) (k : Nat) (t : Token) : view (setTok s k t) = view s := by
  simp [setTok]

@[simp] theorem view_tokenNotice (s : State) (half : Nat) (t : Token) (c : Code) (experts : List Nat) : view (tokenNotice s half t c experts) = view s := by
  simp [tokenNotice]

@[simp] theorem view_dropToken (s : State) (k : Nat) : view (dropToken s k) = view s := by
  unfold dropToken
  repeat' split
  all_goals simp [*]

@[simp] theorem view_abandonToken (s : State) (k : Nat) (c : Code) : view (abandonToken s k c) = view s := by
  unfold abandonToken
  repeat' split
  all_goals simp [*]

@[simp] theorem view_tokenJudge (s : State) (f : StoredFrame) : view (tokenJudge s f).2 = view s := by
  unfold tokenJudge
  try dsimp only
  repeat' split
  all_goals simp [*]

@[simp] theorem view_fillFree (l : List (Option Nat)) (s : State) : view (fillFree l s).2 = view s := by
  induction l generalizing s with
  | nil => rfl
  | cons a l ih => cases a <;> simp [fillFree, ih]

@[simp] theorem view_sendShared (s : State) (half src : Nat) (h : Ffh) : view (sendShared s half src h) = view s := by
  unfold sendShared
  try dsimp only
  repeat' split
  all_goals simp [*]

@[simp] theorem view_sendCombined (s : State) (m : Mop) (t : Token) (out : List Nat) : view (sendCombined s m t out) = view s := by
  simp [sendCombined]

@[simp] theorem view_completeCombine (s : State) (k : Nat) (m : Mop) (t : Token) : view (completeCombine s k m t) = view s := by
  simp [completeCombine]

@[simp] theorem view_finishCombine (s : State) (k : Nat) (m : Mop) (t : Token) (fault : Bool) : view (finishCombine s k m t fault) = view s := by
  simp [finishCombine]

@[simp] theorem view_settleToken (s : State) (k : Nat) : view (settleToken s k) = view s := by
  unfold settleToken
  repeat' split
  all_goals simp [*]

@[simp] theorem view_tokenFence (s : State) (hit : Nat → Bool) : view (tokenFence s hit) = view s := by
  unfold tokenFence
  all_goals (try (repeat' split))
  all_goals (try simp [*])
  all_goals (try (apply view_foldl; intro _ _))
  all_goals (try (repeat' split))
  all_goals (try simp [*])
  all_goals (try (apply view_foldl; intro _ _))
  all_goals (try (repeat' split))
  all_goals simp [*]

/-! TilthOps -/

@[simp] theorem view_setColl (s : State) (c : Coll) : view (setColl s c) = view s := by
  simp [setColl]

@[simp] theorem view_sendFrame (s : State) (c : Coll) (h : Ffh) (dest : SendTo) (payload : List Byte) : view (sendFrame s c h dest payload) = view s := by
  unfold sendFrame
  repeat' split
  all_goals simp [*]

@[simp] theorem view_sendVector (s : State) (c : Coll) (kind chunk fmt : Nat) (codes : List Nat) (who : Nat) (node : Bool) (rstat : Nat) (dest : SendTo) : view (sendVector s c kind chunk fmt codes who node rstat dest) = view s := by
  simp [sendVector]

@[simp] theorem view_sendCtrl (s : State) (c : Coll) (dst ctype status fclass arga argb : Nat) (l : List Nat) : view (sendCtrl s c dst ctype status fclass arga argb l) = view s := by
  simp [sendCtrl]

@[simp] theorem view_toMembers (s : State) (c : Coll) (g : State → Nat → State) (hg : ∀ t x, view (g t x) = view t) : view (toMembers s c g) = view s := by
  unfold toMembers
  apply view_foldl; intro u a; split <;> simp [hg]

@[simp] theorem view_toNodes (s : State) (c : Coll) (g : State → Nat → State) (hg : ∀ t x, view (g t x) = view t) : view (toNodes s c g) = view s := by
  unfold toNodes
  apply view_foldl; intro u i; simp [hg]

@[simp] theorem view_tellQueue (s : State) (c : Coll) (status : Nat) : view (tellQueue s c status) = view s := by
  unfold tellQueue
  repeat' split
  all_goals simp [*]

@[simp] theorem view_discardChunk (s : State) (c : Coll) (chunk : Nat) : view (discardChunk s c chunk) = view s := by
  unfold discardChunk
  try dsimp only
  repeat' split
  all_goals simp [*]

@[simp] theorem view_removeColl (s : State) (c : Coll) : view (removeColl s c) = view s := by
  simp [removeColl]

@[simp] theorem view_endColl (s : State) (c : Coll) (status : Nat) : view (endColl s c status) = view s := by
  simp [endColl]

@[simp] theorem view_announceFail (s : State) (c : Coll) (status fclass rank chunk : Nat) (ranks : List Nat) : view (announceFail s c status fclass rank chunk ranks) = view s := by
  simp [announceFail]

@[simp] theorem view_failColl (s : State) (k : Nat) (f : CFail) : view (failColl s k f) = view s := by
  unfold failColl
  try dsimp only
  repeat' split
  all_goals simp [*]

@[simp] theorem view_tryComplete (s : State) (k : Nat) : view (tryComplete s k) = view s := by
  unfold tryComplete
  repeat' split
  all_goals simp [*]

@[simp] theorem view_checkDone (s : State) (k : Nat) : view (checkDone s k) = view s := by
  unfold checkDone
  try dsimp only
  repeat' split
  all_goals simp [*]

@[simp] theorem view_noteSlow (s : State) (k chunk : Nat) : view (noteSlow s k chunk) = view s := by
  unfold noteSlow
  try dsimp only
  repeat' split
  all_goals simp [*]

@[simp] theorem view_finishChunk (s : State) (k chunk : Nat) : view (finishChunk s k chunk) = view s := by
  unfold finishChunk
  try dsimp only
  repeat' split
  all_goals simp [*]

/-! TilthData -/

@[simp] theorem view_openChunk (s : State) (c : Coll) (chunk : Nat) : view (openChunk s c chunk).1 = view s := by
  simp [openChunk]

@[simp] theorem view_addToChunk (s : State) (k chunk : Nat) (isPartial : Bool) (parts : List (List Addend × Nat)) (fids : List Nat) : view (addToChunk s k chunk isPartial parts fids) = view s := by
  unfold addToChunk
  repeat' split
  all_goals simp [*]

@[simp] theorem view_addPiece (s : State) (k chunk key : Nat) : view (addPiece s k chunk key) = view s := by
  unfold addPiece
  repeat' split
  all_goals simp [*]

@[simp] theorem view_addInOrder (k chunk : Nat) (l : List Nat) (s : State) : view (addInOrder k chunk l s) = view s := by
  induction l generalizing s with
  | nil => rfl
  | cons a l ih =>
    unfold addInOrder
    split
    · rfl
    · dsimp only; split; · rfl
      rw [ih]; split <;> simp

@[simp] theorem view_notePiece (s : State) (k chunk key : Nat) : view (notePiece s k chunk key) = view s := by
  unfold notePiece
  repeat' split
  all_goals simp [*]

@[simp] theorem view_runProduct (s : State) (c : Coll) (chunk id : Nat) (rows : List (List Val)) (rowBad : Option Nat) (colBad : List Nat) : view (runProduct s c chunk id rows rowBad colBad).2 = view s := by
  unfold runProduct
  try dsimp only
  repeat' split
  all_goals simp [*]

theorem view_productWaits {s : State} {c : Coll} {chunk : Nat} {x} (h : productWaits s c chunk = some x) : view x = view s := by
  unfold productWaits at h
  dsimp only at h
  repeat' split at h
  all_goals (try cases h)
  all_goals simp [*]

@[simp] theorem view_projectPiece (s : State) (k chunk rank : Nat) (rowBad : Option Nat) (colBad : List Nat) : view (projectPiece s k chunk rank rowBad colBad) = view s := by
  unfold projectPiece
  try dsimp only
  repeat' split
  all_goals simp [*]

@[simp] theorem view_passChunk (s : State) (k chunk rank cameFrom : Nat) : view (passChunk s k chunk rank cameFrom) = view s := by
  unfold passChunk
  all_goals (try dsimp only)
  all_goals (try (repeat' split))
  all_goals (try simp [*])
  all_goals (try (apply view_foldl; intro _ _))
  all_goals (try (repeat' split))
  all_goals (try simp [*])
  all_goals (try (apply view_foldl; intro _ _))
  all_goals (try (repeat' split))
  all_goals (try simp [*])
  all_goals (try (apply view_foldl; intro _ _))
  all_goals (try (repeat' split))
  all_goals simp [*]

@[simp] theorem view_mismatch (s : State) (c : Coll) (rank fclass : Nat) : view (mismatch s c rank fclass) = view s := by
  unfold mismatch
  repeat' split
  all_goals simp [*]

@[simp] theorem view_fileFrame (s : State) (c : Coll) (chunk key fid n len : Nat) : view (fileFrame s c chunk key fid n len).2 = view s := by
  simp [fileFrame]

theorem view_pieceWaits {s : State} {c : Coll} {chunk key : Nat} {x} (h : pieceWaits s c chunk key = some x) : view x = view s := by
  unfold pieceWaits at h
  dsimp only at h
  repeat' split at h
  all_goals (try cases h)
  all_goals (try have hv0 := view_productWaits (by assumption))
  all_goals simp [*]

@[simp] theorem view_contribIn (s : State) (fid : Nat) (rowBad : Option Nat) (colBad : List Nat) : view (contribIn s fid rowBad colBad) = view s := by
  unfold contribIn
  all_goals (try (repeat' split))
  all_goals (try have hv0 := view_pieceWaits (by assumption))
  all_goals (try have hv1 := view_takeHeld (by assumption))
  all_goals (try simp [*])
  all_goals (try (apply view_foldl; intro _ _))
  all_goals (try (repeat' split))
  all_goals (try have hv0 := view_pieceWaits (by assumption))
  all_goals (try have hv1 := view_takeHeld (by assumption))
  all_goals (try simp [*])
  all_goals (try (apply view_foldl; intro _ _))
  all_goals (try (repeat' split))
  all_goals (try have hv0 := view_pieceWaits (by assumption))
  all_goals (try have hv1 := view_takeHeld (by assumption))
  all_goals simp [*]

@[simp] theorem view_mxResult (s : State) (c : Coll) (chunk : Nat) (data : List (Tensor × Nat)) : view (mxResult s c chunk data).2 = view s := by
  simp [mxResult]

@[simp] theorem view_transformCodes (s : State) (c : Coll) (chunk : Nat) : view (transformCodes s c chunk).2 = view s := by
  simp [transformCodes]

@[simp] theorem view_resultCodes (s : State) (c : Coll) (chunk : Nat) : view (resultCodes s c chunk).2 = view s := by
  unfold resultCodes
  repeat' split
  all_goals simp [*]

@[simp] theorem view_sendResult (s : State) (c : Coll) (chunk : Nat) (codes : List Nat) : view (sendResult s c chunk codes) = view s := by
  simp [sendResult]

theorem view_sendPartial {s : State} {c : Coll} {chunk me parent : Nat} {x} (h : sendPartial s c chunk me parent = some x) : view x = view s := by
  unfold sendPartial at h
  dsimp only at h
  repeat' split at h
  all_goals (try cases h)
  all_goals simp

@[simp] theorem view_closeColl (s : State) (c : Coll) (chunk : Nat) : view (closeColl s c chunk) = view s := by
  simp [closeColl]

@[simp] theorem view_finishResult (s : State) (c : Coll) (chunk : Nat) (codes : List Nat) : view (finishResult s c chunk codes) = view s := by
  simp [finishResult]

@[simp] theorem view_finalisePost (s : State) (c : Coll) (chunk : Nat) (rowBad : Option Nat) (colBad : List Nat) : view (finalisePost s c chunk rowBad colBad) = view s := by
  unfold finalisePost
  try dsimp only
  repeat' split
  all_goals (try have hv0 := view_productWaits (by assumption))
  all_goals simp [*]

@[simp] theorem view_finalise (s : State) (c : Coll) (chunk : Nat) (rowBad : Option Nat) (colBad : List Nat) : view (finalise s c chunk rowBad colBad) = view s := by
  unfold finalise
  try dsimp only
  repeat' split
  all_goals simp [*]

@[simp] theorem view_gatherProduct (s : State) (c : Coll) (chunk : Nat) (rowBad : Option Nat) (colBad : List Nat) : view (gatherProduct s c chunk rowBad colBad) = view s := by
  unfold gatherProduct
  try dsimp only
  repeat' split
  all_goals (try have hv0 := view_productWaits (by assumption))
  all_goals simp [*]

@[simp] theorem view_inputsComplete (s : State) (k chunk : Nat) (fault : Bool) (rowBad : Option Nat) (colBad : List Nat) : view (inputsComplete s k chunk fault rowBad colBad) = view s := by
  unfold inputsComplete
  try dsimp only
  repeat' split
  all_goals (try have hv0 := view_sendPartial (by assumption))
  all_goals simp [*]

@[simp] theorem view_barrierCheck (s : State) (k : Nat) : view (barrierCheck s k) = view s := by
  unfold barrierCheck
  repeat' split
  all_goals simp [*]

@[simp] theorem view_arriveIn (s : State) (k rank : Nat) : view (arriveIn s k rank) = view s := by
  unfold arriveIn
  repeat' split
  all_goals simp [*]

@[simp] theorem view_endDest (s : State) (c : Coll) (dst : Nat) (st fclass rank chunk : Nat) (ranks : List Nat) : view (endDest s c dst st fclass rank chunk ranks).1 = view s := by
  simp [endDest]

@[simp] theorem view_a2aCheck (s : State) (k : Nat) : view (a2aCheck s k) = view s := by
  unfold a2aCheck
  split; · rfl
  rename_i c _
  split; · rfl
  dsimp only
  have g : ∀ (l : List Nat) (x : State × Coll),
      view (l.foldl (fun (u : State × Coll) d => endDest u.1 u.2 d (qualifier u.2) 0 noArg noArg u.2.excluded) x).1 = view x.1 := by
    intro l
    induction l with
    | nil => intro x; rfl
    | cons a l ih => intro x; simp [List.foldl_cons, ih]
  split <;> simp [g]

@[simp] theorem view_failDest (s : State) (c : Coll) (dst : Nat) (f : CFail) : view (failDest s c dst f) = view s := by
  simp [failDest]

@[simp] theorem view_a2aNote (s : State) (f : StoredFrame) : view (a2aNote s f) = view s := by
  unfold a2aNote
  try dsimp only
  repeat' split
  all_goals simp [*]

/-! TilthFlow -/

@[simp] theorem view_prewakeColl (s : State) (k : Nat) : view (prewakeColl s k) = view s := by
  unfold prewakeColl
  try dsimp only
  repeat' split
  all_goals simp [*]

@[simp] theorem view_readGroup (s : State) (d : Desc) (half : Nat) : view (readGroup s d half) = view s := by
  simp [readGroup]

theorem view_admitColl {s : State} {d : Desc} {queue : Option Nat} {half layer oper : Nat} {x} (h : admitColl s d queue half layer oper = .ok x) : view x = view s := by
  unfold admitColl at h
  dsimp only at h
  repeat' split at h
  all_goals (try cases h)
  all_goals (try have hv0 := view_reserveUnits (by assumption))
  all_goals simp [*]

@[simp] theorem view_admitHead (s : State) (q : Nat) : view (admitHead s q) = view s := by
  unfold admitHead
  try dsimp only
  repeat' split
  all_goals (try have hv0 := view_admitColl (by assumption))
  all_goals simp [*]

theorem view_admitTemplate {s : State} {h : Ffh} {half : Nat} {t : Template} {x} (h : admitTemplate s h half t = some x) : view x = view s := by
  unfold admitTemplate at h
  dsimp only at h
  repeat' split at h
  all_goals (try cases h)
  all_goals (try have hv0 := view_admitColl (by assumption))
  all_goals simp [*]

@[simp] theorem view_restartFrom (s : State) (k from_ : Nat) : view (restartFrom s k from_) = view s := by
  unfold restartFrom
  repeat' split
  all_goals simp [*]

@[simp] theorem view_judgeColl (s : State) (c : Coll) (f : StoredFrame) : view (judgeColl s c f).2 = view s := by
  simp [judgeColl]

@[simp] theorem view_tilthJudge (s : State) (f : StoredFrame) : view (tilthJudge s f).2 = view s := by
  unfold tilthJudge
  try dsimp only
  repeat' split
  all_goals (try have hv0 := view_admitTemplate (by assumption))
  all_goals simp [*]

@[simp] theorem view_tilthPasses (s : State) (half : Nat) (h : Ffh) : view (tilthPasses s half h).2 = view s := by
  unfold tilthPasses
  repeat' split
  all_goals (try have hv0 := view_admitTemplate (by assumption))
  all_goals simp [*]

@[simp] theorem view_ackParent (s : State) (c : Coll) : view (ackParent s c) = view s := by
  unfold ackParent
  try dsimp only
  repeat' split
  all_goals simp [*]

@[simp] theorem view_verifyDigest (s : State) (k : Nat) : view (verifyDigest s k) = view s := by
  unfold verifyDigest
  repeat' split
  all_goals simp [*]

@[simp] theorem view_bcastIn (s : State) (fid : Nat) : view (bcastIn s fid) = view s := by
  unfold bcastIn
  try dsimp only
  repeat' split
  all_goals (try have hv0 := view_takeHeld (by assumption))
  all_goals simp [*]

@[simp] theorem view_readCache (s : State) (k chunk : Nat) : view (readCache s k chunk).2 = view s := by
  have h : ∀ (c : Coll) (l : List Nat) (v : State), view (l.foldl (fun u q =>
      { raise u .loamUe 0 (recStore c.part q 0) with loam := { (raise u .loamUe 0 (recStore c.part q 0)).loam with
        clods := tins u.loam.clods q { kind := .retired } } }) v) = view v := fun c l v =>
    view_foldl l v fun u q => (view_with (raise u .loamUe 0 (recStore c.part q 0)) ..).trans (by simp)
  unfold readCache
  cases collOf s k with
  | none => rfl
  | some c =>
    dsimp only
    repeat' split
    all_goals first
      | (show view (setColl _ _) = view s
         rw [view_setColl, h]
         simp)
      | simp

@[simp] theorem view_sendCached (s : State) (k kid chunk : Nat) (count : Bool) : view (sendCached s k kid chunk count) = view s := by
  unfold sendCached
  have hv := view_readCache s k chunk
  split
  · rename_i s1 h1
    rw [h1] at hv
    dsimp only
    split
    · simpa using hv
    · split <;> simpa using hv
  · rename_i s1 h1; rw [h1] at hv; simpa using hv

@[simp] theorem view_sendDigest (s : State) (k kid : Nat) (ws : List Nat) (count : Bool) : view (sendDigest s k kid ws count) = view s := by
  unfold sendDigest
  repeat' split
  all_goals simp [*]

@[simp] theorem view_bcResendAll (s : State) (k : Nat) : view (bcResendAll s k) = view s := by
  unfold bcResendAll
  repeat' split
  all_goals simp [*]

@[simp] theorem view_askAlternate (s : State) (c : Coll) (me alt : Nat) : view (askAlternate s c me alt) = view s := by
  simp [askAlternate]

@[simp] theorem view_excludeMembers (s : State) (k : Nat) (rs : List Nat) : view (excludeMembers s k rs) = view s := by
  unfold excludeMembers
  split; · rfl
  dsimp only
  split <;> simp

@[simp] theorem view_loseMembers (s : State) (k : Nat) (rs : List Nat) : view (loseMembers s k rs) = view s := by
  unfold loseMembers
  all_goals (try (repeat' split))
  all_goals (try simp [*])
  all_goals (try (apply view_foldl; intro _ _))
  all_goals (try (repeat' split))
  all_goals (try simp [*])
  all_goals (try (apply view_foldl; intro _ _))
  all_goals (try (repeat' split))
  all_goals simp [*]

@[simp] theorem view_subtreeLost (s : State) (k : Nat) : view (subtreeLost s k) = view s := by
  unfold subtreeLost
  try dsimp only
  repeat' split
  all_goals simp [*]

@[simp] theorem view_seekParent (s : State) (k : Nat) (alts : List Nat) : view (seekParent s k alts) = view s := by
  unfold seekParent
  repeat' split
  all_goals simp [*]

@[simp] theorem view_moveChunks (s : State) (k i : Nat) : view (moveChunks s k i) = view s := by
  unfold moveChunks
  try dsimp only
  repeat' split
  all_goals simp [*]

@[simp] theorem view_tryRestart (s : State) (k : Nat) : view (tryRestart s k) = view s := by
  unfold tryRestart
  repeat' split
  all_goals simp [*]

@[simp] theorem view_seekAfter (s : State) (k i : Nat) : view (seekAfter s k i) = view s := by
  unfold seekAfter
  try dsimp only
  repeat' split
  all_goals simp [*]

@[simp] theorem view_loseTreeNode (s : State) (k i : Nat) : view (loseTreeNode s k i) = view s := by
  unfold loseTreeNode
  try dsimp only
  repeat' split
  all_goals simp [*]

@[simp] theorem view_loseNode (s : State) (k i : Nat) : view (loseNode s k i) = view s := by
  unfold loseNode
  repeat' split
  all_goals simp [*]

@[simp] theorem view_fenceColl (s : State) (k : Nat) (spine : Option Nat) (hit : Nat → Bool) : view (fenceColl s k spine hit) = view s := by
  unfold fenceColl
  try dsimp only
  repeat' split
  all_goals simp [*]

@[simp] theorem view_tilthFence (s : State) (spine : Option Nat) (hit : Nat → Bool) : view (tilthFence s spine hit) = view s := by
  simp [tilthFence]

@[simp] theorem view_adopt (s : State) (c : Coll) (child parent : Nat) : view (adopt s c child parent) = view s := by
  simp [adopt]

@[simp] theorem view_collDeadline (s : State) (k : Nat) : view (collDeadline s k) = view s := by
  unfold collDeadline
  split; · rfl
  split; · rfl
  split; · simp
  dsimp only
  split
  · rw [view_foldl]
    · simp
    · intro u d; split <;> simp
  · split <;> simp

@[simp] theorem view_tilthTeardown (s : State) (part : Nat) : view (tilthTeardown s part) = view s := by
  simp [tilthTeardown]

/-! Notice -/

@[simp] theorem view_spineNotice (s : State) (spine : Nat) : view (spineNotice s spine) = view s := by
  simp [spineNotice]

@[simp] theorem view_downNotice (s : State) (spine field : Nat) : view (downNotice s spine field) = view s := by
  simp [downNotice]

/-! PrivetOps -/

@[simp] theorem view_laneDown (s : State) (lane : Nat) : view (laneDown s lane) = view s := by
  simp [laneDown]

@[simp] theorem view_laneFailed (s : State) (lane : Nat) : view (laneFailed s lane) = view s := by
  unfold laneFailed
  repeat' split
  all_goals simp [*]

@[simp] theorem view_askMig (s : State) (lane : Nat) : view (askMig s lane) = view s := by
  simp [askMig]

@[simp] theorem view_ringFailed (s : State) (r : Nat) : view (ringFailed s r) = view s := by
  unfold ringFailed
  repeat' split
  all_goals simp [*]

@[simp] theorem view_wrongLine (s : State) (r : Nat) : view (wrongLine s r) = view s := by
  unfold wrongLine
  repeat' split
  all_goals simp [*]

/-! HawOps -/

@[simp] theorem view_fencePort (s : State) (p : Nat) (k : PortFence) : view (fencePort s p k) = view s := by
  simp [fencePort]

@[simp] theorem view_unfencePort (s : State) (p : Nat) : view (unfencePort s p) = view s := by
  simp [unfencePort]

@[simp] theorem view_dueBoundary (s : State) (p : Nat) : view (dueBoundary s p) = view s := by
  simp [dueBoundary]

@[simp] theorem view_setSpine (s : State) (x : Nat) (g : SpineBits → SpineBits) : view (setSpine s x g) = view s := by
  simp [setSpine]

@[simp] theorem view_setCab (s : State) (p : Nat) (c : Cab) : view (setCab s p c) = view s := by
  simp [setCab]

@[simp] theorem view_setId (s : State) (p : Nat) (i : PeerId) : view (setId s p i) = view s := by
  simp [setId]

@[simp] theorem view_judgePort (s : State) (p : Nat) : view (judgePort s p) = view s := by
  unfold judgePort
  try dsimp only
  repeat' split
  all_goals simp [*]

@[simp] theorem view_judgeAll (s : State) : view (judgeAll s) = view s := by
  simp [judgeAll]

@[simp] theorem view_hawLinkUp (s : State) (p : Nat) : view (hawLinkUp s p) = view s := by
  simp [hawLinkUp]

@[simp] theorem view_sendDiscovery (s : State) (p : Nat) (boundary : Bool) : view (sendDiscovery s p boundary) = view s := by
  simp [sendDiscovery]

@[simp] theorem view_sendHedge (s : State) (p : Nat) (m : List Byte) : view (sendHedge s p m) = view s := by
  simp [sendHedge]

@[simp] theorem view_floodOut (s : State) (m : List Byte) (fromDim : Nat) : view (floodOut s m fromDim) = view s := by
  unfold floodOut
  all_goals (try (repeat' split))
  all_goals (try simp [*])
  all_goals (try (apply view_foldl; intro _ _))
  all_goals (try (repeat' split))
  all_goals (try simp [*])
  all_goals (try (apply view_foldl; intro _ _))
  all_goals (try (repeat' split))
  all_goals simp [*]

@[simp] theorem view_noteSeen (s : State) (origin hseq : Nat) : view (noteSeen s origin hseq) = view s := by
  simp [noteSeen]

@[simp] theorem view_flood (s : State) (h : Hedge) : view (flood s h) = view s := by
  simp [flood]

theorem view_floodIn {s : State} {fid htype : Nat} {x} (h : floodIn s fid htype = some x) : view x.2 = view s := by
  unfold floodIn at h
  dsimp only at h
  repeat' split at h
  all_goals (try contradiction)
  · next hr => cases h; exact view_takeKind_error hr
  all_goals
    have hv := view_takeKind (by assumption)
    cases h
    simpa using hv

@[simp] theorem view_setNeigh (s : State) (d : Nat) (n : Neigh) : view (setNeigh s d n) = view s := by
  simp [setNeigh]

@[simp] theorem view_dropVote (s : State) (x : Nat) : view (dropVote s x) = view s := by
  simp [dropVote]

@[simp] theorem view_putVote (s : State) (v : Vote) : view (putVote s v) = view s := by
  simp [putVote]

@[simp] theorem view_noteResult (s : State) (result evid voters yes suspect : Nat) : view (noteResult s result evid voters yes suspect) = view s := by
  simp [noteResult]

@[simp] theorem view_enterHold (s : State) : view (enterHold s) = view s := by
  simp [enterHold]

@[simp] theorem view_countExpulsion (s : State) (part : Nat) : view (countExpulsion s part) = view s := by
  simp [countExpulsion]

@[simp] theorem view_applyCommit (s : State) (h : Hedge) : view (applyCommit s h) = view s := by
  simp [applyCommit]

@[simp] theorem view_commitVote (s : State) (v : Vote) : view (commitVote s v) = view s := by
  simp [commitVote]

@[simp] theorem view_abandonVote (s : State) (v : Vote) : view (abandonVote s v) = view s := by
  simp [abandonVote]

@[simp] theorem view_settleVote (s : State) (v : Vote) : view (settleVote s v) = view s := by
  simp [settleVote]

@[simp] theorem view_bumpVseq (s : State) : view (bumpVseq s) = view s := by
  simp [bumpVseq]

@[simp] theorem view_leaveOut (s : State) (x : Nat) : view (leaveOut s x) = view s := by
  simp [leaveOut]

@[simp] theorem view_propose (s : State) (x evid : Nat) : view (propose s x evid) = view s := by
  simp [propose]

@[simp] theorem view_proposeStrong (s : State) (x evid : Nat) : view (proposeStrong s x evid) = view s := by
  simp [proposeStrong]

@[simp] theorem view_proposeSelf (s : State) : view (proposeSelf s) = view s := by
  simp [proposeSelf]

@[simp] theorem view_castVote (s : State) (v : Vote) (yes : Bool) : view (castVote s v yes) = view s := by
  simp [castVote]

@[simp] theorem view_startProbation (s : State) (x : Nat) : view (startProbation s x) = view s := by
  simp [startProbation]

@[simp] theorem view_probationBeat (s : State) (x score : Nat) : view (probationBeat s x score) = view s := by
  unfold probationBeat
  repeat' split
  all_goals simp [*]

@[simp] theorem view_clearSpine (s : State) (x : Nat) : view (clearSpine s x) = view s := by
  simp [clearSpine]

@[simp] theorem view_endProbation (s : State) (x : Nat) : view (endProbation s x) = view s := by
  unfold endProbation
  repeat' split
  all_goals simp [*]

@[simp] theorem view_addRfence (s : State) (x field : Nat) : view (addRfence s x field) = view s := by
  simp [addRfence]

@[simp] theorem view_noticeDown (s : State) (field evid : Nat) : view (noticeDown s field evid) = view s := by
  simp [noticeDown]

end Sys2Proof.Laws
end

