-- ==== Sys2Proof/Laws/ViewLinkRows.lean ====
section
/-!
SUPPORT. Laws/ViewLinkRows.lean: what the commands and events of links, fences, gates, sleep, the store, routes and tables keep.
-/

set_option Elab.async false

namespace Sys2Proof.Laws

open Sys2Proof Sys2Proof.Machine

/-! LinkRows -/

@[simp] theorem view_atLink (l : Nat) (t : State) : keeps t (atLink l t) := by
  simp [atLink]

@[simp] theorem view_trainFail (s : State) (p : Nat) : view (trainFail s p) = view s := by
  simp [trainFail]

@[simp] theorem view_lockDrop (s : State) (n : Nat) : view (lockDrop s n) = view s := by
  simp [lockDrop]

@[simp] theorem view_sendMarker (s : State) (p i : Nat) : view (sendMarker s p i) = view s := by
  simp [sendMarker]

@[simp] theorem view_signalPresent (s : State) (p : Nat) : view (signalPresent s p) = view s := by
  simp [signalPresent]

@[simp] theorem view_execSignalPresent (port : Nat) (s : State) : keeps s (execSignalPresent port s) := by
  unfold execSignalPresent
  try (first | apply keeps_atUnit | apply keeps_atPort | apply keeps_atLink | apply keeps_atLane | refine keeps_runCmd rfl ?_ | refine keeps_runLong rfl ?_)
  repeat' split
  all_goals simp [*]

@[simp] theorem view_execTrainTimeout (port : Nat) (s : State) : keeps s (execTrainTimeout port s) := by
  unfold execTrainTimeout
  try (first | apply keeps_atUnit | apply keeps_atPort | apply keeps_atLink | apply keeps_atLane | refine keeps_runCmd rfl ?_ | refine keeps_runLong rfl ?_)
  repeat' split
  all_goals simp [*]

@[simp] theorem view_steerMismatch (s : State) (p : Nat) (msg : List Byte) : view (steerMismatch s p msg) = view s := by
  unfold steerMismatch
  repeat' split
  all_goals simp [*]

@[simp] theorem view_helloIn (s : State) (p : Nat) (msg : List Byte) : view (helloIn s p msg) = view s := by
  unfold helloIn
  repeat' split
  all_goals simp [*]

@[simp] theorem view_execHelloReceived (port : Nat) (msg : List Byte) (s : State) : keeps s (execHelloReceived port msg s) := by
  unfold execHelloReceived
  try (first | apply keeps_atUnit | apply keeps_atPort | apply keeps_atLink | apply keeps_atLane | refine keeps_runCmd rfl ?_ | refine keeps_runLong rfl ?_)
  repeat' split
  all_goals simp [*]

@[simp] theorem view_clearEnd (s : State) (l : Nat) : view (clearEnd s l) = view s := by
  simp [clearEnd]

@[simp] theorem view_comesUp (s : State) (p : Nat) : view (comesUp s p) = view s := by
  unfold comesUp
  repeat' split
  all_goals simp [*]

@[simp] theorem view_linkUp (s : State) (p rtt : Nat) : view (linkUp s p rtt) = view s := by
  unfold linkUp
  try dsimp only
  repeat' split
  all_goals simp [*]

@[simp] theorem view_execLinkUp (port rtt : Nat) (s : State) : keeps s (execLinkUp port rtt s) := by
  unfold execLinkUp
  try (first | apply keeps_atUnit | apply keeps_atPort | apply keeps_atLink | apply keeps_atLane | refine keeps_runCmd rfl ?_ | refine keeps_runLong rfl ?_)
  repeat' split
  all_goals simp [*]

@[simp] theorem view_trainMarker (s : State) (p i laneId echoId : Nat) : view (trainMarker s p i laneId echoId) = view s := by
  unfold trainMarker
  repeat' split
  all_goals simp [*]

@[simp] theorem view_upMarker (s : State) (p i laneId echoId : Nat) : view (upMarker s p i laneId echoId) = view s := by
  unfold upMarker
  repeat' split
  all_goals simp [*]

@[simp] theorem view_noteLaneId (s : State) (p i laneId : Nat) : view (noteLaneId s p i laneId) = view s := by
  simp [noteLaneId]

@[simp] theorem view_execAlignmentMarker (port lane laneId echoId : Nat) (s : State) : keeps s (execAlignmentMarker port lane laneId echoId s) := by
  unfold execAlignmentMarker
  try (first | apply keeps_atUnit | apply keeps_atPort | apply keeps_atLink | apply keeps_atLane | refine keeps_runCmd rfl ?_ | refine keeps_runLong rfl ?_)
  repeat' split
  all_goals simp [*]

@[simp] theorem view_execLaneLockLoss (port lane : Nat) (s : State) : keeps s (execLaneLockLoss port lane s) := by
  unfold execLaneLockLoss
  try (first | apply keeps_atUnit | apply keeps_atPort | apply keeps_atLink | apply keeps_atLane | refine keeps_runCmd rfl ?_ | refine keeps_runLong rfl ?_)
  repeat' split
  all_goals simp [*]

@[simp] theorem view_execLaneErrorPeriod (port lane symbols : Nat) (s : State) : keeps s (execLaneErrorPeriod port lane symbols s) := by
  unfold execLaneErrorPeriod
  try (first | apply keeps_atUnit | apply keeps_atPort | apply keeps_atLink | apply keeps_atLane | refine keeps_runCmd rfl ?_ | refine keeps_runLong rfl ?_)
  repeat' split
  all_goals simp [*]

@[simp] theorem view_spareRemap (s : State) (lane : Nat) : view (spareRemap s lane) = view s := by
  simp [spareRemap]

@[simp] theorem view_execSpareRemap (slice lane : Nat) (s : State) : keeps s (execSpareRemap slice lane s) := by
  simp [execSpareRemap]

@[simp] theorem view_noteCover (s : State) (p : Nat) : view (noteCover s p) = view s := by
  simp [noteCover]

@[simp] theorem view_degrade (s : State) (p mask : Nat) : view (degrade s p mask) = view s := by
  simp [degrade]

@[simp] theorem view_execDegradeAgree (port mask : Nat) (s : State) : keeps s (execDegradeAgree port mask s) := by
  unfold execDegradeAgree
  try (first | apply keeps_atUnit | apply keeps_atPort | apply keeps_atLink | apply keeps_atLane | refine keeps_runCmd rfl ?_ | refine keeps_runLong rfl ?_)
  repeat' split
  all_goals simp [*]

@[simp] theorem view_execLinkAckReceived (link space ack : Nat) (s : State) : keeps s (execLinkAckReceived link space ack s) := by
  unfold execLinkAckReceived
  try (first | apply keeps_atUnit | apply keeps_atPort | apply keeps_atLink | apply keeps_atLane | refine keeps_runCmd rfl ?_ | refine keeps_runLong rfl ?_)
  repeat' split
  all_goals simp [*]

@[simp] theorem view_settleTc7 (s : State) (l : Nat) : view (settleTc7 s l) = view s := by
  unfold settleTc7
  repeat' split
  all_goals simp [*]

@[simp] theorem view_execLossEvent (link space seq : Nat) (s : State) : keeps s (execLossEvent link space seq s) := by
  unfold execLossEvent
  try (first | apply keeps_atUnit | apply keeps_atPort | apply keeps_atLink | apply keeps_atLane | refine keeps_runCmd rfl ?_ | refine keeps_runLong rfl ?_)
  repeat' split
  all_goals simp [*]

@[simp] theorem view_execWithheldEvent (link space seq : Nat) (s : State) : keeps s (execWithheldEvent link space seq s) := by
  unfold execWithheldEvent
  try (first | apply keeps_atUnit | apply keeps_atPort | apply keeps_atLink | apply keeps_atLane | refine keeps_runCmd rfl ?_ | refine keeps_runLong rfl ?_)
  repeat' split
  all_goals simp [*]

@[simp] theorem view_withholdReplay (s : State) (l q n : Nat) : view (withholdReplay s l q n) = view s := by
  unfold withholdReplay
  repeat' split
  all_goals simp [*]

@[simp] theorem view_execWithholdReplay (link space seq : Nat) (s : State) : keeps s (execWithholdReplay link space seq s) := by
  unfold execWithholdReplay
  try (first | apply keeps_atUnit | apply keeps_atPort | apply keeps_atLink | apply keeps_atLane | refine keeps_runCmd rfl ?_ | refine keeps_runLong rfl ?_)
  repeat' split
  all_goals simp [*]

@[simp] theorem view_execRefusedEvent (link _space _seq : Nat) (s : State) : keeps s (execRefusedEvent link _space _seq s) := by
  simp [execRefusedEvent]

@[simp] theorem view_execSkipEvent (link space seq : Nat) (s : State) : keeps s (execSkipEvent link space seq s) := by
  unfold execSkipEvent
  try (first | apply keeps_atUnit | apply keeps_atPort | apply keeps_atLink | apply keeps_atLane | refine keeps_runCmd rfl ?_ | refine keeps_runLong rfl ?_)
  repeat' split
  all_goals simp [*]

@[simp] theorem view_sendNextBlock (s : State) (l : Nat) : view (sendNextBlock s l) = view s := by
  simp [sendNextBlock]

@[simp] theorem view_sendBlocks (n : Nat) (s : State) (l : Nat) : view (sendBlocks n s l) = view s := by
  induction n generalizing s with
  | zero => rfl
  | succ n ih => unfold sendBlocks; split <;> simp [ih]

@[simp] theorem view_ackReport (s : State) (l : Nat) : view (ackReport s l) = view s := by
  unfold ackReport; simp

@[simp] theorem view_execAckReport (link : Nat) (s : State) : keeps s (execAckReport link s) := by
  unfold execAckReport
  try (first | apply keeps_atUnit | apply keeps_atPort | apply keeps_atLink | apply keeps_atLane | refine keeps_runCmd rfl ?_ | refine keeps_runLong rfl ?_)
  repeat' split
  all_goals simp [*]

@[simp] theorem view_skipAnnounce (s : State) (l : Nat) : view (skipAnnounce s l) = view s := by
  unfold skipAnnounce; simp

@[simp] theorem view_execSkipAnnounce (link : Nat) (s : State) : keeps s (execSkipAnnounce link s) := by
  unfold execSkipAnnounce
  try (first | apply keeps_atUnit | apply keeps_atPort | apply keeps_atLink | apply keeps_atLane | refine keeps_runCmd rfl ?_ | refine keeps_runLong rfl ?_)
  repeat' split
  all_goals simp [*]

@[simp] theorem view_execTxcMarkEvent (link txc : Nat) (s : State) : keeps s (execTxcMarkEvent link txc s) := by
  unfold execTxcMarkEvent
  try (first | apply keeps_atUnit | apply keeps_atPort | apply keeps_atLink | apply keeps_atLane | refine keeps_runCmd rfl ?_ | refine keeps_runLong rfl ?_)
  repeat' split
  all_goals simp [*]

@[simp] theorem view_txcMark (s : State) (l : Nat) : view (txcMark s l) = view s := by
  simp [txcMark]

@[simp] theorem view_execTxcMarkSend (link : Nat) (s : State) : keeps s (execTxcMarkSend link s) := by
  unfold execTxcMarkSend
  try (first | apply keeps_atUnit | apply keeps_atPort | apply keeps_atLink | apply keeps_atLane | refine keeps_runCmd rfl ?_ | refine keeps_runLong rfl ?_)
  repeat' split
  all_goals simp [*]

@[simp] theorem view_retryTimeout (s : State) (l q n : Nat) : view (retryTimeout s l q n) = view s := by
  unfold retryTimeout
  repeat' split
  all_goals simp [*]

@[simp] theorem view_execRetryTimeout (link space seq : Nat) (s : State) : keeps s (execRetryTimeout link space seq s) := by
  unfold execRetryTimeout
  try (first | apply keeps_atUnit | apply keeps_atPort | apply keeps_atLink | apply keeps_atLane | refine keeps_runCmd rfl ?_ | refine keeps_runLong rfl ?_)
  repeat' split
  all_goals simp [*]

@[simp] theorem view_execSinkStall (port : Nat) (s : State) : keeps s (execSinkStall port s) := by
  unfold execSinkStall
  try (first | apply keeps_atUnit | apply keeps_atPort | apply keeps_atLink | apply keeps_atLane | refine keeps_runCmd rfl ?_ | refine keeps_runLong rfl ?_)
  repeat' split
  all_goals simp [*]

@[simp] theorem view_execVlinkIdleRelease (v : Nat) (s : State) : keeps s (execVlinkIdleRelease v s) := by
  unfold execVlinkIdleRelease
  try (first | apply keeps_atUnit | apply keeps_atPort | apply keeps_atLink | apply keeps_atLane | refine keeps_runCmd rfl ?_ | refine keeps_runLong rfl ?_)
  repeat' split
  all_goals simp [*]

/-! HawRows -/

@[simp] theorem view_admitNow (s : State) (a : Admitting) : view (admitNow s a) = view s := by
  simp [admitNow]

@[simp] theorem view_execPartAdmit (c : Ncp) (s : State) : keeps s (execPartAdmit c s) := by
  unfold execPartAdmit
  try (first | apply keeps_atUnit | apply keeps_atPort | apply keeps_atLink | apply keeps_atLane | refine keeps_runCmd rfl ?_ | refine keeps_runLong rfl ?_)
  repeat' (first | (apply okr_bind; intro _ _) | (apply oks_bind; intro _ _) | split)
  all_goals simp [*]

@[simp] theorem view_applyBoundary (s : State) (p : Nat) : view (applyBoundary s p) = view s := by
  unfold applyBoundary
  try dsimp only
  repeat' split
  all_goals simp [*]

@[simp] theorem view_execBoundaryFenceApply (port : Nat) (s : State) : keeps s (execBoundaryFenceApply port s) := by
  unfold execBoundaryFenceApply
  try (first | apply keeps_atUnit | apply keeps_atPort | apply keeps_atLink | apply keeps_atLane | refine keeps_runCmd rfl ?_ | refine keeps_runLong rfl ?_)
  repeat' split
  all_goals simp [*]

@[simp] theorem view_execLoadCabling (c : Ncp) (s : State) : keeps s (execLoadCabling c s) := by
  unfold execLoadCabling
  try (first | apply keeps_atUnit | apply keeps_atPort | apply keeps_atLink | apply keeps_atLane | refine keeps_runCmd rfl ?_ | refine keeps_runLong rfl ?_)
  repeat' (first | (apply okr_bind; intro _ _) | (apply oks_bind; intro _ _) | split)
  all_goals simp [*]

@[simp] theorem view_execDiscover (c : Ncp) (s : State) : keeps s (execDiscover c s) := by
  unfold execDiscover
  try (first | apply keeps_atUnit | apply keeps_atPort | apply keeps_atLink | apply keeps_atLane | refine keeps_runCmd rfl ?_ | refine keeps_runLong rfl ?_)
  repeat' (first | (apply okr_bind; intro _ _) | (apply oks_bind; intro _ _) | split)
  all_goals simp [*]

@[simp] theorem view_execDiscoverySend (port : Nat) (s : State) : keeps s (execDiscoverySend port s) := by
  unfold execDiscoverySend
  try (first | apply keeps_atUnit | apply keeps_atPort | apply keeps_atLink | apply keeps_atLane | refine keeps_runCmd rfl ?_ | refine keeps_runLong rfl ?_)
  repeat' split
  all_goals simp [*]

@[simp] theorem view_discoveryIn (s : State) (f : StoredFrame) : view (discoveryIn s f) = view s := by
  simp [discoveryIn]

@[simp] theorem view_execDiscoveryReceive (fid : Nat) (s : State) : keeps s (execDiscoveryReceive fid s) := by
  unfold execDiscoveryReceive
  try (first | apply keeps_atUnit | apply keeps_atPort | apply keeps_atLink | apply keeps_atLane | refine keeps_runCmd rfl ?_ | refine keeps_runLong rfl ?_)
  repeat' split
  all_goals (try have hv0 := view_takeKind (by assumption))
  all_goals (try have hv1 := view_takeKind_error (by assumption))
  all_goals simp [*]

@[simp] theorem view_execPlanWaitExpiry (port : Nat) (s : State) : keeps s (execPlanWaitExpiry port s) := by
  unfold execPlanWaitExpiry
  try (first | apply keeps_atUnit | apply keeps_atPort | apply keeps_atLink | apply keeps_atLane | refine keeps_runCmd rfl ?_ | refine keeps_runLong rfl ?_)
  repeat' split
  all_goals simp [*]

@[simp] theorem view_execHawFence (c : Ncp) (s : State) : keeps s (execHawFence c s) := by
  unfold execHawFence
  try (first | apply keeps_atUnit | apply keeps_atPort | apply keeps_atLink | apply keeps_atLane | refine keeps_runCmd rfl ?_ | refine keeps_runLong rfl ?_)
  repeat' (first | (apply okr_bind; intro _ _) | (apply oks_bind; intro _ _) | split)
  all_goals simp [*]

@[simp] theorem view_execFenceClear (c : Ncp) (s : State) : keeps s (execFenceClear c s) := by
  unfold execFenceClear
  try (first | apply keeps_atUnit | apply keeps_atPort | apply keeps_atLink | apply keeps_atLane | refine keeps_runCmd rfl ?_ | refine keeps_runLong rfl ?_)
  repeat' (first | (apply okr_bind; intro _ _) | (apply oks_bind; intro _ _) | split)
  all_goals simp [*]

@[simp] theorem view_execHedgeBeatSend (port : Nat) (s : State) : keeps s (execHedgeBeatSend port s) := by
  unfold execHedgeBeatSend
  try (first | apply keeps_atUnit | apply keeps_atPort | apply keeps_atLink | apply keeps_atLane | refine keeps_runCmd rfl ?_ | refine keeps_runLong rfl ?_)
  repeat' split
  all_goals simp [*]

@[simp] theorem view_beatIn (s : State) (f : StoredFrame) : view (beatIn s f) = view s := by
  simp [beatIn]

@[simp] theorem view_execHedgeBeatReceive (fid : Nat) (s : State) : keeps s (execHedgeBeatReceive fid s) := by
  unfold execHedgeBeatReceive
  try (first | apply keeps_atUnit | apply keeps_atPort | apply keeps_atLink | apply keeps_atLane | refine keeps_runCmd rfl ?_ | refine keeps_runLong rfl ?_)
  repeat' split
  all_goals (try have hv0 := view_takeKind (by assumption))
  all_goals (try have hv1 := view_takeKind_error (by assumption))
  all_goals simp [*]

@[simp] theorem view_execNeighbourSilent (dim : Nat) (s : State) : keeps s (execNeighbourSilent dim s) := by
  unfold execNeighbourSilent
  try (first | apply keeps_atUnit | apply keeps_atPort | apply keeps_atLink | apply keeps_atLane | refine keeps_runCmd rfl ?_ | refine keeps_runLong rfl ?_)
  repeat' split
  all_goals simp [*]

@[simp] theorem view_proposalIn (s : State) (h : Hedge) : view (proposalIn s h) = view s := by
  unfold proposalIn
  try dsimp only
  repeat' split
  all_goals simp [*]

@[simp] theorem view_execProposeReceived (fid : Nat) (s : State) : keeps s (execProposeReceived fid s) := by
  unfold execProposeReceived
  try (first | apply keeps_atUnit | apply keeps_atPort | apply keeps_atLink | apply keeps_atLane | refine keeps_runCmd rfl ?_ | refine keeps_runLong rfl ?_)
  repeat' split
  all_goals (try have hv0 := view_floodIn (by assumption))
  all_goals simp [*]

@[simp] theorem view_execVoteObservationDue (suspect : Nat) (s : State) : keeps s (execVoteObservationDue suspect s) := by
  unfold execVoteObservationDue
  try (first | apply keeps_atUnit | apply keeps_atPort | apply keeps_atLink | apply keeps_atLane | refine keeps_runCmd rfl ?_ | refine keeps_runLong rfl ?_)
  repeat' split
  all_goals simp [*]

@[simp] theorem view_voteIn (s : State) (h : Hedge) (yes : Bool) : view (voteIn s h yes) = view s := by
  unfold voteIn
  repeat' split
  all_goals simp [*]

@[simp] theorem view_execVoteYesReceived (fid : Nat) (s : State) : keeps s (execVoteYesReceived fid s) := by
  unfold execVoteYesReceived
  try (first | apply keeps_atUnit | apply keeps_atPort | apply keeps_atLink | apply keeps_atLane | refine keeps_runCmd rfl ?_ | refine keeps_runLong rfl ?_)
  repeat' split
  all_goals (try have hv0 := view_floodIn (by assumption))
  all_goals simp [*]

@[simp] theorem view_execVoteNoReceived (fid : Nat) (s : State) : keeps s (execVoteNoReceived fid s) := by
  unfold execVoteNoReceived
  try (first | apply keeps_atUnit | apply keeps_atPort | apply keeps_atLink | apply keeps_atLane | refine keeps_runCmd rfl ?_ | refine keeps_runLong rfl ?_)
  repeat' split
  all_goals (try have hv0 := view_floodIn (by assumption))
  all_goals simp [*]

@[simp] theorem view_execVoteWindowExpiry (suspect : Nat) (s : State) : keeps s (execVoteWindowExpiry suspect s) := by
  unfold execVoteWindowExpiry
  try (first | apply keeps_atUnit | apply keeps_atPort | apply keeps_atLink | apply keeps_atLane | refine keeps_runCmd rfl ?_ | refine keeps_runLong rfl ?_)
  repeat' split
  all_goals simp [*]

@[simp] theorem view_execCommitReceived (fid : Nat) (s : State) : keeps s (execCommitReceived fid s) := by
  unfold execCommitReceived
  try (first | apply keeps_atUnit | apply keeps_atPort | apply keeps_atLink | apply keeps_atLane | refine keeps_runCmd rfl ?_ | refine keeps_runLong rfl ?_)
  repeat' split
  all_goals (try have hv0 := view_floodIn (by assumption))
  all_goals simp [*]

@[simp] theorem view_execAbandonReceived (fid : Nat) (s : State) : keeps s (execAbandonReceived fid s) := by
  unfold execAbandonReceived
  try (first | apply keeps_atUnit | apply keeps_atPort | apply keeps_atLink | apply keeps_atLane | refine keeps_runCmd rfl ?_ | refine keeps_runLong rfl ?_)
  repeat' split
  all_goals (try have hv0 := view_floodIn (by assumption))
  all_goals simp [*]

@[simp] theorem view_noticeIn (s : State) (h : Hedge) : view (noticeIn s h) = view s := by
  simp [noticeIn]

@[simp] theorem view_execNoticeReceived (fid : Nat) (s : State) : keeps s (execNoticeReceived fid s) := by
  unfold execNoticeReceived
  try (first | apply keeps_atUnit | apply keeps_atPort | apply keeps_atLink | apply keeps_atLane | refine keeps_runCmd rfl ?_ | refine keeps_runLong rfl ?_)
  repeat' split
  all_goals (try have hv0 := view_floodIn (by assumption))
  all_goals simp [*]

@[simp] theorem view_execHoldReceived (fid : Nat) (s : State) : keeps s (execHoldReceived fid s) := by
  unfold execHoldReceived
  try (first | apply keeps_atUnit | apply keeps_atPort | apply keeps_atLink | apply keeps_atLane | refine keeps_runCmd rfl ?_ | refine keeps_runLong rfl ?_)
  repeat' split
  all_goals (try have hv0 := view_floodIn (by assumption))
  all_goals simp [*]

@[simp] theorem view_execReleaseReceived (fid : Nat) (s : State) : keeps s (execReleaseReceived fid s) := by
  unfold execReleaseReceived
  try (first | apply keeps_atUnit | apply keeps_atPort | apply keeps_atLink | apply keeps_atLane | refine keeps_runCmd rfl ?_ | refine keeps_runLong rfl ?_)
  repeat' split
  all_goals (try have hv0 := view_floodIn (by assumption))
  all_goals simp [*]

@[simp] theorem view_execExpulsionWindowAge (s : State) : keeps s (execExpulsionWindowAge s) := by
  simp [execExpulsionWindowAge]

@[simp] theorem view_execHoldRelease (c : Ncp) (s : State) : keeps s (execHoldRelease c s) := by
  unfold execHoldRelease
  try (first | apply keeps_atUnit | apply keeps_atPort | apply keeps_atLink | apply keeps_atLane | refine keeps_runCmd rfl ?_ | refine keeps_runLong rfl ?_)
  repeat' (first | (apply okr_bind; intro _ _) | (apply oks_bind; intro _ _) | split)
  all_goals simp [*]

@[simp] theorem view_execScoreRecovery (s : State) : keeps s (execScoreRecovery s) := by
  simp [execScoreRecovery]

@[simp] theorem view_execSinkFence (port : Nat) (s : State) : keeps s (execSinkFence port s) := by
  unfold execSinkFence
  try (first | apply keeps_atUnit | apply keeps_atPort | apply keeps_atLink | apply keeps_atLane | refine keeps_runCmd rfl ?_ | refine keeps_runLong rfl ?_)
  repeat' split
  all_goals simp [*]

@[simp] theorem view_execProbationStart (c : Ncp) (s : State) : keeps s (execProbationStart c s) := by
  unfold execProbationStart
  try (first | apply keeps_atUnit | apply keeps_atPort | apply keeps_atLink | apply keeps_atLane | refine keeps_runCmd rfl ?_ | refine keeps_runLong rfl ?_)
  repeat' (first | (apply okr_bind; intro _ _) | (apply oks_bind; intro _ _) | split)
  all_goals simp [*]

@[simp] theorem view_execProbationEnd (spine : Nat) (s : State) : keeps s (execProbationEnd spine s) := by
  simp [execProbationEnd]

@[simp] theorem view_execHawReport (c : Ncp) (s : State) : keeps s (execHawReport c s) := by
  unfold execHawReport
  try (first | apply keeps_atUnit | apply keeps_atPort | apply keeps_atLink | apply keeps_atLane | refine keeps_runCmd rfl ?_ | refine keeps_runLong rfl ?_)
  repeat' (first | (apply okr_bind; intro _ _) | (apply oks_bind; intro _ _) | split)
  all_goals simp [*]

/-! BoxRows -/

@[simp] theorem view_execLoadCalendar (c : Ncp) (s : State) : keeps s (execLoadCalendar c s) := by
  unfold execLoadCalendar
  try (first | apply keeps_atUnit | apply keeps_atPort | apply keeps_atLink | apply keeps_atLane | refine keeps_runCmd rfl ?_ | refine keeps_runLong rfl ?_)
  repeat' (first | (apply okr_bind; intro _ _) | (apply oks_bind; intro _ _) | split)
  all_goals simp [*]

@[simp] theorem view_execLoadGates (c : Ncp) (s : State) : keeps s (execLoadGates c s) := by
  unfold execLoadGates
  try (first | apply keeps_atUnit | apply keeps_atPort | apply keeps_atLink | apply keeps_atLane | refine keeps_runCmd rfl ?_ | refine keeps_runLong rfl ?_)
  repeat' (first | (apply okr_bind; intro _ _) | (apply oks_bind; intro _ _) | split)
  all_goals simp [*]

@[simp] theorem view_execCancelPending (c : Ncp) (s : State) : keeps s (execCancelPending c s) := by
  unfold execCancelPending
  try (first | apply keeps_atUnit | apply keeps_atPort | apply keeps_atLink | apply keeps_atLane | refine keeps_runCmd rfl ?_ | refine keeps_runLong rfl ?_)
  repeat' (first | (apply okr_bind; intro _ _) | (apply oks_bind; intro _ _) | split)
  all_goals simp [*]

@[simp] theorem view_execGateListTakeover (port : Nat) (s : State) : keeps s (execGateListTakeover port s) := by
  unfold execGateListTakeover
  try (first | apply keeps_atUnit | apply keeps_atPort | apply keeps_atLink | apply keeps_atLane | refine keeps_runCmd rfl ?_ | refine keeps_runLong rfl ?_)
  try dsimp only
  repeat' split
  all_goals simp [*]

@[simp] theorem view_execCalendarTakeover (port : Nat) (s : State) : keeps s (execCalendarTakeover port s) := by
  unfold execCalendarTakeover
  try (first | apply keeps_atUnit | apply keeps_atPort | apply keeps_atLink | apply keeps_atLane | refine keeps_runCmd rfl ?_ | refine keeps_runLong rfl ?_)
  try dsimp only
  repeat' split
  all_goals simp [*]

@[simp] theorem view_prewake (s : State) (p : Nat) : view (prewake s p) = view s := by
  simp [prewake]

@[simp] theorem view_execPrewake (port : Nat) (s : State) : keeps s (execPrewake port s) := by
  unfold execPrewake
  try (first | apply keeps_atUnit | apply keeps_atPort | apply keeps_atLink | apply keeps_atLane | refine keeps_runCmd rfl ?_ | refine keeps_runLong rfl ?_)
  repeat' split
  all_goals simp [*]

/-! SleepRows -/

@[simp] theorem view_setDomain (s : State) (d : Nat) (x : SleepState) : view (setDomain s d x) = view s := by
  rfl

@[simp] theorem view_fallAsleep (s : State) (d : Nat) : view (fallAsleep s d) = view s := rfl

@[simp] theorem view_execIdleTimeout (domain : Nat) (trigger : Bool) (s : State) : keeps s (execIdleTimeout domain trigger s) := by
  unfold execIdleTimeout
  try (first | apply keeps_atUnit | apply keeps_atPort | apply keeps_atLink | apply keeps_atLane | refine keeps_runCmd rfl ?_ | refine keeps_runLong rfl ?_)
  repeat' split
  all_goals simp [*]

@[simp] theorem view_missedWindows (s : State) (d since : Nat) : view (missedWindows s d since) = view s := by
  simp [missedWindows]

@[simp] theorem view_execDomainAwake (domain : Nat) (s : State) : keeps s (execDomainAwake domain s) := by
  unfold execDomainAwake
  apply keeps_atUnit
  refine view_if ?_ rfl
  simp only [view_missedWindows]
  rfl

@[simp] theorem view_execWakeLateCheck (domain : Nat) (s : State) : keeps s (execWakeLateCheck domain s) := by
  unfold execWakeLateCheck
  try (first | apply keeps_atUnit | apply keeps_atPort | apply keeps_atLink | apply keeps_atLane | refine keeps_runCmd rfl ?_ | refine keeps_runLong rfl ?_)
  repeat' split
  all_goals simp [*]

/-! StoreRows -/

@[simp] theorem view_spillCells (clod : Nat) (run : List QCell) (s : State) : view (spillCells clod run s) = view s := by
  induction run generalizing s with
  | nil => rfl
  | cons x l ih =>
    unfold spillCells
    refine view_if rfl ?_
    split
    · next h => exact snd_view h (by simp)
    · next h => simpa [ih] using snd_view h (by simp)

@[simp] theorem view_fillClod (s : State) (u c used : Nat) (run : List QCell) (last : Bool) : view (fillClod s u c used run last) = view s := by
  simp [fillClod]

@[simp] theorem view_pauseSpill (s : State) (half u : Nat) : view (pauseSpill s half u) = view s := by
  simp [pauseSpill]

@[simp] theorem view_spillInto (s : State) (half u part pos : Nat) (run : List QCell) (last : Bool) : view (spillInto s half u part pos run last) = view s := by
  unfold spillInto
  all_goals (try dsimp only)
  all_goals (try (repeat' split))
  all_goals (try simp [*])
  all_goals (try (apply view_foldl; intro _ _))
  all_goals (try (repeat' split))
  all_goals (try simp [*])
  all_goals (try (apply view_foldl; intro _ _))
  all_goals (try (repeat' split))
  all_goals (try simp [*])
  all_goals (try (apply view_foldl; intro _ _))
  all_goals (try (repeat' split))
  all_goals simp [*]

@[simp] theorem view_spillOut (s0 : State) (half : Nat) : view (spillOut s0 half) = view s0 := by
  unfold spillOut
  dsimp only
  refine view_if (by simp) ?_
  repeat' split
  all_goals (try simp)
  all_goals exact (snd_view (by assumption) (by simp)).trans (view_noteSpill s0)

@[simp] theorem view_execSpillOutMove (half : Nat) (s : State) : keeps s (execSpillOutMove half s) := by
  unfold execSpillOutMove
  try (first | apply keeps_atUnit | apply keeps_atPort | apply keeps_atLink | apply keeps_atLane | refine keeps_runCmd rfl ?_ | refine keeps_runLong rfl ?_)
  repeat' split
  all_goals simp [*]

@[simp] theorem view_readBackQueue (s : State) (u : Nat) : view (readBackQueue s u) = view s := by
  unfold readBackQueue
  repeat' split
  all_goals simp [*]

@[simp] theorem view_execSpillReadback (queue : Nat) (s : State) : keeps s (execSpillReadback queue s) := by
  unfold execSpillReadback
  try (first | apply keeps_atUnit | apply keeps_atPort | apply keeps_atLink | apply keeps_atLane | refine keeps_runCmd rfl ?_ | refine keeps_runLong rfl ?_)
  repeat' split
  all_goals simp [*]

@[simp] theorem view_holdCells (n : Nat) (s : State) (fid half u : Nat) : view (holdCells n s fid half u) = view s := by
  induction n generalizing s with
  | zero => rfl
  | succ n ih =>
    unfold holdCells
    split
    · rfl
    · dsimp only; split <;> simp [ih]

@[simp] theorem view_holdSpill (s : State) (fid : Nat) : view (holdSpill s fid) = view s := by
  unfold holdSpill
  repeat' split
  all_goals (try simp)
  all_goals exact snd_view (by assumption) (by simp)

@[simp] theorem view_execHoldSpillMove (fid : Nat) (s : State) : keeps s (execHoldSpillMove fid s) := by
  simp [execHoldSpillMove]

@[simp] theorem view_setSieve (s : State) (half : Nat) (x : SieveHalf) : view (setSieve s half x) = view s := by
  simp [setSieve]

@[simp] theorem view_finding (s : State) (half kind tier unit part : Nat) : view (finding s half kind tier unit part) = view s := by
  simp [finding]

@[simp] theorem view_setSuspect (s : State) (tier unit n : Nat) : view (setSuspect s tier unit n) = view s := by
  simp [setSuspect]

@[simp] theorem view_reclaim (s : State) (tier unit : Nat) : view (reclaim s tier unit) = view s := by
  simp [reclaim]

@[simp] theorem view_judgeUnit (s : State) (half tier unit : Nat) : view (judgeUnit s half tier unit) = view s := by
  unfold judgeUnit
  repeat' split
  all_goals simp [*]

@[simp] theorem view_takeDoubles (s : State) (half tier : Nat) : view (takeDoubles s half tier) = view s := by
  simp [takeDoubles]

@[simp] theorem view_fixCharges (s : State) (tier : Nat) : view (fixCharges s tier) = view s := by
  simp [fixCharges]

@[simp] theorem view_sievePass (s : State) (half tier : Nat) : view (sievePass s half tier) = view s := by
  simp [sievePass]

@[simp] theorem view_execSievePass (half tier : Nat) (s : State) : keeps s (execSievePass half tier s) := by
  simp [execSievePass]

@[simp] theorem view_sieveStart (s : State) (half : Nat) : view (sieveStart s half) = view s := by
  simp [sieveStart]

/-! RouteRows -/

@[simp] theorem view_execLoadRoutes (c : Ncp) (s : State) : keeps s (execLoadRoutes c s) := by
  unfold execLoadRoutes
  try (first | apply keeps_atUnit | apply keeps_atPort | apply keeps_atLink | apply keeps_atLane | refine keeps_runCmd rfl ?_ | refine keeps_runLong rfl ?_)
  repeat' (first | (apply okr_bind; intro _ _) | (apply oks_bind; intro _ _) | split)
  all_goals simp [*]

@[simp] theorem view_execRouteTakeover (s : State) : keeps s (execRouteTakeover s) := by
  unfold execRouteTakeover
  try (first | apply keeps_atUnit | apply keeps_atPort | apply keeps_atLink | apply keeps_atLane | refine keeps_runCmd rfl ?_ | refine keeps_runLong rfl ?_)
  repeat' split
  all_goals simp [*]

@[simp] theorem view_execEpochRelease (s : State) : keeps s (execEpochRelease s) := by
  unfold execEpochRelease
  try (first | apply keeps_atUnit | apply keeps_atPort | apply keeps_atLink | apply keeps_atLane | refine keeps_runCmd rfl ?_ | refine keeps_runLong rfl ?_)
  repeat' split
  all_goals simp [*]

@[simp] theorem view_execMarkerCopyTransmit (port queue : Nat) (s : State) : keeps s (execMarkerCopyTransmit port queue s) := by
  unfold execMarkerCopyTransmit
  try (first | apply keeps_atUnit | apply keeps_atPort | apply keeps_atLink | apply keeps_atLane | refine keeps_runCmd rfl ?_ | refine keeps_runLong rfl ?_)
  repeat' split
  all_goals simp [*]

@[simp] theorem view_execSweepComplete (key : Nat) (s : State) : keeps s (execSweepComplete key s) := by
  simp [execSweepComplete]

@[simp] theorem view_sweepTimeout (s : State) (key : Nat) : view (sweepTimeout s key) = view s := by
  unfold sweepTimeout
  all_goals (try (repeat' split))
  all_goals (try simp [*])
  all_goals (try (apply view_foldl; intro _ _))
  all_goals (try (repeat' split))
  all_goals (try simp [*])
  all_goals (try (apply view_foldl; intro _ _))
  all_goals (try (repeat' split))
  all_goals simp [*]

@[simp] theorem view_execSweepTimeout (key : Nat) (s : State) : keeps s (execSweepTimeout key s) := by
  simp [execSweepTimeout]

@[simp] theorem view_execSweepSlotRelease (key : Nat) (s : State) : keeps s (execSweepSlotRelease key s) := by
  unfold execSweepSlotRelease
  try (first | apply keeps_atUnit | apply keeps_atPort | apply keeps_atLink | apply keeps_atLane | refine keeps_runCmd rfl ?_ | refine keeps_runLong rfl ?_)
  repeat' split
  all_goals simp [*]

@[simp] theorem view_echoSend (s : State) (half : Nat) : view (echoSend s half) = view s := by
  unfold echoSend
  repeat' split
  all_goals simp [*]

@[simp] theorem view_execEchoFrameSend (half : Nat) (s : State) : keeps s (execEchoFrameSend half s) := by
  unfold execEchoFrameSend
  try (first | apply keeps_atUnit | apply keeps_atPort | apply keeps_atLink | apply keeps_atLane | refine keeps_runCmd rfl ?_ | refine keeps_runLong rfl ?_)
  repeat' split
  all_goals simp [*]

@[simp] theorem view_execThrottleIncrease (port tc : Nat) (s : State) : keeps s (execThrottleIncrease port tc s) := by
  unfold execThrottleIncrease
  try (first | apply keeps_atUnit | apply keeps_atPort | apply keeps_atLink | apply keeps_atLane | refine keeps_runCmd rfl ?_ | refine keeps_runLong rfl ?_)
  repeat' split
  all_goals simp [*]

@[simp] theorem view_cmapSend (s : State) : view (cmapSend s) = view s := by
  unfold cmapSend
  all_goals (try (repeat' split))
  all_goals (try simp [*])
  all_goals (try (apply view_foldl; intro _ _))
  all_goals (try (repeat' split))
  all_goals (try simp [*])
  all_goals (try (apply view_foldl; intro _ _))
  all_goals (try (repeat' split))
  all_goals simp [*]

@[simp] theorem view_execCmapSend (s : State) : keeps s (execCmapSend s) := by
  simp [execCmapSend]

@[simp] theorem view_execCmapReceive (fid : Nat) (s : State) : keeps s (execCmapReceive fid s) := by
  unfold execCmapReceive
  try (first | apply keeps_atUnit | apply keeps_atPort | apply keeps_atLink | apply keeps_atLane | refine keeps_runCmd rfl ?_ | refine keeps_runLong rfl ?_)
  repeat' split
  all_goals (try have hv0 := view_takeKind (by assumption))
  all_goals (try have hv1 := view_takeKind_error (by assumption))
  all_goals simp [*]

@[simp] theorem view_execCmapStale (dim : Nat) (s : State) : keeps s (execCmapStale dim s) := by
  unfold execCmapStale
  try (first | apply keeps_atUnit | apply keeps_atPort | apply keeps_atLink | apply keeps_atLane | refine keeps_runCmd rfl ?_ | refine keeps_runLong rfl ?_)
  repeat' split
  all_goals simp [*]

@[simp] theorem view_execCmapRead (c : Ncp) (s : State) : keeps s (execCmapRead c s) := by
  unfold execCmapRead
  try (first | apply keeps_atUnit | apply keeps_atPort | apply keeps_atLink | apply keeps_atLane | refine keeps_runCmd rfl ?_ | refine keeps_runLong rfl ?_)
  repeat' (first | (apply okr_bind; intro _ _) | (apply oks_bind; intro _ _) | split)
  all_goals simp [*]

/-! LaurelRows -/

theorem view_bothReplicas {s : State} {g : Replica → Option Replica} {x} (h : bothReplicas s g = .ok x) : view x = view s := by
  unfold bothReplicas at h
  repeat' split at h
  all_goals (try cases h)
  all_goals simp [*]

@[simp] theorem view_chargeLearn (s : State) (port : Nat) (g : Nat → Nat) : view (chargeLearn s port g) = view s := by
  simp [chargeLearn]

@[simp] theorem view_uncharge (s : State) (e : Option MacEnt) : view (uncharge s e) = view s := by
  unfold uncharge
  repeat' split
  all_goals simp [*]

@[simp] theorem view_settleDropped (s t : State) : view (settleDropped s t) = view t := by
  unfold settleDropped
  extract_lets gone
  have hg : ∀ u half, view (gone u half) = view u := by
    intro u half
    refine view_foldl _ _ fun v e => ?_
    dsimp only
    refine view_if (by simp) (by simp)
  rw [hg, hg]

theorem view_applyRec {s : State} {tk : Nat} {r : TabRec} {x} (h : applyRec s tk r = .ok x) : view x = view s := by
  unfold applyRec at h
  dsimp only at h
  repeat' split at h
  all_goals (first
    | (cases h; simp; done)
    | exact (view_bothReplicas h).trans (by simp)
    | (generalize hb : bothReplicas s _ = q at h
       cases q with
       | error e => cases h
       | ok y => cases h; simpa using view_bothReplicas hb))

theorem view_loadRec {s : State} {tk i : Nat} {r : TabRec} {x} (h : loadRec s tk i r = .ok x) : view x = view s := by
  have g : oks s (loadRec s tk i r) := by
    unfold loadRec
    repeat (first | (apply oks_bind; intro _ _) | split)
    all_goals (try (have hv := view_applyRec (by assumption)))
    all_goals simp_all
  rw [h] at g; exact g

theorem view_loadRecs {tk i : Nat} {l : List (List Byte)} {s x : State} (h : loadRecs tk i l s = .ok x) : view x = view s := by
  induction l generalizing i s x with
  | nil => cases h; rfl
  | cons b t ih =>
    have g : oks s (loadRecs tk i (b :: t) s) := by
      unfold loadRecs
      apply oks_bind; intro _ _
      apply oks_bind; intro s1 h1
      cases h2 : loadRecs tk (i + 1) t s1 with
      | error b => trivial
      | ok y => simp [ih h2, view_loadRec h1]
    rw [h] at g; exact g

@[simp] theorem view_execLoadTable (c : Ncp) (s : State) : keeps s (execLoadTable c s) := by
  unfold execLoadTable
  try (first | apply keeps_atUnit | apply keeps_atPort | apply keeps_atLink | apply keeps_atLane | refine keeps_runCmd rfl ?_ | refine keeps_runLong rfl ?_)
  repeat' (first | (apply okr_bind; intro _ _) | (apply oks_bind; intro _ _) | split)
  all_goals (try have hv0 := view_loadRecs (by assumption))
  all_goals simp [*]

@[simp] theorem view_execTableRead (c : Ncp) (s : State) : keeps s (execTableRead c s) := by
  unfold execTableRead
  try (first | apply keeps_atUnit | apply keeps_atPort | apply keeps_atLink | apply keeps_atLane | refine keeps_runCmd rfl ?_ | refine keeps_runLong rfl ?_)
  repeat' (first | (apply okr_bind; intro _ _) | (apply oks_bind; intro _ _) | split)
  all_goals simp [*]

theorem view_writeLearned {s : State} {e : MacEnt} {x} (h : writeLearned s e = some x) : view x = view s := by
  unfold writeLearned at h
  repeat' split at h
  all_goals (try cases h)
  all_goals simp [*]

@[simp] theorem view_excessLearn (s : State) (p : Nat) : view (excessLearn s p) = view s := by
  simp [excessLearn]

@[simp] theorem view_settleLearn (s : State) (q : LearnReq) : view (settleLearn s q) = view s := by
  unfold settleLearn
  dsimp only
  repeat' split
  all_goals (try (have hv := view_writeLearned (by assumption)))
  all_goals (try simp_all)
  all_goals (cases hw : writeLearned s _ with
    | none => rfl
    | some t => simpa using view_writeLearned hw)

@[simp] theorem view_execLearnProcess (s : State) : keeps s (execLearnProcess s) := by
  unfold execLearnProcess
  try (first | apply keeps_atUnit | apply keeps_atPort | apply keeps_atLink | apply keeps_atLane | refine keeps_runCmd rfl ?_ | refine keeps_runLong rfl ?_)
  repeat' split
  all_goals simp [*]

@[simp] theorem view_evict (s : State) (e : MacEnt) : view (evict s e) = view s := by
  simp [evict]

@[simp] theorem view_execAgePeriod (s : State) : keeps s (execAgePeriod s) := by
  simp [execAgePeriod]

@[simp] theorem view_execParityRepair (half tkind index : Nat) (s : State) : keeps s (execParityRepair half tkind index s) := by
  unfold execParityRepair
  try (first | apply keeps_atUnit | apply keeps_atPort | apply keeps_atLink | apply keeps_atLane | refine keeps_runCmd rfl ?_ | refine keeps_runLong rfl ?_)
  try dsimp only
  repeat' split
  all_goals simp [*]

@[simp] theorem view_execGroupRecordReturn (record : Nat) (s : State) : keeps s (execGroupRecordReturn record s) := by
  unfold execGroupRecordReturn
  try (first | apply keeps_atUnit | apply keeps_atPort | apply keeps_atLink | apply keeps_atLane | refine keeps_runCmd rfl ?_ | refine keeps_runLong rfl ?_)
  repeat' split
  all_goals simp [*]

end Sys2Proof.Laws
end

