-- ==== Sys2Proof/Laws/ViewRows.lean ====
section
/-!
SUPPORT. Laws/ViewRows.lean: what the other commands and events keep.
-/

set_option Elab.async false

namespace Sys2Proof.Laws

open Sys2Proof Sys2Proof.Machine

/-! KaoRows -/

theorem view_loadKprog {s : State} {c : Ncp} {x} (h : loadKprog s c = .ok x) : view x.2 = view s := by
  skip
  have g : okr s (loadKprog s c) := by
    unfold loadKprog
    repeat (first | (apply okr_bind; intro _ _) | split)
    all_goals (try (have hv := view_placeMop (by assumption)))
    all_goals simp_all
  rw [h] at g; exact g

@[simp] theorem view_execLoadKprog (c : Ncp) (s : State) : keeps s (execLoadKprog c s) := by
  exact keeps_runCmd rfl (by cases h : loadKprog s c with | error b => trivial | ok x => exact view_loadKprog h)

@[simp] theorem view_shadowComplete (s : State) (k : Nat) (differs : Bool) : view (shadowComplete s k differs) = view s := by
  unfold shadowComplete
  repeat' split
  all_goals simp [*]

@[simp] theorem view_execShadowRunComplete (engine : Nat) (differs : Bool) (s : State) : keeps s (execShadowRunComplete engine differs s) := by
  unfold execShadowRunComplete
  try (first | apply keeps_atUnit | apply keeps_atPort | apply keeps_atLink | apply keeps_atLane | refine keeps_runCmd rfl ?_ | refine keeps_runLong rfl ?_)
  repeat' split
  all_goals simp [*]

@[simp] theorem view_shadowTimeout (s : State) (k : Nat) : view (shadowTimeout s k) = view s := by
  unfold shadowTimeout
  repeat' split
  all_goals simp [*]

@[simp] theorem view_execShadowTimeout (engine : Nat) (s : State) : keeps s (execShadowTimeout engine s) := by
  unfold execShadowTimeout
  try (first | apply keeps_atUnit | apply keeps_atPort | apply keeps_atLink | apply keeps_atLane | refine keeps_runCmd rfl ?_ | refine keeps_runLong rfl ?_)
  repeat' split
  all_goals simp [*]

@[simp] theorem view_combineTimeout (s : State) (k : Nat) : view (combineTimeout s k) = view s := by
  unfold combineTimeout
  repeat' split
  all_goals simp [*]

@[simp] theorem view_execCombineTimeout (tok : Nat) (s : State) : keeps s (execCombineTimeout tok s) := by
  simp [execCombineTimeout]

/-! MarlRows -/

@[simp] theorem view_dropMop (s : State) (id : Nat) : view (dropMop s id) = view s := by
  unfold dropMop
  repeat' split
  all_goals simp [*]

theorem view_reserveMop {s : State} {m : Mop} {bodyLen : Nat} {x} (h : reserveMop s m bodyLen = some x) : view x.2 = view s := by
  unfold reserveMop at h
  split at h
  · obtain ⟨a, h1, rfl⟩ := Option.map_eq_some_iff.mp h; exact view_reserveUnits h1
  · obtain ⟨a, h1, rfl⟩ := Option.map_eq_some_iff.mp h; exact view_reserveUnits h1
  · cases h; rfl

theorem view_placeMop {s : State} {id : Nat} {m : Mop} {bodyLen : Nat} {x} (h : placeMop s id m bodyLen = some x) : view x = view s := by
  unfold placeMop at h
  dsimp only at h
  repeat' split at h
  all_goals (try cases h)
  all_goals (try have hv0 := view_reserveMop (by assumption))
  all_goals simp [*]

theorem view_loadMop {s : State} {c : Ncp} {x} (h : loadMop s c = .ok x) : view x.2 = view s := by
  have g : okr s (loadMop s c) := by
    unfold loadMop
    apply okr_bind; intro p _
    split
    · repeat (apply okr_bind; intro _ _)
      split
      · rename_i t h1; simpa using view_placeMop h1
      · trivial
    · trivial
    · trivial
  rw [h] at g; exact g

@[simp] theorem view_execLoadMop (c : Ncp) (s : State) : keeps s (execLoadMop c s) := by
  exact keeps_runCmd rfl (by cases h : loadMop s c with | error b => trivial | ok x => exact view_loadMop h)

@[simp] theorem view_execDropMop (c : Ncp) (s : State) : keeps s (execDropMop c s) := by
  unfold execDropMop
  try (first | apply keeps_atUnit | apply keeps_atPort | apply keeps_atLink | apply keeps_atLane | refine keeps_runCmd rfl ?_ | refine keeps_runLong rfl ?_)
  repeat' (first | (apply okr_bind; intro _ _) | (apply oks_bind; intro _ _) | split)
  all_goals simp [*]

@[simp] theorem view_tokenPiece (s : State) (fid : Nat) : view (tokenPiece s fid) = view s := by
  unfold tokenPiece
  try dsimp only
  repeat' split
  all_goals (try have hv0 := view_takeHeld (by assumption))
  all_goals simp [*]

@[simp] theorem view_execTokenPieceArrival (fid : Nat) (s : State) : keeps s (execTokenPieceArrival fid s) := by
  simp [execTokenPieceArrival]

@[simp] theorem view_assemblyTimeout (s : State) (k : Nat) : view (assemblyTimeout s k) = view s := by
  unfold assemblyTimeout
  repeat' split
  all_goals simp [*]

@[simp] theorem view_execAssemblyTimeout (tok : Nat) (s : State) : keeps s (execAssemblyTimeout tok s) := by
  simp [execAssemblyTimeout]

@[simp] theorem view_sendCopies (s : State) (t : Token) (j : Nat) : view (sendCopies s t j) = view s := by
  unfold sendCopies
  all_goals (try (repeat' split))
  all_goals (try simp [*])
  all_goals (try (apply view_foldl; intro _ _))
  all_goals (try (repeat' split))
  all_goals (try simp [*])
  all_goals (try (apply view_foldl; intro _ _))
  all_goals (try (repeat' split))
  all_goals simp [*]

@[simp] theorem view_dispatch (s : State) (k : Nat) (m : Mop) (t : Token) (slots : List (Nat × Nat)) (ws : List Nat) : view (dispatch s k m t slots ws) = view s := by
  unfold dispatch
  repeat' split
  all_goals simp [*]

@[simp] theorem view_routeToken (s : State) (k : Nat) (rowBad : Option Nat) (colBad : List Nat) : view (routeToken s k rowBad colBad) = view s := by
  unfold routeToken
  try dsimp only
  repeat' split
  all_goals simp [*]

@[simp] theorem view_execTokenRouted (tok : Nat) (rowBad : Option Nat) (colBad : List Nat) (s : State) : keeps s (execTokenRouted tok rowBad colBad s) := by
  simp [execTokenRouted]

@[simp] theorem view_addExpert (s : State) (k : Nat) (m : Mop) (t : Token) (j p fid : Nat) (d : Tensor) : view (addExpert s k m t j p fid d).2 = view s := by
  unfold addExpert
  repeat' split
  all_goals simp [*]

@[simp] theorem view_expertOut (s : State) (fid : Nat) (fault : Bool) : view (expertOut s fid fault) = view s := by
  unfold expertOut
  try dsimp only
  repeat' split
  all_goals (try have hv0 := view_takeHeld (by assumption))
  all_goals simp [*]

@[simp] theorem view_execExpertOutArrival (fid : Nat) (residueBad : Bool) (s : State) : keeps s (execExpertOutArrival fid residueBad s) := by
  simp [execExpertOutArrival]

@[simp] theorem view_rewriteBasis (s : State) (a p : Nat) : view (rewriteBasis s a p) = view s := by
  unfold rewriteBasis
  try dsimp only
  repeat' split
  all_goals simp [*]

@[simp] theorem view_execBasisRewriteDone (array page : Nat) (s : State) : keeps s (execBasisRewriteDone array page s) := by
  unfold execBasisRewriteDone
  try (first | apply keeps_atUnit | apply keeps_atPort | apply keeps_atLink | apply keeps_atLane | refine keeps_runCmd rfl ?_ | refine keeps_runLong rfl ?_)
  repeat' split
  all_goals simp [*]

/-! TilthRows -/

theorem view_loadList {s : State} {c : Ncp} {x} (h : loadList s c = .ok x) : view x.2 = view s := by
  skip
  have g : okr s (loadList s c) := by
    unfold loadList
    repeat (first | (apply okr_bind; intro _ _) | split)
    all_goals (try (have hv := view_placeMop (by assumption)))
    all_goals simp_all
  rw [h] at g; exact g

@[simp] theorem view_execLoadList (c : Ncp) (s : State) : keeps s (execLoadList c s) := by
  exact keeps_runCmd rfl (by cases h : loadList s c with | error b => trivial | ok x => exact view_loadList h)

@[simp] theorem view_setQueueT (s : State) (q : Nat) (x : TQueue) : view (setQueueT s q x) = view s := by
  simp [setQueueT]

@[simp] theorem view_execQueueOpen (c : Ncp) (s : State) : keeps s (execQueueOpen c s) := by
  unfold execQueueOpen
  try (first | apply keeps_atUnit | apply keeps_atPort | apply keeps_atLink | apply keeps_atLane | refine keeps_runCmd rfl ?_ | refine keeps_runLong rfl ?_)
  repeat' (first | (apply okr_bind; intro _ _) | (apply oks_bind; intro _ _) | split)
  all_goals simp [*]

@[simp] theorem view_execCollPost (c : Ncp) (s : State) : keeps s (execCollPost c s) := by
  unfold execCollPost
  try (first | apply keeps_atUnit | apply keeps_atPort | apply keeps_atLink | apply keeps_atLane | refine keeps_runCmd rfl ?_ | refine keeps_runLong rfl ?_)
  repeat' (first | (apply okr_bind; intro _ _) | (apply oks_bind; intro _ _) | split)
  all_goals simp [*]

@[simp] theorem view_execQueueResume (c : Ncp) (s : State) : keeps s (execQueueResume c s) := by
  unfold execQueueResume
  try (first | apply keeps_atUnit | apply keeps_atPort | apply keeps_atLink | apply keeps_atLane | refine keeps_runCmd rfl ?_ | refine keeps_runLong rfl ?_)
  repeat' (first | (apply okr_bind; intro _ _) | (apply oks_bind; intro _ _) | split)
  all_goals simp [*]

@[simp] theorem view_execQueueSkip (c : Ncp) (s : State) : keeps s (execQueueSkip c s) := by
  unfold execQueueSkip
  try (first | apply keeps_atUnit | apply keeps_atPort | apply keeps_atLink | apply keeps_atLane | refine keeps_runCmd rfl ?_ | refine keeps_runLong rfl ?_)
  repeat' (first | (apply okr_bind; intro _ _) | (apply oks_bind; intro _ _) | split)
  all_goals simp [*]

@[simp] theorem view_execQueueFlush (c : Ncp) (s : State) : keeps s (execQueueFlush c s) := by
  unfold execQueueFlush
  try (first | apply keeps_atUnit | apply keeps_atPort | apply keeps_atLink | apply keeps_atLane | refine keeps_runCmd rfl ?_ | refine keeps_runLong rfl ?_)
  repeat' (first | (apply okr_bind; intro _ _) | (apply oks_bind; intro _ _) | split)
  all_goals simp [*]

@[simp] theorem view_execQueueClose (c : Ncp) (s : State) : keeps s (execQueueClose c s) := by
  unfold execQueueClose
  try (first | apply keeps_atUnit | apply keeps_atPort | apply keeps_atLink | apply keeps_atLane | refine keeps_runCmd rfl ?_ | refine keeps_runLong rfl ?_)
  repeat' (first | (apply okr_bind; intro _ _) | (apply oks_bind; intro _ _) | split)
  all_goals simp [*]

@[simp] theorem view_slowestRank (s : State) (c : Coll) : view (slowestRank s c).2 = view s := by
  unfold slowestRank
  repeat' split
  all_goals simp [*]

@[simp] theorem view_execCollStatus (c : Ncp) (s : State) : keeps s (execCollStatus c s) := by
  unfold execCollStatus
  try (first | apply keeps_atUnit | apply keeps_atPort | apply keeps_atLink | apply keeps_atLane | refine keeps_runCmd rfl ?_ | refine keeps_runLong rfl ?_)
  repeat' (first | (apply okr_bind; intro _ _) | (apply oks_bind; intro _ _) | split)
  all_goals simp [*]

@[simp] theorem view_execLoadTemplate (c : Ncp) (s : State) : keeps s (execLoadTemplate c s) := by
  unfold execLoadTemplate
  try (first | apply keeps_atUnit | apply keeps_atPort | apply keeps_atLink | apply keeps_atLane | refine keeps_runCmd rfl ?_ | refine keeps_runLong rfl ?_)
  repeat' (first | (apply okr_bind; intro _ _) | (apply oks_bind; intro _ _) | split)
  all_goals simp [*]

@[simp] theorem view_execQueueHeadAdmit (queue : Nat) (s : State) : keeps s (execQueueHeadAdmit queue s) := by
  unfold execQueueHeadAdmit
  try (first | apply keeps_atUnit | apply keeps_atPort | apply keeps_atLink | apply keeps_atLane | refine keeps_runCmd rfl ?_ | refine keeps_runLong rfl ?_)
  repeat' split
  all_goals simp [*]

@[simp] theorem view_execEnginePrewake (coll : Nat) (s : State) : keeps s (execEnginePrewake coll s) := by
  simp [execEnginePrewake]

@[simp] theorem view_execContribArrival (fid : Nat) (rowBad : Option Nat) (colBad : List Nat) (s : State) : keeps s (execContribArrival fid rowBad colBad s) := by
  simp [execContribArrival]

@[simp] theorem view_execChunkInputsComplete (coll chunk : Nat) (residueBad : Bool) (rowBad : Option Nat) (colBad : List Nat) (s : State) : keeps s (execChunkInputsComplete coll chunk residueBad rowBad colBad s) := by
  simp [execChunkInputsComplete]

@[simp] theorem view_takeCtrl (s : State) (fid ctype : Nat) (g : State → StoredFrame → Coll → State) (hg : ∀ t f c, view (g t f c) = view t) : view (takeCtrl s fid ctype g) = view s := by
  unfold takeCtrl
  repeat' split
  all_goals (try have hv0 := view_takeKind (by assumption))
  all_goals (try have hv1 := view_takeKind_error (by assumption))
  all_goals simp [*]

@[simp] theorem view_execArriveReceived (fid : Nat) (s : State) : keeps s (execArriveReceived fid s) := by
  simp [execArriveReceived]

@[simp] theorem view_nodeDoneIn (s : State) (f : StoredFrame) (c : Coll) : view (nodeDoneIn s f c) = view s := by
  simp [nodeDoneIn]

@[simp] theorem view_execNodeDoneReceived (fid : Nat) (s : State) : keeps s (execNodeDoneReceived fid s) := by
  simp [execNodeDoneReceived]

@[simp] theorem view_execEndReceived (fid : Nat) (s : State) : keeps s (execEndReceived fid s) := by
  simp [execEndReceived]

@[simp] theorem view_abortIn (s : State) (f : StoredFrame) (c : Coll) : view (abortIn s f c) = view s := by
  simp [abortIn]

@[simp] theorem view_execAbortReceived (fid : Nat) (s : State) : keeps s (execAbortReceived fid s) := by
  simp [execAbortReceived]

@[simp] theorem view_execCollDeadline (coll : Nat) (s : State) : keeps s (execCollDeadline coll s) := by
  simp [execCollDeadline]

@[simp] theorem view_execBcastChunkArrival (fid : Nat) (s : State) : keeps s (execBcastChunkArrival fid s) := by
  simp [execBcastChunkArrival]

@[simp] theorem view_bcAckIn (s : State) (f : StoredFrame) (c : Coll) : view (bcAckIn s f c) = view s := by
  unfold bcAckIn
  repeat' split
  all_goals simp [*]

@[simp] theorem view_execBcAckReceived (fid : Nat) (s : State) : keeps s (execBcAckReceived fid s) := by
  simp [execBcAckReceived]

@[simp] theorem view_execBcResend (coll : Nat) (s : State) : keeps s (execBcResend coll s) := by
  simp [execBcResend]

@[simp] theorem view_digestIn (s : State) (f : StoredFrame) (c : Coll) : view (digestIn s f c) = view s := by
  simp [digestIn]

@[simp] theorem view_execDigestReceived (fid : Nat) (s : State) : keeps s (execDigestReceived fid s) := by
  simp [execDigestReceived]

@[simp] theorem view_repairReq (s : State) (f : StoredFrame) (c : Coll) : view (repairReq s f c) = view s := by
  unfold repairReq
  try dsimp only
  repeat' split
  all_goals simp [*]

@[simp] theorem view_execRepairReqReceived (fid : Nat) (s : State) : keeps s (execRepairReqReceived fid s) := by
  simp [execRepairReqReceived]

@[simp] theorem view_adoptIn (s : State) (f : StoredFrame) (c : Coll) : view (adoptIn s f c) = view s := by
  unfold adoptIn
  repeat' split
  all_goals simp [*]

@[simp] theorem view_execAdoptReceived (fid : Nat) (s : State) : keeps s (execAdoptReceived fid s) := by
  simp [execAdoptReceived]

@[simp] theorem view_adoptTimeout (s : State) (k : Nat) : view (adoptTimeout s k) = view s := by
  unfold adoptTimeout
  repeat' split
  all_goals simp [*]

@[simp] theorem view_execAdoptTimeout (coll : Nat) (s : State) : keeps s (execAdoptTimeout coll s) := by
  simp [execAdoptTimeout]

/-! ArrivalRows -/

@[simp] theorem view_lldpIn (s : State) (p : Nat) (b : List Byte) : view (lldpIn s p b) = view s := by
  unfold lldpIn
  repeat' split
  all_goals simp [*]

@[simp] theorem view_unitJudge (s : State) (f : StoredFrame) : view (unitJudge s f).2 = view s := by
  unfold unitJudge
  repeat' split
  all_goals simp [*]

@[simp] theorem view_unitNote (s : State) (f : StoredFrame) : view (unitNote s f) = view s := by
  simp [unitNote]

@[simp] theorem view_frontWakes (s : State) (p : Nat) : view (frontWakes s p) = view s := by
  simp [frontWakes]

@[simp] theorem view_fencedPortRx (s : State) (f : RxFrame) : view (fencedPortRx s f) = view s := by
  simp [fencedPortRx]

@[simp] theorem view_controlRx (s : State) (p : Nat) (f : RxFrame) : view (controlRx s p f) = view s := by
  simp [controlRx]

theorem view_openFrame_ok {s : State} {f : RxFrame} {x} (h : openFrame s f = .ok x) : view x = view s := by
  have ho := view_openRx s f.port f.sealedAs
  unfold openFrame at h
  dsimp only at h
  repeat' split at h
  all_goals (cases h)
  all_goals simp_all

theorem view_openFrame_error {s : State} {f : RxFrame} {x} (h : openFrame s f = .error x) : view x = view s := by
  have ho := view_openRx s f.port f.sealedAs
  unfold openFrame at h
  dsimp only at h
  repeat' split at h
  all_goals (cases h)
  all_goals simp_all

@[simp] theorem spineUnits_ok : UnitsOk spineUnits := by
  constructor <;> intros <;> simp [spineUnits]

@[simp] theorem view_fabricRx (s : State) (f : RxFrame) : view (fabricRx s f) = view s := by
  unfold fabricRx
  dsimp only
  split; · simp
  split; · simp
  split; · simp
  split
  · rename_i s1 h1; exact view_openFrame_error h1
  · rename_i s1 h1
    have hv := view_openFrame_ok h1
    split
    · simpa using hv
    · split <;> simpa [spineUnits_ok] using hv

@[simp] theorem view_frameArrival (s : State) (f : RxFrame) : view (frameArrival s f) = view s := by
  unfold frameArrival
  try dsimp only
  repeat' split
  all_goals simp [*]

@[simp] theorem view_execFrameArrival (f : RxFrame) (s : State) : keeps s (execFrameArrival f s) := by
  unfold execFrameArrival
  try (first | apply keeps_atUnit | apply keeps_atPort | apply keeps_atLink | apply keeps_atLane | refine keeps_runCmd rfl ?_ | refine keeps_runLong rfl ?_)
  repeat' split
  all_goals simp [*]

@[simp] theorem view_datagramRx (s : State) (d : UdpFfh) (x : IpView) : view (datagramRx s d x) = view s := by
  unfold datagramRx
  repeat' split
  · next h => simpa [spineUnits_ok] using snd_view h (by simp)
  · next h => simpa using snd_view h (by simp)
  · simp [spineUnits_ok]
  · simp

@[simp] theorem view_etherRx (s : State) (f : EthFrame) (dg : IpView → UdpFfh) : view (etherRx s f dg) = view s := by
  unfold etherRx
  dsimp only
  split
  · next h => exact view_ethScreen h spineUnits_ok
  · split
    · simp
    · split
      · next h =>
        have hv := snd_view h (v := view s) (by simp)
        split <;> simpa using hv
      · next h => simpa using snd_view h (by simp)

@[simp] theorem view_etherPortRx (s : State) (f : EthFrame) (dg : IpView → UdpFfh) : view (etherPortRx s f dg) = view s := by
  unfold etherPortRx
  repeat' split
  all_goals (try have hv0 := view_macsecPass (by assumption))
  all_goals simp [*]

@[simp] theorem view_ethArrival (s : State) (f : EthFrame) : view (ethArrival s f) = view s := by
  unfold ethArrival
  try dsimp only
  repeat' split
  all_goals (try have hv0 := view_macsecPass (by assumption))
  all_goals simp [*]

@[simp] theorem view_execEthFrameArrival (f : EthFrame) (s : State) : keeps s (execEthFrameArrival f s) := by
  unfold execEthFrameArrival
  try (first | apply keeps_atUnit | apply keeps_atPort | apply keeps_atLink | apply keeps_atLane | refine keeps_runCmd rfl ?_ | refine keeps_runLong rfl ?_)
  repeat' split
  all_goals simp [*]

@[simp] theorem view_datagramArrival (s : State) (d : UdpFfh) : view (datagramArrival s d) = view s := by
  unfold datagramArrival
  try dsimp only
  repeat' split
  all_goals (try have hv0 := view_macsecPass (by assumption))
  all_goals simp [*]

@[simp] theorem view_execUdpDatagramArrival (d : UdpFfh) (s : State) : keeps s (execUdpDatagramArrival d s) := by
  unfold execUdpDatagramArrival
  try (first | apply keeps_atUnit | apply keeps_atPort | apply keeps_atLink | apply keeps_atLane | refine keeps_runCmd rfl ?_ | refine keeps_runLong rfl ?_)
  repeat' split
  all_goals simp [*]

@[simp] theorem view_execVlinkOpen (d : UdpFfh) (s : State) : keeps s (execVlinkOpen d s) := by
  unfold execVlinkOpen
  try (first | apply keeps_atUnit | apply keeps_atPort | apply keeps_atLink | apply keeps_atLane | refine keeps_runCmd rfl ?_ | refine keeps_runLong rfl ?_)
  repeat' split
  all_goals simp [*]

@[simp] theorem view_rekeyAtLimit (s : State) (l : Nat) : view (rekeyAtLimit s l) = view s := by
  simp [rekeyAtLimit]

@[simp] theorem view_afterSending (s : State) (p : Nat) : view (afterSending s p) = view s := by
  simp [afterSending]

@[simp] theorem view_execTransmitOpportunity (port : Nat) (s : State) : keeps s (execTransmitOpportunity port s) := by
  unfold execTransmitOpportunity
  try (first | apply keeps_atUnit | apply keeps_atPort | apply keeps_atLink | apply keeps_atLane | refine keeps_runCmd rfl ?_ | refine keeps_runLong rfl ?_)
  repeat' split
  all_goals simp [*]

@[simp] theorem view_execTc7Departure (port : Nat) (s : State) : keeps s (execTc7Departure port s) := by
  unfold execTc7Departure
  try (first | apply keeps_atUnit | apply keeps_atPort | apply keeps_atLink | apply keeps_atLane | refine keeps_runCmd rfl ?_ | refine keeps_runLong rfl ?_)
  repeat' split
  all_goals simp [*]

@[simp] theorem view_execSpineTc7Departure (port : Nat) (s : State) : keeps s (execSpineTc7Departure port s) := by
  unfold execSpineTc7Departure
  try (first | apply keeps_atUnit | apply keeps_atPort | apply keeps_atLink | apply keeps_atLane | refine keeps_runCmd rfl ?_ | refine keeps_runLong rfl ?_)
  repeat' split
  all_goals simp [*]

/-! PrivetRows -/

@[simp] theorem view_acquireDone (s : State) (r : Nat) (peaks : List (Nat × Int)) (lit : Bool) : view (acquireDone s r peaks lit) = view s := by
  unfold acquireDone
  repeat' split
  all_goals simp [*]

@[simp] theorem view_execRingAcquireComplete (ring : Nat) (peaks : List (Nat × Int)) (lit : Bool) (s : State) : keeps s (execRingAcquireComplete ring peaks lit s) := by
  unfold execRingAcquireComplete
  try (first | apply keeps_atUnit | apply keeps_atPort | apply keeps_atLink | apply keeps_atLane | refine keeps_runCmd rfl ?_ | refine keeps_runLong rfl ?_)
  repeat' split
  all_goals simp [*]

@[simp] theorem view_execHeaterWindowExceeded (ring heat : Nat) (s : State) : keeps s (execHeaterWindowExceeded ring heat s) := by
  unfold execHeaterWindowExceeded
  try (first | apply keeps_atUnit | apply keeps_atPort | apply keeps_atLink | apply keeps_atLane | refine keeps_runCmd rfl ?_ | refine keeps_runLong rfl ?_)
  repeat' split
  all_goals simp [*]

@[simp] theorem view_execHeaterAtRangeLimit (ring heat : Nat) (s : State) : keeps s (execHeaterAtRangeLimit ring heat s) := by
  unfold execHeaterAtRangeLimit
  try (first | apply keeps_atUnit | apply keeps_atPort | apply keeps_atLink | apply keeps_atLane | refine keeps_runCmd rfl ?_ | refine keeps_runLong rfl ?_)
  repeat' split
  all_goals simp [*]

@[simp] theorem view_execOptRelock (c : Ncp) (s : State) : keeps s (execOptRelock c s) := by
  unfold execOptRelock
  try (first | apply keeps_atUnit | apply keeps_atPort | apply keeps_atLink | apply keeps_atLane | refine keeps_runCmd rfl ?_ | refine keeps_runLong rfl ?_)
  repeat' (first | (apply okr_bind; intro _ _) | (apply oks_bind; intro _ _) | split)
  all_goals simp [*]

@[simp] theorem view_setLine (s : State) (n : Nat) (l : CombLine) : view (setLine s n l) = view s := by
  simp [setLine]

@[simp] theorem view_keepMeans (s : State) (eng : Nat) (means : List Int) : view (keepMeans s eng means) = view s := by
  simp [keepMeans]

@[simp] theorem view_switchComb (s : State) (eng : Nat) : view (switchComb s eng) = view s := by
  simp [switchComb]

@[simp] theorem view_judgeLane (s : State) (n line st lane : Nat) : view (judgeLane s n line st lane) = view s := by
  unfold judgeLane
  repeat' split
  all_goals simp [*]

@[simp] theorem view_judgeLine (s : State) (eng line : Nat) : view (judgeLine s eng line) = view s := by
  simp [judgeLine]

@[simp] theorem view_evaluatePower (s : State) (eng : Nat) (means : List Int) : view (evaluatePower s eng means) = view s := by
  unfold evaluatePower
  extract_lets p1 s1 cb bad otherOk p2 notBoth t p3 s2
  have h1 : view s1 = view s := by simp only [s1]; rw [view_keepMeans, view_with]
  have h2 : view notBoth = view s := by rw [← h1]; simp only [notBoth]; rw [view_with]
  have h3 : view t = view s := by simp only [t]; rw [view_switchComb, h2]
  have h4 : view s2 = view s := by
    simp only [s2]
    refine view_if (view_if h1 ?_) h2
    rw [view_raise, ← h1, view_with]
  clear_value s2 t
  refine view_if ?_ ?_
  · rw [← h3, view_with]
  · rw [view_foldl _ _ (fun _ _ => view_judgeLine _ _ _), h4]

@[simp] theorem view_execPowerEvaluation (engine : Nat) (means : List Int) (s : State) : keeps s (execPowerEvaluation engine means s) := by
  unfold execPowerEvaluation; apply keeps_atUnit; split <;> simp

@[simp] theorem view_execOptBaseline (c : Ncp) (s : State) : keeps s (execOptBaseline c s) := by
  unfold execOptBaseline
  try (first | apply keeps_atUnit | apply keeps_atPort | apply keeps_atLink | apply keeps_atLane | refine keeps_runCmd rfl ?_ | refine keeps_runLong rfl ?_)
  repeat' (first | (apply okr_bind; intro _ _) | (apply oks_bind; intro _ _) | split)
  all_goals simp [*]

@[simp] theorem view_execOptComb (c : Ncp) (s : State) : keeps s (execOptComb c s) := by
  unfold execOptComb
  try (first | apply keeps_atUnit | apply keeps_atPort | apply keeps_atLink | apply keeps_atLane | refine keeps_runCmd rfl ?_ | refine keeps_runLong rfl ?_)
  repeat' (first | (apply okr_bind; intro _ _) | (apply oks_bind; intro _ _) | split)
  all_goals simp [*]

@[simp] theorem view_execOptMigrate (c : Ncp) (s : State) : keeps s (execOptMigrate c s) := by
  unfold execOptMigrate
  try (first | apply keeps_atUnit | apply keeps_atPort | apply keeps_atLink | apply keeps_atLane | refine keeps_runCmd rfl ?_ | refine keeps_runLong rfl ?_)
  repeat' (first | (apply okr_bind; intro _ _) | (apply oks_bind; intro _ _) | split)
  all_goals simp [*]

@[simp] theorem view_execMigrationScheduledStart (lane : Nat) (s : State) : keeps s (execMigrationScheduledStart lane s) := by
  unfold execMigrationScheduledStart
  try (first | apply keeps_atUnit | apply keeps_atPort | apply keeps_atLink | apply keeps_atLane | refine keeps_runCmd rfl ?_ | refine keeps_runLong rfl ?_)
  repeat' split
  all_goals simp [*]

@[simp] theorem view_migReq_accept (s : State) (msg : List Byte) (n : Nat) (a : State) (h : view a = view s) :
    view (migReq.accept s msg n a) = view s := by
  unfold migReq.accept
  dsimp only
  split <;> simp [h]

@[simp] theorem view_migReq (s : State) (p : Nat) (msg : List Byte) : view (migReq s p msg) = view s := by
  unfold migReq
  dsimp only
  split; · rfl
  split
  · repeat' split
    all_goals simp
  · simp

@[simp] theorem view_execMigReqReceived (port : Nat) (msg : List Byte) (s : State) : keeps s (execMigReqReceived port msg s) := by
  unfold execMigReqReceived
  try (first | apply keeps_atUnit | apply keeps_atPort | apply keeps_atLink | apply keeps_atLane | refine keeps_runCmd rfl ?_ | refine keeps_runLong rfl ?_)
  repeat' split
  all_goals simp [*]

@[simp] theorem view_migReady (s : State) (msg : List Byte) : view (migReady s msg) = view s := by
  unfold migReady
  repeat' split
  all_goals simp [*]

@[simp] theorem view_execMigReadyReceived (port : Nat) (msg : List Byte) (s : State) : keeps s (execMigReadyReceived port msg s) := by
  unfold execMigReadyReceived
  try (first | apply keeps_atUnit | apply keeps_atPort | apply keeps_atLink | apply keeps_atLane | refine keeps_runCmd rfl ?_ | refine keeps_runLong rfl ?_)
  repeat' split
  all_goals simp [*]

@[simp] theorem view_migSwitch (s : State) (m : Mig) : view (migSwitch s m) = view s := by
  simp [migSwitch]

@[simp] theorem view_migSwitchMsg (s : State) (p : Nat) (msg : List Byte) : view (migSwitchMsg s p msg) = view s := by
  unfold migSwitchMsg
  repeat' split
  all_goals simp [*]

@[simp] theorem view_execMigSwitchReceived (port : Nat) (msg : List Byte) (s : State) : keeps s (execMigSwitchReceived port msg s) := by
  unfold execMigSwitchReceived
  try (first | apply keeps_atUnit | apply keeps_atPort | apply keeps_atLink | apply keeps_atLane | refine keeps_runCmd rfl ?_ | refine keeps_runLong rfl ?_)
  repeat' split
  all_goals simp [*]

@[simp] theorem view_execMigSwitchTime (lane : Nat) (s : State) : keeps s (execMigSwitchTime lane s) := by
  unfold execMigSwitchTime
  try (first | apply keeps_atUnit | apply keeps_atPort | apply keeps_atLink | apply keeps_atLane | refine keeps_runCmd rfl ?_ | refine keeps_runLong rfl ?_)
  repeat' split
  all_goals simp [*]

@[simp] theorem view_execMigDoneReceived (port : Nat) (msg : List Byte) (s : State) : keeps s (execMigDoneReceived port msg s) := by
  unfold execMigDoneReceived
  try (first | apply keeps_atUnit | apply keeps_atPort | apply keeps_atLink | apply keeps_atLane | refine keeps_runCmd rfl ?_ | refine keeps_runLong rfl ?_)
  repeat' split
  all_goals simp [*]

@[simp] theorem view_migFailed (s : State) (m : Mig) : view (migFailed s m) = view s := by
  simp [migFailed]

@[simp] theorem view_migAbortMsg (s : State) (p : Nat) (msg : List Byte) : view (migAbortMsg s p msg) = view s := by
  unfold migAbortMsg
  try dsimp only
  repeat' split
  all_goals simp [*]

@[simp] theorem view_execMigAbortReceived (port : Nat) (msg : List Byte) (s : State) : keeps s (execMigAbortReceived port msg s) := by
  unfold execMigAbortReceived
  try (first | apply keeps_atUnit | apply keeps_atPort | apply keeps_atLink | apply keeps_atLane | refine keeps_runCmd rfl ?_ | refine keeps_runLong rfl ?_)
  repeat' split
  all_goals simp [*]

@[simp] theorem view_execMigAskReceived (port : Nat) (msg : List Byte) (s : State) : keeps s (execMigAskReceived port msg s) := by
  unfold execMigAskReceived
  try (first | apply keeps_atUnit | apply keeps_atPort | apply keeps_atLink | apply keeps_atLane | refine keeps_runCmd rfl ?_ | refine keeps_runLong rfl ?_)
  repeat' split
  all_goals simp [*]

@[simp] theorem view_execMigTimeout (lane : Nat) (s : State) : keeps s (execMigTimeout lane s) := by
  unfold execMigTimeout
  try (first | apply keeps_atUnit | apply keeps_atPort | apply keeps_atLink | apply keeps_atLane | refine keeps_runCmd rfl ?_ | refine keeps_runLong rfl ?_)
  repeat' split
  all_goals simp [*]

@[simp] theorem view_repeatMig (s : State) (tx : Bool) (lane : Nat) : view (repeatMig s tx lane) = view s := by
  unfold repeatMig
  repeat' split
  all_goals simp [*]

@[simp] theorem view_execOpticalControlMessageRepeat (lane : Nat) (s : State) : keeps s (execOpticalControlMessageRepeat lane s) := by
  unfold execOpticalControlMessageRepeat
  try (first | apply keeps_atUnit | apply keeps_atPort | apply keeps_atLink | apply keeps_atLane | refine keeps_runCmd rfl ?_ | refine keeps_runLong rfl ?_)
  repeat' split
  all_goals simp [*]

@[simp] theorem view_execLoadSteer (c : Ncp) (s : State) : keeps s (execLoadSteer c s) := by
  unfold execLoadSteer
  try (first | apply keeps_atUnit | apply keeps_atPort | apply keeps_atLink | apply keeps_atLane | refine keeps_runCmd rfl ?_ | refine keeps_runLong rfl ?_)
  repeat' (first | (apply okr_bind; intro _ _) | (apply oks_bind; intro _ _) | split)
  all_goals simp [*]

@[simp] theorem view_steerPort (s : State) (e : SteerEnt) : view (steerPort s e) = view s := by
  simp [steerPort]

@[simp] theorem view_execSteerTakeover (s : State) : keeps s (execSteerTakeover s) := by
  unfold execSteerTakeover
  try (first | apply keeps_atUnit | apply keeps_atPort | apply keeps_atLink | apply keeps_atLane | refine keeps_runCmd rfl ?_ | refine keeps_runLong rfl ?_)
  repeat' split
  all_goals simp [*]

@[simp] theorem view_execLoadCircuits (c : Ncp) (s : State) : keeps s (execLoadCircuits c s) := by
  unfold execLoadCircuits
  try (first | apply keeps_atUnit | apply keeps_atPort | apply keeps_atLink | apply keeps_atLane | refine keeps_runCmd rfl ?_ | refine keeps_runLong rfl ?_)
  repeat' (first | (apply okr_bind; intro _ _) | (apply oks_bind; intro _ _) | split)
  all_goals simp [*]

@[simp] theorem view_circuitTakeover (s : State) (part : Nat) (img : CircuitImg) : view (circuitTakeover s part img) = view s := by
  simp [circuitTakeover]

@[simp] theorem view_execCircuitTakeover (part : Nat) (s : State) : keeps s (execCircuitTakeover part s) := by
  unfold execCircuitTakeover
  try (first | apply keeps_atUnit | apply keeps_atPort | apply keeps_atLink | apply keeps_atLane | refine keeps_runCmd rfl ?_ | refine keeps_runLong rfl ?_)
  repeat' split
  all_goals simp [*]

@[simp] theorem view_execCircuitLit (out : Nat) (power : Int) (s : State) : keeps s (execCircuitLit out power s) := by
  unfold execCircuitLit
  try (first | apply keeps_atUnit | apply keeps_atPort | apply keeps_atLink | apply keeps_atLane | refine keeps_runCmd rfl ?_ | refine keeps_runLong rfl ?_)
  repeat' split
  all_goals simp [*]

@[simp] theorem view_execXcOutputFall (out : Nat) (power : Int) (s : State) : keeps s (execXcOutputFall out power s) := by
  unfold execXcOutputFall
  try (first | apply keeps_atUnit | apply keeps_atPort | apply keeps_atLink | apply keeps_atLane | refine keeps_runCmd rfl ?_ | refine keeps_runLong rfl ?_)
  repeat' split
  all_goals simp [*]

@[simp] theorem view_execOptCancel (c : Ncp) (s : State) : keeps s (execOptCancel c s) := by
  unfold execOptCancel
  try (first | apply keeps_atUnit | apply keeps_atPort | apply keeps_atLink | apply keeps_atLane | refine keeps_runCmd rfl ?_ | refine keeps_runLong rfl ?_)
  repeat' (first | (apply okr_bind; intro _ _) | (apply oks_bind; intro _ _) | split)
  all_goals simp [*]

/-! YewRows -/

@[simp] theorem view_setYewPort (s : State) (p : Nat) (y : YewPort) : view (setYewPort s p y) = view s := by
  simp [setYewPort]

@[simp] theorem view_setRate (s : State) (r : Nat) : view (setRate s r) = view s := by
  simp [setRate]

@[simp] theorem view_limitRate (s : State) (r : Nat) : view (limitRate s r).2 = view s := by
  simp [limitRate]

@[simp] theorem view_servoOutput (s : State) : view (servoOutput s).2 = view s := by
  simp [servoOutput]

@[simp] theorem view_stepTime (s : State) (theta : Int) (phase : YewPhase) : view (stepTime s theta phase) = view s := by
  simp [stepTime]

@[simp] theorem view_rootStep (s : State) (theta : Int) : view (rootStep s theta) = view s := by
  simp [rootStep]

@[simp] theorem view_sendTime (s : State) (p : Nat) : view (sendTime s p) = view s := by
  simp [sendTime]

@[simp] theorem view_execTimeFrameSend (port : Nat) (s : State) : keeps s (execTimeFrameSend port s) := by
  unfold execTimeFrameSend
  try (first | apply keeps_atUnit | apply keeps_atPort | apply keeps_atLink | apply keeps_atLane | refine keeps_runCmd rfl ?_ | refine keeps_runLong rfl ?_)
  repeat' split
  all_goals simp [*]

@[simp] theorem view_followParent (s : State) (pay : List Byte) (x : TimeSample) : view (followParent s pay x) = view s := by
  simp [followParent]

@[simp] theorem view_lockRuns (s : State) (theta : Int) : view (lockRuns s theta) = view s := by
  unfold lockRuns
  try dsimp only
  repeat' split
  all_goals simp [*]

@[simp] theorem view_servo (s : State) : view (servo s) = view s := by
  simp [servo]

@[simp] theorem view_driveServo (s : State) (pay : List Byte) (x : TimeSample) : view (driveServo s pay x) = view s := by
  simp [driveServo]

@[simp] theorem view_parentSample (s : State) (p : Nat) (alt : Bool) (pay : List Byte) (x : TimeSample) : view (parentSample s p alt pay x) = view s := by
  simp [parentSample]

@[simp] theorem view_dropSample (s : State) (p : Nat) (alt : Bool) (pay : List Byte) : view (dropSample s p alt pay) = view s := by
  unfold dropSample
  repeat' split
  all_goals simp [*]

@[simp] theorem view_finishCal (s : State) (c : TimeCal) : view (finishCal s c) = view s := by
  simp [finishCal]

@[simp] theorem view_gatherCal (s : State) (p : Nat) (theta : Int) : view (gatherCal s p theta) = view s := by
  unfold gatherCal
  repeat' split
  all_goals simp [*]

@[simp] theorem view_timeFrame (s : State) (f : StoredFrame) : view (timeFrame s f) = view s := by
  unfold timeFrame
  try dsimp only
  repeat' split
  all_goals simp [*]

@[simp] theorem view_execTimeFrameReceive (fid : Nat) (s : State) : keeps s (execTimeFrameReceive fid s) := by
  unfold execTimeFrameReceive
  try (first | apply keeps_atUnit | apply keeps_atPort | apply keeps_atLink | apply keeps_atLane | refine keeps_runCmd rfl ?_ | refine keeps_runLong rfl ?_)
  repeat' split
  all_goals (try have hv0 := view_takeKind (by assumption))
  all_goals (try have hv1 := view_takeKind_error (by assumption))
  all_goals simp [*]

@[simp] theorem view_execParentSilence (s : State) : keeps s (execParentSilence s) := by
  simp [execParentSilence]

@[simp] theorem view_execRootWaitExpiry (s : State) : keeps s (execRootWaitExpiry s) := by
  simp [execRootWaitExpiry]

@[simp] theorem view_execTimeStep (c : Ncp) (s : State) : keeps s (execTimeStep c s) := by
  unfold execTimeStep
  try (first | apply keeps_atUnit | apply keeps_atPort | apply keeps_atLink | apply keeps_atLane | refine keeps_runCmd rfl ?_ | refine keeps_runLong rfl ?_)
  repeat' (first | (apply okr_bind; intro _ _) | (apply oks_bind; intro _ _) | split)
  all_goals simp [*]

@[simp] theorem view_execTimeStatus (c : Ncp) (s : State) : keeps s (execTimeStatus c s) := by
  unfold execTimeStatus
  try (first | apply keeps_atUnit | apply keeps_atPort | apply keeps_atLink | apply keeps_atLane | refine keeps_runCmd rfl ?_ | refine keeps_runLong rfl ?_)
  repeat' (first | (apply okr_bind; intro _ _) | (apply oks_bind; intro _ _) | split)
  all_goals simp [*]

@[simp] theorem view_execTimeCal (c : Ncp) (s : State) : keeps s (execTimeCal c s) := by
  unfold execTimeCal
  try (first | apply keeps_atUnit | apply keeps_atPort | apply keeps_atLink | apply keeps_atLane | refine keeps_runCmd rfl ?_ | refine keeps_runLong rfl ?_)
  repeat' (first | (apply okr_bind; intro _ _) | (apply oks_bind; intro _ _) | split)
  all_goals simp [*]

@[simp] theorem view_slewWorld (s : State) (w : Int) : view (slewWorld s w) = view s := by
  simp [slewWorld]

@[simp] theorem view_execPtpSyncReceive (src domain gm time : Nat) (logInterval : Int) (utc : Nat) (s : State) : keeps s (execPtpSyncReceive src domain gm time logInterval utc s) := by
  simp [execPtpSyncReceive]

@[simp] theorem view_execPtpLoss (s : State) : keeps s (execPtpLoss s) := by
  simp [execPtpLoss]

@[simp] theorem view_beatRegions (s : State) (missed : List Nat) : view (beatRegions s missed) = view s := by
  simp [beatRegions]

/-! NcpOps -/

@[simp] theorem view_rejectRaw (s : State) (via : Transport) (h : NcpHdr) (code : Code) : view (rejectRaw s via h code) = view s := by
  simp [rejectRaw]

@[simp] theorem view_repeatReply (s : State) (cls : Nat) (auth : Authority) (via : Transport) (seq : Nat) : view (repeatReply s cls auth via seq).1 = view s := by
  unfold repeatReply
  repeat' split
  all_goals simp [*]

@[simp] theorem view_queueCmd (s : State) (auth : Authority) (via : Transport) (op seq : Nat) (body : List Byte) : view (queueCmd s auth via op seq body) = view s := by
  unfold queueCmd
  repeat' split
  all_goals simp [*]

@[simp] theorem view_takeCommand (s : State) (auth : Authority) (via : Transport) (op seq : Nat) (body : List Byte) : view (takeCommand s auth via op seq body).1 = view s := by
  unfold takeCommand
  try dsimp only
  repeat' split
  all_goals simp [*]

@[simp] theorem view_takeFrag (s : State) (auth : Authority) (via : Transport) (h : NcpHdr) (body : List Byte) : view (takeFrag s auth via h body).1 = view s := by
  unfold takeFrag
  try dsimp only
  repeat' split
  all_goals simp [*]

@[simp] theorem view_takeMessage (s : State) (via : Transport) (m : List Byte) : view (takeMessage s via m).1 = view s := by
  unfold takeMessage
  try dsimp only
  repeat' split
  all_goals simp [*]

@[simp] theorem view_mbxSubmit (s : State) (k len : Nat) : view (mbxSubmit s k len) = view s := by
  simp [mbxSubmit]

@[simp] theorem view_mbxClear (s : State) (k : Nat) : view (mbxClear s k) = view s := by
  simp [mbxClear]

@[simp] theorem view_setNcpLevel (s : State) (cls n : Nat) : view (setNcpLevel s cls n) = view s := by
  simp [setNcpLevel]

/-! RegOps -/

@[simp] theorem view_badAddr (s : State) (a : Nat) : view (badAddr s a) = view s := by
  simp [badAddr]

@[simp] theorem view_voteFix (s : State) (blk inst off idx : Nat) : view (voteFix s blk inst off idx) = view s := by
  unfold voteFix
  repeat' split
  all_goals simp [*]

@[simp] theorem view_busRead (s : State) (r a : Nat) : view (busRead s r a).2 = view s := by
  unfold busRead
  repeat' split
  all_goals simp [*]

@[simp] theorem view_settleBuckets (s : State) (idx : Nat) : view (settleBuckets s idx) = view s := by
  simp [settleBuckets]

@[simp] theorem view_beforeWrite (s : State) (x : RegAddr) (idx : Nat) : view (beforeWrite s x idx) = view s := by
  simp [beforeWrite]

@[simp] theorem view_keepWord (s : State) (x : RegAddr) (d : RegDesc) (idx v : Nat) : view (keepWord s x d idx v) = view s := by
  simp [keepWord]

@[simp] theorem view_extendMeas5 (s : State) : view (extendMeas5 s) = view s := by
  simp [extendMeas5]

@[simp] theorem view_regAction (old s : State) (r : Nat) (x : RegAddr) (d : RegDesc) (v : Nat) : view (regAction old s r x d v) = view s := by
  unfold regAction
  dsimp only
  split; · rfl
  repeat' split
  all_goals simp

theorem view_regWrite {s : State} {r a v : Nat} {x} (h : regWrite s r a v = .ok x) : view x = view s := by
  unfold regWrite at h
  dsimp only at h
  repeat' split at h
  all_goals (try cases h)
  all_goals simp [*]

@[simp] theorem view_noteWrite (s : State) (r a : Nat) (code : Code) : view (noteWrite s r a code) = view s := by
  simp [noteWrite]

@[simp] theorem view_busWrite (s : State) (r a v : Nat) : view (busWrite s r a v) = view s := by
  unfold busWrite
  repeat' split
  all_goals (try have hv0 := view_regWrite (by assumption))
  all_goals simp [*]

@[simp] theorem view_moveShadow (s : State) (blk inst : Nat) : view (moveShadow s blk inst) = view s := by
  simp [moveShadow]

@[simp] theorem view_frontUp (s : State) (p : Nat) : view (frontUp s p) = view s := by
  simp [frontUp]

@[simp] theorem view_restartPort (s : State) (p : Nat) : view (restartPort s p) = view s := by
  simp [restartPort]

@[simp] theorem view_commitEffect (s t : State) (blk inst : Nat) : view (commitEffect s t blk inst) = view t := by
  unfold commitEffect
  dsimp only
  repeat' split
  all_goals simp

theorem view_commitInst {s : State} {blk inst : Nat} {exempt : List Nat} {x} (h : commitInst s blk inst exempt = .ok x) : view x = view s := by
  unfold commitInst at h
  dsimp only at h
  repeat' split at h
  all_goals (try cases h)
  all_goals simp [*]

theorem view_commitAll {s x : State} {blk : Nat} {l : List Nat} (h : commitAll s blk l = .ok x) : view x = view s := by
  induction l generalizing s with
  | nil => cases h; rfl
  | cons i t ih =>
    unfold commitAll at h
    split at h
    · rename_i s1 h1; rw [ih h, view_commitInst h1]
    · cases h

@[simp] theorem view_dropPend (s : State) (blk inst : Nat) : view (dropPend s blk inst) = view s := by
  simp [dropPend]

@[simp] theorem view_dropShadow (s : State) (blk inst : Nat) : view (dropShadow s blk inst) = view s := by
  simp [dropShadow]

@[simp] theorem view_applyPend (s : State) (c : PendCommit) : view (applyPend s c) = view s := by
  unfold applyPend
  dsimp only
  split
  · rename_i t h1; rw [view_commitAll h1]; simp
  · simp

/-! StrataRows -/

@[simp] theorem view_execCtrSample (c : Ncp) (s : State) : keeps s (execCtrSample c s) := by
  unfold execCtrSample
  try (first | apply keeps_atUnit | apply keeps_atPort | apply keeps_atLink | apply keeps_atLane | refine keeps_runCmd rfl ?_ | refine keeps_runLong rfl ?_)
  repeat' (first | (apply okr_bind; intro _ _) | (apply oks_bind; intro _ _) | split)
  all_goals simp [*]

@[simp] theorem view_execThreshSet (c : Ncp) (s : State) : keeps s (execThreshSet c s) := by
  unfold execThreshSet
  try (first | apply keeps_atUnit | apply keeps_atPort | apply keeps_atLink | apply keeps_atLane | refine keeps_runCmd rfl ?_ | refine keeps_runLong rfl ?_)
  repeat' (first | (apply okr_bind; intro _ _) | (apply oks_bind; intro _ _) | split)
  all_goals simp [*]

@[simp] theorem view_execSnapshot (c : Ncp) (s : State) : keeps s (execSnapshot c s) := by
  unfold execSnapshot
  try (first | apply keeps_atUnit | apply keeps_atPort | apply keeps_atLink | apply keeps_atLane | refine keeps_runCmd rfl ?_ | refine keeps_runLong rfl ?_)
  repeat' (first | (apply okr_bind; intro _ _) | (apply oks_bind; intro _ _) | split)
  all_goals simp [*]

@[simp] theorem view_execSnapshotLatch (s : State) : keeps s (execSnapshotLatch s) := by
  simp [execSnapshotLatch]

@[simp] theorem view_execSnapshotWritten (s : State) : keeps s (execSnapshotWritten s) := by
  unfold execSnapshotWritten
  try (first | apply keeps_atUnit | apply keeps_atPort | apply keeps_atLink | apply keeps_atLane | refine keeps_runCmd rfl ?_ | refine keeps_runLong rfl ?_)
  repeat' split
  all_goals simp [*]

@[simp] theorem view_execSnapshotExpiry (s : State) : keeps s (execSnapshotExpiry s) := by
  simp [execSnapshotExpiry]

@[simp] theorem view_execSnapshotRead (c : Ncp) (s : State) : keeps s (execSnapshotRead c s) := by
  unfold execSnapshotRead
  refine keeps_runCmd rfl ?_
  apply okr_bind; intro _ _
  apply okr_bind; intro _ _
  dsimp only
  split
  · trivial
  · apply okr_bind; intro _ _; rfl

@[simp] theorem view_execRingRead (c : Ncp) (s : State) : keeps s (execRingRead c s) := by
  unfold execRingRead
  try (first | apply keeps_atUnit | apply keeps_atPort | apply keeps_atLink | apply keeps_atLane | refine keeps_runCmd rfl ?_ | refine keeps_runLong rfl ?_)
  repeat' (first | (apply okr_bind; intro _ _) | (apply oks_bind; intro _ _) | split)
  all_goals simp [*]

@[simp] theorem view_sendTrace (s : State) (kind : Nat) (recs : List Byte) : view (sendTrace s kind recs) = view s := by
  simp [sendTrace]

@[simp] theorem view_traceDrain (s : State) : view (traceDrain s) = view s := by
  unfold traceDrain
  repeat' split
  all_goals simp [*]

@[simp] theorem view_traceStop (s : State) : view (traceStop s) = view s := by
  unfold traceStop
  try dsimp only
  repeat' split
  all_goals simp [*]

@[simp] theorem view_execTraceStart (c : Ncp) (s : State) : keeps s (execTraceStart c s) := by
  unfold execTraceStart
  try (first | apply keeps_atUnit | apply keeps_atPort | apply keeps_atLink | apply keeps_atLane | refine keeps_runCmd rfl ?_ | refine keeps_runLong rfl ?_)
  repeat' (first | (apply okr_bind; intro _ _) | (apply oks_bind; intro _ _) | split)
  all_goals (try have hv0 := view_reserve (by assumption))
  all_goals simp [*]

@[simp] theorem view_execTraceStop (c : Ncp) (s : State) : keeps s (execTraceStop c s) := by
  unfold execTraceStop
  try (first | apply keeps_atUnit | apply keeps_atPort | apply keeps_atLink | apply keeps_atLane | refine keeps_runCmd rfl ?_ | refine keeps_runLong rfl ?_)
  repeat' (first | (apply okr_bind; intro _ _) | (apply oks_bind; intro _ _) | split)
  all_goals simp [*]

@[simp] theorem view_execTraceTimeRecord (s : State) : keeps s (execTraceTimeRecord s) := by
  unfold execTraceTimeRecord
  try (first | apply keeps_atUnit | apply keeps_atPort | apply keeps_atLink | apply keeps_atLane | refine keeps_runCmd rfl ?_ | refine keeps_runLong rfl ?_)
  repeat' split
  all_goals simp [*]

@[simp] theorem view_execTraceStopTime (s : State) : keeps s (execTraceStopTime s) := by
  unfold execTraceStopTime
  try (first | apply keeps_atUnit | apply keeps_atPort | apply keeps_atLink | apply keeps_atLane | refine keeps_runCmd rfl ?_ | refine keeps_runLong rfl ?_)
  repeat' split
  all_goals simp [*]

/-! TeardownRows -/

@[simp] theorem view_eraseKeys (s : State) (p : Nat) (held : Bool) : view (eraseKeys s p held) = view s := by
  simp [eraseKeys]

@[simp] theorem view_loamTeardown (s : State) (p : Nat) : view (loamTeardown s p) = view s := by
  simp [loamTeardown]

@[simp] theorem view_discardPart (s : State) (p : Nat) : view (discardPart s p) = view s := by
  unfold discardPart
  repeat' split
  all_goals simp [*]

@[simp] theorem view_abandonPartVotes (s : State) (p : Nat) : view (abandonPartVotes s p) = view s := by
  simp [abandonPartVotes]

@[simp] theorem view_dropPartCommands (s : State) (p : Nat) : view (dropPartCommands s p) = view s := by
  simp [dropPartCommands]

@[simp] theorem view_startTeardown (s : State) (p : Nat) : view (startTeardown s p) = view s := by
  simp [startTeardown]

@[simp] theorem view_endTeardown (s : State) : view (endTeardown s) = view s := by
  simp [endTeardown]

@[simp] theorem view_execPartTeardown (c : Ncp) (s : State) : keeps s (execPartTeardown c s) := by
  unfold execPartTeardown
  try (first | apply keeps_atUnit | apply keeps_atPort | apply keeps_atLink | apply keeps_atLane | refine keeps_runCmd rfl ?_ | refine keeps_runLong rfl ?_)
  repeat' (first | (apply okr_bind; intro _ _) | (apply oks_bind; intro _ _) | split)
  all_goals simp [*]

@[simp] theorem view_execTeardownComplete (s : State) : keeps s (execTeardownComplete s) := by
  unfold execTeardownComplete
  try (first | apply keeps_atUnit | apply keeps_atPort | apply keeps_atLink | apply keeps_atLane | refine keeps_runCmd rfl ?_ | refine keeps_runLong rfl ?_)
  repeat' split
  all_goals simp [*]

@[simp] theorem view_execMarginSweep (c : Ncp) (s : State) : keeps s (execMarginSweep c s) := by
  unfold execMarginSweep
  try (first | apply keeps_atUnit | apply keeps_atPort | apply keeps_atLink | apply keeps_atLane | refine keeps_runCmd rfl ?_ | refine keeps_runLong rfl ?_)
  repeat' (first | (apply okr_bind; intro _ _) | (apply oks_bind; intro _ _) | split)
  all_goals simp [*]

@[simp] theorem view_marginMismatch (s : State) (m : Margin) : view (marginMismatch s m) = view s := by
  simp [marginMismatch]

@[simp] theorem view_execMarginSweepDone (tests mismatches : Nat) (peak : Int) (s : State) : keeps s (execMarginSweepDone tests mismatches peak s) := by
  unfold execMarginSweepDone
  try (first | apply keeps_atUnit | apply keeps_atPort | apply keeps_atLink | apply keeps_atLane | refine keeps_runCmd rfl ?_ | refine keeps_runLong rfl ?_)
  repeat' split
  all_goals simp [*]

/-! HollyRows -/

@[simp] theorem view_execAttestCerts (c : Ncp) (s : State) : keeps s (execAttestCerts c s) := by
  unfold execAttestCerts
  try (first | apply keeps_atUnit | apply keeps_atPort | apply keeps_atLink | apply keeps_atLane | refine keeps_runCmd rfl ?_ | refine keeps_runLong rfl ?_)
  repeat' (first | (apply okr_bind; intro _ _) | (apply oks_bind; intro _ _) | split)
  all_goals simp [*]

@[simp] theorem view_execAttestMeasure (c : Ncp) (s : State) : keeps s (execAttestMeasure c s) := by
  unfold execAttestMeasure
  try (first | apply keeps_atUnit | apply keeps_atPort | apply keeps_atLink | apply keeps_atLane | refine keeps_runCmd rfl ?_ | refine keeps_runLong rfl ?_)
  repeat' (first | (apply okr_bind; intro _ _) | (apply oks_bind; intro _ _) | split)
  all_goals simp [*]

@[simp] theorem view_kexStart (s : State) (c : Ncp) (link : Nat) : view (kexStart s c link).2 = view s := by
  simp [kexStart]

@[simp] theorem view_execKexInit (c : Ncp) (s : State) : keeps s (execKexInit c s) := by
  unfold execKexInit
  try (first | apply keeps_atUnit | apply keeps_atPort | apply keeps_atLink | apply keeps_atLane | refine keeps_runCmd rfl ?_ | refine keeps_runLong rfl ?_)
  repeat' (first | (apply okr_bind; intro _ _) | (apply oks_bind; intro _ _) | split)
  all_goals simp [*]

@[simp] theorem view_execOwnerSet (c : Ncp) (s : State) : keeps s (execOwnerSet c s) := by
  unfold execOwnerSet
  try (first | apply keeps_atUnit | apply keeps_atPort | apply keeps_atLink | apply keeps_atLane | refine keeps_runCmd rfl ?_ | refine keeps_runLong rfl ?_)
  repeat' (first | (apply okr_bind; intro _ _) | (apply oks_bind; intro _ _) | split)
  all_goals simp [*]

@[simp] theorem view_dropKex (s : State) (id : Nat) (k : Kex) : view (dropKex s id k) = view s := by
  simp [dropKex]

@[simp] theorem view_installLink (s : State) (k : Kex) : view (installLink s k) = view s := by
  simp [installLink]

@[simp] theorem view_drawXts (s : State) : view (drawXts s).2 = view s := by
  have g : ∀ (l : List Nat) (x : List (List Byte) × State),
      view (l.foldl (fun x _ => let r := takeFree x.2 (2 ^ 256); (x.1 ++ [beBytes 32 r.1], r.2)) x).2 = view x.2 := by
    intro l
    induction l with
    | nil => intro x; rfl
    | cons a l ih => intro x; rw [List.foldl_cons, ih]; simp
  exact g _ _

@[simp] theorem view_freshSeq (s : State) (cls : Nat) : view (freshSeq s cls) = view s := by
  simp [freshSeq]

@[simp] theorem view_installBinding (s : State) (k : Kex) (auth : List Byte) : view (installBinding s k auth) = view s := by
  simp [installBinding]

@[simp] theorem view_execKexTimeout (exchange : Nat) (s : State) : keeps s (execKexTimeout exchange s) := by
  unfold execKexTimeout
  try (first | apply keeps_atUnit | apply keeps_atPort | apply keeps_atLink | apply keeps_atLane | refine keeps_runCmd rfl ?_ | refine keeps_runLong rfl ?_)
  repeat' split
  all_goals simp [*]

@[simp] theorem view_execRekeyTimer (link : Nat) (s : State) : keeps s (execRekeyTimer link s) := by
  simp [execRekeyTimer]

@[simp] theorem view_installSa (s : State) (p sci an : Nat) (a : MacsecSa) : view (installSa s p sci an a) = view s := by
  simp [installSa]

@[simp] theorem view_execMacsecKey (c : Ncp) (s : State) : keeps s (execMacsecKey c s) := by
  unfold execMacsecKey
  try (first | apply keeps_atUnit | apply keeps_atPort | apply keeps_atLink | apply keeps_atLane | refine keeps_runCmd rfl ?_ | refine keeps_runLong rfl ?_)
  repeat' (first | (apply okr_bind; intro _ _) | (apply oks_bind; intro _ _) | split)
  all_goals simp [*]

@[simp] theorem view_execDebugNonce (c : Ncp) (s : State) : keeps s (execDebugNonce c s) := by
  unfold execDebugNonce
  try (first | apply keeps_atUnit | apply keeps_atPort | apply keeps_atLink | apply keeps_atLane | refine keeps_runCmd rfl ?_ | refine keeps_runLong rfl ?_)
  repeat' (first | (apply okr_bind; intro _ _) | (apply oks_bind; intro _ _) | split)
  all_goals simp [*]

@[simp] theorem view_teardownAll (s : State) : view (teardownAll s) = view s := by
  unfold teardownAll
  try dsimp only
  repeat' split
  all_goals simp [*]

@[simp] theorem view_zeroiseLinks (s : State) : view (zeroiseLinks s) = view s := by
  simp [zeroiseLinks]

@[simp] theorem view_execHollyStatus (c : Ncp) (s : State) : keeps s (execHollyStatus c s) := by
  unfold execHollyStatus
  try (first | apply keeps_atUnit | apply keeps_atPort | apply keeps_atLink | apply keeps_atLane | refine keeps_runCmd rfl ?_ | refine keeps_runLong rfl ?_)
  repeat' (first | (apply okr_bind; intro _ _) | (apply oks_bind; intro _ _) | split)
  all_goals simp [*]

/-! PowerRows -/

@[simp] theorem view_execPerstAssert (s : State) : keeps s (execPerstAssert s) := by
  simp [execPerstAssert]

@[simp] theorem view_execIdent (c : Ncp) (s : State) : keeps s (execIdent c s) := by
  unfold execIdent
  try (first | apply keeps_atUnit | apply keeps_atPort | apply keeps_atLink | apply keeps_atLane | refine keeps_runCmd rfl ?_ | refine keeps_runLong rfl ?_)
  repeat' (first | (apply okr_bind; intro _ _) | (apply oks_bind; intro _ _) | split)
  all_goals simp [*]

@[simp] theorem view_execPowerStatus (c : Ncp) (s : State) : keeps s (execPowerStatus c s) := by
  unfold execPowerStatus
  try (first | apply keeps_atUnit | apply keeps_atPort | apply keeps_atLink | apply keeps_atLane | refine keeps_runCmd rfl ?_ | refine keeps_runLong rfl ?_)
  repeat' (first | (apply okr_bind; intro _ _) | (apply oks_bind; intro _ _) | split)
  all_goals simp [*]

@[simp] theorem view_execFwStatus (c : Ncp) (s : State) : keeps s (execFwStatus c s) := by
  unfold execFwStatus
  try (first | apply keeps_atUnit | apply keeps_atPort | apply keeps_atLink | apply keeps_atLane | refine keeps_runCmd rfl ?_ | refine keeps_runLong rfl ?_)
  repeat' (first | (apply okr_bind; intro _ _) | (apply oks_bind; intro _ _) | split)
  all_goals simp [*]

/-! RegRows -/

@[simp] theorem view_execRegisterWrite (req addr : Nat) (value : Word) (dword : Bool) (s : State) : keeps s (execRegisterWrite req addr value dword s) := by
  unfold execRegisterWrite
  try (first | apply keeps_atUnit | apply keeps_atPort | apply keeps_atLink | apply keeps_atLane | refine keeps_runCmd rfl ?_ | refine keeps_runLong rfl ?_)
  repeat' split
  all_goals simp [*]

@[simp] theorem view_execLockBitSet (req addr : Nat) (value : Word) (s : State) : keeps s (execLockBitSet req addr value s) := by
  unfold execLockBitSet
  try (first | apply keeps_atUnit | apply keeps_atPort | apply keeps_atLink | apply keeps_atLane | refine keeps_runCmd rfl ?_ | refine keeps_runLong rfl ?_)
  repeat' split
  all_goals simp [*]

@[simp] theorem view_execSieveStart (req half : Nat) (s : State) : keeps s (execSieveStart req half s) := by
  simp [execSieveStart]

@[simp] theorem view_execCounterResetWrite (req : Nat) (s : State) : keeps s (execCounterResetWrite req s) := by
  unfold execCounterResetWrite
  try (first | apply keeps_atUnit | apply keeps_atPort | apply keeps_atLink | apply keeps_atLane | refine keeps_runCmd rfl ?_ | refine keeps_runLong rfl ?_)
  repeat' split
  all_goals simp [*]

@[simp] theorem view_execSlowClear (req : Nat) (s : State) : keeps s (execSlowClear req s) := by
  unfold execSlowClear
  try (first | apply keeps_atUnit | apply keeps_atPort | apply keeps_atLink | apply keeps_atLane | refine keeps_runCmd rfl ?_ | refine keeps_runLong rfl ?_)
  repeat' split
  all_goals simp [*]

@[simp] theorem view_execRingFreezeWrite (req : Nat) (value : Word) (s : State) : keeps s (execRingFreezeWrite req value s) := by
  unfold execRingFreezeWrite
  try (first | apply keeps_atUnit | apply keeps_atPort | apply keeps_atLink | apply keeps_atLane | refine keeps_runCmd rfl ?_ | refine keeps_runLong rfl ?_)
  repeat' split
  all_goals simp [*]

@[simp] theorem view_execRegisterAccessTimeout (req addr : Nat) (write : Bool) (ncp : Option (Ncp × Nat)) (s : State) : keeps s (execRegisterAccessTimeout req addr write ncp s) := by
  unfold execRegisterAccessTimeout
  try (first | apply keeps_atUnit | apply keeps_atPort | apply keeps_atLink | apply keeps_atLane | refine keeps_runCmd rfl ?_ | refine keeps_runLong rfl ?_)
  repeat' split
  all_goals simp [*]

@[simp] theorem view_execRwvScrub (s : State) : keeps s (execRwvScrub s) := by
  simp [execRwvScrub]

@[simp] theorem view_readList (s : State) (r : Nat) (l : List Nat) : view (readList s r l).2 = view s := by
  induction l generalizing s with
  | nil => rfl
  | cons a t ih => simp [readList, ih]

@[simp] theorem view_execRegRead (c : Ncp) (s : State) : keeps s (execRegRead c s) := by
  unfold execRegRead
  split; · exact keeps_runCmd rfl trivial
  dsimp only
  split
  · apply keeps_runCmd <;> simp
  · apply keeps_runCmd <;> simp

theorem view_writeList {s x : State} {i : Nat} {l : List (Nat × Nat)} (h : writeList s i l = .ok x) : view x = view s := by
  induction l generalizing s i with
  | nil => cases h; rfl
  | cons a t ih =>
    unfold writeList at h
    split at h
    · rename_i s1 h1; rw [ih h, view_regWrite h1]
    · cases h

@[simp] theorem view_execRegWrite (c : Ncp) (s : State) : keeps s (execRegWrite c s) := by
  unfold execRegWrite
  split; · exact keeps_runCmd rfl trivial
  dsimp only
  split
  · rename_i t h1; have hv := view_writeList h1; apply keeps_runCmd <;> simp [hv]
  · apply keeps_runCmd <;> simp

@[simp] theorem view_execRegCommitAtT (c : Ncp) (s : State) : keeps s (execRegCommitAtT c s) := by
  unfold execRegCommitAtT
  try (first | apply keeps_atUnit | apply keeps_atPort | apply keeps_atLink | apply keeps_atLane | refine keeps_runCmd rfl ?_ | refine keeps_runLong rfl ?_)
  repeat' (first | (apply okr_bind; intro _ _) | (apply oks_bind; intro _ _) | split)
  all_goals (try have hv0 := view_commitAll (by assumption))
  all_goals (try have hw0 := view_commitAll (ok_of_atStep (by assumption)))
  all_goals simp [*]

@[simp] theorem view_execRegCommitNow (c : Ncp) (s : State) : keeps s (execRegCommitNow c s) := by
  unfold execRegCommitNow
  try (first | apply keeps_atUnit | apply keeps_atPort | apply keeps_atLink | apply keeps_atLane | refine keeps_runCmd rfl ?_ | refine keeps_runLong rfl ?_)
  repeat' (first | (apply okr_bind; intro _ _) | (apply oks_bind; intro _ _) | split)
  all_goals (try have hv0 := view_commitAll (by assumption))
  all_goals (try have hw0 := view_commitAll (ok_of_atStep (by assumption)))
  all_goals simp [*]

@[simp] theorem view_execRegCommitDiscard (c : Ncp) (s : State) : keeps s (execRegCommitDiscard c s) := by
  unfold execRegCommitDiscard
  try (first | apply keeps_atUnit | apply keeps_atPort | apply keeps_atLink | apply keeps_atLane | refine keeps_runCmd rfl ?_ | refine keeps_runLong rfl ?_)
  repeat' (first | (apply okr_bind; intro _ _) | (apply oks_bind; intro _ _) | split)
  all_goals simp [*]

@[simp] theorem view_execShadowCommitApply (blk inst : Nat) (s : State) : keeps s (execShadowCommitApply blk inst s) := by
  unfold execShadowCommitApply
  try (first | apply keeps_atUnit | apply keeps_atPort | apply keeps_atLink | apply keeps_atLane | refine keeps_runCmd rfl ?_ | refine keeps_runLong rfl ?_)
  try dsimp only
  repeat' split
  all_goals simp [*]

@[simp] theorem view_execCablingAccept (c : Ncp) (s : State) : keeps s (execCablingAccept c s) := by
  unfold execCablingAccept
  try (first | apply keeps_atUnit | apply keeps_atPort | apply keeps_atLink | apply keeps_atLane | refine keeps_runCmd rfl ?_ | refine keeps_runLong rfl ?_)
  repeat' (first | (apply okr_bind; intro _ _) | (apply oks_bind; intro _ _) | split)
  all_goals (try have hv0 := view_commitInst (by assumption))
  all_goals (try have hw0 := view_commitInst (ok_of_atStep (by assumption)))
  all_goals simp [*]

@[simp] theorem view_upsetRegister (s : State) (addr idx copy bit : Nat) : view (upsetRegister s addr idx copy bit) = view s := by
  unfold upsetRegister
  repeat' split
  all_goals simp [*]

@[simp] theorem view_execUpset (target : UpsetTarget) (s : State) : keeps s (execUpset target s) := by
  unfold execUpset
  try (first | apply keeps_atUnit | apply keeps_atPort | apply keeps_atLink | apply keeps_atLane | refine keeps_runCmd rfl ?_ | refine keeps_runLong rfl ?_)
  repeat' split
  all_goals simp [*]

/-! NcpRows -/

@[simp] theorem view_writeSlot (s : State) (slot aka v : Nat) : view (writeSlot s slot aka v) = view s := by
  simp [writeSlot]

@[simp] theorem view_execMbxGo (slot len : Nat) (window : List Byte) (s : State) : keeps s (execMbxGo slot len window s) := by
  unfold execMbxGo
  try (first | apply keeps_atUnit | apply keeps_atPort | apply keeps_atLink | apply keeps_atLane | refine keeps_runCmd rfl ?_ | refine keeps_runLong rfl ?_)
  repeat' split
  all_goals simp [*]

@[simp] theorem view_execMbxReadyClear (slot : Nat) (s : State) : keeps s (execMbxReadyClear slot s) := by
  unfold execMbxReadyClear
  try (first | apply keeps_atUnit | apply keeps_atPort | apply keeps_atLink | apply keeps_atLane | refine keeps_runCmd rfl ?_ | refine keeps_runLong rfl ?_)
  repeat' split
  all_goals simp [*]

@[simp] theorem view_execNcpUdpDatagram (mg srcIp srcPort dstPort : Nat) (ipFragment : Bool) (msg : List Byte) (s : State) : keeps s (execNcpUdpDatagram mg srcIp srcPort dstPort ipFragment msg s) := by
  unfold execNcpUdpDatagram
  try (first | apply keeps_atUnit | apply keeps_atPort | apply keeps_atLink | apply keeps_atLane | refine keeps_runCmd rfl ?_ | refine keeps_runLong rfl ?_)
  repeat' split
  all_goals simp [*]

@[simp] theorem view_execNcpInbandFrame (fid : Nat) (s : State) : keeps s (execNcpInbandFrame fid s) := by
  unfold execNcpInbandFrame
  try (first | apply keeps_atUnit | apply keeps_atPort | apply keeps_atLink | apply keeps_atLane | refine keeps_runCmd rfl ?_ | refine keeps_runLong rfl ?_)
  repeat' split
  all_goals (try have hv0 := view_takeKind (by assumption))
  all_goals (try have hv1 := view_takeKind_error (by assumption))
  all_goals simp [*]

@[simp] theorem view_execFragAssemblyTimeout (buffer : Nat) (s : State) : keeps s (execFragAssemblyTimeout buffer s) := by
  unfold execFragAssemblyTimeout
  try (first | apply keeps_atUnit | apply keeps_atPort | apply keeps_atLink | apply keeps_atLane | refine keeps_runCmd rfl ?_ | refine keeps_runLong rfl ?_)
  repeat' split
  all_goals simp [*]

/-! CommandRows -/

@[simp] theorem view_takeHead (s : State) (q : QCmd) : view (takeHead s q) = view s := by
  simp [takeHead]

end Sys2Proof.Laws
end

