-- ==== Sys2Proof/Laws/ViewExec.lean ====
section
/-!
SUPPORT. Laws/ViewExec.lean: all but a few commands keep the queue, RAW, the power state, the owner key and debug.
-/

set_option Elab.async false

namespace Sys2Proof.Laws

open Sys2Proof Sys2Proof.Machine

/-- The commands and events that may change the view. -/
def special : Instr → Bool
  | .vsbApplied | .vin48Applied | .resetRelease | .resetPinAssert | .supplyBrownout _ | .refclkValid | .refclkLoss
  | .railOutOfRegulation .. | .watchdogRestart | .watchdogExpiry | .moduleReset _ | .commandedReset | .thermalTrip _
  | .thermalLoopEval .. | .powerCap _ | .fwStage _ | .fwActivate _ | .timeBeat _ | .kexFin _ | .ownerClear _ | .debugUnlock _
  | .commandDispatch _ => true
  | _ => false

theorem exec_keeps (c : Instr) (s : State) (h : special c = false) : keeps s (exec c s) := by
  cases c <;> first | (cases h; done) | (simp [exec])

end Sys2Proof.Laws
end

