-- ==== Sys2Proof/Tests/Slice0.lean ====
section
/-!
SUPPORT. Tests/Slice0.lean: for every statement with hypotheses, states and operands that meet them, clause by clause; the worked
examples of the spec; and ill-formed terms that WellFormed refuses. Expected results come from the spec.
-/

set_option Elab.async false

namespace Sys2Proof.Tests

open Sys2Proof Sys2Proof.Machine Sys2Proof.Safety Sys2Proof.Laws

/-- What an outcome or option holds, and `d` where it holds nothing. -/
def okVal {ε α : Type} (d : α) : Except ε α → α
  | .ok x => x
  | .error _ => d

theorem eq_okVal {ε α : Type} {d : α} {e : Except ε α} (h : e.isOk = true) : e = .ok (okVal d e) := by
  cases e <;> first | rfl | cases h

theorem eq_okPair {ε α β : Type} {d : α × β} {e : Except ε (α × β)} (h : e.isOk = true) : e = .ok ((okVal d e).1, (okVal d e).2) :=
  eq_okVal h

/-- What an option holds, and `d` where it holds nothing. -/
def someVal {α : Type} (d : α) : Option α → α
  | some x => x
  | none => d

theorem eq_someVal {α : Type} {d : α} {o : Option α} (h : o.isSome = true) : o = some (someVal d o) := by
  cases o <;> first | rfl | cases h

theorem eq_somePair {α β : Type} {d : α × β} {o : Option (α × β)} (h : o.isSome = true) : o = some ((someVal d o).1, (someVal d o).2) :=
  eq_someVal h

/-- Is an outcome a next state? -/
def isNext : Res → Bool
  | .next _ => true
  | _ => false

/-- The next state, and `d` where there is none. -/
def nextVal (d : State) : Res → State
  | .next t => t
  | _ => d

theorem eq_nextVal {d : State} {r : Res} (h : isNext r = true) : r = .next (nextVal d r) := by
  cases r <;> first | rfl | cases h

/-- The hub runs, hours after reset. -/
def on : State := { State.reset with raw := 2 ^ 44, pwr := { hubUp := true, resetN := true } }

/-- The same, with fabric time stepped and locked. -/
def timed : State := { on with yew := { phase := .locked, stepped := true } }

/-- A command of the owner over mailbox slot 0. -/
def own (body : List Byte) : Ncp := { auth := .owner, seq := 7, via := .mailbox 0, body := body, dma := none }

/-- An untagged command over mailbox slot 0. -/
def anon (body : List Byte) : Ncp := { auth := .untagged, seq := 0, via := .mailbox 0, body := body, dma := none }

/-- A command of tenant 5 over mailbox slot 1. -/
def ten (body : List Byte) : Ncp := { auth := .tenant 5, seq := 9, via := .mailbox 1, body := body, dma := none }

/-- A supplied module that waits for one more event to boot. -/
def waiting : State := { State.reset with pwr := { resetN := true } }

/-- A shadow copy of FRM_ETYPE waits. -/
def shadowed : State := regKeepShadow timed 0x08 0xFF 0 0 0x88B6

/-- Ports 1 and 2 are cabled the wrong way round. -/
def swapped : State := { timed with haw := { timed.haw with cab := [(1, .swap), (2, .swap)], swapWith := [(1, 2), (2, 1)] } }

/-- A stored control frame of kind k that was consumed: frame 1, in half 0, from port `p`. -/
def ctrl (k p : Nat) (data : List Byte) : StoredFrame :=
  { mode := .fabric, ffh := { kind := k, tc := 6, part := 0 }, data := data, tc := 6, pool := .tc6 p, part := 0, inPort := p, inHalf := 0,
    arrivedAt := 0, consumed := true, rxLink := p }

/-- A state whose inbox holds one frame, as number 1. -/
def inbox (s : State) (f : StoredFrame) : State := { s with loam := { s.loam with frames := [(1, f)], nextFid := 2, inbox := [(1, 0)] } }

/-- The owner's key is set. -/
def aKey : List Byte := List.replicate 48 1

def owned : State := { on with holly := { ownerKey := some aKey } }

/-- A sealed message of the owner: a read of the health summary, with sequence number n. -/
def ownerMsg (n : Nat) : List Byte := ncpMsg (some aKey) 0 0x0103 n 0 []

/-- IDENT waits in the queue of the untagged class. -/
def queued : State := { on with ncp := { queues := [(0x1000, [{ cls := 0x1000, opcode := 0x0101, seq := 0, part := 0, via := .mailbox 2, body := [] }])] } }

/-- The state with one port's link as given. -/
def linked (s : State) (p : Nat) (l : PortLink) : State := { s with lk := { s.lk with ports := [(p, l)] } }

/-- A link that is up on one lane, whose far lane is 9. -/
def upLink : PortLink := { phase := .up, step := .keying, active := 1, laneOk := 1, peerLane := [(0, 9)] }

/-- The state with port p up. -/
def withUp (s : State) (p : Nat) : State := linked s p upLink

/-- An image with its header and its CRC, as the loads of calendars, routes, lists and operators take it. -/
def image (magic kind ver n t id : Nat) (rest : List Byte) : List Byte :=
  let h := beBytes 4 magic ++ beBytes 1 kind ++ beBytes 1 ver ++ beBytes 2 n ++ beBytes 4 t ++ beBytes 4 (32 + rest.length) ++
    beBytes 8 id ++ zeroBytes 4
  h ++ beBytes 4 (icrcOf (h ++ zeroBytes 4 ++ rest)) ++ rest

/-- The image source form of an image that follows inline (Table 16.3). -/
def inline (img : List Byte) : List Byte := [0, 0, 0, 0] ++ beBytes 4 img.length ++ zeroBytes 8 ++ img

/-- Port 1,024 has two lanes. -/
def wide : State := regKeep on 0x00 0 (0x400 + 4 * tileNo 1024) 0 1

/-- A port in Ethernet mode: port 1,024 alone. -/
def ether : State := regKeep on 0x08 0 (0x40 + 4 * tileOf 1024) 0 0x0001

/-- Port 1,024's link is keyed: protection is on and the link has transmit and receive keys. -/
def keyed : State :=
  { setFldAt (withUp on 1024) .PROT_EN Fld.PROT_EN.inst 0 1024 1 with
    holly := { links := [(1024, { txKey := some 1, rxKey := some 2, keyedAt := 0 })] } }

/-- Link 1,024 is up, with one frame sent and not settled in space 2: number 65,535. -/
def sent : State :=
  { withUp on 1024 with
    loam := { frames := [(1, { ctrl 1 0 [] with consumed := false, tc := 0 })] }
    lk := { (withUp on 1024).lk with ends := [(1024, { tx := [(2, { next := 0, open_ := [{ seq := 65535, fid := 1, firstTx := 0, lastTx := 0 }] })] })] } }

/-- Port 1,024 is a down-port, its link up, with a frame sent on it long ago and not settled. -/
def downSent : State := regKeep sent 0x0B (sliceOf 1024) (4 * tileOf 1024) 0 0xE

/-- A calendar of 14 slots for port 3: each queue once, without fallbacks. -/
def calImage : List Byte :=
  image 0x4E5A0009 1 1 1 (now32 timed + 2000000) 77
    (beBytes 2 3 ++ beBytes 2 14 ++ zeroBytes 4 ++ (List.range 14).flatMap fun q => beBytes 1 (128 + q) ++ zeroBytes 3)

/-- A gate list of port 3: every class but TC7 for 1 ms. -/
def gateImage : List Byte :=
  image 0x4E5A0009 2 1 1 (now32 timed + 2000000) 78
    (beBytes 2 3 ++ beBytes 2 1 ++ zeroBytes 4 ++ (beBytes 4 1000000 ++ [0x7F, 0] ++ beBytes 2 0x7FF))

/-- The shared pool is at its spill threshold; queue 0 of port 3 holds one frame of 300 cells; a clod of the first stack is open. -/
def fullQueue : State :=
  { on with loam :=
      { frames := [(1, { ctrl 1 3 [] with consumed := false, tc := 0, pool := .shared, places := List.replicate 253 (.top 0) ++ List.replicate 3 (.sub 0) ++ (List.range 20).map .top })]
        queues := [(48, [{ fid := 1 }])], sharedUsed := 3145728, spilling := true
        clods := [(0, { kind := .spill, used := 3 })], openClod := [(48, 0)] } }

/-- Queue 0 of port 3 begins with a frame whose one cell lies in clod 7. -/
def spilt : State :=
  { on with loam :=
      { frames := [(1, { ctrl 1 3 [] with consumed := false, tc := 0, pool := .shared, places := [.sub 7] })]
        queues := [(48, [{ fid := 1 }])], clods := [(7, { kind := .spill, used := 1 })], scharge := [(0, 1)] } }

/-- The frame of `sent` in two cells. -/
def heldFrame : StoredFrame := { ctrl 1 3 [] with consumed := false, tc := 0, pool := .shared, places := [.top 0, .top 1] }

/-- A frame of two cells that only the retry state of link 1,024 still holds. -/
def heldOnly : State := { sent with loam := { frames := [(1, heldFrame)] } }

theorem spilt_room : roomIn spilt .shared (tget ({} : ClodRec) spilt.loam.clods 7).used = true := by
  have h := reservedCells_le spilt
  have e : 160 * fld spilt .LAND_RESV + fld spilt .TC6_RESV + tc7ResvAll spilt + 7680 * fld spilt .ESC_RESV + resvCells spilt = 319488 := by
    decide +kernel
  have r : retiredCells spilt = 0 := by decide +kernel
  have g := sharedSize_ge (s := spilt) (n := 319488) (by omega)
  have u : (tget ({} : ClodRec) spilt.loam.clods 7).used = 1 := by decide +kernel
  have w : spilt.loam.sharedUsed = 0 := rfl
  simp only [roomIn, u, w]
  exact decide_eq_true (by omega)

theorem on_room : retiredCells on + reservedCells on ≤ 319488 := by
  have h := reservedCells_le on
  have e : 160 * fld on .LAND_RESV + fld on .TC6_RESV + tc7ResvAll on + 7680 * fld on .ESC_RESV + resvCells on = 319488 := by decide +kernel
  have r : retiredCells on = 0 := by decide +kernel
  omega

/-- Between the two spill thresholds. -/
def between : State := { on with loam := { sharedUsed := 2800000 } }

theorem between_room : retiredCells between + reservedCells between ≤ 319488 := by
  have h := reservedCells_le between
  have e : 160 * fld between .LAND_RESV + fld between .TC6_RESV + tc7ResvAll between + 7680 * fld between .ESC_RESV + resvCells between = 319488 := by
    decide +kernel
  have r : retiredCells between = 0 := by decide +kernel
  omega

theorem on_no_spill : (noteSpill on).loam.spilling = false := by
  have h1 : 0 < thresholdCells on (fld on .SPILL_ON) := Nat.lt_of_lt_of_le (by decide +kernel) (thresholdCells_ge _ on_room)
  have e1 : on.loam.sharedUsed = 0 := rfl
  have e2 : on.loam.spilling = false := rfl
  have h2 : ¬ thresholdCells on (fld on .SPILL_ON) ≤ 0 := by omega
  simp only [noteSpill, e1, e2, h2, if_false, ite_self, beq_self_eq_true, if_true]

theorem fullQueue_spills : noteSpill fullQueue = fullQueue := by
  have h : thresholdCells fullQueue (fld fullQueue .SPILL_ON) ≤ 256 * 3145728 := Nat.le_trans (thresholdCells_le _ _) (by decide +kernel)
  have e1 : fullQueue.loam.sharedUsed = 3145728 := rfl
  have e2 : fullQueue.loam.spilling = true := rfl
  simp only [noteSpill, e1, e2, h, if_true, beq_self_eq_true]

/-- What the image says. -/
def gateSects : List BxSect := (okVal ([], []) (bxImage (own (inline gateImage)) true)).2

/-- When it takes over. -/
def gateAt : Nat := okVal 0 (checkTime timed (beAt gateImage 8 4) 3)

theorem gate_image : bxImage (own (inline gateImage)) true = .ok (gateImage, gateSects) := by
  have h : bxImage (own (inline gateImage)) true = .ok ((okVal ([], []) (bxImage (own (inline gateImage)) true)).1, gateSects) :=
    eq_okPair (by decide +kernel)
  have e : (okVal ([], []) (bxImage (own (inline gateImage)) true)).1 = gateImage := by decide +kernel
  rw [h, e]

theorem gate_time : checkTime timed (beAt gateImage 8 4) 3 = .ok gateAt := eq_okVal (by decide +kernel)

/-- The list pends on its port. -/
def gated : State := gateSects.foldl (fun (u : State) (x : BxSect) => setBx u x.port { bxPort u x.port with
  glPend := some { entries := x.entries.map gateEnt, takeover := gateAt, tc7Cells := x.cells, imgId := beAt gateImage 16 8 } }) timed

theorem gated_fits : poolsFit gated = true := by
  have h := reservedCells_le gated
  have e : 160 * fld gated .LAND_RESV + fld gated .TC6_RESV + tc7ResvAll gated + 7680 * fld gated .ESC_RESV + resvCells gated ≤ 400000 := by
    decide +kernel
  have r : retiredCells gated = 0 := by decide +kernel
  have u : gated.loam.sharedUsed = 0 := by decide +kernel
  unfold poolsFit nCells
  exact decide_eq_true (by omega)

theorem eq_okUnit {ε : Type} {e : Except ε Unit} (h : e.isOk = true) : e = .ok () := by
  cases e <;> first | rfl | cases h

/-- A route image of a spine without dimensions: one entry that names no route, of epoch 1. -/
def routeImg : List Byte := image 0x4E5A000B 1 1 1 (now32 timed + 2000000) 5 [0, 0, 0, 0]

/-- A route table that has taken over before. -/
def oldTable : RouteTable := { epoch := 0, takeover := 0, imgId := 1, entries := [0] }

/-- A marker copy of a sweep that waits first in queue 0 of port 1,024, whose link is up. -/
def markerFrame : StoredFrame := { ctrl 8 3 [] with consumed := false, tc := 0, pool := .shared }

def marking : State :=
  { setFldAt (withUp on 1024) .PROT_EN Fld.PROT_EN.inst 0 1024 0 with
    loam := { frames := [(1, markerFrame)], queues := [(qKey 1024 0, [{ fid := 1 }])] }
    bx := { ports := [(1024, { starved := [0] })] } }

/-- A congestion map of six entries, one of each class. -/
def mapBytes : List Byte := beBytes 2 6 ++ zeroBytes 6 ++ (List.range 6).flatMap fun c => [16, 0] ++ beBytes 1 (32 * c) ++ zeroBytes 5

theorem eq_headTail {l : List Nat} (h : l ≠ []) : l = l.headD 0 :: l.tail := by
  cases l <;> first | rfl | exact absurd rfl h

/-- One dimension, with ports 0 to 7 in it. -/
def oneDim : State := setFldAt (regKeep on 0x0B (sliceOf 3) (4 * tileOf 3) 0 0) .DIMS Fld.DIMS.inst 0 0 1

/-- A table image of one static MAC key of VLAN 1 on port 3. -/
def macImage : List Byte :=
  image 0x4E5A000A 1 9 0 1 0 ([1, 0] ++ beBytes 2 18 ++ beBytes 4 1 ++ beBytes 6 7 ++ beBytes 4 3)

/-- A source address that waits for the learn engine. -/
def learnOne : LearnReq := { half := 0, key := 77, port := 3 }

def learning : State := { on with laurel := { learnQ := [learnOne] } }

/-- A user program of one instruction: end with register 0 after it was written. -/
def progImage : List Byte := image 0x4E5A0018 1 16 2 0 6 (beBytes 8 (1 * 2 ^ 56) ++ beBytes 8 (12 * 2 ^ 56))

/-- An operator image of kind 3 in format 7 without scales, of 256 rows and one column of zeros, for partition 5. -/
def opImage : List Byte :=
  let h := beBytes 4 0x4E5A0019 ++ [1, 3, 9, 7] ++ beBytes 2 5 ++ [0, 0, 0, 2] ++ beBytes 2 256 ++ beBytes 2 1 ++ zeroBytes 26 ++
    beBytes 4 (64 + mopWeightBytes 7 256 1) ++ zeroBytes 12
  h ++ beBytes 4 (crc32 (h ++ zeroBytes 4 ++ zeroBytes (mopWeightBytes 7 256 1))) ++ zeroBytes (mopWeightBytes 7 256 1)

/-- A router of 256 inputs in one piece, two experts and one choice, of partition 5, layer 4. -/
def router : Mop :=
  { header := beBytes 4 0x4E5A0019 ++ [1, 1, 9, 7] ++ beBytes 2 5 ++ beBytes 2 4 ++ [0, 2] ++ beBytes 2 256 ++ beBytes 2 2 ++ [1] ++
      zeroBytes 3 ++ beBytes 2 256 ++ zeroBytes 40
    biases := [0, 0], scales := [], weights := [] }

/-- The router is loaded. -/
def routing : State := { on with marl := { mops := [(9, router)] } }

/-- An expert's answer in one piece. -/
def answer : StoredFrame :=
  { ctrl 5 3 (zeroBytes 256) with ffh := { kind := 5, part := 5, dst := 1, collId := 2, chunk := 3, layer := 4, fmt := 3 } }

/-- A token's only piece. -/
def piece : StoredFrame :=
  { ctrl 4 3 (zeroBytes 256) with ffh := { kind := 4, part := 5, src := 1, collId := 2, chunk := 3, layer := 4, fmt := 3 } }

/-- What an error holds, and `d` where there is none. -/
def errVal {ε α : Type} (d : ε) : Except ε α → ε
  | .ok _ => d
  | .error e => e

theorem eq_errVal {ε α : Type} {d : ε} {e : Except ε α} (h : e.isOk = false) : e = .error (errVal d e) := by
  cases e <;> first | rfl | cases h

/-- A descriptor of partition 5 with member list 1 and spine list 2: operation, both formats, elements (16 per chunk), and its COLL_ID. -/
def dsc (opc fmt count id : Nat) : Desc :=
  [1] ++ beBytes 1 (opc * 16) ++ beBytes 1 (fmt * 17) ++ zeroBytes 5 ++ beBytes 4 id ++ beBytes 2 5 ++ beBytes 2 1 ++ beBytes 2 0 ++ beBytes 2 2 ++
    beBytes 4 0 ++ beBytes 8 count ++ beBytes 2 16 ++ beBytes 2 1 ++ zeroBytes 16 ++ beBytes 4 1 ++ zeroBytes 8

/-- Its lists: one member at down-port 1 of the first spine, and the spines as nodes, the first of them the root. -/
def lists (spines : List Nat) : Table TList :=
  [(5 * 65536 + 1, { lver := 0, imgId := 1, members := [spines.headD 0 * 2 ^ 15 + 2 ^ 14] }),
   (5 * 65536 + 2, { lver := 0, imgId := 2, nodes := spines.map fun x =>
      { spine := x, parent := if x == spines.headD 0 then noNode else 0, alt1 := noNode, alt2 := noNode } })]

/-- The collective of a descriptor, as half 0 holds it. -/
def coll (d : Desc) : Coll := { part := 5, id := 3, desc := d, half := 0, engMask := 1, start := 0 }

/-- It is admitted, on a spine list. -/
def gathering (spines : List Nat) (c : Coll) : State :=
  { on with tilth := { lists := lists spines, colls := [(collKey 5 3, c)] } }

/-- A contribution of n elements from rank 0 to the reduction. -/
def contrib (n : Nat) : StoredFrame :=
  { ctrl 1 3 (zeroBytes n ++ beBytes 8 (fprint (dsc 1 8 16 3)) ++ beBytes 3 0 ++ [0] ++ beBytes 2 0 ++ beBytes 2 n) with
    ffh := { kind := 1, part := 5, collId := 3, fmt := 8 } }

/-- A control frame of the collective, which another holds as well: its type, the byte after it, the word at offset 4. -/
def note (t x w : Nat) : StoredFrame :=
  { ctrl 6 3 (beBytes 1 t ++ beBytes 1 x ++ [0, 0] ++ beBytes 4 w ++ zeroBytes 56) with
    ffh := { kind := 6, part := 5, src := 2 ^ 14, collId := 3 }, refs := 2 }

/-- The last frame of an ABORT. -/
def lastAbort : StoredFrame := { note 5 3 0 with ffh := { (note 5 3 0).ffh with last := true } }

/-- The same with every domain awake. -/
def awake (s : State) : State := { s with pwr := { s.pwr with domains := [] } }

/-- Queue 127 of partition 5 with one descriptor. -/
def oneQueue (spines : List Nat) (d : Desc) : State :=
  { on with tilth := { lists := lists spines, queues := [(127, { part := 5, descs := [d] })] } }

/-- The chunk of a broadcast with its check. -/
def bchunk : StoredFrame :=
  { ctrl 3 3 (zeroBytes 16 ++ beBytes 8 (fprint (dsc 4 0 32 3)) ++ beBytes 8 (crc64 (zeroBytes 16))) with
    ffh := { kind := 3, part := 5, collId := 3, chunk := 1 } }

/-- A member list image of partition 5 with one member. -/
def memberImage : List Byte :=
  let h := beBytes 4 0x4E5A001A ++ [1, 1] ++ beBytes 2 1 ++ beBytes 2 5 ++ beBytes 2 4 ++ beBytes 4 36 ++ beBytes 8 9 ++ beBytes 4 1
  h ++ beBytes 4 (icrcOf (h ++ zeroBytes 4 ++ beBytes 4 49152)) ++ beBytes 4 49152

/-- The last of four nodes, a child of the root with two alternates. -/
def orphaned : TNode := { spine := 0, parent := 0, alt1 := 1, alt2 := 2 }

/-- Its collective, whose parent was fenced. -/
def orphanColl : Coll := { coll (dsc 4 0 32 3) with orphan := some { alt := 1, since := 5 } }

/-- Port 1,024 is up and its frames are not protected. -/
def bare : State := setFldAt (withUp on 1024) .PROT_EN Fld.PROT_EN.inst 0 1024 0

/-- A fabric frame of that port with nothing in it. -/
def rxFrame : RxFrame := { port := 1024, etype := 34997, linkHdr := zeroBytes 8, ffh := zeroBytes 32, payload := [] }

/-- Port 1,024 is up in Ethernet mode. -/
def etherUp : State := withUp ether 1024

/-- The Ethernet, IPv4 and UDP headers of an FFH-over-UDP datagram from 10.0.0.9 to 10.0.0.1. -/
def udpHead : List Byte :=
  zeroBytes 12 ++ [8, 0, 69, 0, 0, 68, 0, 0, 64, 0, 64, 17, 0, 0] ++ beBytes 4 0x0A000009 ++ beBytes 4 0x0A000001 ++
    beBytes 2 49152 ++ beBytes 2 50592 ++ beBytes 2 48 ++ [0, 0]

/-- Such a datagram of port 1,024. -/
def datagram (k : Nat) : UdpFfh :=
  { port := 1024, hdr := udpHead, badChecksum := false
    inner := { rxFrame with linkHdr := zeroBytes 7 ++ beBytes 1 k, ffh := zeroBytes 4 ++ beBytes 4 160 ++ zeroBytes 24 } }

/-- A virtual link to 10.0.0.9. -/
def aVlink : VLink :=
  { peerIp := 0x0A000009, v6 := false, localIp := 0x0A000001, peerAddr := 5, port := 1024, lastSeen := 0, rtoNs := 1000, hop := some { act := 0, port := 1024, vid := 0, dmac := 7 } }

/-- Both replicas know the local address, a route to everything by next hop 1 on port 1,024, and down-port 5 there. -/
def routed : Replica :=
  { locals := [(0, { val := 0x0A000001 })]
    v4 := [((placesOf on (prefixTk false) (prefixKey false on.haw.part 0 0)).headD 0, { key := prefixKey false on.haw.part 0 0, len := 0, nh := 1 })]
    nh := [(1, { act := 0, port := 1024, vid := 0, dmac := 7 })]
    dp := [(5, { val := 0x8000 + 1024 })] }

def endpoints : State := { etherUp with laurel := { r0 := routed, r1 := routed } }

/-- Its addresses and ports, as the FFH lookup gives them. -/
def aView : IpView :=
  { v6 := false, l4 := 34, bare := true, ecn := 0, src := 0x0A000009, dst := 0x0A000001, proto := 17, sport := 49152, dport := 50592, ttl := 64 }

/-- The virtual link exists. -/
def linkedUp : State := { endpoints with lk := { endpoints.lk with vlinks := [(4095, aVlink)] } }

theorem pair_eta {α β : Type} {x : α × β} {a : α} (h : x.1 = a) : x = (a, x.2) := by
  subst h; rfl

/-- A whole sweep of a ring: the marker line 3 dB low, then four lines, 1,000 µW apart. -/
def sweepPeaks : List (Nat × Int) := [(1000, -300), (3000, 0), (4000, 0), (5000, 0), (6000, 0)]

/-- Ring 0 is locked, at a heater power of 5,000 µW. -/
def lockedRing : State := { on with prv := { rings := [(0, { phase := .locked, heat := 5000, centre := 5000 })] } }

/-- Port 0 is up on lane 0, whose far lane is 9. -/
def lit0 : State := withUp timed 0

/-- A migration of lane 0 to spare line 16. -/
def aMig (tx : Bool) (step : MigStep) : Mig :=
  { tx := tx, lane := 0, laneId := if tx then 0 else 9, id := 3, emerg := false, fromLine := 0, toLine := 16, step := step, since := 5
    at_ := if step == .scheduled || step == .switched then 6 else 0 }

/-- Its end holds it. -/
def migrating (m : Mig) : State := { lit0 with prv := { migs := [m] } }

/-- A steering image that names only the peer of port 3. -/
def steerRaw : List Byte := beBytes 2 0x8003 ++ zeroBytes 10

def steerImage : List Byte := image 0x4E5A0022 1 1 1 (now32 timed + 2000000) 8 steerRaw

/-- A circuit of partition 5: input fibre 3 to output fibre 31, line 15. -/
def circuitRaw : List Byte := [3, 15, 31, 0]

def circuitImage : List Byte :=
  let h := beBytes 4 0x4E5A0023 ++ [2, 1] ++ beBytes 2 1 ++ beBytes 4 (now32 timed + 2000000) ++ beBytes 4 36 ++ beBytes 8 9 ++ beBytes 2 5 ++ [0, 0]
  h ++ beBytes 4 (icrcOf (h ++ zeroBytes 4 ++ circuitRaw)) ++ circuitRaw

/-- The spine holds partition 5. -/
def held5 : State := { timed with haw := { timed.haw with part := 5, pstate := .active } }

theorem one_at {α : Type} {p : Nat → α → Prop} {l : List α} (a : α) (hl : l = [a]) (h : p 0 a) : ∀ i e, l[i]? = some e → p i e := by
  subst hl
  intro i e he
  cases i with
  | zero => exact Option.some.inj he ▸ h
  | succ i => simp at he

/-- The module may be the root of fabric time. -/
def rooted : State := setFldAt on .ROOT_EN Fld.ROOT_EN.inst 0 0 1

/-- It takes world time from its own clock. -/
def worldly : State := setFldAt rooted .PTP_EN Fld.PTP_EN.inst 0 0 1

/-- A module of 14 dimensions that is past discovery. -/
def allDims : State := setFldAt (setFldAt timed .DISC_MODE Fld.DISC_MODE.inst 0 0 0) .DIMS Fld.DIMS.inst 0 0 14

/-- The body of a PART_ADMIT of partition 5 over every spine, with every electrical port bypassed. -/
def admitBody : List Byte := beBytes 2 5 ++ beBytes 2 0 ++ beBytes 2 0x3FFF ++ [0, 0] ++ beBytes 4 16384 ++ List.replicate 160 255

/-- Partition 5 is bound to a key. -/
def bound : State :=
  { allDims with holly := { bindings := [(5, { ecPub := [], mlPub := [], pms := [], xts := [], meas7 := [], meas8 := [] })] } }

/-- With every dimension free and every port without one bypassed, no port is a boundary. -/
theorem no_boundary (s : State) (m : List Byte) (hm : ∀ i, i < 160 → beAt m i 1 = 255) :
    boundaryPorts s 0x3FFF ((portsOfMap m).filter fun p => dimCode s p == 0xF) = [] := by
  unfold boundaryPorts
  rw [List.filter_eq_nil_iff]
  intro p hp
  have h1 : p < 1280 := by
    unfold enabledPorts at hp
    exact List.mem_range.mp (List.mem_filter.mp hp).1
  have h2 : ∀ k, k < 14 → bitAt 0x3FFF k = true := by decide
  have h3 : ∀ k, k < 8 → bitAt 255 (7 - k) = true := by decide
  have h4 : p ∈ portsOfMap m :=
    List.mem_filter.mpr ⟨List.mem_range.mpr h1, by rw [hm (p / 8) (by omega)]; exact h3 _ (Nat.mod_lt _ (by decide))⟩
  have h5 : dimCode s p = 0xF → ((portsOfMap m).filter fun p => dimCode s p == 0xF).contains p = true := fun h =>
    List.contains_iff_mem.mpr (List.mem_filter.mpr ⟨h4, by simp [h]⟩)
  have h6 : isSpinePort s p = true → bitAt 0x3FFF (dimCode s p) = true := fun h =>
    h2 _ (Nat.lt_succ_of_le (of_decide_eq_true h))
  intro h
  simp only [onBoundary, Bool.and_eq_true, Bool.or_eq_true, Bool.not_eq_true', beq_iff_eq] at h
  rcases h.2.2 with h7 | h7
  · simp [h6 h7.1] at h7
  · rw [h5 h7.1] at h7; exact Bool.noConfusion h7.2

/-- A cabling image that expects an endpoint on port 1,279. -/
def planRaw : List Byte := beBytes 2 1279 ++ [3, 0] ++ zeroBytes 12

def planImage : List Byte := image 0x4E5A0028 1 1 1 0 8 planRaw

/-- A HEDGE frame of a type from spine 9 about spine 5, which another holds as well. -/
def hedgeMsg (t : Nat) : Hedge := { htype := t, suspect := 5, origin := 9, hseq := 1, vseq := 2, part := 5 }

def hedgeFrame (h : Hedge) : StoredFrame := { ctrl 0xB 3 (hedgeBytes h) with refs := 2 }

/-- A vote about spine 5 that this spine began. -/
def aVote : Vote := { suspect := 5, origin := 9, vseq := 2, evid := 1, part := 0, since := 5, mine := true, voters := [9, 8, 7] }

/-- Probation of spine 5 that began long ago. -/
def onProbation (p : Probation) : State := { on with haw := { probation := [(5, p)] } }

/-- Dimension 0 has a port here that is not fenced. -/
theorem oneDim_observable : observable oneDim 0 = true :=
  List.any_eq_true.mpr ⟨3, List.mem_filter.mpr ⟨List.mem_range.mpr (by decide : 3 < 1280), by decide +kernel⟩, by decide +kernel⟩

/-- A snapshot that waits for its time, and one that is held. -/
def aSnap (p : SnapPhase) : Snap := { id := 1, tReq := 5, at_ := 5, mask := 0, part := 0, seq := 7, phase := p }

/-- The parameters of a trace of everything, of the whole module. -/
def traceBody : List Byte := zeroBytes 20 ++ beBytes 4 4096 ++ zeroBytes 8

theorem reserve_some {s : State} {n : Nat} (h : ¬ sharedSize s < s.loam.sharedUsed + n) : (reserve s 0 n 0).isSome = true := by
  simp [reserve, h]

theorem on_reserves : (reserve on ((tracePart traceBody).getD 0) (beAt traceBody 20 4) 0).isSome = true := by
  have h1 : (tracePart traceBody).getD 0 = 0 := by decide +kernel
  have h2 : beAt traceBody 20 4 = 4096 := by decide +kernel
  have h3 : ∀ x, x = on → ¬ sharedSize x < x.loam.sharedUsed + 4096 := by
    intro x hx
    have h4 : retiredCells x + reservedCells x ≤ 319488 := hx ▸ on_room
    have h5 : x.loam.sharedUsed = 0 := hx ▸ rfl
    unfold sharedSize nCells
    omega
  rw [h1, h2]
  exact reserve_some (h3 on rfl)

/-- What the reservation of its staging gives. -/
def reserved : Nat × State := someVal (0, on) (reserve on ((tracePart traceBody).getD 0) (beAt traceBody 20 4) 0)

theorem on_reserved : reserve on ((tracePart traceBody).getD 0) (beAt traceBody 20 4) 0 = some (reserved.1, reserved.2) := eq_somePair on_reserves

/-- A running trace that began long ago and ends at 5 ns. -/
def aTrace : Trace := { params := traceBody, authPart := 0, resv := 0, stopAt := some 5 }

def tracing : State := { on with st := { trace := some aTrace } }

/-- Partition 5 is being torn down. -/
def ending : State := { held5 with haw := { held5.haw with pstate := .teardown, teardown := some (own (beBytes 2 5)) } }

/-- An exchange for the owner key with secret 1, begun just now. -/
def aKex (p : Nat) : Kex := { purpose := p, part := 0, via := .mailbox 0, msg1 := [1], msg2 := [2], secret := [1], since := 2 ^ 44, link := 0, macI := [], macR := [] }

/-- It waits as exchange 1. -/
def exchanging (p : Nat) : State := { on with holly := { kexes := [(1, aKex p)] } }

/-- The exchange's confirmation. -/
def aConfirm : List Byte := hmac384 (hkdfExpand (aKex 1).secret (ascii "NZ1280 fin") 48) (transcript (aKex 1))

/-- Port 1,024 in Ethernet mode; the body of a MACSEC_KEY for it. -/
def macsecBody : List Byte := beBytes 2 1024 ++ beBytes 8 9 ++ [3, 1] ++ List.replicate 56 1

/-! What the statements assume can be met -/

def w_emptyQueuePassesOneTick1_s : State := { State.reset with pwr := { aon := false } }
def w_emptyQueuePassesOneTick2_s : State := { on with st := { thr := [(7, { value := 1 })] } }

/-- The hypotheses of EmptyQueuePassesOneTick can be met, clause by clause. -/
theorem test_holds_emptyQueuePassesOneTick :
    (∃ (s : State), s.pending = [] ∧ s.pwr.aon = false) ∧
    (∃ (s : State), (∀ e ∈ s.st.thr, slotSource e.1 = false) ∧ s.pending = [] ∧ s.pwr.aon = true) :=
  ⟨⟨w_emptyQueuePassesOneTick1_s, by decide +kernel⟩,
   ⟨w_emptyQueuePassesOneTick2_s, by decide +kernel⟩⟩

def w_queueStaysWellFormed2_s : State := { on with pending := [.resetPinAssert, .prewake 1] }

/-- The hypotheses of QueueStaysWellFormed can be met, clause by clause. -/
theorem test_holds_queueStaysWellFormed :
    (∃ (c : Instr) (s : State) (t : State), exec c s = .next t) ∧
    (∃ (c : Instr) (s : State) (t : State) (rest : List Instr), s.pending = c :: rest ∧ step s = .next t) :=
  ⟨⟨.resetPinAssert, on, _, rfl⟩,
   ⟨.resetPinAssert, w_queueStaysWellFormed2_s, _, _, rfl, rfl⟩⟩

def w_ownerKeyChangesOnlyThere1_s : State := { on with holly := { ownerKey := some [1] } }

/-- The hypotheses of OwnerKeyChangesOnlyThere can be met. -/
theorem test_holds_ownerKeyChangesOnlyThere :
    ∃ (c : Instr) (s : State) (t : State), exec c s = .next t ∧ Sys2Proof.Safety.mayChangeOwner c = false :=
  ⟨.watchdogRestart, w_ownerKeyChangesOnlyThere1_s, _, rfl, by decide +kernel⟩

def w_debugStaysLocked1_t : State := (nextVal on (let c : Instr := .watchdogRestart; let s : State := on; exec c s))

/-- The hypotheses of DebugStaysLocked can be met. -/
theorem test_holds_debugStaysLocked :
    ∃ (c : Instr) (s : State) (t : State), exec c s = .next t ∧ s.holly.debug = false ∧ Sys2Proof.Safety.mayUnlock c = false :=
  ⟨.watchdogRestart, on, w_debugStaysLocked1_t, eq_nextVal (by decide +kernel), by decide +kernel⟩

/-- The hypotheses of FirmwareAndCapChangeOnlyThere can be met, clause by clause. -/
theorem test_holds_firmwareAndCapChangeOnlyThere :
    (∃ (c : Instr) (s : State) (t : State), exec c s = .next t ∧ Sys2Proof.Safety.mayChangeFirmware c = false) ∧
    (∃ (c : Instr) (s : State) (t : State), exec c s = .next t ∧ Sys2Proof.Safety.mayChangeCap c = false) :=
  ⟨⟨.watchdogRestart, on, _, rfl, by decide +kernel⟩,
   ⟨.watchdogRestart, on, _, rfl, by decide +kernel⟩⟩

/-- The hypotheses of NoSuchUnitFaults can be met, clause by clause. -/
theorem test_holds_noSuchUnitFaults :
    (∃ (p : Nat), 1280 ≤ p) ∧
    (∃ (d : Nat), 359 ≤ d) ∧
    (∃ (h : Nat), 2 ≤ h) ∧
    (∃ (k : Nat), 4 ≤ k) ∧
    (∃ (d : Nat), 51 ≤ d) ∧
    (∃ (q : Nat), 128 ≤ q) :=
  ⟨⟨1280, by decide +kernel⟩,
   ⟨359, by decide +kernel⟩,
   ⟨2, by decide +kernel⟩,
   ⟨4, by decide +kernel⟩,
   ⟨51, by decide +kernel⟩,
   ⟨128, by decide +kernel⟩⟩

def w_suppliesAndResetsComplete1_s : State := { State.reset with pwr := { vsb := false, aon := false } }
def w_suppliesAndResetsComplete3_s : State := { on with raw := 1250000000 }
def w_suppliesAndResetsComplete5_s : State := { on with pwr := { hubUp := true, resetAt := some (2 ^ 44) } }

/-- The hypotheses of SuppliesAndResetsComplete can be met, clause by clause. -/
theorem test_holds_suppliesAndResetsComplete :
    (∃ (s : State), s.pwr.vsb = false) ∧
    (∃ (s : State), s.pwr.hubUp = true ∧ s.pwr.wdogAt + ticksOfS 1 ≤ s.raw) ∧
    (∃ (s : State), s.pwr.hubUp = true) ∧
    (∃ (s : State) (t : Nat), s.pwr.resetAt = some t ∧ t ≤ s.raw) :=
  ⟨⟨w_suppliesAndResetsComplete1_s, by decide +kernel⟩,
   ⟨w_suppliesAndResetsComplete3_s, by decide +kernel⟩,
   ⟨on, by decide +kernel⟩,
   ⟨w_suppliesAndResetsComplete5_s, 2 ^ 44, by decide +kernel⟩⟩

def w_bootCompletes2_s : State := { waiting with pwr := { waiting.pwr with vin48 := false } }
def w_bootCompletes3_s : State := { waiting with pwr := { waiting.pwr with refclk := false } }
def w_bootCompletes4_s : State := { waiting with pwr := { waiting.pwr with railsBad := [11] } }

/-- The hypotheses of BootCompletes can be met, clause by clause. -/
theorem test_holds_bootCompletes :
    (∃ (s : State), Sys2Proof.Safety.BootReady s ∧ s.pwr.vin48 = true ∧ s.pwr.railsBad = [] ∧ s.pwr.refclk = true ∧ s.pwr.resetN = false) ∧
    (∃ (s : State), Sys2Proof.Safety.BootReady s ∧ s.pwr.vin48 = false ∧ s.pwr.railsBad = [] ∧ s.pwr.refclk = true ∧ s.pwr.resetN = true) ∧
    (∃ (s : State), Sys2Proof.Safety.BootReady s ∧ s.pwr.vin48 = true ∧ s.pwr.railsBad = [] ∧ s.pwr.resetN = true) ∧
    (∃ (s : State) (k : Nat), Sys2Proof.Safety.BootReady s ∧ k < 12 ∧ s.pwr.vin48 = true ∧ s.pwr.railsBad = [k] ∧ s.pwr.refclk = true ∧
      s.pwr.resetN = true) ∧
    (∃ (s : State) (k : Nat), k < 12 ∧ s.pwr.railsBad.contains k = false) ∧
    (∃ (s : State), (∀ p, portUp s p = false)) :=
  ⟨⟨State.reset, ⟨rfl, rfl, rfl, rfl, rfl⟩, by decide +kernel⟩,
   ⟨w_bootCompletes2_s, ⟨rfl, rfl, rfl, rfl, rfl⟩, by decide +kernel⟩,
   ⟨w_bootCompletes3_s, ⟨rfl, rfl, rfl, rfl, rfl⟩, by decide +kernel⟩,
   ⟨w_bootCompletes4_s, 11, ⟨rfl, rfl, rfl, rfl, rfl⟩, by decide +kernel⟩,
   ⟨on, 11, by decide +kernel⟩,
   ⟨on, fun _ => rfl⟩⟩

def w_tripAndThermalLoop2_rails : List (Nat × Nat) := List.replicate 12 (800, 10)

/-- The hypotheses of TripAndThermalLoop can be met, clause by clause. -/
theorem test_holds_tripAndThermalLoop :
    (∃ (d : Nat), (d < 48 ∨ d = 50)) ∧
    (∃ (s : State) (dies : List Int) (rails : List (Nat × Nat)), s.pwr.hubUp = true ∧ dies.length ≤ 51 ∧ rails.length ≤ 12) :=
  ⟨⟨50, by decide +kernel⟩,
   ⟨on, List.replicate 51 400, w_tripAndThermalLoop2_rails, by decide +kernel⟩⟩

def w_powerCommandsComplete5_c : Ncp := own (beBytes 4 0 ++ ([0, 0, 0, 0] ++ beBytes 4 32 ++ zeroBytes 8 ++ List.replicate 32 1))
def w_powerCommandsComplete6_s : State := { on with pwr := { hubUp := true, slots := [{ factory := true }, { factory := true }] } }

/-- The hypotheses of PowerCommandsComplete can be met, clause by clause. -/
theorem test_holds_powerCommandsComplete :
    (∃ (s : State) (c : Ncp), s.pwr.hubUp = true ∧ c.body = []) ∧
    (∃ (s : State) (c : Ncp), OwnerCmd s c ∧ c.body = []) ∧
    (∃ (s : State) (c : Ncp) (w : Nat), OwnerCmd s c ∧ c.body = beBytes 2 w ∧ (w = 0 ∨ (1000 ≤ w ∧ w ≤ 2400))) ∧
    (∃ (s : State) (c : Ncp) (force : Nat), OwnerCmd s c ∧ c.body = [BitVec.ofNat 8 force] ∧ force ≤ 1 ∧ (force = 1 ∨ s.haw.pstate = .none)) ∧
    (∃ (s : State) (c : Ncp) (data : List Byte), OwnerCmd s c ∧ imgSource c 4 false 16777216 = .ok data ∧ flag s .FW_LOCK = false ∧
      beAt c.body 0 4 + data.length ≤ 67108864 ∧ s.pwr.active < 2 ∧ s.pwr.slots.length = 2) ∧
    (∃ (s : State) (c : Ncp), OwnerCmd s c ∧ c.body = [] ∧ flag s .FW_LOCK = false ∧ (slotAt s (1 - s.pwr.active)).factory = true) :=
  ⟨⟨on, anon [], by decide +kernel⟩,
   ⟨on, own [], ⟨rfl, rfl⟩, by decide +kernel⟩,
   ⟨on, own (beBytes 2 2400), 2400, ⟨rfl, rfl⟩, by decide +kernel⟩,
   ⟨on, own [0], 0, ⟨rfl, rfl⟩, by decide +kernel⟩,
   ⟨on, w_powerCommandsComplete5_c, List.replicate 32 1, ⟨rfl, rfl⟩, rfl, by decide +kernel⟩,
   ⟨w_powerCommandsComplete6_s, own [], ⟨rfl, rfl⟩, by decide +kernel⟩⟩

def w_registerCommandsComplete1_c : Ncp := own (beBytes 2 1 ++ beBytes 4 0x10FF000C)
def w_registerCommandsComplete2_pairs : List (Nat × Nat) := [(0x10FF000C, 0xC0A8E6FB)]
def w_registerCommandsComplete2_c : Ncp := own (beBytes 2 1 ++ beBytes 4 0x10FF000C ++ beBytes 4 0xC0A8E6FB)
def w_registerCommandsComplete3_c : Ncp := own (beBytes 2 1 ++ beBytes 4 0x10FF000C ++ beBytes 4 0)

/-- The hypotheses of RegisterCommandsComplete can be met, clause by clause. -/
theorem test_holds_registerCommandsComplete :
    (∃ (s : State) (c : Ncp) (addrs : List Nat), OwnerCmd s c ∧ (∀ a ∈ addrs, a < 2 ^ 32 ∧ (regOf a).isSome) ∧
      c.body = beBytes 2 addrs.length ++ addrs.flatMap (beBytes 4) ∧ 1 ≤ addrs.length ∧ addrs.length ≤ 1024) ∧
    (∃ (s : State) (t : State) (c : Ncp) (pairs : List (Nat × Nat)), OwnerCmd s c ∧ (∀ p ∈ pairs, p.1 < 2 ^ 32 ∧ p.2 < 2 ^ 32) ∧
      writeList s 0 pairs = .ok t ∧ c.body = beBytes 2 pairs.length ++ pairs.flatMap (fun p => beBytes 4 p.1 ++ beBytes 4 p.2) ∧ 1 ≤ pairs.length ∧
      pairs.length ≤ 1024) ∧
    (∃ (s : State) (c : Ncp) (pairs : List (Nat × Nat)) (i : Nat) (a : Nat) (code : Code), OwnerCmd s c ∧ (∀ p ∈ pairs, p.1 < 2 ^ 32 ∧ p.2 < 2 ^ 32) ∧
      writeList s 0 pairs = .error (i, a, code) ∧ c.body = beBytes 2 pairs.length ++ pairs.flatMap (fun p => beBytes 4 p.1 ++ beBytes 4 p.2) ∧
      1 ≤ pairs.length ∧ pairs.length ≤ 1024) :=
  ⟨⟨on, w_registerCommandsComplete1_c, [0x10FF000C], ⟨rfl, rfl⟩, by decide +kernel⟩,
   ⟨on, _, w_registerCommandsComplete2_c, w_registerCommandsComplete2_pairs, ⟨rfl, rfl⟩, by decide +kernel, rfl, by decide +kernel⟩,
   ⟨on, w_registerCommandsComplete3_c, [(0x10FF000C, 0)], 0, 0x10FF000C, .badParam, ⟨rfl, rfl⟩, by decide +kernel, rfl, by decide +kernel⟩⟩

/-- The hypotheses of BusWritesComplete can be met, clause by clause. -/
theorem test_holds_busWritesComplete :
    (∃ (s : State) (t : State) (r : Nat) (a : Nat) (v : Word), regWrite s r a v.toNat = .ok t ∧ r < 4 ∧ reqOpen s r = true) ∧
    (∃ (s : State) (r : Nat) (a : Nat) (v : Word) (code : Code), regWrite s r a v.toNat = .error code ∧ r < 4 ∧ reqOpen s r = true) ∧
    (∃ (s : State) (t : State) (r : Nat) (a : Nat) (v : Word) (d : RegDesc), regOf a = some d ∧ d.fields.any (fun f => f.acc == .rwl) = true ∧
      regWrite s r a v.toNat = .ok t ∧ r < 4 ∧ reqOpen s r = true) ∧
    (∃ (s : State) (r : Nat) (half : Nat), r < 4 ∧ half < 2 ∧ reqOpen s r = true ∧ (sieveOf s half).started = []) ∧
    (∃ (s : State) (r : Nat), r < 4 ∧ reqOpen s r = true) ∧
    (∃ (s : State) (r : Nat), r < 4 ∧ reqOpen s r = true) ∧
    (∃ (s : State), reqOpen s 0 = true) :=
  ⟨⟨on, _, 2, 0x10FF000C, 0xC0A8E6FB, rfl, by decide +kernel⟩,
   ⟨on, 2, 0x10FF000C, 0, .badParam, rfl, by decide +kernel⟩,
   ⟨on, _, 0, 0x01000004, 0, _, rfl, rfl, rfl, by decide +kernel⟩,
   ⟨on, 2, 1, by decide +kernel⟩,
   ⟨on, 2, by decide +kernel⟩,
   ⟨on, 0, by decide +kernel⟩,
   ⟨on, by decide +kernel⟩⟩

def w_commitsComplete1_c : Ncp := own ([8, 255, 0, 0] ++ beBytes 4 (now32 shadowed + 10000))
def w_commitsComplete1_u : State := (okVal on (let s : State := shadowed; let blk : Nat := 8; let inst : Nat := 255; commitAll s blk (namedInstances blk inst)))
def w_commitsComplete2_c : Ncp := own ([8, 255, 1, 0] ++ beBytes 4 0)
def w_commitsComplete2_u : State := (okVal on (let s : State := shadowed; let blk : Nat := 8; let inst : Nat := 255; commitAll s blk (namedInstances blk inst)))
def w_commitsComplete3_c : Ncp := own ([8, 255, 2, 0] ++ beBytes 4 0)
def w_commitsComplete4_p : PendCommit := { blk := 8, inst := 255, at_ := 5, wanted := 5 }
def w_commitsComplete4_s : State := { shadowed with regs := { shadowed.regs with pend := [w_commitsComplete4_p] } }
def w_commitsComplete4_u : State := (okVal on (let s : State := w_commitsComplete4_s; let p : PendCommit := w_commitsComplete4_p; commitAll (dropPend s p.blk p.inst) p.blk (namedInstances p.blk p.inst)))
def w_commitsComplete5_c : Ncp := own (beBytes 2 1 ++ beBytes 2 2)

/-- The hypotheses of CommitsComplete can be met, clause by clause. -/
theorem test_holds_commitsComplete :
    (∃ (s : State) (u : State) (c : Ncp) (blk : Nat) (inst : Nat) (t : Nat), commitHead s c 0 = .ok (blk, inst) ∧
      commitAll s blk (namedInstances blk inst) = .ok u ∧ s.pwr.hubUp = true ∧ t = beAt c.body 4 4 ∧ s.yew.stepped = true ∧
      10000 ≤ diff32 t (now32 s) ∧ diff32 t (now32 s) ≤ 2000000000 ∧ anyDirty s blk inst = true) ∧
    (∃ (s : State) (u : State) (c : Ncp) (blk : Nat) (inst : Nat), commitHead s c 1 = .ok (blk, inst) ∧
      commitAll s blk (namedInstances blk inst) = .ok u ∧ s.pwr.hubUp = true ∧ anyDirty s blk inst = true) ∧
    (∃ (s : State) (c : Ncp) (blk : Nat) (inst : Nat), commitHead s c 2 = .ok (blk, inst) ∧ s.pwr.hubUp = true ∧ inst ≠ 0xFE) ∧
    (∃ (s : State) (u : State) (p : PendCommit), commitAll (dropPend s p.blk p.inst) p.blk (namedInstances p.blk p.inst) = .ok u ∧ s.regs.pend = [p] ∧
      reached s p.at_ = true) ∧
    (∃ (s : State) (c : Ncp) (p : Nat) (q : Nat) (k : Nat), OwnerCmd s c ∧ c.body = beBytes 2 p ++ beBytes 2 q ∧ p < 1280 ∧ q < 1280 ∧ p ≠ q ∧
      cabOf s p = .swap ∧ cabOf s q = .swap ∧ portLanes s p = portLanes s q ∧ portMode s p = portMode s q ∧ dimCode s p = dimCode s q ∧
      listNames s p = false ∧ listNames s q = false ∧ portFenced s p = false ∧ portFenced s q = false ∧
      (List.range 64).find? (fun k => !bitAt (regShadow s 0x00 0 (0x800 + 4 * k) 0) 31) = some k ∧ commitNear s 0x00 0 = false) :=
  ⟨⟨shadowed, w_commitsComplete1_u, w_commitsComplete1_c, 8, 255, now32 shadowed + 10000, rfl, eq_okVal (by decide +kernel), by decide +kernel⟩,
   ⟨shadowed, w_commitsComplete2_u, w_commitsComplete2_c, 8, 255, rfl, eq_okVal (by decide +kernel), by decide +kernel⟩,
   ⟨shadowed, w_commitsComplete3_c, 8, 255, rfl, by decide +kernel⟩,
   ⟨w_commitsComplete4_s, w_commitsComplete4_u, w_commitsComplete4_p, eq_okVal (by decide +kernel), by decide +kernel⟩,
   ⟨swapped, w_commitsComplete5_c, 1, 2, 0, ⟨rfl, rfl⟩, by decide +kernel⟩⟩

def w_upsetsAndScrub2_s : State := { on with regs := { upset := [(regKey 0x10 0xFF 0x0C 0, 1, 0, 0)] } }

/-- The hypotheses of UpsetsAndScrub can be met, clause by clause. -/
theorem test_holds_upsetsAndScrub :
    (∃ (s : State) (a : Nat) (idx : Nat), tfind s.regs.upset (regKey (regAddr a).blk (regAddr a).inst (regAddr a).off idx) = none) ∧
    (∃ (s : State) (blk : Nat) (inst : Nat) (off : Nat) (idx : Nat) (e : BitVec 32 × BitVec 32 × BitVec 32), blk < 256 ∧ inst < 256 ∧ off < 65536 ∧
      idx < 2 ^ 20 ∧ s.pwr.hubUp = true ∧ s.regs.upset = [(regKey blk inst off idx, e)]) ∧
    (∃ (a : Nat) (d : RegDesc), regOf a = some d ∧ (regAddr a).blk ≠ 2) :=
  ⟨⟨on, 0x10FF000C, 0, by decide +kernel⟩,
   ⟨w_upsetsAndScrub2_s, 0x10, 0xFF, 0x0C, 0, (1, 0, 0), by decide +kernel⟩,
   ⟨0x10FF000C, _, rfl, by decide +kernel⟩⟩

def w_mailboxAndMessagesComplete2_p0 : StoredFrame × State := (okVal (ctrl 0 0 [], on) (let s : State := inbox (setFldAt owned .PROT_EN Fld.PROT_EN.inst 0 3 0) { ctrl 9 3 (ownerMsg 7) with refs := 2 }; let fid : Nat := 1; takeKind s fid 9))
def w_mailboxAndMessagesComplete2_s : State := inbox (setFldAt owned .PROT_EN Fld.PROT_EN.inst 0 3 0) { ctrl 9 3 (ownerMsg 7) with refs := 2 }
def w_mailboxAndMessagesComplete4_s : State := { on with ncp := { mbx := [(3, { busy := true })] } }
def w_mailboxAndMessagesComplete5_s : State := { on with ncp := { mbx := [(3, { ready := true, len := 40 })] } }
def w_mailboxAndMessagesComplete6_s : State := { on with ncp := { stages := [(2, { opcode := 0x0301, seq := 5, part := 0, total := 9, frags := [], startedAt := 0, via := .mailbox 1 })] } }
def w_mailboxAndMessagesComplete7_q : QCmd := { cls := 0x1000, opcode := 0x0101, seq := 0, part := 0, via := .mailbox 2, body := [] }
def w_mailboxAndMessagesComplete8_q : QCmd := { cls := 0x1000, opcode := 0x0101, seq := 0, part := 0, via := .mailbox 2, body := [] }

/-- The hypotheses of MailboxAndMessagesComplete can be met, clause by clause. -/
theorem test_holds_mailboxAndMessagesComplete :
    (∃ (s : State) (mg : Nat) (ip : Nat) (port : Nat) (op : Nat) (seq : Nat) (key : List Byte) (body : List Byte),
      OwnerFresh s (.udp mg ip port) key op seq body ∧ mg < 2 ∧ s.pwr.hubUp = true ∧ flag s (if mg == 0 then .UDP_EN0 else .UDP_EN1) = true) ∧
    (∃ (s : State) (s1 : State) (fid : Nat) (op : Nat) (seq : Nat) (f : StoredFrame) (key : List Byte) (body : List Byte), takeKind s fid 9 = .ok (f,
      s1) ∧ f.data = ncpMsg (some key) 0 op seq 0 body ∧ OwnerFresh s1 (.inband f.inPort f.ffh.src) key op seq body ∧ s1.pwr.hubUp = true ∧
      linkUnkeyed s1 f.rxLink = false) ∧
    (∃ (s : State) (s1 : State) (k : Nat) (op : Nat) (seq : Nat) (w : List Byte) (key : List Byte) (body : List Byte),
      w = ncpMsg (some key) 0 op seq 0 body ∧ OwnerFresh s (.mailbox k) key op seq body ∧
      s1 = { s with ncp := { s.ncp with mbx := tset {} (tmod {} s.ncp.mbx k fun m => { m with window := w }) k { tget ({} : Mbx) s.ncp.mbx k with window := w, busy := true, len := w.length } } } ∧
      k < 4 ∧ reqOpen s 0 = true ∧ (tget ({} : Mbx) s.ncp.mbx k).busy = false) ∧
    (∃ (s : State) (k : Nat) (len : Nat) (w : List Byte), k < 4 ∧ reqOpen s 0 = true ∧ len ≤ 16384 ∧ w.length ≤ 16384 ∧
      (tget ({} : Mbx) s.ncp.mbx k).busy = true) ∧
    (∃ (s : State) (k : Nat), k < 4 ∧ reqOpen s 0 = true ∧ (tget ({} : Mbx) s.ncp.mbx k).ready = true ∧ (tget ({} : Mbx) s.ncp.mbx k).waiting = [] ∧
      (tget ({} : Mbx) s.ncp.mbx k).len ≤ 16384) ∧
    (∃ (s : State) (b : Nat) (g : Stage), tfind s.ncp.stages b = some g ∧ s.pwr.hubUp = true ∧
      elapsed s g.startedAt (ticksOfMs (fld s .FRAG_TMO_MS)) = true) ∧
    (∃ (s : State) (q : QCmd), s.pwr.hubUp = true ∧ s.ncp.running.length < 8 ∧ nextHead s = some q) ∧
    (∃ (s : State) (q : QCmd), s.pwr.hubUp = true ∧ s.ncp.running.length < 8 ∧ nextHead s = some q ∧ q.opcode = 0x0101 ∧ q.body = []) :=
  ⟨⟨owned, 1, 0x0A000001, 0xC5A2, 0x0103, 2 ^ 32 - 1, aKey, [], by unfold OwnerFresh; decide +kernel, by decide +kernel⟩,
   ⟨w_mailboxAndMessagesComplete2_s, w_mailboxAndMessagesComplete2_p0.2, 1, 0x0103, 7, w_mailboxAndMessagesComplete2_p0.1, aKey, [],
     eq_okPair (by decide +kernel), rfl, by unfold OwnerFresh; decide +kernel, by decide +kernel⟩,
   ⟨owned, _, 3, 0x0103, 7, ownerMsg 7, aKey, [], rfl, by unfold OwnerFresh; decide +kernel, rfl, by decide +kernel⟩,
   ⟨w_mailboxAndMessagesComplete4_s, 3, 16384, [], by decide +kernel⟩,
   ⟨w_mailboxAndMessagesComplete5_s, 3, by decide +kernel⟩,
   ⟨w_mailboxAndMessagesComplete6_s, 2, _, rfl, by decide +kernel⟩,
   ⟨queued, w_mailboxAndMessagesComplete7_q, by decide +kernel⟩,
   ⟨queued, w_mailboxAndMessagesComplete8_q, by decide +kernel⟩⟩

def w_sequenceWindow2_q : SeqState := { started := true, h := 2 ^ 32 - 1, seen := [2 ^ 32 - 1] }
def w_sequenceWindow3_q : SeqState := { started := true, h := 100, seen := [100] }
def w_sequenceWindow4_q : SeqState := { started := true, h := 100, seen := [100] }
def w_sequenceWindow5_q : SeqState := { started := true, h := 100, seen := [100] }

/-- The hypotheses of SequenceWindow can be met, clause by clause. -/
theorem test_holds_sequenceWindow :
    (∃ (q : SeqState), q.started = false) ∧
    (∃ (q : SeqState) (n : Nat), q.started = true ∧ 0 < diff32 n q.h) ∧
    (∃ (q : SeqState) (n : Nat), q.started = true ∧ diff32 n q.h < -63) ∧
    (∃ (q : SeqState) (n : Nat), q.started = true ∧ -63 ≤ diff32 n q.h ∧ diff32 n q.h ≤ 0) ∧
    (∃ (q : SeqState) (n : Nat), n < 2 ^ 32 ∧ seqJudge q n = .fresh) :=
  ⟨⟨{}, by decide +kernel⟩,
   ⟨w_sequenceWindow2_q, 0, by decide +kernel⟩,
   ⟨w_sequenceWindow3_q, 36, by decide +kernel⟩,
   ⟨w_sequenceWindow4_q, 37, by decide +kernel⟩,
   ⟨w_sequenceWindow5_q, 37, by decide +kernel⟩⟩

def w_replyCache1_s : State := { on with ncp := { seqs := [(0, {})] } }
def w_replyCache2_s : State := { on with ncp := { seqs := [(0, { seen := [9] })] } }

/-- The hypotheses of ReplyCache can be met, clause by clause. -/
theorem test_holds_replyCache :
    (∃ (s : State) (cls : Nat) (seq : Nat) (q : SeqState), tfind s.ncp.seqs cls = some q ∧ q.seen.contains seq = false ∧ q.cache.length ≤ 64) ∧
    (∃ (s : State) (cls : Nat) (seq : Nat) (q : SeqState), tfind s.ncp.seqs cls = some q ∧ q.seen.contains seq = true) :=
  ⟨⟨w_replyCache1_s, 0, 9, _, rfl, by decide +kernel⟩,
   ⟨w_replyCache2_s, 0, 9, _, rfl, by decide +kernel⟩⟩

/-- The hypotheses of RejectionKeepsState can be met, clause by clause. -/
theorem test_holds_rejectionKeepsState :
    (∃ k ∈ answeredCmds, ∃ (s : State), s.pwr.hubUp = true ∧ (k (anon [])) = .ident (anon [])) ∧
    (∃ (c : Ncp), (∀ p src, c.via ≠ .inband p src)) ∧
    (∃ (s : State) (r : Nat) (a : Nat) (v : Word) (code : Code), regWrite s r a v.toNat = .error code ∧ r < 4 ∧ reqOpen s r = true ∧
      isSuccess code = false) :=
  ⟨⟨.ident, List.mem_cons_self, on, rfl, rfl⟩,
   ⟨own [], fun _ _ => Transport.noConfusion⟩,
   ⟨on, 2, 0x10FF000C, 0, .badParam, rfl, by decide +kernel⟩⟩

def w_linkTrainingCompletes2_s : State := linked on 1024 { upLink with lastId := [(0, 9)] }
def w_linkTrainingCompletes4_s : State := linked wide 1024 { phase := .training, step := .markers }
def w_linkTrainingCompletes5_s : State := linked on 1024 { phase := .training, step := .markers }
def w_linkTrainingCompletes7_msg : List Byte := zeroBytes 30 ++ beBytes 2 (crc16 (zeroBytes 30))
def w_linkTrainingCompletes7_s : State := linked on 1279 { phase := .training, step := .hello }
def w_linkTrainingCompletes8_s : State := setFldAt (linked on 1279 { phase := .training, step := .measured }) .PROT_EN Fld.PROT_EN.inst 0 1279 0
def w_linkTrainingCompletes9_s : State := linked on 1279 { phase := .training, step := .measured }
def w_linkTrainingCompletes10_s : State := linked on 1279 { phase := .training, step := .hello }

/-- The hypotheses of LinkTrainingCompletes can be met, clause by clause. -/
theorem test_holds_linkTrainingCompletes :
    (∃ (s : State) (p : Nat), p < 1280 ∧ mayTrain s p = true) ∧
    (∃ (s : State) (u : State) (p : Nat) (lane : Nat) (laneId : Nat), u = noteLaneId s p lane laneId ∧ portMode s p = .fabric ∧
      tfind (portLink s p).lastId lane = some laneId) ∧
    (∃ (s : State) (u : State) (p : Nat) (lane : Nat) (laneId : Nat), u = noteLaneId s p lane laneId ∧ portMode s p = .fabric ∧
      tfind (portLink s p).lastId lane ≠ some laneId) ∧
    (∃ (s : State) (u : State) (p : Nat) (lane : Nat) (laneId : Nat) (echoId : Nat), u = noteLaneId s p lane laneId ∧ p < 1280 ∧
      lane < portLanes s p ∧ portMode s p = .fabric ∧ portUp s p = false ∧ (portLink s p).phase = .training ∧ (portLink s p).step = .markers ∧
      (lanesOfPort s p).contains echoId = true ∧
      ((List.range (portLanes s p)).all fun j => (tfind (tins (portLink s p).peerLane lane laneId) j).isSome) = false) ∧
    (∃ (s : State) (u : State) (p : Nat) (lane : Nat) (laneId : Nat) (echoId : Nat), u = noteLaneId s p lane laneId ∧ p < 1280 ∧
      lane < portLanes s p ∧ portMode s p = .fabric ∧ portUp s p = false ∧ (portLink s p).phase = .training ∧ (portLink s p).step = .markers ∧
      (lanesOfPort s p).contains echoId = true ∧
      ((List.range (portLanes s p)).all fun j => (tfind (tins (portLink s p).peerLane lane laneId) j).isSome) = true) ∧
    (∃ (s : State) (u : State) (p : Nat) (lane : Nat) (id : Nat), u = noteLaneId s p lane id ∧ p < 1280 ∧ lane < portLanes s p ∧
      portMode s p = .fabric ∧ portUp s p = true ∧ tfind (portLink s p).peerLane lane = some id) ∧
    (∃ (s : State) (p : Nat) (msg : List Byte), p < 1280 ∧ msg.length = 32 ∧ crc16 (msg.take 30) = beAt msg 30 2 ∧ portMode s p = .fabric ∧
      portUp s p = false ∧ (portLink s p).phase = .training ∧ (portLink s p).step = .hello ∧ bitsOf (beAt msg 9 1) 7 6 = fecOf s p ∧
      bitsOf (beAt msg 9 1) 5 5 = reachOf s p ∧ steerPeerOk s p msg = true) ∧
    (∃ (s : State) (p : Nat) (rtt : Nat), p < 1280 ∧ (portLink s p).phase = .training ∧ portMode s p = .fabric ∧ (portLink s p).step = .measured ∧
      rtt ≤ rttLimit (reachOf s p) ∧ protOn s p = false) ∧
    (∃ (s : State) (p : Nat) (rtt : Nat), p < 1280 ∧ (portLink s p).phase = .training ∧ portMode s p = .fabric ∧ (portLink s p).step = .measured ∧
      rttLimit (reachOf s p) < rtt) ∧
    (∃ (s : State) (u : State) (p : Nat), ((portLink s p).step ≠ .keying → u = s) ∧ ((portLink s p).step = .keying → u = stopKeying s p) ∧ p < 1280 ∧
      (portLink s p).phase = .training ∧ (portLink s p).step ≠ .signal ∧ awaitsAdmission s p = false ∧
      elapsed s (portLink s p).refAt (ticksOfMs (fld s .TRAIN_TMO_MS)) = true) :=
  ⟨⟨on, 1279, by decide +kernel⟩,
   ⟨w_linkTrainingCompletes2_s, _, 1024, 0, 9, rfl, by decide +kernel⟩,
   ⟨withUp on 1024, _, 1024, 0, 9, rfl, by decide +kernel⟩,
   ⟨w_linkTrainingCompletes4_s, _, 1024, 0, 9, 1025, rfl, by decide +kernel⟩,
   ⟨w_linkTrainingCompletes5_s, _, 1024, 0, 9, 1024, rfl, by decide +kernel⟩,
   ⟨withUp on 1024, _, 1024, 0, 9, rfl, by decide +kernel⟩,
   ⟨w_linkTrainingCompletes7_s, 1279, w_linkTrainingCompletes7_msg, by decide +kernel⟩,
   ⟨w_linkTrainingCompletes8_s, 1279, 6000, by decide +kernel⟩,
   ⟨w_linkTrainingCompletes9_s, 1279, 6001, by decide +kernel⟩,
   ⟨w_linkTrainingCompletes10_s, w_linkTrainingCompletes10_s, 1279, fun _ => rfl, fun h => absurd h (by decide +kernel), by decide +kernel⟩⟩

def w_lanesCompleteAndDegrade4_s : State := linked wide 1024 { upLink with active := 2, laneOk := 3 }

/-- The hypotheses of LanesCompleteAndDegrade can be met, clause by clause. -/
theorem test_holds_lanesCompleteAndDegrade :
    (∃ (s : State) (p : Nat) (lane : Nat), p < 1280 ∧ lane < portLanes s p ∧ portUp s p = true ∧ bitAt (portLink s p).laneOk lane = true ∧
      1024 ≤ laneNum s p lane ∧ laneHolder s (laneNum s p lane) = p) ∧
    (∃ (s : State) (p : Nat) (lane : Nat) (n : Nat), p < 1280 ∧ lane < portLanes s p ∧ portUp s p = true ∧ bitAt (portLink s p).laneOk lane = true ∧
      n ≤ fld s .LANE_ERR_MAX) ∧
    (∃ (s : State) (lane : Nat) (p : Nat), 1024 ≤ lane ∧ lane < 1280 ∧ laneHolder s lane = p ∧ portUp s p = true ∧ spareServes s lane = true) ∧
    (∃ (s : State) (p : Nat) (mask : Nat), p < 1280 ∧ portUp s p = true ∧ lkCfg s .DEG_EN p = 1 ∧ mask < 256 ∧ mask &&& (portLink s p).laneOk = mask ∧
      (popCount 8 mask = 1 ∨ popCount 8 mask = 2 ∨ popCount 8 mask = 4) ∧ popCount 8 mask < (portLink s p).active) :=
  ⟨⟨withUp on 1279, 1279, 0, by decide +kernel⟩,
   ⟨withUp on 1279, 1279, 0, 2128, by decide +kernel⟩,
   ⟨withUp on 1024, 1024, 1024, by decide +kernel⟩,
   ⟨w_lanesCompleteAndDegrade4_s, 1024, 2, by decide +kernel⟩⟩

def w_retryEventsComplete3_r : TxRec := { seq := 65535, fid := 1, firstTx := 0, lastTx := 0 }
def w_retryEventsComplete4_r : TxRec := { seq := 65535, fid := 1, firstTx := 0, lastTx := 0 }
def w_retryEventsComplete6_s : State := { withUp on 1024 with lk := { (withUp on 1024).lk with ends := [(1024, { rx := [(15, { ack := 7 })] })] } }
def w_retryEventsComplete9_f : StoredFrame := { ctrl 1 0 [] with consumed := false, tc := 0 }
def w_retryEventsComplete9_r : TxRec := { seq := 65535, fid := 1, firstTx := 0, lastTx := 0, replayAt := some 5 }
def w_retryEventsComplete9_s : State := { sent with lk := { sent.lk with ends := [(1024, { tx := [(2, { open_ := [w_retryEventsComplete9_r] })] })] } }
def w_retryEventsComplete10_r : TxRec := { seq := 65535, fid := 1, firstTx := 0, lastTx := 0 }

/-- The hypotheses of RetryEventsComplete can be met, clause by clause. -/
theorem test_holds_retryEventsComplete :
    (∃ (s : State) (l : Nat) (q : Nat) (a : Nat), (l < 1280 ∨ (2048 ≤ l ∧ l < 6144)) ∧ linkOpen s l = true ∧ q < 16 ∧ a < 65536) ∧
    (∃ (s : State) (l : Nat) (q : Nat) (a : Nat), (l < 1280 ∨ (2048 ≤ l ∧ l < 6144)) ∧ (∀ r ∈ (txOf (endOf s l) q).open_, 0 ≤ diff16 r.seq a) ∧
      linkOpen s l = true ∧ q < 16 ∧ a < 65536) ∧
    (∃ (s : State) (l : Nat) (q : Nat) (n : Nat) (r : TxRec), (l < 1280 ∨ (2048 ≤ l ∧ l < 6144)) ∧ linkOpen s l = true ∧ q < 14 ∧ n < 65536 ∧
      findTx s l q n = some r ∧ (r.lossReplays < fld s .REPLAY_MAX) ∧ (txOf (endOf s l) 14).open_ = []) ∧
    (∃ (s : State) (l : Nat) (q : Nat) (n : Nat) (r : TxRec), (l < 1280 ∨ (2048 ≤ l ∧ l < 6144)) ∧ linkOpen s l = true ∧ q < 16 ∧ n < 65536 ∧
      findTx s l q n = some r) ∧
    (∃ (l : Nat), (l < 1280 ∨ (2048 ≤ l ∧ l < 6144))) ∧
    (∃ (s : State) (l : Nat) (q : Nat) (n : Nat), (l < 1280 ∨ (2048 ≤ l ∧ l < 6144)) ∧ linkOpen s l = true ∧ q < 16 ∧ n < 65536 ∧
      settledRx (rxOf (endOf s l) q) n = true) ∧
    (∃ (s : State) (l : Nat) (q : Nat) (n : Nat), (l < 1280 ∨ (2048 ≤ l ∧ l < 6144)) ∧ linkOpen s l = true ∧ q < 16 ∧ n < 65536 ∧
      settledRx (rxOf (endOf s l) q) n = false) ∧
    (∃ (s : State) (l : Nat) (m : Nat), (l < 1280 ∨ (2048 ≤ l ∧ l < 6144)) ∧ linkOpen s l = true ∧ m < 2 ^ 32) ∧
    (∃ (s : State) (l : Nat) (q : Nat) (n : Nat) (t : Nat) (r : TxRec) (f : StoredFrame), (l < 1280 ∨ (2048 ≤ l ∧ l < 6144)) ∧ linkLive s l = true ∧
      q < 16 ∧ q ≠ 14 ∧ n < 65536 ∧ findTx s l q n = some r ∧ r.replayAt = some t ∧ t ≤ s.raw ∧ frameOf s r.fid = some f ∧
      mayEscape s l q r f = false) ∧
    (∃ (s : State) (l : Nat) (q : Nat) (n : Nat) (r : TxRec), (l < 1280 ∨ (2048 ≤ l ∧ l < 6144)) ∧ linkLive s l = true ∧ q < 16 ∧ n < 65536 ∧
      findTx s l q n = some r ∧ timeoutDue s l r = true ∧ r.lossReplays < fld s .REPLAY_MAX) :=
  ⟨⟨withUp on 1279, 1279, 15, 65535, Or.inl (by decide), by decide +kernel⟩,
   ⟨sent, 1024, 2, 65535, Or.inl (by decide), by decide +kernel⟩,
   ⟨sent, 1024, 2, 65535, w_retryEventsComplete3_r, Or.inl (by decide), by decide +kernel⟩,
   ⟨sent, 1024, 2, 65535, w_retryEventsComplete4_r, Or.inl (by decide), by decide +kernel⟩,
   ⟨6143, by decide +kernel⟩,
   ⟨w_retryEventsComplete6_s, 1024, 15, 6, Or.inl (by decide), by decide +kernel⟩,
   ⟨withUp on 1024, 1024, 15, 0, Or.inl (by decide), by decide +kernel⟩,
   ⟨withUp on 1024, 1024, 2 ^ 32 - 1, Or.inl (by decide), by decide +kernel⟩,
   ⟨w_retryEventsComplete9_s, 1024, 2, 65535, 5, w_retryEventsComplete9_r, w_retryEventsComplete9_f, Or.inl (by decide), by decide +kernel⟩,
   ⟨sent, 1024, 2, 65535, w_retryEventsComplete10_r, Or.inl (by decide), by decide +kernel⟩⟩

def w_linkReportsComplete2_s : State := { withUp on 1024 with lk := { (withUp on 1024).lk with ends := [(1024, { tx := [(2, { next := 6, skips := [5] })] })] } }
def w_linkReportsComplete5_s : State := { on with lk := { vlinks := [(4095, aVlink)] } }

/-- The hypotheses of LinkReportsComplete can be met, clause by clause. -/
theorem test_holds_linkReportsComplete :
    (∃ (s : State) (l : Nat), (∀ q ∈ (endOf s l).ackDirty, q < 16) ∧ l < 1280 ∧ linkLive s l = true ∧ (endOf s l).events = [] ∧
      (endOf s l).ackDirty.length ≤ 16 ∧ (endOf s l).ackDirty.Nodup) ∧
    (∃ (s : State) (s1 : State) (l : Nat) (q : Nat) (n : Nat) (sp : TxSpace) (hd : LinkHdr) (e2 : LinkEnd), (endOf s l).tx = [(q, sp)] ∧
      sp.skips = [n] ∧ s1 = setEnd s l { endOf s l with events := [{ kind := .skip, space := q, seq := n }] } ∧ nextHeader (endOf s1 l) 0 false = (hd,
      e2) ∧ l < 1280 ∧ linkLive s l = true ∧ (endOf s l).events = []) ∧
    (∃ (s : State) (l : Nat), l < 1280 ∧ linkLive s l = true ∧ linkProt s l = true ∧ (linkKeys s l).txKey.isSome = true ∧
      tc7Open (bxPort s l) (nowU s) = false) ∧
    (∃ (s : State) (p : Nat) (t : Nat), p < 1280 ∧ isDownPort s p = true ∧ portUp s p = true ∧ sinkDiscard s p = false ∧ stalledSince s p = some t ∧
      elapsed s t (ticksOfUs (fld s .SINK_STALL_US)) = true) ∧
    (∃ (s : State) (v : Nat) (e : VLink), v < 4096 ∧ tfind s.lk.vlinks v = some e ∧ elapsed s e.lastSeen (ticksOfS (fld s .VLINK_IDLE_S)) = true) :=
  ⟨⟨withUp on 1279, 1279, by decide +kernel⟩,
   ⟨w_linkReportsComplete2_s, _, 1024, 2, 5, _, _, _, rfl, rfl, rfl, rfl, by decide +kernel⟩,
   ⟨keyed, 1024, by decide +kernel⟩,
   ⟨downSent, 1024, 0, by decide +kernel⟩,
   ⟨w_linkReportsComplete5_s, 4095, aVlink, by decide +kernel⟩⟩

/-- The hypotheses of CalendarQueuesOfAPort can be met, clause by clause. -/
theorem test_holds_calendarQueuesOfAPort :
    (∃ (s : State) (p : Nat), absorbed s p = false ∧ portMode s p = .fabric) ∧
    (∃ (s : State) (p : Nat), absorbed s p = false ∧ portMode s p = .ethernet) ∧
    (∃ (s : State) (p : Nat), (portMode s p = .disabled ∨ absorbed s p = true)) ∧
    (∃ (i : Nat), 14 ≤ i) :=
  ⟨⟨on, 1279, by decide +kernel⟩,
   ⟨ether, 1024, by decide +kernel⟩,
   ⟨wide, 1025, Or.inr (by decide +kernel)⟩,
   ⟨14, by decide +kernel⟩⟩

/-- The hypotheses of ResetCalendar can be met, clause by clause. -/
theorem test_holds_resetCalendar :
    (∃ (s : State) (p : Nat), (bxPort s p).cal = none) ∧
    (∃ (s : State) (p : Nat) (k : Nat), (bxPort s p).cal = none ∧ k < 14) ∧
    (∃ (s : State) (p : Nat) (i : Nat), portMode s p = .ethernet ∧ 10 ≤ i) :=
  ⟨⟨on, 1279, by decide +kernel⟩,
   ⟨on, 1279, 13, by decide +kernel⟩,
   ⟨ether, 1024, 10, by decide +kernel⟩⟩

/-- The hypotheses of LoamThreshOrder can be met. -/
theorem test_holds_loamThreshOrder :
    ∃ (s : State) (v : Nat) (aka : Nat) (new : Nat → Nat), (∀ k,
      new k = aliased aka 8 (v / 2 ^ (8 * k) % 256) (regActive s 0x10 0xFF 0x0C 0 / 2 ^ (8 * k) % 256)) ∧ v < 2 ^ 32 ∧ aka < 4 ∧ ¬ (new 2 < new 3 ∧
      new 3 ≤ new 1 ∧ new 1 < new 0) :=
  ⟨on, 0, 0, fun k => aliased 0 8 (0 / 2 ^ (8 * k) % 256) (regActive on 0x10 0xFF 0x0C 0 / 2 ^ (8 * k) % 256), fun _ => rfl, by decide +kernel⟩

def w_calendarsAndGatesComplete1_p1 : List Byte × List BxSect := (okVal ([], []) (let c : Ncp := own (inline calImage); bxImage c false))
def w_calendarsAndGatesComplete1_t : Nat := (okVal 0 (let s : State := timed; let img : List Byte := w_calendarsAndGatesComplete1_p1.1; checkTime s (beAt img 8 4) 3))
def w_calendarsAndGatesComplete3_c : Ncp := own (beBytes 1 1 ++ beBytes 2 1 ++ beBytes 2 1279)
def w_calendarsAndGatesComplete5_g : GateList := { entries := [{ dur := 1000, gates := 0x80, owner := some 4 }], takeover := 5, tc7Cells := 36, imgId := 1 }
def w_calendarsAndGatesComplete5_s : State := { timed with bx := { ports := [(1279, { glPend := some w_calendarsAndGatesComplete5_g })] } }
def w_calendarsAndGatesComplete6_g : Calendar := { slots := [[13]], takeover := 5, imgId := 1 }
def w_calendarsAndGatesComplete6_s : State := { timed with bx := { ports := [(1279, { calPend := some w_calendarsAndGatesComplete6_g })] } }
def w_calendarsAndGatesComplete7_s : State := { timed with bx := { ports := [(3, { gl := some { entries := [{ dur := 1000, gates := 0x80, owner := some 4 }], takeover := 5, tc7Cells := 36, imgId := 1 } })] } }

/-- The hypotheses of CalendarsAndGatesComplete can be met, clause by clause. -/
theorem test_holds_calendarsAndGatesComplete :
    (∃ (s : State) (c : Ncp) (img : List Byte) (ss : List BxSect) (t : Nat), OwnerCmd s c ∧ bxImage c false = .ok (img, ss) ∧
      checkTime s (beAt img 8 4) 3 = .ok t ∧ (∀ x ∈ ss, (bxPort s x.port).calPend = none) ∧ bxConflict s false ss = none) ∧
    (∃ (s : State) (u : State) (c : Ncp) (img : List Byte) (ss : List BxSect) (t : Nat), OwnerCmd s c ∧ bxImage c true = .ok (img, ss) ∧
      checkTime s (beAt img 8 4) 3 = .ok t ∧ (∀ x ∈ ss, (bxPort s x.port).glPend = none) ∧
      u = ss.foldl (fun (u : State) (x : BxSect) => setBx u x.port { bxPort u x.port with glPend := some { entries := x.entries.map gateEnt, takeover := t, tc7Cells := x.cells, imgId := beAt img 16 8 } }) s ∧
      poolsFit u = true ∧ bxConflict s true ss = none) ∧
    (∃ (s : State) (c : Ncp) (ports : List Nat), OwnerCmd s c ∧ (∀ p ∈ ports, p < 1280) ∧ (∀ p ∈ ports,
      replaceable s ((bxPort s p).calPend.map (·.takeover)) = true) ∧ ports.length < 65536 ∧
      c.body = beBytes 1 1 ++ beBytes 2 ports.length ++ ports.flatMap (beBytes 2)) ∧
    (∃ (s : State) (c : Ncp), OwnerCmd s c ∧ c.body = [3, 0, 0] ∧ replaceable s (s.sh.pend.map (·.takeover)) = true) ∧
    (∃ (s : State) (p : Nat) (g : GateList), p < 1280 ∧ (bxPort s p).glPend = some g ∧ g.takeover ≤ nowNs s) ∧
    (∃ (s : State) (p : Nat) (g : Calendar), p < 1280 ∧ (bxPort s p).calPend = some g ∧ g.takeover ≤ nowNs s) ∧
    (∃ (s : State) (p : Nat), p < 1280 ∧ soonOwners s p (fld s .BX_WAKE_PREWAKE_NS) ≠ []) :=
  ⟨⟨timed, own (inline calImage), w_calendarsAndGatesComplete1_p1.1, w_calendarsAndGatesComplete1_p1.2, w_calendarsAndGatesComplete1_t, ⟨rfl, rfl⟩,
     eq_okPair (by decide +kernel), eq_okVal (by decide +kernel), by decide +kernel⟩,
   ⟨timed, gated, own (inline gateImage), gateImage, gateSects, gateAt, ⟨rfl, rfl⟩, gate_image, gate_time, by decide +kernel, rfl, gated_fits,
     by decide +kernel⟩,
   ⟨timed, w_calendarsAndGatesComplete3_c, [1279], ⟨rfl, rfl⟩, by decide +kernel⟩,
   ⟨timed, own [3, 0, 0], ⟨rfl, rfl⟩, by decide +kernel⟩,
   ⟨w_calendarsAndGatesComplete5_s, 1279, w_calendarsAndGatesComplete5_g, by decide +kernel⟩,
   ⟨w_calendarsAndGatesComplete6_s, 1279, w_calendarsAndGatesComplete6_g, by decide +kernel⟩,
   ⟨w_calendarsAndGatesComplete7_s, 3, by decide +kernel⟩⟩

def w_domainsSleepAndWake2_s : State := { on with pwr := { hubUp := true, domains := [(358, .waking 5)] } }
def w_domainsSleepAndWake3_s : State := { on with pwr := { hubUp := true, domains := [(358, .waking 5)] } }

/-- The hypotheses of DomainsSleepAndWake can be met, clause by clause. -/
theorem test_holds_domainsSleepAndWake :
    (∃ (s : State) (d : Nat), d < 359 ∧ tget SleepState.awake s.pwr.domains d = .awake ∧ maySleep s d = true ∧ idleExpired s d = true) ∧
    (∃ (s : State) (d : Nat) (t : Nat), (tget SleepState.awake s.pwr.domains d = .waking t ∨ tget SleepState.awake s.pwr.domains d = .late t) ∧
      d < 359 ∧ s.bx.ports = [] ∧ s.yew.regionStale.contains d = false) ∧
    (∃ (s : State) (d : Nat) (t : Nat), d < 359 ∧ tget SleepState.awake s.pwr.domains d = .waking t ∧ t + ticksOfNs (4 * wakeNs d) ≤ s.raw) :=
  ⟨⟨on, 167, by decide +kernel⟩,
   ⟨w_domainsSleepAndWake2_s, 358, 5, Or.inl (by decide +kernel), by decide +kernel⟩,
   ⟨w_domainsSleepAndWake3_s, 358, 5, by decide +kernel⟩⟩

def w_storeMoversComplete1_s : State := { on with loam := { sharedUsed := 3145728 } }
def w_storeMoversComplete5_cs : List QCell := (eligibleCells fullQueue 48).tail
def w_storeMoversComplete5_c : QCell := { pos := 256, fid := 1, idx := 256, place := .top 0, single := true, half := 0, part := 0 }
def w_storeMoversComplete6_s : State := { fullQueue with loam := { fullQueue.loam with frames := [(1, { ctrl 1 3 [] with places := (List.range 300).map .top ++ [.sub 7] })] } }

/-- The hypotheses of StoreMoversComplete can be met, clause by clause. -/
theorem test_holds_storeMoversComplete :
    (∃ (s : State), thresholdCells s (fld s .SPILL_ON) ≤ 256 * s.loam.sharedUsed) ∧
    (∃ (s : State), 256 * s.loam.sharedUsed < thresholdCells s (fld s .SPILL_ON) ∧ 256 * s.loam.sharedUsed < thresholdCells s (fld s .SPILL_OFF)) ∧
    (∃ (s : State), 256 * s.loam.sharedUsed < thresholdCells s (fld s .SPILL_ON) ∧ thresholdCells s (fld s .SPILL_OFF) ≤ 256 * s.loam.sharedUsed) ∧
    (∃ (s : State) (half : Nat), (noteSpill s).loam.spilling = false ∧ half < 2) ∧
    (∃ (s : State) (s1 : State) (half : Nat) (u : Nat) (cl : Nat) (used : Nat) (c : QCell) (cs : List QCell) (run : List QCell), noteSpill s = s ∧
      run = spillRun half c.part c.pos (c :: cs) ∧ readPlaces s c.fid [c.place] = (true, s1) ∧ half < 2 ∧ s.loam.spilling = true ∧
      spillQueue s half = some u ∧ eligibleCells s u = c :: cs ∧ run ≠ [] ∧ openClodOf s1 half u c.part c.pos = some (cl, used)) ∧
    (∃ (s : State) (u : Nat) (n : Nat) (c : Nat), u < 20480 ∧ headSegment (queuePlaces s u) = some (n, c) ∧ fld s .HEAD_WIN ≤ n + 16) ∧
    (∃ (s : State) (u : Nat), u < 20480 ∧ headSegment (queuePlaces s u) = none) ∧
    (∃ (s : State) (s1 : State) (u : Nat) (n : Nat) (c : Nat) (fids : List Nat), roomIn s .shared (tget ({} : ClodRec) s.loam.clods c).used = true ∧
      s1 = { s with loam := { s.loam with openClod := tfilter (fun _ x => x != c) s.loam.openClod } } ∧
      fids = ((queueOf s u).map (·.fid)).eraseDups.filter (fun f => match frameOf s f with | some x => x.places.contains (.sub c) | none => false) ∧
      u < 20480 ∧ headSegment (queuePlaces s u) = some (n, c) ∧ n + 16 < fld s .HEAD_WIN) ∧
    (∃ (s : State) (s1 : State) (fid : Nat) (u : Nat) (t : Nat) (f : StoredFrame), readFrame s fid = (true, s1) ∧ frameOf s fid = some f ∧
      heldSince s fid = some (u, t) ∧ flag s .HOLD_SPILL_EN = true ∧ f.refs = 1 ∧ f.shares = none ∧ t + ticksOfNs (fld s .HOLD_SPILL_NS) < s.raw) ∧
    (∃ (s : State) (half : Nat) (tier : Nat), half < 2 ∧ tier < 2 ∧ sieveDue s half tier = true) ∧
    (∃ (s : State) (half : Nat) (tier : Nat), half < 2 ∧ tier < 2 ∧ sieveDue s half tier = false) :=
  ⟨⟨w_storeMoversComplete1_s, Nat.le_trans (thresholdCells_le _ _) (by decide +kernel)⟩,
   ⟨on, Nat.lt_of_lt_of_le (by decide +kernel) (thresholdCells_ge _ on_room), Nat.lt_of_lt_of_le (by decide +kernel) (thresholdCells_ge _ on_room)⟩,
   ⟨between, Nat.lt_of_lt_of_le (by decide +kernel) (thresholdCells_ge _ between_room), Nat.le_trans (thresholdCells_le _ _) (by decide +kernel)⟩,
   ⟨on, 1, on_no_spill, by decide +kernel⟩,
   ⟨fullQueue, fullQueue, 0, 48, 0, 3, w_storeMoversComplete5_c, w_storeMoversComplete5_cs, _, fullQueue_spills, rfl,
     Prod.ext (by decide +kernel) rfl, by decide +kernel⟩,
   ⟨w_storeMoversComplete6_s, 48, 300, 7, by decide +kernel⟩,
   ⟨on, 20479, by decide +kernel⟩,
   ⟨spilt, _, 48, 0, 7, _, spilt_room, rfl, rfl, by decide +kernel⟩,
   ⟨heldOnly, heldOnly, 1, 16386, 0, heldFrame, rfl, by decide +kernel⟩,
   ⟨on, 1, 1, by decide +kernel⟩,
   ⟨{ on with raw := 0 }, 1, 1, by decide +kernel⟩⟩

def w_routeTablesComplete1_img : List Byte := (okVal [] (let s : State := timed; let c : Ncp := own (inline routeImg); routeImage s c))
def w_routeTablesComplete1_t : Nat := (okVal 0 (let s : State := timed; let img : List Byte := w_routeTablesComplete1_img; checkTime s (beAt img 8 4) 4))
def w_routeTablesComplete2_s : State := { timed with sh := { pend := some oldTable } }
def w_routeTablesComplete3_s : State := { timed with sh := { prev := some (some oldTable), quietFrom := some 5 } }

/-- The hypotheses of RouteTablesComplete can be met, clause by clause. -/
theorem test_holds_routeTablesComplete :
    (∃ (s : State) (c : Ncp) (img : List Byte) (t : Nat), OwnerCmd s c ∧ routeImage s c = .ok img ∧
      eachOk (maskOk (dimsN s)) 0 ((List.range (beAt img 6 2)).map fun i => beAt img (32 + 4 * i) 4) = .ok () ∧ checkTime s (beAt img 8 4) 4 = .ok t ∧
      beAt img 5 1 % 4 = (s.sh.epoch + 1) % 4 ∧ s.sh.prev = none ∧ s.sh.pend = none) ∧
    (∃ (s : State) (r : RouteTable), s.sh.pend = some r ∧ r.takeover ≤ nowNs s) ∧
    (∃ (s : State) (o : Option RouteTable) (q : Nat), s.sh.prev = some o ∧ s.sh.quietFrom = some q ∧ oldFrames s = 0 ∧
      q + ticksOfUs (3 * fld s .MAX_TRAV_US) ≤ s.raw) :=
  ⟨⟨timed, own (inline routeImg), w_routeTablesComplete1_img, w_routeTablesComplete1_t, ⟨rfl, rfl⟩, eq_okVal (by decide +kernel),
     eq_okUnit (by decide +kernel), eq_okVal (by decide +kernel), by decide +kernel⟩,
   ⟨w_routeTablesComplete2_s, oldTable, by decide +kernel⟩,
   ⟨w_routeTablesComplete3_s, some oldTable, 5, by decide +kernel⟩⟩

def w_sweepsComplete3_w : Sweep := { half := 0, total := 1, copies := [0], lastFid := 2, started := 5, fenced := [3] }
def w_sweepsComplete3_s : State := { on with sh := { sweeps := [(7, w_sweepsComplete3_w)] } }
def w_sweepsComplete4_w : Sweep := { half := 0, total := 1, copies := [0], lastFid := 9, started := 5 }
def w_sweepsComplete4_s : State := { on with sh := { sweeps := [(7, w_sweepsComplete4_w)] } }
def w_sweepsComplete5_w : Sweep := { half := 0, total := 1, copies := [0], lastFid := 2, started := 5, fenced := [3] }
def w_sweepsComplete5_s : State := { on with sh := { sweeps := [(7, w_sweepsComplete5_w)] }, loam := { frames := [(3, ctrl 1 3 [])] }, lk := { ends := [(3, { rx := [(0, { held := [(5, 3)] })] })] } }
def w_sweepsComplete6_w : Sweep := { half := 0, total := 2, copies := [0], started := 5 }
def w_sweepsComplete6_s : State := { on with sh := { sweeps := [(7, w_sweepsComplete6_w)] } }
def w_sweepsComplete7_w : Sweep := { half := 0, started := 5, timedOut := some 6 }
def w_sweepsComplete7_s : State := { on with sh := { sweeps := [(7, w_sweepsComplete7_w)] } }

/-- The hypotheses of SweepsComplete can be met, clause by clause. -/
theorem test_holds_sweepsComplete :
    (∃ (s : State) (p : Nat) (u : Nat) (l : Nat) (e : QEnt) (f : StoredFrame) (k : Option Nat), headOf s p u = some (.first l e f) ∧ p < 1280 ∧
      u ≠ 14 ∧ f.ffh.kind = 8 ∧ opportunity s p = true ∧ calChoice s p (eligibleQueues s p) = some (u, k)) ∧
    (∃ (p : Nat), p < 1280) ∧
    (∃ (s : State) (k : Nat) (w : Sweep), (∀ f ∈ w.fenced, heldForOrder s f = false) ∧ tfind s.sh.sweeps k = some w ∧ w.timedOut = none ∧
      sweepReady s k w = true ∧ earlierHeld s k = false ∧ w.fenced ≠ []) ∧
    (∃ (s : State) (k : Nat) (w : Sweep), tfind s.sh.sweeps k = some w ∧ w.timedOut = none ∧ sweepReady s k w = true ∧ earlierHeld s k = false ∧
      w.fenced = []) ∧
    (∃ (s : State) (k : Nat) (w : Sweep) (held : List Nat), held = w.fenced.filter (heldForOrder s) ∧ tfind s.sh.sweeps k = some w ∧
      w.timedOut = none ∧ sweepReady s k w = true ∧ earlierHeld s k = false ∧ held ≠ []) ∧
    (∃ (s : State) (k : Nat) (w : Sweep), tfind s.sh.sweeps k = some w ∧ w.timedOut = none ∧ sweepReady s k w = false ∧
      w.started + sweepTmo s ≤ s.raw) ∧
    (∃ (s : State) (k : Nat) (t : Nat) (w : Sweep), tfind s.sh.sweeps k = some w ∧ w.timedOut = some t ∧ t + sweepTmo s ≤ s.raw) :=
  ⟨⟨marking, 1024, 0, 1024, { fid := 1 }, markerFrame, none, rfl, by decide +kernel⟩,
   ⟨1279, by decide +kernel⟩,
   ⟨w_sweepsComplete3_s, 7, w_sweepsComplete3_w, by decide +kernel⟩,
   ⟨w_sweepsComplete4_s, 7, w_sweepsComplete4_w, by decide +kernel⟩,
   ⟨w_sweepsComplete5_s, 7, w_sweepsComplete5_w, _, rfl, by decide +kernel⟩,
   ⟨w_sweepsComplete6_s, 7, w_sweepsComplete6_w, by decide +kernel⟩,
   ⟨w_sweepsComplete7_s, 7, 6, w_sweepsComplete7_w, by decide +kernel⟩⟩

def w_congestionCommandsComplete1_e : EchoEnt := { src := 2 ^ 15, dst := 2, tc := 0, part := 0, port := 3, at_ := 5 }
def w_congestionCommandsComplete1_s : State := { on with sh := { echo := [(1, [w_congestionCommandsComplete1_e])] } }
def w_congestionCommandsComplete2_e : EchoEnt := { src := 160, dst := 2, tc := 0, part := 0, port := 3, at_ := 5 }
def w_congestionCommandsComplete2_s : State := { endpoints with sh := { echo := [(1, [w_congestionCommandsComplete2_e])] } }
def w_congestionCommandsComplete3_s : State := { on with sh := { thr := [(8 * 1279 + 7, { r := 32768 })] } }
def w_congestionCommandsComplete5_p0 : StoredFrame × State := (okVal (ctrl 0 0 [], on) (let s : State := inbox on { ctrl 0xD 3 mapBytes with inDim := 13 }; let fid : Nat := 1; takeKind s fid 0xD))
def w_congestionCommandsComplete5_s : State := inbox on { ctrl 0xD 3 mapBytes with inDim := 13 }
def w_congestionCommandsComplete6_ps : List Nat := (portsOfDim oneDim 0).tail

/-- The hypotheses of CongestionCommandsComplete can be met, clause by clause. -/
theorem test_holds_congestionCommandsComplete :
    (∃ (s : State) (half : Nat) (e : EchoEnt) (t : List EchoEnt), half < 2 ∧ tget [] s.sh.echo half = e :: t ∧
      e.at_ + ticksOfNs (fld s .ECE_HOLD_NS) ≤ s.raw ∧ addrSpine e.src ≠ selfSpine s) ∧
    (∃ (s : State) (half : Nat) (e : EchoEnt) (t : List EchoEnt) (p : Nat), half < 2 ∧ tget [] s.sh.echo half = e :: t ∧
      e.at_ + ticksOfNs (fld s .ECE_HOLD_NS) ≤ s.raw ∧ addrSpine e.src = selfSpine s ∧ (dportLook s half (addrDown e.src)).hit = some p ∧
      (dportLook s half (addrDown e.src)).bads = []) ∧
    (∃ (s : State) (p : Nat) (tc : Nat), p < 1280 ∧ tc < 8 ∧ (thrOf s p tc).r ≠ 65536 ∧ (thrOf s p tc).aiFrom + ticksOfUs (fld s .AI_US) ≤ s.raw) ∧
    (∃ (s : State), flag s .CMAP_EN = true ∧ s.sh.cmapSentAt + ticksOfUs (fld s .CMAP_PERIOD_US) ≤ s.raw) ∧
    (∃ (s : State) (s1 : State) (fid : Nat) (f : StoredFrame), takeKind s fid 0xD = .ok (f, s1) ∧ cmapValid f.data = true ∧ f.inDim ≤ 13) ∧
    (∃ (s : State) (d : Nat) (p : Nat) (ps : List Nat), portsOfDim s d = p :: ps ∧ d < 14 ∧ d < dimsN s ∧ (tget {} s.sh.cmapIn d).stale = false ∧
      (tget {} s.sh.cmapIn d).receivedAt + ticksOfUs (4 * fld s .CMAP_PERIOD_US) ≤ s.raw) ∧
    (∃ (s : State) (c : Ncp) (d : Nat), OwnerCmd s c ∧ c.body = beBytes 1 d ∧ d < 14) :=
  ⟨⟨w_congestionCommandsComplete1_s, 1, w_congestionCommandsComplete1_e, [], by decide +kernel⟩,
   ⟨w_congestionCommandsComplete2_s, 1, w_congestionCommandsComplete2_e, [], 1024, by decide +kernel⟩,
   ⟨w_congestionCommandsComplete3_s, 1279, 7, by decide +kernel⟩,
   ⟨on, by decide +kernel⟩,
   ⟨w_congestionCommandsComplete5_s, w_congestionCommandsComplete5_p0.2, 1, w_congestionCommandsComplete5_p0.1, eq_okPair (by decide +kernel),
     by decide +kernel⟩,
   ⟨oneDim, 0, (portsOfDim oneDim 0).headD 0, w_congestionCommandsComplete6_ps,
     eq_headTail (List.ne_nil_of_mem (List.mem_filter.mpr ⟨List.mem_range.mpr (by decide : 3 < 1280), by decide +kernel⟩)), by decide +kernel⟩,
   ⟨on, own (beBytes 1 13), 13, ⟨rfl, rfl⟩, by decide +kernel⟩⟩

def w_forwardingTablesComplete1_img : List Byte := (okVal [] (let c : Ncp := own (inline macImage); readImage c 0 0x4E5A000A 1 false))
def w_forwardingTablesComplete1_t : State := (okVal on (let s : State := on; let img : List Byte := w_forwardingTablesComplete1_img; let tk : Nat := 9; let n : Nat := 1; loadRecs tk 0 (chunksOf (4 + (tabLens tk).1 + (tabLens tk).2) n (img.drop 32)) s))
def w_forwardingTablesComplete2_k : List Byte := beBytes 4 1 ++ beBytes 6 7
def w_forwardingTablesComplete2_c : Ncp := own (beBytes 1 9 ++ beBytes 1 1 ++ (w_forwardingTablesComplete2_k))
def w_forwardingTablesComplete3_u : State := (someVal on (let s : State := learning; let q : LearnReq := learnOne; let qs : List LearnReq := []; writeLearned { s with laurel := { s.laurel with learnQ := qs } } { key := q.key, port := q.port, static := false, stamp := s.laurel.age, lrnPort := q.port }))
def w_forwardingTablesComplete4_s : State := setFldAt on .AGE_EN Fld.AGE_EN.inst 0 0 0
def w_forwardingTablesComplete8_s : State := { on with laurel := { r0 := { recWait := [(4, 5)] }, r1 := { recWait := [(4, 5)] } } }

/-- The hypotheses of ForwardingTablesComplete can be met, clause by clause. -/
theorem test_holds_forwardingTablesComplete :
    (∃ (s : State) (t : State) (c : Ncp) (img : List Byte) (tk : Nat) (n : Nat), OwnerCmd s c ∧ readImage c 0 0x4E5A000A 1 false = .ok img ∧
      loadRecs tk 0 (chunksOf (4 + (tabLens tk).1 + (tabLens tk).2) n (img.drop 32)) s = .ok t ∧ flag s .TDMA_LOCK = false ∧ tk = beAt img 5 1 ∧
      n = beAt img 8 4 ∧ beAt img 4 1 = 1 ∧ 1 ≤ tk ∧ tk ≤ 11 ∧ beAt img 6 2 = 0 ∧ beAt img 24 4 = 0 ∧ 1 ≤ n ∧ n ≤ 1048576 ∧
      img.length = 32 + n * (4 + (tabLens tk).1 + (tabLens tk).2) ∧ bitAt (fld s .TLOCK) (tk - 1) = false) ∧
    (∃ (s : State) (c : Ncp) (tk : Nat) (half : Nat) (k : List Byte), OwnerCmd s c ∧ 1 ≤ tk ∧ tk ≤ 11 ∧ half ≤ 1 ∧
      c.body = beBytes 1 tk ++ beBytes 1 half ++ k ∧ k.length = (tabLens tk).1 ∧ keyOk tk k = true ∧ keyInRange tk k = true) ∧
    (∃ (s : State) (u : State) (q : LearnReq) (qs : List LearnReq),
      writeLearned { s with laurel := { s.laurel with learnQ := qs } } { key := q.key, port := q.port, static := false, stamp := s.laurel.age, lrnPort := q.port } = some u ∧
      s.laurel.learnQ = q :: qs ∧ macAny s q.key = none ∧ lrnExcess { s with laurel := { s.laurel with learnQ := qs } } q.port = false) ∧
    (∃ (s : State), s.laurel.agedAt + ticksOfS (fld s .AGE_PERIOD_S) ≤ s.raw ∧ flag s .AGE_EN = false) ∧
    (∃ (s : State) (tk : Nat) (i : Nat), (tfind s.laurel.r0.mac (placeOfIndex tkMac i)).filter macDrop = none ∨ tk ≠ tkMac) ∧
    (∃ (s : State) (tk : Nat) (i : Nat), (tfind s.laurel.r1.mac (placeOfIndex tkMac i)).filter macDrop = none ∨ tk ≠ tkMac) ∧
    (∃ (tk : Nat), tk ≠ 2 ∧ tk ≠ tkMac) ∧
    (∃ (s : State) (n : Nat) (a : Nat) (b : Nat), tfind s.laurel.r0.recWait n = some a ∧ tfind s.laurel.r1.recWait n = some b ∧
      a + ticksOfUs 1 ≤ s.raw ∧ b + ticksOfUs 1 ≤ s.raw) :=
  ⟨⟨on, w_forwardingTablesComplete1_t, own (inline macImage), w_forwardingTablesComplete1_img, 9, 1, ⟨rfl, rfl⟩, eq_okVal (by decide +kernel),
     eq_okVal (by decide +kernel), by decide +kernel⟩,
   ⟨on, w_forwardingTablesComplete2_c, 9, 1, w_forwardingTablesComplete2_k, ⟨rfl, rfl⟩, by decide +kernel⟩,
   ⟨learning, w_forwardingTablesComplete3_u, learnOne, [], eq_someVal (by decide +kernel), by decide +kernel⟩,
   ⟨w_forwardingTablesComplete4_s, by decide +kernel⟩,
   ⟨on, 9, 16383, Or.inl (by decide +kernel)⟩,
   ⟨on, 9, 16383, Or.inl (by decide +kernel)⟩,
   ⟨1, by decide +kernel⟩,
   ⟨w_forwardingTablesComplete8_s, 4, 5, 5, by decide +kernel⟩⟩

def w_combineEnginesComplete1_img : List Byte := (okVal [] (let c : Ncp := own (inline progImage); readImage c 0 0x4E5A0018 1 false))
def w_combineEnginesComplete2_r : ShadowRun := { coll := 1, chunk := 2, readAt := some 5 }
def w_combineEnginesComplete2_s : State := { on with kao := { engines := [(15, { shadows := [w_combineEnginesComplete2_r] })] } }
def w_combineEnginesComplete3_r : ShadowRun := { coll := 1, chunk := 2, readAt := some 5 }
def w_combineEnginesComplete3_s : State := { on with kao := { engines := [(15, { shadows := [w_combineEnginesComplete3_r] })] } }
def w_combineEnginesComplete4_r : ShadowRun := { coll := 1, chunk := 2, readAt := some 5 }
def w_combineEnginesComplete4_s : State := { on with kao := { engines := [(15, { shadows := [w_combineEnginesComplete4_r] })] } }
def w_combineEnginesComplete5_t : Token := { part := 5, src := 1, collId := 2, chunk := 3, layer := 4, rop := 0, mop := 9, half := 0, tc := 0, firstAt := 5, phase := .waiting }
def w_combineEnginesComplete5_s : State := { on with marl := { tokens := [(1, w_combineEnginesComplete5_t)] } }

/-- The hypotheses of CombineEnginesComplete can be met, clause by clause. -/
theorem test_holds_combineEnginesComplete :
    (∃ (s : State) (c : Ncp) (img : List Byte), OwnerCmd s c ∧ readImage c 0 0x4E5A0018 1 false = .ok img ∧ kprogEncodingOk img = true ∧
      flag s .PROG_LOCK = false ∧ 16 ≤ beAt img 5 1 ∧ kStructOk [] ((kprogInstrs img).map kInstr) = true ∧ progUsers s (beAt img 5 1) = 0) ∧
    (∃ (s : State) (s2 : State) (k : Nat) (r : ShadowRun),
      s2 = setKEng (endShadow s k r) k { kEng (endShadow s k r) k with shadowRuns := ((kEng (endShadow s k r) k).shadowRuns + 1) % 2 ^ 32 } ∧ k < 16 ∧
      readRun s k = some r ∧ r.lanes = r.primary) ∧
    (∃ (s : State) (s2 : State) (k : Nat) (r : ShadowRun) (differs : Bool) (s3 : State),
      s2 = setKEng (endShadow s k r) k { kEng (endShadow s k r) k with shadowRuns := ((kEng (endShadow s k r) k).shadowRuns + 1) % 2 ^ 32 } ∧
      (differs = true ∨ r.lanes ≠ r.primary) ∧
      s3 = setKEng s2 k { kEng s2 k with shadowMismatch := min ((kEng s2 k).shadowMismatch + 1) 65535, log := kaoRecord s2 k 2 (k ^^^ 1) r.coll r.chunk } ∧
      k < 16 ∧ readRun s k = some r) ∧
    (∃ (s : State) (k : Nat) (t : Nat) (r : ShadowRun), k < 16 ∧ readRun s k = some r ∧ r.readAt = some t ∧
      t + ticksOfUs (fld s .SHADOW_TMO_US) ≤ s.raw) ∧
    (∃ (s : State) (k : Nat) (t : Token), tfind s.marl.tokens k = some t ∧ t.phase = .waiting ∧ t.dispAt + ticksOfUs (fld s .COMBINE_TMO_US) ≤ s.raw) :=
  ⟨⟨on, own (inline progImage), w_combineEnginesComplete1_img, ⟨rfl, rfl⟩, eq_okVal (by decide +kernel), by decide +kernel⟩,
   ⟨w_combineEnginesComplete2_s, _, 15, w_combineEnginesComplete2_r, rfl, by decide +kernel⟩,
   ⟨w_combineEnginesComplete3_s, _, 15, w_combineEnginesComplete3_r, true, _, rfl, Or.inl rfl, rfl, by decide +kernel⟩,
   ⟨w_combineEnginesComplete4_s, 15, 5, w_combineEnginesComplete4_r, by decide +kernel⟩,
   ⟨w_combineEnginesComplete5_s, 1, w_combineEnginesComplete5_t, by decide +kernel⟩⟩

def w_routerEngineComplete1_img : List Byte := (okVal [] (let s : State := on; let c : Ncp := ten (inline opImage); imgSource c 0 (flag s .MDMA_LOCK) 16777216))
def w_routerEngineComplete1_t : State := (someVal on (let s : State := on; let img : List Byte := w_routerEngineComplete1_img; placeMop s (beAt img 6 1) (mopOfImage img) (img.length - 64)))
def w_routerEngineComplete3_p0 : StoredFrame × State := (someVal (ctrl 0 0 [], on) (let s : State := inbox ({ routing with marl := { routing.marl with tokens := [(1, { part := 5, src := 1, collId := 2, chunk := 3, layer := 4, rop := 0, mop := 9, half := 0, tc := 0, firstAt := 5 })] } }) piece; let fid : Nat := 1; takeHeld s fid 4))
def w_routerEngineComplete3_s1 : State := (readFrame (wakeMop w_routerEngineComplete3_p0.2 9 w_routerEngineComplete3_p0.1.inHalf (isSplit router)) 1).2
def w_routerEngineComplete3_t : Token := { part := 5, src := 1, collId := 2, chunk := 3, layer := 4, rop := 0, mop := 9, half := 0, tc := 0, firstAt := 5 }
def w_routerEngineComplete3_d : Tensor := (okVal { fmt := 0, elems := [], scales := [] } (let f : StoredFrame := w_routerEngineComplete3_p0.1; parsePayload f.ffh.fmt f.ffh.scl f.data))
def w_routerEngineComplete3_s : State := inbox ({ routing with marl := { routing.marl with tokens := [(1, w_routerEngineComplete3_t)] } }) piece
def w_routerEngineComplete4_p0 : StoredFrame × State := (someVal (ctrl 0 0 [], on) (let s : State := inbox routing piece; let fid : Nat := 1; takeHeld s fid 4))
def w_routerEngineComplete4_s1 : State := (readFrame (wakeMop w_routerEngineComplete4_p0.2 9 w_routerEngineComplete4_p0.1.inHalf (isSplit router)) 1).2
def w_routerEngineComplete4_d : Tensor := (okVal { fmt := 0, elems := [], scales := [] } (let f : StoredFrame := w_routerEngineComplete4_p0.1; parsePayload f.ffh.fmt f.ffh.scl f.data))
def w_routerEngineComplete5_t : Token := { part := 5, src := 1, collId := 2, chunk := 3, layer := 4, rop := 0, mop := 9, half := 0, tc := 0, firstAt := 5 }
def w_routerEngineComplete5_s : State := { on with marl := { tokens := [(1, w_routerEngineComplete5_t)] } }
def w_routerEngineComplete6_t : Token := { part := 5, src := 1, collId := 2, chunk := 3, layer := 4, rop := 0, mop := 9, half := 0, tc := 0, firstAt := 5, phase := .whole }
def w_routerEngineComplete6_s : State := { routing with marl := { routing.marl with tokens := [(1, w_routerEngineComplete6_t)] } }
def w_routerEngineComplete6_s1 : State := readWeights w_routerEngineComplete6_s 9 0 2 3
def w_routerEngineComplete6_s2 : State := (checkRows (w_routerEngineComplete6_s1) 9 0 2 3 router [tokenElems (w_routerEngineComplete6_s1) router (w_routerEngineComplete6_t)] none []).2
def w_routerEngineComplete7_p0 : StoredFrame × State := (someVal (ctrl 0 0 [], on) (let s : State := inbox (awake { routing with marl := { routing.marl with tokens := [(1, { part := 5, src := 1, collId := 2, chunk := 3, layer := 4, rop := 0, mop := 9, half := 0, tc := 0, firstAt := 5, phase := .waiting, expect := 1, exps := [0] })] } }) answer; let fid : Nat := 1; takeHeld s fid 5))
def w_routerEngineComplete7_s1 : State := (readFrame w_routerEngineComplete7_p0.2 1).2
def w_routerEngineComplete7_d : Tensor := (okVal { fmt := 0, elems := [], scales := [] } (let f : StoredFrame := w_routerEngineComplete7_p0.1; parsePayload f.ffh.fmt f.ffh.scl f.data))
def w_routerEngineComplete7_t : Token := { part := 5, src := 1, collId := 2, chunk := 3, layer := 4, rop := 0, mop := 9, half := 0, tc := 0, firstAt := 5, phase := .waiting, expect := 1, exps := [0] }
def w_routerEngineComplete7_s : State := inbox (awake { routing with marl := { routing.marl with tokens := [(1, w_routerEngineComplete7_t)] } }) answer
def w_routerEngineComplete8_p0 : StoredFrame × State := (someVal (ctrl 0 0 [], on) (let s : State := inbox (awake { routing with marl := { routing.marl with tokens := [(1, { part := 5, src := 1, collId := 2, chunk := 3, layer := 4, rop := 0, mop := 9, half := 0, tc := 0, firstAt := 5, phase := .waiting, expect := 3, exps := [0, 1] })] } }) answer; let fid : Nat := 1; takeHeld s fid 5))
def w_routerEngineComplete8_s1 : State := (readFrame w_routerEngineComplete8_p0.2 1).2
def w_routerEngineComplete8_d : Tensor := (okVal { fmt := 0, elems := [], scales := [] } (let f : StoredFrame := w_routerEngineComplete8_p0.1; parsePayload f.ffh.fmt f.ffh.scl f.data))
def w_routerEngineComplete8_t : Token := { part := 5, src := 1, collId := 2, chunk := 3, layer := 4, rop := 0, mop := 9, half := 0, tc := 0, firstAt := 5, phase := .waiting, expect := 3, exps := [0, 1] }
def w_routerEngineComplete8_s : State := inbox (awake { routing with marl := { routing.marl with tokens := [(1, w_routerEngineComplete8_t)] } }) answer
def w_routerEngineComplete9_p0 : StoredFrame × State := (someVal (ctrl 0 0 [], on) (let s : State := inbox (awake { routing with marl := { routing.marl with tokens := [(1, { part := 5, src := 1, collId := 2, chunk := 3, layer := 4, rop := 0, mop := 9, half := 0, tc := 0, firstAt := 5, phase := .waiting, expect := 1, exps := [0] })] } }) answer; let fid : Nat := 1; takeHeld s fid 5))
def w_routerEngineComplete9_s1 : State := (readFrame w_routerEngineComplete9_p0.2 1).2
def w_routerEngineComplete9_d : Tensor := (okVal { fmt := 0, elems := [], scales := [] } (let f : StoredFrame := w_routerEngineComplete9_p0.1; parsePayload f.ffh.fmt f.ffh.scl f.data))
def w_routerEngineComplete9_t : Token := { part := 5, src := 1, collId := 2, chunk := 3, layer := 4, rop := 0, mop := 9, half := 0, tc := 0, firstAt := 5, phase := .waiting, expect := 1, exps := [0] }
def w_routerEngineComplete9_s : State := inbox (awake { routing with marl := { routing.marl with tokens := [(1, w_routerEngineComplete9_t)] } }) answer
def w_routerEngineComplete10_t : Tile := { mop := 8, half := 1, j := 0, array := 127, pages := [4] }
def w_routerEngineComplete10_s : State := { on with marl := { mops := [(8, { header := [0, 0, 0, 0, 1, 2], biases := [], scales := [], weights := [] })], tiles := [w_routerEngineComplete10_t], retired := [127 * 128 + 4] } }

/-- The hypotheses of RouterEngineComplete can be met, clause by clause. -/
theorem test_holds_routerEngineComplete :
    (∃ (s : State) (t : State) (c : Ncp) (p : Nat) (img : List Byte), TenantCmd s c p ∧ imgSource c 0 (flag s .MDMA_LOCK) 16777216 = .ok img ∧
      placeMop s (beAt img 6 1) (mopOfImage img) (img.length - 64) = some t ∧ mPart (mopOfImage img) = p ∧ mopEncodingOk img = true ∧
      flag s .MW_LOCK = false ∧ mopOf s (beAt img 6 1) = none ∧
      (mKind (mopOfImage img) = 1 → routerOf s p (mLayer (mopOfImage img)) (mRop (mopOfImage img)) = none)) ∧
    (∃ (s : State) (c : Ncp) (p : Nat) (id : Nat) (m : Mop), TenantCmd s c p ∧ c.body = beBytes 1 id ∧ id < 256 ∧ mopOf s id = some m ∧ mPart m = p ∧
      flag s .MW_LOCK = false ∧ mopInUse s id = false) ∧
    (∃ (s : State) (s0 : State) (s1 : State) (fid : Nat) (id : Nat) (f : StoredFrame) (m : Mop) (d : Tensor) (k : Nat) (t : Token),
      takeHeld s fid 4 = some (f, s0) ∧ readFrame (wakeMop s0 id f.inHalf (isSplit m)) fid = (true, s1) ∧
      parsePayload f.ffh.fmt f.ffh.scl f.data = .ok d ∧ routerOf s0 f.ffh.part f.ffh.layer (bitsOf f.ffh.oper 15 12) = some (id, m) ∧
      mopAwake s id f.inHalf (isSplit m) = true ∧ m.failed = false ∧ f.ffh.fmt ≠ 0 ∧ f.ffh.fmt ≤ 7 ∧ f.ffh.oper % 8 < dataPieces m ∧
      d.elems.length = pieceLen m (f.ffh.oper % 8) ∧
      tokenOf s1 f.ffh.part f.ffh.src f.ffh.collId f.ffh.chunk f.ffh.layer (bitsOf f.ffh.oper 15 12) = some (k, t) ∧ t.phase = .assembling ∧
      t.pieces.any (·.1 == f.ffh.oper % 8) = false) ∧
    (∃ (s : State) (s0 : State) (s1 : State) (fid : Nat) (id : Nat) (f : StoredFrame) (m : Mop) (d : Tensor), takeHeld s fid 4 = some (f, s0) ∧
      readFrame (wakeMop s0 id f.inHalf (isSplit m)) fid = (true, s1) ∧ parsePayload f.ffh.fmt f.ffh.scl f.data = .ok d ∧
      routerOf s0 f.ffh.part f.ffh.layer (bitsOf f.ffh.oper 15 12) = some (id, m) ∧ mopAwake s id f.inHalf (isSplit m) = true ∧ m.failed = false ∧
      f.ffh.fmt ≠ 0 ∧ f.ffh.fmt ≤ 7 ∧ f.ffh.oper % 8 < dataPieces m ∧ d.elems.length = pieceLen m (f.ffh.oper % 8) ∧
      tokenOf s1 f.ffh.part f.ffh.src f.ffh.collId f.ffh.chunk f.ffh.layer (bitsOf f.ffh.oper 15 12) = none) ∧
    (∃ (s : State) (k : Nat) (t : Token), tfind s.marl.tokens k = some t ∧ t.phase = .assembling ∧ t.firstAt + ticksOfUs (fld s .ASM_TMO_US) ≤ s.raw) ∧
    (∃ (s : State) (s1 : State) (s2 : State) (k : Nat) (t : Token) (m0 : Mop) (m : Mop), s1 = readWeights s t.mop t.half t.collId t.chunk ∧
      checkRows s1 t.mop t.half t.collId t.chunk m [tokenElems s1 m t] none [] = (none, s2) ∧ (∀ z ∈ tokenLogits m (tokenElems s1 m t),
      finite32 z = true) ∧ tfind s.marl.tokens k = some t ∧ t.phase = .whole ∧ mopOf s t.mop = some m0 ∧ mopAwake s t.mop t.half (isSplit m0) = true ∧
      mopOf s1 t.mop = some m ∧ m.failed = false) ∧
    (∃ (s : State) (s0 : State) (s1 : State) (fid : Nat) (k : Nat) (j : Nat) (f : StoredFrame) (t : Token) (m : Mop) (d : Tensor) (a : Token × State),
      takeHeld s fid 5 = some (f, s0) ∧ readFrame s0 fid = (true, s1) ∧ parsePayload f.ffh.fmt f.ffh.scl f.data = .ok d ∧
      a = addExpert s1 k m t j (f.ffh.oper % 8) fid d ∧
      tokenOf s0 f.ffh.part f.ffh.dst f.ffh.collId f.ffh.chunk f.ffh.layer (bitsOf f.ffh.oper 15 12) = some (k, t) ∧ mopOf s0 t.mop = some m ∧
      (onesOf 8 t.expect).find? (fun j => t.exps.getD j 0 == bitsOf f.ffh.oper 11 3) = some j ∧ t.phase = .waiting ∧
      engineAwake s0 (combineEngine t) = true ∧ f.ffh.fmt ≠ 0 ∧ f.ffh.fmt ≤ 7 ∧ f.ffh.oper % 8 < dataPieces m ∧
      d.elems.length = pieceLen m (f.ffh.oper % 8) ∧ t.got.contains (j, f.ffh.oper % 8) = false) ∧
    (∃ (s : State) (s0 : State) (s1 : State) (fid : Nat) (k : Nat) (j : Nat) (f : StoredFrame) (t : Token) (m : Mop) (d : Tensor) (a : Token × State),
      takeHeld s fid 5 = some (f, s0) ∧ readFrame s0 fid = (true, s1) ∧ parsePayload f.ffh.fmt f.ffh.scl f.data = .ok d ∧
      a = addExpert s1 k m t j (f.ffh.oper % 8) fid d ∧
      tokenOf s0 f.ffh.part f.ffh.dst f.ffh.collId f.ffh.chunk f.ffh.layer (bitsOf f.ffh.oper 15 12) = some (k, t) ∧ mopOf s0 t.mop = some m ∧
      (onesOf 8 t.expect).find? (fun j => t.exps.getD j 0 == bitsOf f.ffh.oper 11 3) = some j ∧ t.phase = .waiting ∧
      engineAwake s0 (combineEngine t) = true ∧ f.ffh.fmt ≠ 0 ∧ f.ffh.fmt ≤ 7 ∧ f.ffh.oper % 8 < dataPieces m ∧
      d.elems.length = pieceLen m (f.ffh.oper % 8) ∧ t.got.contains (j, f.ffh.oper % 8) = false ∧ combineReady m a.1 = false) ∧
    (∃ (s : State) (s0 : State) (s1 : State) (fid : Nat) (k : Nat) (j : Nat) (f : StoredFrame) (t : Token) (m : Mop) (d : Tensor) (a : Token × State),
      takeHeld s fid 5 = some (f, s0) ∧ readFrame s0 fid = (true, s1) ∧ parsePayload f.ffh.fmt f.ffh.scl f.data = .ok d ∧
      a = addExpert s1 k m t j (f.ffh.oper % 8) fid d ∧
      tokenOf s0 f.ffh.part f.ffh.dst f.ffh.collId f.ffh.chunk f.ffh.layer (bitsOf f.ffh.oper 15 12) = some (k, t) ∧ mopOf s0 t.mop = some m ∧
      (onesOf 8 t.expect).find? (fun j => t.exps.getD j 0 == bitsOf f.ffh.oper 11 3) = some j ∧ t.phase = .waiting ∧
      engineAwake s0 (combineEngine t) = true ∧ f.ffh.fmt ≠ 0 ∧ f.ffh.fmt ≤ 7 ∧ f.ffh.oper % 8 < dataPieces m ∧
      d.elems.length = pieceLen m (f.ffh.oper % 8) ∧ t.got.contains (j, f.ffh.oper % 8) = false ∧ combineReady m a.1 = true) ∧
    (∃ (s : State) (a : Nat) (p : Nat) (b : Nat) (n : Nat) (t : Tile), a < 128 ∧
      s.marl.tiles.find? (fun t => t.array == a && t.pages.contains p && s.marl.retired.contains (a * 128 + p) && (match mopOf s t.mop with | some m => mKind m == 2 | none => false)) = some t ∧
      n = t.pages.length ∧ roomiest { s.marl with tiles := s.marl.tiles.filter (· != t) } (a / 64) n (fun _ => true) = some b) :=
  ⟨⟨on, w_routerEngineComplete1_t, ten (inline opImage), 5, w_routerEngineComplete1_img, ⟨rfl, rfl, by decide +kernel⟩, eq_okVal (by decide +kernel),
     eq_someVal (by decide +kernel), by decide +kernel⟩,
   ⟨routing, ten (beBytes 1 9), 5, 9, router, ⟨rfl, rfl, by decide +kernel⟩, by decide +kernel⟩,
   ⟨w_routerEngineComplete3_s, w_routerEngineComplete3_p0.2, w_routerEngineComplete3_s1, 1, 9, w_routerEngineComplete3_p0.1, router,
     w_routerEngineComplete3_d, 1, w_routerEngineComplete3_t, eq_somePair (by decide +kernel), Prod.ext (by decide +kernel) rfl,
     eq_okVal (by decide +kernel), by decide +kernel⟩,
   ⟨inbox routing piece, w_routerEngineComplete4_p0.2, w_routerEngineComplete4_s1, 1, 9, w_routerEngineComplete4_p0.1, router,
     w_routerEngineComplete4_d, eq_somePair (by decide +kernel), Prod.ext (by decide +kernel) rfl, eq_okVal (by decide +kernel), by decide +kernel⟩,
   ⟨w_routerEngineComplete5_s, 1, w_routerEngineComplete5_t, by decide +kernel⟩,
   ⟨w_routerEngineComplete6_s, w_routerEngineComplete6_s1, w_routerEngineComplete6_s2, 1, w_routerEngineComplete6_t, router, router, rfl,
     Prod.ext (by decide +kernel) rfl, by decide +kernel⟩,
   ⟨w_routerEngineComplete7_s, w_routerEngineComplete7_p0.2, w_routerEngineComplete7_s1, 1, 1, 0, w_routerEngineComplete7_p0.1,
     w_routerEngineComplete7_t, router, w_routerEngineComplete7_d, _, eq_somePair (by decide +kernel), Prod.ext (by decide +kernel) rfl,
     eq_okVal (by decide +kernel), rfl, by decide +kernel⟩,
   ⟨w_routerEngineComplete8_s, w_routerEngineComplete8_p0.2, w_routerEngineComplete8_s1, 1, 1, 0, w_routerEngineComplete8_p0.1,
     w_routerEngineComplete8_t, router, w_routerEngineComplete8_d, _, eq_somePair (by decide +kernel), Prod.ext (by decide +kernel) rfl,
     eq_okVal (by decide +kernel), rfl, by decide +kernel⟩,
   ⟨w_routerEngineComplete9_s, w_routerEngineComplete9_p0.2, w_routerEngineComplete9_s1, 1, 1, 0, w_routerEngineComplete9_p0.1,
     w_routerEngineComplete9_t, router, w_routerEngineComplete9_d, _, eq_somePair (by decide +kernel), Prod.ext (by decide +kernel) rfl,
     eq_okVal (by decide +kernel), rfl, by decide +kernel⟩,
   ⟨w_routerEngineComplete10_s, 127, 4, 64, 1, w_routerEngineComplete10_t, by decide +kernel⟩⟩

def w_collectiveSetupCompletes1_l : TList := { lver := 4, imgId := 9, members := [49152] }
def w_collectiveSetupCompletes1_img : List Byte := (okVal [] (let c : Ncp := ten (inline memberImage); readImage c 0 0x4E5A001A 1 false))
def w_collectiveSetupCompletes3_s : State := oneQueue [0] (dsc 4 0 32 3)
def w_collectiveSetupCompletes3_x : TQueue := { part := 5, descs := [dsc 4 0 32 3] }
def w_collectiveSetupCompletes3_c : Ncp := ten (beBytes 1 127 ++ beBytes 2 1 ++ [dsc 4 0 32 3].flatten)
def w_collectiveSetupCompletes4_c : Ncp := ten (beBytes 1 127 ++ [1])
def w_collectiveSetupCompletes4_x : TQueue := { part := 5, stopped := true }
def w_collectiveSetupCompletes4_s : State := { on with tilth := { queues := [(127, w_collectiveSetupCompletes4_x)] } }
def w_collectiveSetupCompletes5_c : Ncp := ten (beBytes 1 127 ++ [2])
def w_collectiveSetupCompletes5_x : TQueue := { part := 5, stopped := true }
def w_collectiveSetupCompletes5_s : State := { on with tilth := { queues := [(127, w_collectiveSetupCompletes5_x)] } }
def w_collectiveSetupCompletes6_c : Ncp := ten (beBytes 1 127 ++ [3])
def w_collectiveSetupCompletes6_x : TQueue := { part := 5, stopped := true }
def w_collectiveSetupCompletes6_s : State := { on with tilth := { queues := [(127, w_collectiveSetupCompletes6_x)] } }
def w_collectiveSetupCompletes7_c : Ncp := ten (beBytes 1 127 ++ [4])
def w_collectiveSetupCompletes7_x : TQueue := { part := 5, stopped := true }
def w_collectiveSetupCompletes7_s : State := { on with tilth := { queues := [(127, w_collectiveSetupCompletes7_x)] } }
def w_collectiveSetupCompletes8_c : Ncp := ten (beBytes 4 0 ++ dsc 4 0 32 0)
def w_collectiveSetupCompletes9_s : State := oneQueue [7] (dsc 4 0 32 3)
def w_collectiveSetupCompletes9_x : TQueue := { part := 5, descs := [dsc 4 0 32 3] }
def w_collectiveSetupCompletes9_s0 : State := readGroup (w_collectiveSetupCompletes9_s) (dsc 4 0 32 3) 1
def w_collectiveSetupCompletes9_u : State := (okVal on (let s0 : State := w_collectiveSetupCompletes9_s0; let q : Nat := 127; let x : TQueue := w_collectiveSetupCompletes9_x; let d : Desc := dsc 4 0 32 3; let rest : List Desc := []; admitColl { s0 with tilth := { s0.tilth with queues := tins s0.tilth.queues q { x with descs := rest } } } d (some q) (q / 64) 0 0))
def w_collectiveSetupCompletes10_x : TQueue := { part := 5, descs := [dsc 9 0 32 3] }
def w_collectiveSetupCompletes10_s : State := oneQueue [0, 0, 0, 0, 0] (dsc 9 0 32 3)
def w_collectiveSetupCompletes10_s0 : State := readGroup (w_collectiveSetupCompletes10_s) (dsc 9 0 32 3) 1
def w_collectiveSetupCompletes10_e : Code := errVal .done (admitColl { w_collectiveSetupCompletes10_s0 with tilth := { w_collectiveSetupCompletes10_s0.tilth with queues := tins w_collectiveSetupCompletes10_s0.tilth.queues 127 { part := 5, descs := [] } } } (dsc 9 0 32 3) (some 127) (127 / 64) 0 0)

/-- The hypotheses of CollectiveSetupCompletes can be met, clause by clause. -/
theorem test_holds_collectiveSetupCompletes :
    (∃ (s : State) (c : Ncp) (p : Nat) (img : List Byte) (l : TList), TenantCmd s c p ∧ readImage c 0 0x4E5A001A 1 false = .ok img ∧ (∀ i x,
      l.nodes[i]? = some x → nodeOk l.nodes.length i x = true ∧ x.spine < 2 ^ dimsN s) ∧ beAt img 8 2 % 4096 = p ∧ listHeadOk img = true ∧
      l = { lver := beAt img 10 2, imgId := beAt img 16 8, members := if beAt img 5 1 = 1 then listMembers img else [], nodes := if beAt img 5 1 = 1 then [] else listNodes img } ∧
      l.members.all (memberOk s) = true ∧ flag s .LIST_LOCK = false ∧ listShapeOk l = true ∧
      (s.tilth.colls.any fun e => e.2.part == p && (dMlist e.2.desc == beAt img 6 2 || dSlist e.2.desc == beAt img 6 2)) = false ∧
      listEntries s (p * 65536 + beAt img 6 2) (·.members.length) + l.members.length ≤ 2097152 ∧
      listEntries s (p * 65536 + beAt img 6 2) (·.nodes.length) + l.nodes.length ≤ 262144) ∧
    (∃ (s : State) (c : Ncp) (p : Nat) (q : Nat), TenantCmd s c p ∧ c.body = beBytes 1 q ∧ q < 128 ∧ tfind s.tilth.queues q = none) ∧
    (∃ (s : State) (c : Ncp) (p : Nat) (q : Nat) (n : Nat) (x : TQueue) (ds : List (List Byte)), TenantCmd s c p ∧ (∀ d ∈ ds, d.length = 64 ∧
      dPart d = p ∧ descOk s d = true ∧ (dWaitV d = true → ∀ y, tfind s.tilth.queues (dWaitQ d) = some y → y.part = p)) ∧ q < 128 ∧ 1 ≤ n ∧
      n < 65536 ∧ ds.length = n ∧ c.body = beBytes 1 q ++ beBytes 2 n ++ ds.flatten ∧ tfind s.tilth.queues q = some x ∧ x.part = p ∧
      x.descs.length + n ≤ 512) ∧
    (∃ (s : State) (c : Ncp) (p : Nat) (q : Nat) (x : TQueue), TenantCmd s c p ∧ q < 128 ∧ tfind s.tilth.queues q = some x ∧ x.part = p ∧
      x.stopped = true ∧ c.body = beBytes 1 q ++ [1]) ∧
    (∃ (s : State) (c : Ncp) (p : Nat) (q : Nat) (x : TQueue), TenantCmd s c p ∧ q < 128 ∧ tfind s.tilth.queues q = some x ∧ x.part = p ∧
      x.stopped = true ∧ c.body = beBytes 1 q ++ [2]) ∧
    (∃ (s : State) (c : Ncp) (p : Nat) (q : Nat) (x : TQueue), TenantCmd s c p ∧ q < 128 ∧ tfind s.tilth.queues q = some x ∧ x.part = p ∧
      x.stopped = true ∧ c.body = beBytes 1 q ++ [3]) ∧
    (∃ (s : State) (c : Ncp) (p : Nat) (q : Nat) (x : TQueue), TenantCmd s c p ∧ q < 128 ∧ tfind s.tilth.queues q = some x ∧ x.part = p ∧
      x.stopped = true ∧ c.body = beBytes 1 q ++ [4] ∧ (s.tilth.colls.any fun e => e.2.queue == some q) = false) ∧
    (∃ (s : State) (c : Ncp) (p : Nat), TenantCmd s c p ∧ c.body.length = 68 ∧ dPart (c.body.drop 4) = p ∧ descStatic (c.body.drop 4) = true ∧
      dColl (c.body.drop 4) = 0 ∧ beAt (c.body.drop 4) 38 6 = 0 ∧ flag s .TPL_LOCK = false ∧ s.tilth.templates.length < 256 ∧
      (s.tilth.colls.any fun e => e.2.queue.isNone && e.2.part == p && e.2.layer == beAt c.body 0 2 && e.2.oper == beAt c.body 2 2) = false) ∧
    (∃ (s : State) (s0 : State) (q : Nat) (x : TQueue) (d : Desc) (rest : List Desc) (u : State), s0 = readGroup s d (q / 64) ∧
      admitColl { s0 with tilth := { s0.tilth with queues := tins s0.tilth.queues q { x with descs := rest } } } d (some q) (q / 64) 0 0 = .ok u ∧
      q < 128 ∧ tfind s.tilth.queues q = some x ∧ x.descs = d :: rest ∧ x.stopped = false ∧ waitOver s d = true ∧ admittedIn s (q / 64) < 4096) ∧
    (∃ (s : State) (s0 : State) (q : Nat) (x : TQueue) (d : Desc) (rest : List Desc) (e : Code), s0 = readGroup s d (q / 64) ∧
      admitColl { s0 with tilth := { s0.tilth with queues := tins s0.tilth.queues q { x with descs := rest } } } d (some q) (q / 64) 0 0 = .error e ∧
      q < 128 ∧ tfind s.tilth.queues q = some x ∧ x.descs = d :: rest ∧ x.stopped = false ∧ waitOver s d = true ∧ admittedIn s (q / 64) < 4096) :=
  ⟨⟨on, ten (inline memberImage), 5, w_collectiveSetupCompletes1_img, w_collectiveSetupCompletes1_l, ⟨rfl, rfl, by decide +kernel⟩,
     eq_okVal (by decide +kernel), fun _ _ h => absurd (List.getElem?_nil.symm.trans h) (by simp), by decide +kernel⟩,
   ⟨on, ten (beBytes 1 127), 5, 127, ⟨rfl, rfl, by decide +kernel⟩, by decide +kernel⟩,
   ⟨w_collectiveSetupCompletes3_s, w_collectiveSetupCompletes3_c, 5, 127, 1, w_collectiveSetupCompletes3_x, [dsc 4 0 32 3], ⟨rfl, rfl,
     by decide +kernel⟩, fun d hd => List.mem_singleton.mp hd ▸ ⟨by decide +kernel, by decide +kernel, by decide +kernel,
     fun h => absurd h (by decide +kernel)⟩, by decide +kernel⟩,
   ⟨w_collectiveSetupCompletes4_s, w_collectiveSetupCompletes4_c, 5, 127, w_collectiveSetupCompletes4_x, ⟨rfl, rfl, by decide +kernel⟩,
     by decide +kernel⟩,
   ⟨w_collectiveSetupCompletes5_s, w_collectiveSetupCompletes5_c, 5, 127, w_collectiveSetupCompletes5_x, ⟨rfl, rfl, by decide +kernel⟩,
     by decide +kernel⟩,
   ⟨w_collectiveSetupCompletes6_s, w_collectiveSetupCompletes6_c, 5, 127, w_collectiveSetupCompletes6_x, ⟨rfl, rfl, by decide +kernel⟩,
     by decide +kernel⟩,
   ⟨w_collectiveSetupCompletes7_s, w_collectiveSetupCompletes7_c, 5, 127, w_collectiveSetupCompletes7_x, ⟨rfl, rfl, by decide +kernel⟩,
     by decide +kernel⟩,
   ⟨on, w_collectiveSetupCompletes8_c, 5, ⟨rfl, rfl, by decide +kernel⟩, by decide +kernel⟩,
   ⟨w_collectiveSetupCompletes9_s, w_collectiveSetupCompletes9_s0, 127, w_collectiveSetupCompletes9_x, dsc 4 0 32 3, [],
     w_collectiveSetupCompletes9_u, rfl, eq_okVal (by decide +kernel), by decide +kernel⟩,
   ⟨w_collectiveSetupCompletes10_s, w_collectiveSetupCompletes10_s0, 127, w_collectiveSetupCompletes10_x, dsc 9 0 32 3, [],
     w_collectiveSetupCompletes10_e, rfl, eq_errVal (by decide +kernel), by decide +kernel⟩⟩

def w_collectiveProgressCompletes1_s : State := gathering [0] (coll (dsc 1 8 16 3))
def w_collectiveProgressCompletes2_p0 : StoredFrame × State := (someVal (ctrl 0 0 [], on) (let s : State := inbox (gathering [0] (coll (dsc 1 8 16 3))) (contrib 8); let fid : Nat := 1; takeHeld s fid 1))
def w_collectiveProgressCompletes2_s1 : State := (readFrame w_collectiveProgressCompletes2_p0.2 1).2
def w_collectiveProgressCompletes2_s : State := inbox (gathering [0] (coll (dsc 1 8 16 3))) (contrib 8)
def w_collectiveProgressCompletes2_x : Tensor × Nat := (okVal ({ fmt := 0, elems := [], scales := [] }, 0) (let f : StoredFrame := w_collectiveProgressCompletes2_p0.1; contribOf f))
def w_collectiveProgressCompletes2_u : State := (fileFrame w_collectiveProgressCompletes2_s1 (coll (dsc 1 8 16 3)) 0 0 1 8 16).2
def w_collectiveProgressCompletes3_p0 : StoredFrame × State := (someVal (ctrl 0 0 [], on) (let s : State := inbox (awake <|gathering [0] (coll (dsc 1 8 16 3))) (contrib 16); let fid : Nat := 1; takeHeld s fid 1))
def w_collectiveProgressCompletes3_s1 : State := (readFrame w_collectiveProgressCompletes3_p0.2 1).2
def w_collectiveProgressCompletes3_s : State := inbox (awake <|gathering [0] (coll (dsc 1 8 16 3))) (contrib 16)
def w_collectiveProgressCompletes3_x : Tensor × Nat := (okVal ({ fmt := 0, elems := [], scales := [] }, 0) (let f : StoredFrame := w_collectiveProgressCompletes3_p0.1; contribOf f))
def w_collectiveProgressCompletes3_u : State := (fileFrame w_collectiveProgressCompletes3_s1 (coll (dsc 1 8 16 3)) 0 0 1 16 16).2
def w_collectiveProgressCompletes4_c : Coll := { coll (dsc 1 8 16 3) with chunks := [(0, { pieces := [(0, { got := 16, done := true })] })] }
def w_collectiveProgressCompletes4_s : State := awake (gathering [0] (w_collectiveProgressCompletes4_c))
def w_collectiveProgressCompletes5_p0 : StoredFrame × State := (okVal (ctrl 0 0 [], on) (let s : State := inbox (gathering [0] (coll (dsc 5 0 0 3))) (note 1 0 0); let fid : Nat := 1; takeKind s fid 6))
def w_collectiveProgressCompletes5_s : State := inbox (gathering [0] (coll (dsc 5 0 0 3))) (note 1 0 0)
def w_collectiveProgressCompletes6_p0 : StoredFrame × State := (okVal (ctrl 0 0 [], on) (let s : State := inbox (gathering [0] (coll (dsc 5 0 0 3))) (note 2 0 0); let fid : Nat := 1; takeKind s fid 6))
def w_collectiveProgressCompletes6_s : State := inbox (gathering [0] (coll (dsc 5 0 0 3))) (note 2 0 0)
def w_collectiveProgressCompletes7_p0 : StoredFrame × State := (okVal (ctrl 0 0 [], on) (let s : State := inbox (gathering [0] (coll (dsc 5 0 0 3))) (note 4 0 0); let fid : Nat := 1; takeKind s fid 6))
def w_collectiveProgressCompletes7_s : State := inbox (gathering [0] (coll (dsc 5 0 0 3))) (note 4 0 0)
def w_collectiveProgressCompletes8_p0 : StoredFrame × State := (okVal (ctrl 0 0 [], on) (let s : State := inbox (gathering [7, 0] (coll (dsc 5 0 0 3))) (note 5 3 0); let fid : Nat := 1; takeKind s fid 6))
def w_collectiveProgressCompletes8_s : State := inbox (gathering [7, 0] (coll (dsc 5 0 0 3))) (note 5 3 0)
def w_collectiveProgressCompletes9_p0 : StoredFrame × State := (okVal (ctrl 0 0 [], on) (let s : State := inbox (gathering [7, 0] (coll (dsc 5 0 0 3))) lastAbort; let fid : Nat := 1; takeKind s fid 6))
def w_collectiveProgressCompletes9_s : State := inbox (gathering [7, 0] (coll (dsc 5 0 0 3))) lastAbort
def w_collectiveProgressCompletes10_p0 : StoredFrame × State := (okVal (ctrl 0 0 [], on) (let s : State := inbox (gathering [0] (coll (dsc 5 0 0 3))) lastAbort; let fid : Nat := 1; takeKind s fid 6))
def w_collectiveProgressCompletes10_s : State := inbox (gathering [0] (coll (dsc 5 0 0 3))) lastAbort
def w_collectiveProgressCompletes11_c : Coll := { coll (dsc 5 0 0 3) with failed := some 9 }
def w_collectiveProgressCompletes11_s : State := gathering [0] (w_collectiveProgressCompletes11_c)
def w_collectiveProgressCompletes12_s : State := gathering [0] (coll (dsc 5 0 0 3))
def w_collectiveProgressCompletes13_s : State := gathering [0] (coll (dsc 5 0 0 3))

/-- The hypotheses of CollectiveProgressCompletes can be met, clause by clause. -/
theorem test_holds_collectiveProgressCompletes :
    (∃ (s : State) (k : Nat) (c : Coll), collOf s k = some c ∧ c.prewoken = false ∧ c.start ≤ nowNs s + fld s .TL_PREWAKE_PREWAKE_NS ∧
      dMopV c.desc = false) ∧
    (∃ (s : State) (s0 : State) (s1 : State) (fid : Nat) (k : Nat) (key : Nat) (fmt : Nat) (len : Nat) (f : StoredFrame) (c : Coll) (x : Tensor × Nat) (u : State),
      takeHeld s fid 1 = some (f, s0) ∧ readFrame s0 fid = (true, s1) ∧ contribOf f = .ok x ∧
      fileFrame s1 c f.ffh.chunk key fid (trailOf f.data).n len = (false, u) ∧ k = collKey f.ffh.part f.ffh.collId ∧ collOf s0 k = some c ∧
      c.failed = none ∧ entersHere s0 c f.ffh = false ∧ 16 ≤ f.data.length ∧ (trailOf f.data).fp = fprint c.desc ∧
      pieceFor s1 c f.ffh (trailOf f.data) = some (key, fmt, len) ∧ key < 2 ^ 25 ∧ c.finished.contains f.ffh.chunk = false ∧
      (pieceOf (chunkOf c f.ffh.chunk) key).done = false ∧ f.ffh.fmt = fmt ∧ (trailOf f.data).off + (trailOf f.data).n ≤ len ∧
      (pieceOf (chunkOf c f.ffh.chunk) key).got + (trailOf f.data).n ≤ len) ∧
    (∃ (s : State) (s0 : State) (s1 : State) (fid : Nat) (k : Nat) (key : Nat) (fmt : Nat) (len : Nat) (f : StoredFrame) (c : Coll) (x : Tensor × Nat) (u : State),
      takeHeld s fid 1 = some (f, s0) ∧ readFrame s0 fid = (true, s1) ∧ contribOf f = .ok x ∧
      fileFrame s1 c f.ffh.chunk key fid (trailOf f.data).n len = (true, u) ∧ k = collKey f.ffh.part f.ffh.collId ∧ collOf s0 k = some c ∧
      c.failed = none ∧ entersHere s0 c f.ffh = false ∧ 16 ≤ f.data.length ∧ (trailOf f.data).fp = fprint c.desc ∧
      pieceFor s1 c f.ffh (trailOf f.data) = some (key, fmt, len) ∧ key < 2 ^ 25 ∧ c.finished.contains f.ffh.chunk = false ∧
      (pieceOf (chunkOf c f.ffh.chunk) key).done = false ∧ f.ffh.fmt = fmt ∧ (trailOf f.data).off + (trailOf f.data).n ≤ len ∧
      (pieceOf (chunkOf c f.ffh.chunk) key).got + (trailOf f.data).n ≤ len ∧ pieceWaits s c f.ffh.chunk key = none ∧ dReduces c.desc = true ∧
      dOrdered c.desc = false) ∧
    (∃ (s : State) (k : Nat) (chunk : Nat) (c : Coll), collOf s k = some c ∧ myNode s (treeOf s c) = some 0 ∧ c.failed = none ∧
      c.finished.contains chunk = false ∧ dReduces c.desc = true ∧ dOrdered c.desc = false ∧ chunk < chunkCount c.desc (membersOf s c).length ∧
      worksOn s c chunk = true ∧ inputsIn s c chunk = true ∧ engineAwake s (chunkEngine c chunk) = true ∧
      (dExact c.desc = true → chunkResidueOk s c chunk = true)) ∧
    (∃ (s : State) (s1 : State) (fid : Nat) (f : StoredFrame) (c : Coll), takeKind s fid 6 = .ok (f, s1) ∧
      collOf s1 (collKey f.ffh.part f.ffh.collId) = some c ∧ c.key = collKey f.ffh.part f.ffh.collId ∧ c.failed = none ∧ beAt f.data 0 1 = 1 ∧
      dOpc c.desc = 5 ∧ c.arrived.contains (beAt f.data 4 4) = false ∧ (neededMembers s1 c).contains (beAt f.data 4 4) = true) ∧
    (∃ (s : State) (s1 : State) (fid : Nat) (f : StoredFrame) (c : Coll), takeKind s fid 6 = .ok (f, s1) ∧ (∃ i, coordOf s1 (treeOf s1 c) = some i ∧
      myNode s1 (treeOf s1 c) = some i) ∧ collOf s1 (collKey f.ffh.part f.ffh.collId) = some c ∧ c.key = collKey f.ffh.part f.ffh.collId ∧
      c.failed = none ∧ beAt f.data 0 1 = 2 ∧ beAt f.data 4 4 < (treeOf s1 c).nodes.length) ∧
    (∃ (s : State) (s1 : State) (fid : Nat) (f : StoredFrame) (c : Coll), takeKind s fid 6 = .ok (f, s1) ∧
      collOf s1 (collKey f.ffh.part f.ffh.collId) = some c ∧ c.key = collKey f.ffh.part f.ffh.collId ∧ c.failed = none ∧ beAt f.data 0 1 = 4) ∧
    (∃ (s : State) (s1 : State) (fid : Nat) (f : StoredFrame) (c : Coll), takeKind s fid 6 = .ok (f, s1) ∧
      collOf s1 (collKey f.ffh.part f.ffh.collId) = some c ∧ c.key = collKey f.ffh.part f.ffh.collId ∧ c.failed = none ∧ beAt f.data 0 1 = 5 ∧
      f.ffh.last = false) ∧
    (∃ (s : State) (s1 : State) (fid : Nat) (f : StoredFrame) (c : Coll), takeKind s fid 6 = .ok (f, s1) ∧
      collOf s1 (collKey f.ffh.part f.ffh.collId) = some c ∧ c.key = collKey f.ffh.part f.ffh.collId ∧ c.failed = none ∧ beAt f.data 0 1 = 5 ∧
      f.ffh.last = true ∧ coordOf s1 (treeOf s1 c) ≠ myNode s1 (treeOf s1 c)) ∧
    (∃ (s : State) (s1 : State) (fid : Nat) (f : StoredFrame) (c : Coll), takeKind s fid 6 = .ok (f, s1) ∧ (∃ i, coordOf s1 (treeOf s1 c) = some i ∧
      myNode s1 (treeOf s1 c) = some i) ∧ collOf s1 (collKey f.ffh.part f.ffh.collId) = some c ∧ c.key = collKey f.ffh.part f.ffh.collId ∧
      c.failed = none ∧ beAt f.data 0 1 = 5 ∧ f.ffh.last = true) ∧
    (∃ (s : State) (k : Nat) (c : Coll) (st : Nat), collOf s k = some c ∧ c.start + dTmo c.desc * 1000 ≤ nowNs s ∧ c.failed = some st) ∧
    (∃ (s : State) (k : Nat) (c : Coll), collOf s k = some c ∧ c.start + dTmo c.desc * 1000 ≤ nowNs s ∧ c.failed = none ∧ dOpc c.desc ≠ 6 ∧
      c.sentDone = false) ∧
    (∃ (s : State) (c : Ncp) (p : Nat) (id : Nat) (x : Coll), TenantCmd s c p ∧ c.body = beBytes 4 id ∧ id < 2 ^ 32 ∧
      collOf s (collKey p id) = some x) :=
  ⟨⟨w_collectiveProgressCompletes1_s, collKey 5 3, coll (dsc 1 8 16 3), by decide +kernel⟩,
   ⟨w_collectiveProgressCompletes2_s, w_collectiveProgressCompletes2_p0.2, w_collectiveProgressCompletes2_s1, 1, collKey 5 3, 0, 8, 16,
     w_collectiveProgressCompletes2_p0.1, coll (dsc 1 8 16 3), w_collectiveProgressCompletes2_x, w_collectiveProgressCompletes2_u,
     eq_somePair (by decide +kernel), Prod.ext (by decide +kernel) rfl, eq_okVal (by decide +kernel), Prod.ext (by decide +kernel) rfl,
     by decide +kernel⟩,
   ⟨w_collectiveProgressCompletes3_s, w_collectiveProgressCompletes3_p0.2, w_collectiveProgressCompletes3_s1, 1, collKey 5 3, 0, 8, 16,
     w_collectiveProgressCompletes3_p0.1, coll (dsc 1 8 16 3), w_collectiveProgressCompletes3_x, w_collectiveProgressCompletes3_u,
     eq_somePair (by decide +kernel), Prod.ext (by decide +kernel) rfl, eq_okVal (by decide +kernel), Prod.ext (by decide +kernel) rfl,
     by decide +kernel⟩,
   ⟨w_collectiveProgressCompletes4_s, collKey 5 3, 0, w_collectiveProgressCompletes4_c, by decide +kernel⟩,
   ⟨w_collectiveProgressCompletes5_s, w_collectiveProgressCompletes5_p0.2, 1, w_collectiveProgressCompletes5_p0.1, coll (dsc 5 0 0 3),
     eq_okPair (by decide +kernel), by decide +kernel⟩,
   ⟨w_collectiveProgressCompletes6_s, w_collectiveProgressCompletes6_p0.2, 1, w_collectiveProgressCompletes6_p0.1, coll (dsc 5 0 0 3),
     eq_okPair (by decide +kernel), ⟨0, by decide +kernel, by decide +kernel⟩, by decide +kernel⟩,
   ⟨w_collectiveProgressCompletes7_s, w_collectiveProgressCompletes7_p0.2, 1, w_collectiveProgressCompletes7_p0.1, coll (dsc 5 0 0 3),
     eq_okPair (by decide +kernel), by decide +kernel⟩,
   ⟨w_collectiveProgressCompletes8_s, w_collectiveProgressCompletes8_p0.2, 1, w_collectiveProgressCompletes8_p0.1, coll (dsc 5 0 0 3),
     eq_okPair (by decide +kernel), by decide +kernel⟩,
   ⟨w_collectiveProgressCompletes9_s, w_collectiveProgressCompletes9_p0.2, 1, w_collectiveProgressCompletes9_p0.1, coll (dsc 5 0 0 3),
     eq_okPair (by decide +kernel), by decide +kernel⟩,
   ⟨w_collectiveProgressCompletes10_s, w_collectiveProgressCompletes10_p0.2, 1, w_collectiveProgressCompletes10_p0.1, coll (dsc 5 0 0 3),
     eq_okPair (by decide +kernel), ⟨0, by decide +kernel, by decide +kernel⟩, by decide +kernel⟩,
   ⟨w_collectiveProgressCompletes11_s, collKey 5 3, w_collectiveProgressCompletes11_c, 9, by decide +kernel⟩,
   ⟨w_collectiveProgressCompletes12_s, collKey 5 3, coll (dsc 5 0 0 3), by decide +kernel⟩,
   ⟨w_collectiveProgressCompletes13_s, ten (beBytes 4 3), 5, 3, coll (dsc 5 0 0 3), ⟨rfl, rfl, by decide +kernel⟩, by decide +kernel⟩⟩

def w_broadcastCompletes1_p0 : StoredFrame × State := (someVal (ctrl 0 0 [], on) (let s : State := inbox (gathering [0] (coll (dsc 4 0 32 3))) bchunk; let fid : Nat := 1; takeHeld s fid 3))
def w_broadcastCompletes1_s1 : State := (readFrame w_broadcastCompletes1_p0.2 1).2
def w_broadcastCompletes1_s : State := inbox (gathering [0] (coll (dsc 4 0 32 3))) bchunk
def w_broadcastCompletes2_p0 : StoredFrame × State := (okVal (ctrl 0 0 [], on) (let s : State := inbox (gathering [0] ({ coll (dsc 4 0 32 3) with kids := [(0, {})] })) (note 7 0 2); let fid : Nat := 1; takeKind s fid 6))
def w_broadcastCompletes2_c : Coll := { coll (dsc 4 0 32 3) with kids := [(0, {})] }
def w_broadcastCompletes2_s : State := inbox (gathering [0] (w_broadcastCompletes2_c)) (note 7 0 2)
def w_broadcastCompletes3_p0 : StoredFrame × State := (okVal (ctrl 0 0 [], on) (let s : State := inbox (gathering [0] (coll (dsc 4 0 32 3))) (note 10 0 0); let fid : Nat := 1; takeKind s fid 6))
def w_broadcastCompletes3_s : State := inbox (gathering [0] (coll (dsc 4 0 32 3))) (note 10 0 0)
def w_broadcastCompletes4_p0 : StoredFrame × State := (okVal (ctrl 0 0 [], on) (let s : State := inbox (gathering [0, 8] (coll (dsc 1 8 16 3))) (note 8 0 1); let fid : Nat := 1; takeKind s fid 6))
def w_broadcastCompletes4_s : State := inbox (gathering [0, 8] (coll (dsc 1 8 16 3))) (note 8 0 1)
def w_broadcastCompletes5_p0 : StoredFrame × State := (okVal (ctrl 0 0 [], on) (let s : State := inbox (gathering [7, 8, 0] ({ coll (dsc 4 0 32 3) with orphan := some { alt := 1, since := 5 } })) (note 9 0 1); let fid : Nat := 1; takeKind s fid 6))
def w_broadcastCompletes5_c : Coll := { coll (dsc 4 0 32 3) with orphan := some { alt := 1, since := 5 } }
def w_broadcastCompletes5_s : State := inbox (gathering [7, 8, 0] (w_broadcastCompletes5_c)) (note 9 0 1)
def w_broadcastCompletes6_x : BcChild := { bitmap := [2, 0, 0, 0, 0, 0, 0, 0] }
def w_broadcastCompletes6_c : Coll := { coll (dsc 4 0 32 3) with kids := [(0, w_broadcastCompletes6_x)], finished := [0], sentAt := [(sentKey 0 0, 5)] }
def w_broadcastCompletes6_s : State := gathering [0] (w_broadcastCompletes6_c)
def w_broadcastCompletes7_s : State := { on with tilth := { colls := [(collKey 5 3, orphanColl)], lists := [(5 * 65536 + 2, { lver := 0, imgId := 2, nodes := [{ orphaned with spine := 6, parent := noNode }, { orphaned with spine := 7 }, { orphaned with spine := 8 }, orphaned] })] } }

/-- The hypotheses of BroadcastCompletes can be met, clause by clause. -/
theorem test_holds_broadcastCompletes :
    (∃ (s : State) (s0 : State) (s1 : State) (fid : Nat) (f : StoredFrame) (c : Coll), takeHeld s fid 3 = some (f, s0) ∧ readFrame s0 fid = (true,
      s1) ∧ collOf s0 (collKey f.ffh.part f.ffh.collId) = some c ∧ dOpc c.desc = 4 ∧ c.failed = none ∧ 16 ≤ f.data.length ∧
      beAt (f.data.drop (f.data.length - 16)) 0 8 = fprint c.desc ∧
      beAt (f.data.drop (f.data.length - 16)) 8 8 = crc64 (f.data.take (f.data.length - 16)) ∧ c.finished.contains f.ffh.chunk = false ∧
      f.ffh.chunk < vecChunks c.desc ∧ f.data.length - 16 = chunkLen c.desc f.ffh.chunk) ∧
    (∃ (s : State) (s1 : State) (fid : Nat) (f : StoredFrame) (c : Coll) (kid : Nat), takeKind s fid 6 = .ok (f, s1) ∧
      collOf s1 (collKey f.ffh.part f.ffh.collId) = some c ∧ c.key = collKey f.ffh.part f.ffh.collId ∧ beAt f.data 0 1 = 7 ∧
      kidOf s1 c f.ffh.src = some kid) ∧
    (∃ (s : State) (s1 : State) (fid : Nat) (f : StoredFrame) (c : Coll), takeKind s fid 6 = .ok (f, s1) ∧
      collOf s1 (collKey f.ffh.part f.ffh.collId) = some c ∧ c.key = collKey f.ffh.part f.ffh.collId ∧ beAt f.data 0 1 = 10 ∧ dOpc c.desc = 4 ∧
      c.digest = none ∧ c.failed = none ∧ c.kids = []) ∧
    (∃ (s : State) (s1 : State) (fid : Nat) (f : StoredFrame) (c : Coll) (me : Nat), takeKind s fid 6 = .ok (f, s1) ∧
      collOf s1 (collKey f.ffh.part f.ffh.collId) = some c ∧ c.key = collKey f.ffh.part f.ffh.collId ∧ beAt f.data 0 1 = 8 ∧ dOpc c.desc ≠ 4 ∧
      c.failed = none ∧ myNode s1 (treeOf s1 c) = some me ∧ beAt f.data 4 4 % 65536 < (treeOf s1 c).nodes.length) ∧
    (∃ (s : State) (s1 : State) (fid : Nat) (f : StoredFrame) (c : Coll) (o : Orphan) (me : Nat), takeKind s fid 6 = .ok (f, s1) ∧
      collOf s1 (collKey f.ffh.part f.ffh.collId) = some c ∧ c.key = collKey f.ffh.part f.ffh.collId ∧ beAt f.data 0 1 = 9 ∧ c.orphan = some o ∧
      myNode s1 (treeOf s1 c) = some me ∧ beAt f.data 4 4 = o.alt) ∧
    (∃ (s : State) (k : Nat) (kid : Nat) (n : Nat) (c : Coll) (x : BcChild), collOf s k = some c ∧ dOpc c.desc = 4 ∧ c.failed = none ∧
      c.digest = none ∧ c.kids = [(kid, x)] ∧ shownMissing c x = [n] ∧ c.finished.contains n = true ∧ resendDue s c kid n = true) ∧
    (∃ (s : State) (k : Nat) (me : Nat) (alt : Nat) (c : Coll) (o : Orphan) (n : TNode), collOf s k = some c ∧ c.orphan = some o ∧
      o.since + ticksOfUs (fld s .BC_REPAIR_TMO_US) ≤ s.raw ∧ myNode s (treeOf s c) = some me ∧ (treeOf s c).nodes[me]? = some n ∧ n.alt1 = o.alt ∧
      n.alt2 = alt ∧ alt ≠ noNode ∧ nodeFenced s (treeOf s c) alt = false ∧ n.alt1 ≠ n.alt2) :=
  ⟨⟨w_broadcastCompletes1_s, w_broadcastCompletes1_p0.2, w_broadcastCompletes1_s1, 1, w_broadcastCompletes1_p0.1, coll (dsc 4 0 32 3),
     eq_somePair (by decide +kernel), Prod.ext (by decide +kernel) rfl, by decide +kernel⟩,
   ⟨w_broadcastCompletes2_s, w_broadcastCompletes2_p0.2, 1, w_broadcastCompletes2_p0.1, w_broadcastCompletes2_c, 0, eq_okPair (by decide +kernel),
     by decide +kernel⟩,
   ⟨w_broadcastCompletes3_s, w_broadcastCompletes3_p0.2, 1, w_broadcastCompletes3_p0.1, coll (dsc 4 0 32 3), eq_okPair (by decide +kernel),
     by decide +kernel⟩,
   ⟨w_broadcastCompletes4_s, w_broadcastCompletes4_p0.2, 1, w_broadcastCompletes4_p0.1, coll (dsc 1 8 16 3), 0, eq_okPair (by decide +kernel),
     by decide +kernel⟩,
   ⟨w_broadcastCompletes5_s, w_broadcastCompletes5_p0.2, 1, w_broadcastCompletes5_p0.1, w_broadcastCompletes5_c, { alt := 1, since := 5 }, 2,
     eq_okPair (by decide +kernel), by decide +kernel⟩,
   ⟨w_broadcastCompletes6_s, collKey 5 3, 0, 0, w_broadcastCompletes6_c, w_broadcastCompletes6_x, by decide +kernel⟩,
   ⟨w_broadcastCompletes7_s, collKey 5 3, 3, 2, orphanColl, { alt := 1, since := 5 }, orphaned, by decide +kernel⟩⟩

def w_frameArrivalsComplete1_f : RxFrame := { rxFrame with badCodewords := 3 }
def w_frameArrivalsComplete2_f : RxFrame := { rxFrame with ffh := [], payload := beBytes 2 (crc16 (zeroBytes 8)) }
def w_frameArrivalsComplete4_u : State := wakeDomain etherUp (pipeDomain 1024)
def w_frameArrivalsComplete4_f : EthFrame := { port := 1024, bytes := zeroBytes 64 }
def w_frameArrivalsComplete4_s2 : State := (ffhUdp (w_frameArrivalsComplete4_u) 1024 (zeroBytes 64)).2
def w_frameArrivalsComplete5_u : State := wakeDomain linkedUp (pipeDomain 1024)
def w_frameArrivalsComplete5_s2 : State := (ffhUdp (w_frameArrivalsComplete5_u) 1024 (frameOfUdp (datagram 0)).bytes).2
def w_frameArrivalsComplete6_u : State := wakeDomain endpoints (pipeDomain 1024)
def w_frameArrivalsComplete6_s2 : State := (ffhUdp (w_frameArrivalsComplete6_u) 1024 (frameOfUdp (datagram 0)).bytes).2
def w_frameArrivalsComplete7_u : State := wakeDomain endpoints (pipeDomain 1024)
def w_frameArrivalsComplete7_s2 : State := (ffhUdp (w_frameArrivalsComplete7_u) 1024 (frameOfUdp (datagram 0xA0)).bytes).2
def w_frameArrivalsComplete7_w : State := (openVlink w_frameArrivalsComplete7_s2 (datagram 0xA0) aView).2

/-- The hypotheses of FrameArrivalsComplete can be met, clause by clause. -/
theorem test_holds_frameArrivalsComplete :
    (∃ (s : State) (f : RxFrame), f.port < 1280 ∧ receives s f.port = true ∧ portMode s f.port = .fabric ∧ 0 < f.badCodewords) ∧
    (∃ (s : State) (f : RxFrame), f.port < 1280 ∧ receives s f.port = true ∧ portMode s f.port = .fabric ∧ f.badCodewords = 0 ∧ f.ffh = [] ∧
      portFenced s f.port = false ∧ crc16 f.linkHdr = beAt f.payload 0 2) ∧
    (∃ (s : State) (f : RxFrame) (u : State),
      u = settleTc7 (headerRx (wakeDomain s (pipeDomain f.port)) f.port (linkHdrParse f.linkHdr) false) f.port ∧ f.port < 1280 ∧
      receives s f.port = true ∧ portMode s f.port = .fabric ∧ f.badCodewords = 0 ∧ f.ffh ≠ [] ∧ portFenced s f.port = false ∧
      f.etype = fld s .ETYPE ∧ protOn s f.port = false ∧ f.sealedAs = none) ∧
    (∃ (s : State) (s1 : State) (s2 : State) (u : State) (f : EthFrame), macsecPass s f.port f.macsec = some s1 ∧
      u = wakeDomain s1 (pipeDomain f.port) ∧ ffhUdp u f.port f.bytes = (none, s2) ∧ f.port < 1280 ∧ receives s f.port = true ∧
      portFenced s f.port = false ∧ portMode s f.port = .ethernet ∧ f.badCodewords = 0 ∧ ethScreen u f.port f.bytes spineUnits = none) ∧
    (∃ (s : State) (s1 : State) (s2 : State) (u : State) (d : UdpFfh) (x : IpView) (v : Nat) (e : VLink), macsecPass s d.port d.macsec = some s1 ∧
      u = wakeDomain s1 (pipeDomain d.port) ∧ ffhUdp u d.port (frameOfUdp d).bytes = (some x, s2) ∧ d.port < 1280 ∧ portMode s d.port = .ethernet ∧
      receives s d.port = true ∧ portFenced s d.port = false ∧ d.inner.badCodewords = 0 ∧ ethScreen u d.port (frameOfUdp d).bytes spineUnits = none ∧
      d.badChecksum = false ∧ (linkHdrParse d.inner.linkHdr).ekind ≠ .open ∧ vlinkOf s2 x.v6 x.src = some (v, e)) ∧
    (∃ (s : State) (s1 : State) (s2 : State) (u : State) (d : UdpFfh) (x : IpView), macsecPass s d.port d.macsec = some s1 ∧
      u = wakeDomain s1 (pipeDomain d.port) ∧ ffhUdp u d.port (frameOfUdp d).bytes = (some x, s2) ∧ d.port < 1280 ∧ portMode s d.port = .ethernet ∧
      receives s d.port = true ∧ portFenced s d.port = false ∧ d.inner.badCodewords = 0 ∧ ethScreen u d.port (frameOfUdp d).bytes spineUnits = none ∧
      d.badChecksum = false ∧ (linkHdrParse d.inner.linkHdr).ekind ≠ .open ∧ vlinkOf s2 x.v6 x.src = none) ∧
    (∃ (s : State) (s1 : State) (s2 : State) (u : State) (d : UdpFfh) (x : IpView) (v : Nat) (w : State), macsecPass s d.port d.macsec = some s1 ∧
      u = wakeDomain s1 (pipeDomain d.port) ∧ ffhUdp u d.port (frameOfUdp d).bytes = (some x, s2) ∧ openVlink s2 d x = (some v, w) ∧ d.port < 1280 ∧
      portMode s d.port = .ethernet ∧ receives s d.port = true ∧ portFenced s d.port = false ∧ d.inner.badCodewords = 0 ∧
      ethScreen u d.port (frameOfUdp d).bytes spineUnits = none ∧ d.badChecksum = false ∧ (linkHdrParse d.inner.linkHdr).ekind = .open) :=
  ⟨⟨bare, w_frameArrivalsComplete1_f, by decide +kernel⟩,
   ⟨bare, w_frameArrivalsComplete2_f, by decide +kernel⟩,
   ⟨bare, rxFrame, _, rfl, by decide +kernel⟩,
   ⟨etherUp, etherUp, w_frameArrivalsComplete4_s2, w_frameArrivalsComplete4_u, w_frameArrivalsComplete4_f, rfl, rfl, Prod.ext (by decide +kernel) rfl,
     by decide +kernel⟩,
   ⟨linkedUp, linkedUp, w_frameArrivalsComplete5_s2, w_frameArrivalsComplete5_u, datagram 0, aView, 4095, aVlink, rfl, rfl,
     Prod.ext (by decide +kernel) rfl, by decide +kernel⟩,
   ⟨endpoints, endpoints, w_frameArrivalsComplete6_s2, w_frameArrivalsComplete6_u, datagram 0, aView, rfl, rfl, Prod.ext (by decide +kernel) rfl,
     by decide +kernel⟩,
   ⟨endpoints, endpoints, w_frameArrivalsComplete7_s2, w_frameArrivalsComplete7_u, datagram 0xA0, aView, 0, w_frameArrivalsComplete7_w, rfl, rfl,
     pair_eta (by decide +kernel), pair_eta (by decide +kernel), by decide +kernel⟩⟩

def w_departuresComplete1_s : State := { marking with bx := { ports := [(1024, { slot := 12 })] } }

/-- The hypotheses of DeparturesComplete can be met, clause by clause. -/
theorem test_holds_departuresComplete :
    (∃ (s : State) (p : Nat) (i : Nat) (k : Nat), p < 1280 ∧ opportunity s p = true ∧
      calChoice (noteBlocked s p) p (eligibleQueues (noteBlocked s p) p) = some (i, some k)) ∧
    (∃ (s : State) (p : Nat) (i : Nat), p < 1280 ∧ opportunity s p = true ∧
      calChoice (noteBlocked s p) p (eligibleQueues (noteBlocked s p) p) = some (i, none)) ∧
    (∃ (s : State) (p : Nat), p < 1280 ∧ opportunity s p = true ∧ calChoice (noteBlocked s p) p (eligibleQueues (noteBlocked s p) p) = none) ∧
    (∃ (s : State) (p : Nat), p < 1280 ∧ opportunity s p = false) ∧
    (∃ (p : Nat), p < 1280) ∧
    (∃ (s : State) (p : Nat), (∀ l ∈ linksOf s p, (linkKeys s l).txKey = none)) :=
  ⟨⟨w_departuresComplete1_s, 1024, 0, 12, by decide +kernel⟩,
   ⟨marking, 1024, 0, by decide +kernel⟩,
   ⟨bare, 1024, by decide +kernel⟩,
   ⟨on, 1279, by decide +kernel⟩,
   ⟨1279, by decide +kernel⟩,
   ⟨on, 1279, by decide +kernel⟩⟩

def w_ringsComplete1_t : Nat := (someVal 0 (let r : Nat := 0; let peaks : List (Nat × Int) := sweepPeaks; sweepTarget peaks (ringLine r)))
def w_ringsComplete5_c : Ncp := own (beBytes 1 15 ++ beBytes 1 1 ++ beBytes 1 3 ++ beBytes 1 17)

/-- The hypotheses of RingsComplete can be met, clause by clause. -/
theorem test_holds_ringsComplete :
    (∃ (s : State) (r : Nat) (t : Nat) (peaks : List (Nat × Int)), sweepTarget peaks (ringLine r) = some t ∧ r < 2304 ∧ ringState s r = 1 ∧
      sweepCrosses s r = false ∧ (ringOf' s r).onEvidence = false) ∧
    (∃ (s : State) (r : Nat) (peaks : List (Nat × Int)), r < 2304 ∧ ringState s r = 1 ∧ sweepCrosses s r = false ∧
      sweepTarget peaks (ringLine r) = none ∧ (ringOf' s r).tries < 2) ∧
    (∃ (s : State) (r : Nat) (h : Nat), (h + fld s .HWIN_UW < ringCentre s r ∨ ringCentre s r + fld s .HWIN_UW < h) ∧ r < 2304 ∧
      (ringOf' s r).phase = .locked) ∧
    (∃ (s : State) (r : Nat) (h : Nat), (h = 0 ∨ h = 25000) ∧ r < 2304 ∧ (ringOf' s r).phase = .locked) ∧
    (∃ (s : State) (c : Ncp) (eng : Nat) (dir : Nat) (fib : Nat) (line : Nat) (r : Nat), OwnerCmd s c ∧
      c.body = beBytes 1 eng ++ beBytes 1 dir ++ beBytes 1 fib ++ beBytes 1 line ∧ eng < 16 ∧ dir < 2 ∧ fib < 4 ∧ line < 18 ∧
      r = ringNo eng dir fib line) :=
  ⟨⟨on, 0, w_ringsComplete1_t, sweepPeaks, eq_someVal (by decide +kernel), by decide +kernel⟩,
   ⟨on, 2303, [], by decide +kernel⟩,
   ⟨lockedRing, 0, 20000, Or.inr (by decide +kernel), by decide +kernel⟩,
   ⟨lockedRing, 0, 25000, Or.inr rfl, by decide +kernel⟩,
   ⟨on, w_ringsComplete5_c, 15, 1, 3, 17, 2303, ⟨rfl, rfl⟩, by decide +kernel⟩⟩

def w_linePowerCommandsComplete1_s : State := { on with prv := { evalAt := [(15, 2 ^ 44)] } }
def w_linePowerCommandsComplete2_s1 : State := keepMeans { on with prv := { on.prv with evalAt := tset 0 on.prv.evalAt 15 on.raw } } 15 []
def w_linePowerCommandsComplete3_c : Ncp := own (beBytes 2 0x8001 ++ beBytes 1 2)
def w_linePowerCommandsComplete3_pick : List Nat := (onesOf 16 0x8001).flatMap (fun e => [0, 1].flatMap fun b => (List.range 19).map fun l => lineNo e b l)
def w_linePowerCommandsComplete4_c : Ncp := own (beBytes 1 15 ++ beBytes 1 0)
def w_linePowerCommandsComplete5_c : Ncp := own (beBytes 1 15 ++ beBytes 1 1)

/-- The hypotheses of LinePowerCommandsComplete can be met, clause by clause. -/
theorem test_holds_linePowerCommandsComplete :
    (∃ (s : State) (eng : Nat), eng < 16 ∧ s.raw < tget 0 s.prv.evalAt eng + ticksOfUs (fld s .POWER_PERIOD_US)) ∧
    (∃ (s : State) (s1 : State) (eng : Nat) (means : List Int),
      s1 = keepMeans { s with prv := { s.prv with evalAt := tset 0 s.prv.evalAt eng s.raw } } eng means ∧ eng < 16 ∧
      tget 0 s.prv.evalAt eng + ticksOfUs (fld s .POWER_PERIOD_US) ≤ s.raw ∧ warnCount s1 eng (combOf s1 eng) < fld s1 .COMB_LINES) ∧
    (∃ (s : State) (c : Ncp) (mask : Nat) (comb : Nat) (pick : List Nat), OwnerCmd s c ∧ mask < 65536 ∧ comb ≤ 2 ∧
      c.body = beBytes 2 mask ++ beBytes 1 comb ∧
      pick = (onesOf 16 mask).flatMap (fun e => (if comb = 2 then [0, 1] else [comb]).flatMap fun b => (List.range 19).map fun l => lineNo e b l)) ∧
    (∃ (s : State) (c : Ncp) (eng : Nat) (comb : Nat), OwnerCmd s c ∧ eng < 16 ∧ comb < 2 ∧ c.body = beBytes 1 eng ++ beBytes 1 comb ∧
      combOf s eng = comb) ∧
    (∃ (s : State) (c : Ncp) (eng : Nat) (comb : Nat), OwnerCmd s c ∧ eng < 16 ∧ comb < 2 ∧ c.body = beBytes 1 eng ++ beBytes 1 comb ∧
      combOf s eng ≠ comb) :=
  ⟨⟨w_linePowerCommandsComplete1_s, 15, by decide +kernel⟩,
   ⟨on, w_linePowerCommandsComplete2_s1, 15, [], rfl, by decide +kernel⟩,
   ⟨on, w_linePowerCommandsComplete3_c, 0x8001, 2, w_linePowerCommandsComplete3_pick, ⟨rfl, rfl⟩, by decide +kernel⟩,
   ⟨on, w_linePowerCommandsComplete4_c, 15, 0, ⟨rfl, rfl⟩, by decide +kernel⟩,
   ⟨on, w_linePowerCommandsComplete5_c, 15, 1, ⟨rfl, rfl⟩, by decide +kernel⟩⟩

def w_migrationsComplete1_c : Ncp := own (beBytes 2 0 ++ beBytes 1 16 ++ [0] ++ beBytes 4 0)
def w_migrationsComplete2_s : State := migrating (aMig true .scheduled)
def w_migrationsComplete3_s : State := migrating (aMig true .asked)
def w_migrationsComplete4_m : Mig := { aMig true .asked with msg := optMsg 1 3 0 false 0 16 0 }
def w_migrationsComplete4_s : State := migrating (w_migrationsComplete4_m)
def w_migrationsComplete5_msg : List Byte := optMsg 1 3 9 false 0 16 0
def w_migrationsComplete5_ans : List Byte := optMsg 2 3 9 false 0 16 0
def w_migrationsComplete6_msg : List Byte := optMsg 2 3 0 false 0 16 0
def w_migrationsComplete6_s : State := migrating (aMig true .asked)
def w_migrationsComplete7_msg : List Byte := optMsg 4 3 0 false 0 16 0
def w_migrationsComplete7_s : State := migrating (aMig true .ready)
def w_migrationsComplete8_msg : List Byte := optMsg 5 3 0 false 0 16 0
def w_migrationsComplete8_s : State := migrating (aMig true .asked)
def w_migrationsComplete9_s : State := migrating (aMig false .ready)
def w_migrationsComplete10_s : State := migrating (aMig false .ready)
def w_migrationsComplete10_msg : List Byte := optMsg 3 3 9 false 0 16 (now32 timed + 1000)
def w_migrationsComplete11_m : Mig := { aMig false .ready with at_ := 6 }
def w_migrationsComplete11_s : State := migrating (w_migrationsComplete11_m)
def w_migrationsComplete12_msg : List Byte := optMsg 6 3 0 false 0 16 0

/-- The hypotheses of MigrationsComplete can be met, clause by clause. -/
theorem test_holds_migrationsComplete :
    (∃ (s : State) (c : Ncp) (lane : Nat) (dest : Nat) (t : Nat), OwnerCmd s c ∧ (dest = 16 ∨ dest = 17 ∨ dest = baseLine lane) ∧ lane < 1024 ∧
      c.body = beBytes 2 lane ++ beBytes 1 dest ++ [0] ++ beBytes 4 t ∧ t < 2 ^ 32 ∧ mayMigrate s lane = true ∧ migOf s true lane = none ∧
      txLineOf s lane ≠ dest ∧ txLineFree s (engineOf lane) (fibreOf lane) dest = true) ∧
    (∃ (s : State) (lane : Nat) (m : Mig), lane < 1024 ∧ migOf s true lane = some m ∧ m.step = .scheduled ∧ m.at_ ≤ nowNs s) ∧
    (∃ (s : State) (lane : Nat) (m : Mig), lane < 1024 ∧ migOf s true lane = some m ∧ m.step = .asked ∧
      m.since + ticksOfUs (fld s .MIG_TMO_US) ≤ s.raw) ∧
    (∃ (s : State) (lane : Nat) (m : Mig), (∀ x, migOf s false lane = some x → x.msg = []) ∧ lane < 1024 ∧ migOf s true lane = some m ∧ m.msg ≠ [] ∧
      m.sentAt + 1250 ≤ s.raw) ∧
    (∃ (s : State) (p : Nat) (n : Nat) (msg : List Byte) (ans : List Byte), p < 1280 ∧ optTaken s p msg = true ∧
      localLane s p (optLane msg) = some n ∧ migOf s false n = none ∧ optTo msg < 18 ∧ spareDis s (engineOf n) (fibreOf n) = false ∧
      steered s (engineOf n) (fibreOf n) = false ∧ rxLineFree s (engineOf n) (fibreOf n) (optTo msg) = true ∧
      ans = optMsg 2 (optId msg) (optLane msg) (optEmerg msg) (optFrom msg) (optTo msg) 0) ∧
    (∃ (s : State) (p : Nat) (msg : List Byte) (m : Mig), p < 1280 ∧ optTaken s p msg = true ∧ migOf s true (optLane msg) = some m ∧
      m.id = optId msg ∧ m.step = .asked) ∧
    (∃ (s : State) (p : Nat) (msg : List Byte) (m : Mig), p < 1280 ∧ optTaken s p msg = true ∧ migOf s true (optLane msg) = some m ∧
      m.id = optId msg ∧ m.step = .ready) ∧
    (∃ (s : State) (p : Nat) (msg : List Byte) (m : Mig) (u : State),
      u = (if m.emerg = true then laneDown (raise (dropMig s true m.lane) .prvMigAbort m.lane (recVal m.lane)) m.lane else raise (dropMig s true m.lane) .prvMigAbort m.lane (recVal m.lane)) ∧
      p < 1280 ∧ optTaken s p msg = true ∧ migOf s true (optLane msg) = some m ∧ m.id = optId msg ∧ migPastSwitch s m = false ∧
      localLane u p (optLane msg) = none) ∧
    (∃ (s : State) (p : Nat) (n : Nat) (msg : List Byte) (m : Mig), (optEmerg msg = true ∨ expand32 s (optTsw msg) ≤ nowNs s) ∧ p < 1280 ∧
      optTaken s p msg = true ∧ localLane s p (optLane msg) = some n ∧ migOf s false n = some m ∧ m.id = optId msg ∧ m.step = .ready) ∧
    (∃ (s : State) (p : Nat) (n : Nat) (msg : List Byte) (m : Mig), p < 1280 ∧ optTaken s p msg = true ∧ localLane s p (optLane msg) = some n ∧
      migOf s false n = some m ∧ m.id = optId msg ∧ m.step = .ready ∧ optEmerg msg = false ∧ nowNs s < expand32 s (optTsw msg)) ∧
    (∃ (s : State) (lane : Nat) (m : Mig), lane < 1024 ∧ migOf s false lane = some m ∧ m.step = .ready ∧ m.at_ ≠ 0 ∧ m.at_ ≤ nowNs s) ∧
    (∃ (s : State) (p : Nat) (msg : List Byte), p < 1280 ∧ optTaken s p msg = true ∧ optLane msg < 1024 ∧ laneHolder s (optLane msg) = p ∧
      txLineOf s (optLane msg) = optFrom msg) :=
  ⟨⟨lit0, w_migrationsComplete1_c, 0, 16, 0, ⟨rfl, rfl⟩, Or.inl rfl, by decide +kernel⟩,
   ⟨w_migrationsComplete2_s, 0, aMig true .scheduled, by decide +kernel⟩,
   ⟨w_migrationsComplete3_s, 0, aMig true .asked, by decide +kernel⟩,
   ⟨w_migrationsComplete4_s, 0, w_migrationsComplete4_m,
     fun _ h => absurd h (by simp [show migOf w_migrationsComplete4_s false 0 = none by decide +kernel]), by decide +kernel⟩,
   ⟨lit0, 0, 0, w_migrationsComplete5_msg, w_migrationsComplete5_ans, by decide +kernel⟩,
   ⟨w_migrationsComplete6_s, 0, w_migrationsComplete6_msg, aMig true .asked, by decide +kernel⟩,
   ⟨w_migrationsComplete7_s, 0, w_migrationsComplete7_msg, aMig true .ready, by decide +kernel⟩,
   ⟨w_migrationsComplete8_s, 0, w_migrationsComplete8_msg, aMig true .asked, _, rfl, by decide +kernel⟩,
   ⟨w_migrationsComplete9_s, 0, 0, optMsg 3 3 9 true 0 16 0, aMig false .ready, Or.inl (by decide +kernel), by decide +kernel⟩,
   ⟨w_migrationsComplete10_s, 0, 0, w_migrationsComplete10_msg, aMig false .ready, by decide +kernel⟩,
   ⟨w_migrationsComplete11_s, 0, w_migrationsComplete11_m, by decide +kernel⟩,
   ⟨lit0, 0, w_migrationsComplete12_msg, by decide +kernel⟩⟩

def w_steeringAndCircuitsComplete1_img : List Byte := (okVal [] (let c : Ncp := own (inline steerImage); readImage c 0 0x4E5A0022 1 false))
def w_steeringAndCircuitsComplete1_t : Nat := (okVal 0 (let s : State := timed; let img : List Byte := w_steeringAndCircuitsComplete1_img; checkTime s (beAt img 8 4) 5))
def w_steeringAndCircuitsComplete2_img : SteerImg := { takeover := 5, imgId := 1, entries := [steerEnt steerRaw] }
def w_steeringAndCircuitsComplete2_s : State := { timed with prv := { steerPend := some w_steeringAndCircuitsComplete2_img } }
def w_steeringAndCircuitsComplete3_c : Ncp := ten (inline circuitImage)
def w_steeringAndCircuitsComplete3_img : List Byte := (okVal [] (let c : Ncp := w_steeringAndCircuitsComplete3_c; readImage c 0 0x4E5A0023 1 false))
def w_steeringAndCircuitsComplete3_t : Nat := (okVal 0 (let s : State := held5; let img : List Byte := w_steeringAndCircuitsComplete3_img; checkTime s (beAt img 8 4) 5))
def w_steeringAndCircuitsComplete4_img : CircuitImg := { takeover := 5, circuits := [(511, 3)] }
def w_steeringAndCircuitsComplete4_s : State := { timed with xc := { pend := [(5, w_steeringAndCircuitsComplete4_img)] } }
def w_steeringAndCircuitsComplete5_s : State := { timed with xc := { circuits := [(511, { xi := 3, part := 5 })] } }
def w_steeringAndCircuitsComplete6_x : Circuit := { xi := 3, part := 5, lit := true, setup := -500 }
def w_steeringAndCircuitsComplete6_s : State := { timed with xc := { circuits := [(511, w_steeringAndCircuitsComplete6_x)] } }
def w_steeringAndCircuitsComplete7_x : Circuit := { xi := 3, part := 5, lit := true, setup := -500 }
def w_steeringAndCircuitsComplete7_s : State := { timed with xc := { circuits := [(511, w_steeringAndCircuitsComplete7_x)] } }

/-- The hypotheses of SteeringAndCircuitsComplete can be met, clause by clause. -/
theorem test_holds_steeringAndCircuitsComplete :
    (∃ (s : State) (c : Ncp) (img : List Byte) (n : Nat) (t : Nat) (raws : List (List Byte)), OwnerCmd s c ∧
      readImage c 0 0x4E5A0022 1 false = .ok img ∧ (∀ e ∈ raws, steerEncodingOk e = true ∧ (steerEnt e).port < 1280) ∧ (∀ i e,
      (raws.map steerEnt)[i]? = some e → steerStructOk s (raws.map steerEnt) i e = true) ∧ checkTime s (beAt img 8 4) 5 = .ok t ∧ n = beAt img 6 2 ∧
      beAt img 4 1 = 1 ∧ beAt img 5 1 = 1 ∧ 1 ≤ n ∧ n ≤ 1280 ∧ img.length = 32 + 12 * n ∧ beAt img 24 4 = 0 ∧
      raws = (List.range n).map (fun i => bytesAt img (32 + 12 * i) 12) ∧ flag s .STEER_LOCK = false ∧ s.prv.steerPend = none) ∧
    (∃ (s : State) (img : SteerImg), s.prv.steerPend = some img ∧ img.takeover ≤ nowNs s) ∧
    (∃ (s : State) (c : Ncp) (p : Nat) (img : List Byte) (n : Nat) (t : Nat) (raws : List (List Byte)), TenantCmd s c p ∧
      readImage c 0 0x4E5A0023 1 false = .ok img ∧ (∀ e ∈ raws, circuitEncodingOk e = true) ∧ (∀ i e,
      (raws.map circuitEnt)[i]? = some e → (((raws.map circuitEnt).take i).any (circuitClash e)) = false ∧
      (otherCircuits s p).any (circuitClash e) = false) ∧ checkTime s (beAt img 8 4) 5 = .ok t ∧ n = beAt img 6 2 ∧ beAt img 24 2 = p ∧ p < 4096 ∧
      beAt img 4 1 = 2 ∧ beAt img 5 1 = 1 ∧ n ≤ 512 ∧ img.length = 32 + 4 * n ∧ beAt img 26 2 = 0 ∧
      raws = (List.range n).map (fun i => bytesAt img (32 + 4 * i) 4) ∧ flag s .CIRC_LOCK = false ∧ holdsPart s = true ∧ s.haw.part = p ∧
      tfind s.xc.pend p = none) ∧
    (∃ (s : State) (part : Nat) (img : CircuitImg), tfind s.xc.pend part = some img ∧ img.takeover ≤ nowNs s) ∧
    (∃ (s : State) (out : Nat) (x : Circuit), out < 512 ∧ tfind s.xc.circuits out = some x ∧ x.lit = false) ∧
    (∃ (s : State) (out : Nat) (pw : Int) (x : Circuit), out < 512 ∧ tfind s.xc.circuits out = some x ∧ x.lit = true ∧ x.lost = false ∧
      pw ≤ x.setup - 300) ∧
    (∃ (s : State) (out : Nat) (pw : Int) (x : Circuit), out < 512 ∧ tfind s.xc.circuits out = some x ∧ x.lit = true ∧ x.setup - 300 < pw) ∧
    (∃ (s : State) (c : Ncp), OwnerCmd s c ∧ c.body = [1, 0, 0] ∧ replaceable s (s.prv.steerPend.map (·.takeover)) = true) ∧
    (∃ (s : State) (c : Ncp) (p : Nat), TenantCmd s c p ∧ p < 4096 ∧ c.body = [2] ++ beBytes 2 p ∧
      replaceable s ((tfind s.xc.pend p).map (·.takeover)) = true) :=
  ⟨⟨timed, own (inline steerImage), w_steeringAndCircuitsComplete1_img, 1, w_steeringAndCircuitsComplete1_t, [steerRaw], ⟨rfl, rfl⟩,
     eq_okVal (by decide +kernel), by decide +kernel, one_at (steerEnt steerRaw) (by decide +kernel) (by decide +kernel),
     eq_okVal (by decide +kernel), by decide +kernel⟩,
   ⟨w_steeringAndCircuitsComplete2_s, w_steeringAndCircuitsComplete2_img, by decide +kernel⟩,
   ⟨held5, w_steeringAndCircuitsComplete3_c, 5, w_steeringAndCircuitsComplete3_img, 1, w_steeringAndCircuitsComplete3_t, [circuitRaw], ⟨rfl, rfl,
     by decide +kernel⟩, eq_okVal (by decide +kernel), by decide +kernel, one_at (circuitEnt circuitRaw) (by decide +kernel) ⟨by decide +kernel,
     by decide +kernel⟩, eq_okVal (by decide +kernel), by decide +kernel⟩,
   ⟨w_steeringAndCircuitsComplete4_s, 5, w_steeringAndCircuitsComplete4_img, by decide +kernel⟩,
   ⟨w_steeringAndCircuitsComplete5_s, 511, { xi := 3, part := 5 }, by decide +kernel⟩,
   ⟨w_steeringAndCircuitsComplete6_s, 511, -800, w_steeringAndCircuitsComplete6_x, by decide +kernel⟩,
   ⟨w_steeringAndCircuitsComplete7_s, 511, -799, w_steeringAndCircuitsComplete7_x, by decide +kernel⟩,
   ⟨timed, own [1, 0, 0], ⟨rfl, rfl⟩, by decide +kernel⟩,
   ⟨timed, ten ([2] ++ beBytes 2 5), 5, ⟨rfl, rfl, by decide +kernel⟩, by decide +kernel⟩⟩

def w_fabricTimeCompletes3_p0 : StoredFrame × State := (okVal (ctrl 0 0 [], on) (let s : State := inbox on { ctrl 0xA 3 ([16] ++ zeroBytes 31) with refs := 2 }; let fid : Nat := 1; takeKind s fid 0xA))
def w_fabricTimeCompletes3_s : State := inbox on { ctrl 0xA 3 ([16] ++ zeroBytes 31) with refs := 2 }
def w_fabricTimeCompletes5_c : Ncp := own (beBytes 8 (2 ^ 64 - 1))
def w_fabricTimeCompletes6_s : State := { timed with yew := { timed.yew with servo := [5] } }
def w_fabricTimeCompletes8_s : State := setFldAt oneDim .ROOT_EN Fld.ROOT_EN.inst 0 0 1
def w_fabricTimeCompletes8_c : Ncp := own (beBytes 2 0 ++ beBytes 2 [7].length ++ [7].flatMap (beBytes 2))

/-- The hypotheses of FabricTimeCompletes can be met, clause by clause. -/
theorem test_holds_fabricTimeCompletes :
    (∃ (s : State) (p : Nat), p < 1280 ∧ timePort s p = true ∧ (yewPort s p).sentAt + ticksOfUs (fld s .SYNC_PERIOD_US) ≤ s.raw) ∧
    (∃ (s : State) (s1 : State) (fid : Nat) (f : StoredFrame), takeKind s fid 0xA = .ok (f, s1) ∧ beAt f.data 0 1 / 16 = 1 ∧
      sampleOf s1 f.inPort f.data = none) ∧
    (∃ (s : State), flag s .ROOT_EN = true ∧ s.yew.stepped = false ∧ s.yew.rootWaitFrom + ticksOfS (fld s .ROOT_WAIT_S) ≤ s.raw) ∧
    (∃ (s : State) (c : Ncp) (t : Nat), OwnerCmd s c ∧ c.body = beBytes 8 t ∧ t < 2 ^ 64 ∧ flag s .ROOT_EN = true ∧ s.yew.stepped = false) ∧
    (∃ (s : State), (flag s .PRI_V = true → parentSilent s (fld s .PARENT_PRI) = true) ∧ (s.yew.phase = .tracking ∨ s.yew.phase = .locked) ∧
      flag s .ROOT_EN = false ∧ flag s .ALT_V = false ∧ s.yew.servo ≠ []) ∧
    (∃ (s : State) (c : Ncp), OwnerCmd s c ∧ c.body = []) ∧
    (∃ (s : State) (c : Ncp) (ref : Nat) (ports : List Nat), OwnerCmd s c ∧ (∀ p ∈ ports, p < 1280 ∧ dimCode s p = dimCode s ref) ∧ ref < 1280 ∧
      ports ≠ [] ∧ ports.length < 65536 ∧ c.body = beBytes 2 ref ++ beBytes 2 ports.length ++ ports.flatMap (beBytes 2) ∧ isSpinePort s ref = true ∧
      flag s .ROOT_EN = true ∧ s.yew.cal = none) :=
  ⟨⟨withUp oneDim 0, 0, by decide +kernel⟩,
   ⟨w_fabricTimeCompletes3_s, w_fabricTimeCompletes3_p0.2, 1, w_fabricTimeCompletes3_p0.1, eq_okPair (by decide +kernel), by decide +kernel⟩,
   ⟨rooted, by decide +kernel⟩,
   ⟨rooted, w_fabricTimeCompletes5_c, 2 ^ 64 - 1, ⟨rfl, rfl⟩, by decide +kernel⟩,
   ⟨w_fabricTimeCompletes6_s, fun _ => by decide +kernel, Or.inr rfl, by decide +kernel⟩,
   ⟨timed, own [], ⟨rfl, rfl⟩, by decide +kernel⟩,
   ⟨w_fabricTimeCompletes8_s, w_fabricTimeCompletes8_c, 0, [7], ⟨rfl, rfl⟩, by decide +kernel⟩⟩

def w_worldTimeAndBeatsComplete3_s : State := { worldly with yew := { ptpRun := 3 } }
def w_worldTimeAndBeatsComplete4_s : State := { worldly with yew := { ptpRun := 4 } }

/-- The hypotheses of WorldTimeAndBeatsComplete can be met, clause by clause. -/
theorem test_holds_worldTimeAndBeatsComplete :
    (∃ (s : State) (src : Nat) (domain : Nat) (gm : Nat), ptpFrom s src = true ∧ domain = fld s .DOMAIN ∧ s.yew.ptpRun < 3 ∧ gm = s.yew.ptpMaster) ∧
    (∃ (s : State) (src : Nat) (domain : Nat) (gm : Nat), ptpFrom s src = true ∧ domain = fld s .DOMAIN ∧ gm ≠ s.yew.ptpMaster) ∧
    (∃ (s : State) (src : Nat) (domain : Nat) (gm : Nat), ptpFrom s src = true ∧ domain = fld s .DOMAIN ∧ 3 ≤ s.yew.ptpRun ∧ gm = s.yew.ptpMaster ∧
      s.yew.stepped = false) ∧
    (∃ (s : State), flag s .ROOT_EN = true ∧ flag s .PTP_EN = true ∧ 4 ≤ s.yew.ptpRun ∧ s.yew.ptpLast + fourSyncs s.yew.ptpInterval ≤ s.raw) ∧
    (∃ (s : State), s.pwr.aon = true ∧ s.st.thr = [] ∧ s.raw < 2 ^ 64 - 1250) :=
  ⟨⟨worldly, 0, fld worldly .DOMAIN, 0, by decide +kernel⟩,
   ⟨worldly, 0, fld worldly .DOMAIN, 1, by decide +kernel⟩,
   ⟨w_worldTimeAndBeatsComplete3_s, 0, fld worldly .DOMAIN, 0, by decide +kernel⟩,
   ⟨w_worldTimeAndBeatsComplete4_s, by decide +kernel⟩,
   ⟨on, by decide +kernel⟩⟩

def w_qualityOfAStamp2_s : State := { on with yew := { regionStale := [3] } }

/-- The hypotheses of QualityOfAStamp can be met, clause by clause. -/
theorem test_holds_qualityOfAStamp :
    (∃ (s : State), s.yew.parentQual ≤ 3) ∧
    (∃ (s : State) (region : Nat), s.yew.parentQual ≤ 3 ∧ s.yew.regionStale.contains region = true) ∧
    (∃ (s : State) (region : Nat), s.yew.parentQual ≤ 3 ∧ s.yew.regionStale.contains region = false) ∧
    (∃ (s : State) (root : Bool), s.yew.parentQual ≤ 3 ∧ s.yew.phase = .locked ∧ root = true) :=
  ⟨⟨on, by decide +kernel⟩,
   ⟨w_qualityOfAStamp2_s, 3, by decide +kernel⟩,
   ⟨on, 3, by decide +kernel⟩,
   ⟨timed, true, by decide +kernel⟩⟩

def w_partitionsAndCablingComplete2_s : State := { on with haw := { boundaryAt := [(1279, 5)] } }
def w_partitionsAndCablingComplete3_img : List Byte := (okVal [] (let c : Ncp := own (inline planImage); readImage c 0 0x4E5A0028 1 false))
def w_partitionsAndCablingComplete4_c : Ncp := own (beBytes 2 1279 ++ beBytes 2 1)
def w_partitionsAndCablingComplete6_p0 : StoredFrame × State := (okVal (ctrl 0 0 [], on) (let s : State := inbox on { ctrl 0xC 3 ([0x10] ++ zeroBytes 31) with refs := 2 }; let fid : Nat := 1; takeKind s fid 0xC))
def w_partitionsAndCablingComplete6_s : State := inbox on { ctrl 0xC 3 ([0x10] ++ zeroBytes 31) with refs := 2 }
def w_partitionsAndCablingComplete7_p0 : StoredFrame × State := (okVal (ctrl 0 0 [], on) (let s : State := inbox { on with haw := { ids := [(3, { disc := some ([0x18] ++ zeroBytes 31) })] } } { ctrl 0xC 3 ([0x18] ++ zeroBytes 31) with refs := 2 }; let fid : Nat := 1; takeKind s fid 0xC))
def w_partitionsAndCablingComplete7_s : State := inbox { on with haw := { ids := [(3, { disc := some ([0x18] ++ zeroBytes 31) })] } } { ctrl 0xC 3 ([0x18] ++ zeroBytes 31) with refs := 2 }
def w_partitionsAndCablingComplete8_s : State := { setFldAt on .DISC_MODE Fld.DISC_MODE.inst 0 0 0 with haw := { plan := [(1279, (planEnt planRaw).2)] } }

/-- The hypotheses of PartitionsAndCablingComplete can be met, clause by clause. -/
theorem test_holds_partitionsAndCablingComplete :
    (∃ (s : State) (c : Ncp) (part : Nat) (base : Nat) (free : Nat) (dev : Nat),
      boundaryPorts s free ((portsOfMap (c.body.drop 12)).filter fun p => dimCode s p == 0xF) = [] ∧ s.pwr.hubUp = true ∧ c.auth = .owner ∧
      c.body.length = 172 ∧ part = beAt c.body 0 2 ∧ base = beAt c.body 2 2 ∧ free = beAt c.body 4 2 ∧ dev = beAt c.body 8 4 ∧ 1 ≤ part ∧
      part ≤ 0xFFE ∧ beAt c.body 6 2 = 0 ∧ base &&& free = 0 ∧ base < 2 ^ dimsN s ∧ free < 2 ^ dimsN s ∧ 2 ^ popCount 14 free ≤ dev ∧ dev ≤ 2 ^ 24 ∧
      selfSpine s &&& free ^^^ selfSpine s = base ∧ (tfind s.holly.bindings part).isSome = true ∧ s.yew.stepped = true ∧ s.haw.pstate = .none ∧
      s.haw.admitting = none ∧ flag s .DISC_MODE = false ∧ closed s base free = true) ∧
    (∃ (s : State) (p : Nat) (t : Nat), p < 1280 ∧ tfind s.haw.boundaryAt p = some t ∧ t + 12500 ≤ s.raw ∧ portFenced s p = false ∧
      s.haw.admitting = none ∧ (fencePort s p .boundary).haw.admitting = none) ∧
    (∃ (s : State) (c : Ncp) (img : List Byte) (n : Nat) (raws : List (List Byte)), OwnerCmd s c ∧ readImage c 0 0x4E5A0028 1 false = .ok img ∧
      (∀ e ∈ raws, planEncodingOk e = true ∧ (planEnt e).1 < 1280) ∧ n = beAt img 6 2 ∧ beAt img 4 1 = 1 ∧ beAt img 5 1 = 1 ∧ n ≤ 1280 ∧
      img.length = 32 + 16 * n ∧ beAt img 8 4 = 0 ∧ beAt img 24 4 = 0 ∧ raws = (List.range n).map (fun i => bytesAt img (32 + 16 * i) 16) ∧
      flag s .PLAN_LOCK = false ∧ ((raws.map planEnt).map (·.1)).Nodup) ∧
    (∃ (s : State) (c : Ncp) (first : Nat) (n : Nat), OwnerCmd s c ∧ c.body = beBytes 2 first ++ beBytes 2 n ∧ first + n ≤ 1280) ∧
    (∃ (s : State) (p : Nat), p < 1280 ∧ portUp s p = true ∧ portMode s p = .fabric ∧ portFenced s p = false ∧ tfind s.haw.discSentAt p = none) ∧
    (∃ (s : State) (s1 : State) (fid : Nat) (f : StoredFrame), takeKind s fid 0xC = .ok (f, s1) ∧ f.data.length = 32 ∧ beAt f.data 0 1 / 16 = 1 ∧
      bitAt (beAt f.data 0 1) 3 = false ∧ (idOf s1 f.inPort).disc ≠ some f.data) ∧
    (∃ (s : State) (s1 : State) (fid : Nat) (f : StoredFrame), takeKind s fid 0xC = .ok (f, s1) ∧ f.data.length = 32 ∧ beAt f.data 0 1 / 16 = 1 ∧
      bitAt (beAt f.data 0 1) 3 = true ∧ (idOf s1 f.inPort).disc = some f.data ∧ portFenced s1 f.inPort = false) ∧
    (∃ (s : State) (p : Nat), p < 1280 ∧ flag s .DISC_MODE = false ∧ (tfind s.haw.plan p).isSome = true ∧ portEnabled s p = true ∧
      portFenced s p = false ∧ portUp s p = false ∧ cabOf s p ≠ .absent ∧
      max s.haw.planAt (tget 0 s.haw.waitFrom p) + ticksOfS (fld s .PLAN_WAIT_S) ≤ s.raw) :=
  ⟨⟨bound, own admitBody, 5, 0, 0x3FFF, 16384, no_boundary _ _ (by decide +kernel), by decide +kernel⟩,
   ⟨w_partitionsAndCablingComplete2_s, 1279, 5, by decide +kernel⟩,
   ⟨on, own (inline planImage), w_partitionsAndCablingComplete3_img, 1, [planRaw], ⟨rfl, rfl⟩, eq_okVal (by decide +kernel), by decide +kernel⟩,
   ⟨on, w_partitionsAndCablingComplete4_c, 1279, 1, ⟨rfl, rfl⟩, by decide +kernel⟩,
   ⟨withUp on 1024, 1024, by decide +kernel⟩,
   ⟨w_partitionsAndCablingComplete6_s, w_partitionsAndCablingComplete6_p0.2, 1, w_partitionsAndCablingComplete6_p0.1, eq_okPair (by decide +kernel),
     by decide +kernel⟩,
   ⟨w_partitionsAndCablingComplete7_s, w_partitionsAndCablingComplete7_p0.2, 1, w_partitionsAndCablingComplete7_p0.1, eq_okPair (by decide +kernel),
     by decide +kernel⟩,
   ⟨w_partitionsAndCablingComplete8_s, 1279, by decide +kernel⟩⟩

def w_fencesByCommandComplete1_c : Ncp := own ([1, 0] ++ beBytes 2 1279)
def w_fencesByCommandComplete2_c : Ncp := own ([2, 0] ++ beBytes 2 16383)
def w_fencesByCommandComplete3_c : Ncp := own ([3, 0] ++ beBytes 2 5)
def w_fencesByCommandComplete3_p : Nat := (someVal 0 (let s : State := endpoints; let n : Nat := 5; downPortOf s 0 n))
def w_fencesByCommandComplete4_c : Ncp := own ([1, 0] ++ beBytes 2 1279 ++ [0, 0])
def w_fencesByCommandComplete5_c : Ncp := own ([2, 0] ++ beBytes 2 16383 ++ [0, 0])
def w_fencesByCommandComplete6_c : Ncp := own ([3, 0] ++ beBytes 2 65535 ++ beBytes 2 1023)
def w_fencesByCommandComplete7_s : State := { held5 with haw := { held5.haw with hold := true } }
def w_fencesByCommandComplete8_s : State := { on with haw := { spines := [(5, { fenced := true, weak := true })] } }
def w_fencesByCommandComplete9_p : Probation := { since := 5, lastBeat := some (2 ^ 44) }
def w_fencesByCommandComplete9_s : State := onProbation w_fencesByCommandComplete9_p
def w_fencesByCommandComplete9_s1 : State := { w_fencesByCommandComplete9_s with haw := { (w_fencesByCommandComplete9_s).haw with probation := tdel (w_fencesByCommandComplete9_s).haw.probation 5 } }
def w_fencesByCommandComplete10_p : Probation := { since := 5, failed := true }
def w_fencesByCommandComplete10_s : State := onProbation w_fencesByCommandComplete10_p
def w_fencesByCommandComplete10_s1 : State := { w_fencesByCommandComplete10_s with haw := { (w_fencesByCommandComplete10_s).haw with probation := tdel (w_fencesByCommandComplete10_s).haw.probation 5 } }
def w_fencesByCommandComplete10_s2 : State := setSpine w_fencesByCommandComplete10_s1 5 (fun b => { b with probation := false })
def w_fencesByCommandComplete14_s : State := { on with haw := { sinkFrom := [(1279, 5)] } }

/-- The hypotheses of FencesByCommandComplete can be met, clause by clause. -/
theorem test_holds_fencesByCommandComplete :
    (∃ (s : State) (c : Ncp) (n : Nat), OwnerCmd s c ∧ c.body = [1, 0] ++ beBytes 2 n ∧ n < 1280 ∧ absorbed s n = false ∧ portFenced s n = false) ∧
    (∃ (s : State) (c : Ncp) (n : Nat), OwnerCmd s c ∧ c.body = [2, 0] ++ beBytes 2 n ∧ n < 2 ^ dimsN s ∧ n < 16384 ∧ (spineBits s n).fenced = false) ∧
    (∃ (s : State) (c : Ncp) (n : Nat) (p : Nat), OwnerCmd s c ∧ downPortOf s 0 n = some p ∧ c.body = [3, 0] ++ beBytes 2 n ∧ n < 65536 ∧
      portFenced s p = false) ∧
    (∃ (s : State) (c : Ncp) (n : Nat), OwnerCmd s c ∧ c.body = [1, 0] ++ beBytes 2 n ++ [0, 0] ∧ n < 1280) ∧
    (∃ (s : State) (c : Ncp) (n : Nat), OwnerCmd s c ∧ c.body = [2, 0] ++ beBytes 2 n ++ [0, 0] ∧ n < 16384 ∧ voteOn s n = none) ∧
    (∃ (s : State) (c : Ncp) (n : Nat) (dp : Nat), OwnerCmd s c ∧ c.body = [3, 0] ++ beBytes 2 n ++ beBytes 2 dp ∧ n < 65536 ∧ dp < 1024) ∧
    (∃ (s : State) (c : Ncp), OwnerCmd s c ∧ c.body = beBytes 2 s.haw.part ∧ s.haw.part < 4096 ∧ holdsPart s = true ∧ s.haw.hold = true) ∧
    (∃ (s : State) (c : Ncp) (x : Nat), OwnerCmd s c ∧ c.body = beBytes 2 x ∧ x < 16384 ∧ (spineBits s x).fenced = true ∧ (spineBits s x).weak = true) ∧
    (∃ (s : State) (s1 : State) (x : Nat) (p : Probation) (t : Nat), s1 = { s with haw := { s.haw with probation := tdel s.haw.probation x } } ∧
      x < 16384 ∧ tfind s.haw.probation x = some p ∧ p.since + ticksOfS (fld s .PROB_S) ≤ s.raw ∧ p.failed = false ∧ p.lastBeat = some t ∧ t ≤ s.raw ∧
      s.raw ≤ t + ticksOfUs (2 * fld s .BEAT_US)) ∧
    (∃ (s : State) (s1 : State) (x : Nat) (p : Probation) (s2 : State), s1 = { s with haw := { s.haw with probation := tdel s.haw.probation x } } ∧
      (p.failed = true ∨ p.lastBeat = none) ∧ s2 = setSpine s1 x (fun b => { b with probation := false }) ∧ x < 16384 ∧
      tfind s.haw.probation x = some p ∧ p.since + ticksOfS (fld s .PROB_S) ≤ s.raw) ∧
    (∃ (s : State) (c : Ncp), OwnerCmd s c ∧ c.body = []) ∧
    (∃ (s : State), s.haw.recoveredAt + ticksOfS 1 ≤ s.raw) ∧
    (∃ (s : State) (p : Nat) (t : Nat), p < 1280 ∧ tfind s.haw.sinkFrom p = some t ∧ t + ticksOfMs (fld s .SINK_FENCE_MS) ≤ s.raw ∧
      s.haw.hold = false ∧ portFenced s p = false) :=
  ⟨⟨on, w_fencesByCommandComplete1_c, 1279, ⟨rfl, rfl⟩, by decide +kernel⟩,
   ⟨allDims, w_fencesByCommandComplete2_c, 16383, ⟨rfl, rfl⟩, by decide +kernel⟩,
   ⟨endpoints, w_fencesByCommandComplete3_c, 5, w_fencesByCommandComplete3_p, ⟨rfl, rfl⟩, eq_someVal (by decide +kernel), by decide +kernel⟩,
   ⟨on, w_fencesByCommandComplete4_c, 1279, ⟨rfl, rfl⟩, by decide +kernel⟩,
   ⟨on, w_fencesByCommandComplete5_c, 16383, ⟨rfl, rfl⟩, by decide +kernel⟩,
   ⟨on, w_fencesByCommandComplete6_c, 65535, 1023, ⟨rfl, rfl⟩, by decide +kernel⟩,
   ⟨w_fencesByCommandComplete7_s, own (beBytes 2 5), ⟨rfl, rfl⟩, by decide +kernel⟩,
   ⟨w_fencesByCommandComplete8_s, own (beBytes 2 5), 5, ⟨rfl, rfl⟩, by decide +kernel⟩,
   ⟨w_fencesByCommandComplete9_s, w_fencesByCommandComplete9_s1, 5, w_fencesByCommandComplete9_p, 2 ^ 44, rfl, by decide +kernel⟩,
   ⟨w_fencesByCommandComplete10_s, w_fencesByCommandComplete10_s1, 5, w_fencesByCommandComplete10_p, w_fencesByCommandComplete10_s2, rfl, Or.inl rfl,
     rfl, by decide +kernel⟩,
   ⟨on, own [], ⟨rfl, rfl⟩, by decide +kernel⟩,
   ⟨on, by decide +kernel⟩,
   ⟨w_fencesByCommandComplete14_s, 1279, 5, by decide +kernel⟩⟩

def w_hedgeVoteCompletes1_s0 : State := proposeSelf (withUp oneDim 0)
def w_hedgeVoteCompletes2_p4 : StoredFrame × State := (okVal (ctrl 0 0 [], on) (let s : State := inbox oneDim (hedgeFrame (hedgeMsg 1)); let fid : Nat := 1; takeKind s fid 0xB))
def w_hedgeVoteCompletes2_s : State := inbox oneDim (hedgeFrame (hedgeMsg 1))
def w_hedgeVoteCompletes4_v : Vote := { aVote with mine := false, evid := 2 }
def w_hedgeVoteCompletes4_s : State := { on with haw := { spines := [(5, { degraded := true })], votes := [w_hedgeVoteCompletes4_v] } }
def w_hedgeVoteCompletes5_s : State := { on with haw := { votes := [aVote] } }
def w_hedgeVoteCompletes6_s : State := { on with haw := { votes := [aVote] } }
def w_hedgeVoteCompletes7_p1 : Hedge × State := (someVal ({ htype := 0 }, on) (let s : State := inbox on (hedgeFrame (hedgeMsg 2)); let fid : Nat := 1; floodIn s fid 2))
def w_hedgeVoteCompletes7_s : State := inbox on (hedgeFrame (hedgeMsg 2))
def w_hedgeVoteCompletes8_p7 : Hedge × State := (someVal ({ htype := 0 }, on) (let s : State := inbox { on with haw := { votes := [aVote] } } (hedgeFrame (hedgeMsg 3)); let fid : Nat := 1; floodIn s fid 3))
def w_hedgeVoteCompletes8_s : State := inbox { on with haw := { votes := [aVote] } } (hedgeFrame (hedgeMsg 3))
def w_hedgeVoteCompletes9_p7 : Hedge × State := (someVal ({ htype := 0 }, on) (let s : State := inbox { on with haw := { votes := [aVote] } } (hedgeFrame (hedgeMsg 4)); let fid : Nat := 1; floodIn s fid 4))
def w_hedgeVoteCompletes9_s : State := inbox { on with haw := { votes := [aVote] } } (hedgeFrame (hedgeMsg 4))
def w_hedgeVoteCompletes10_p1 : Hedge × State := (someVal ({ htype := 0 }, on) (let s : State := inbox on (hedgeFrame (hedgeMsg 5)); let fid : Nat := 1; floodIn s fid 5))
def w_hedgeVoteCompletes10_s : State := inbox on (hedgeFrame (hedgeMsg 5))
def w_hedgeVoteCompletes11_p1 : Hedge × State := (someVal ({ htype := 0 }, on) (let s : State := inbox { on with haw := { votes := [aVote] } } (hedgeFrame (hedgeMsg 6)); let fid : Nat := 1; floodIn s fid 6))
def w_hedgeVoteCompletes11_s : State := inbox { on with haw := { votes := [aVote] } } (hedgeFrame (hedgeMsg 6))
def w_hedgeVoteCompletes12_p1 : Hedge × State := (someVal ({ htype := 0 }, on) (let s : State := inbox on (hedgeFrame ({ hedgeMsg 7 with dpV := true, dport := 1023 })); let fid : Nat := 1; floodIn s fid 7))
def w_hedgeVoteCompletes12_s : State := inbox on (hedgeFrame ({ hedgeMsg 7 with dpV := true, dport := 1023 }))
def w_hedgeVoteCompletes13_p1 : Hedge × State := (someVal ({ htype := 0 }, on) (let s : State := inbox held5 (hedgeFrame (hedgeMsg 8)); let fid : Nat := 1; floodIn s fid 8))
def w_hedgeVoteCompletes13_s : State := inbox held5 (hedgeFrame (hedgeMsg 8))
def w_hedgeVoteCompletes14_p1 : Hedge × State := (someVal ({ htype := 0 }, on) (let s : State := inbox held5 (hedgeFrame (hedgeMsg 9)); let fid : Nat := 1; floodIn s fid 9))
def w_hedgeVoteCompletes14_s : State := inbox held5 (hedgeFrame (hedgeMsg 9))

/-- The hypotheses of HedgeVoteCompletes can be met, clause by clause. -/
theorem test_holds_hedgeVoteCompletes :
    (∃ (s : State) (s0 : State) (p : Nat), s0 = proposeSelf s ∧ p < 1280 ∧ isSpinePort s0 p = true ∧ portUp s0 p = true ∧ portMode s0 p = .fabric ∧
      portFenced s0 p = false ∧ quarantined s0 p = false ∧ tget 0 s0.haw.beatSent p + ticksOfUs (fld s0 .BEAT_US) ≤ s0.raw) ∧
    (∃ (s : State) (s1 : State) (fid : Nat) (e : Nat × Nat) (f : StoredFrame) (g : StoredFrame), takeKind s fid 0xB = .ok (g, s1) ∧
      (s.loam.inbox.find? fun e => e.1 == fid) = some e ∧ frameOf s fid = some f ∧ f.ffh.kind = 0xB ∧ (hedgeParse f.data).htype = 1 ∧
      hedgeOk g.data = true ∧ dimCode s1 g.inPort ≤ 13 ∧ (hedgeParse g.data).degraded = false ∧ (neighOf s1 (dimCode s1 g.inPort)).degraded = false) ∧
    (∃ (s : State) (d : Nat) (x : Nat), observable s d = true ∧ (silentDim s d = true ∨ darkDim s d = true) ∧ d < 14 ∧
      x = neighbourOf s (selfSpine s) d ∧ (voteDims s).contains d = true ∧ (spineBits s x).fenced = false ∧ voteOn s x = none) ∧
    (∃ (s : State) (x : Nat) (v : Vote), voteOn s x = some v ∧ v.voted = false ∧ votesYes s v = true) ∧
    (∃ (s : State) (x : Nat) (v : Vote), voteOn s x = some v ∧ v.voted = false ∧ votesYes s v = false ∧ v.since + silenceTicks s ≤ s.raw) ∧
    (∃ (s : State) (x : Nat) (v : Vote), voteOn s x = some v ∧ v.mine = true ∧ v.since + ticksOfUs (fld s .VOTE_WINDOW_US) ≤ s.raw) ∧
    (∃ (s : State) (s1 : State) (fid : Nat) (h : Hedge), floodIn s fid 2 = some (h, s1) ∧ h.htype ≠ 0 ∧ (spineBits s1 h.suspect).fenced = false ∧
      voteOn s1 h.suspect = none ∧ (voterSet s1 h.suspect).contains (selfSpine s1) = false) ∧
    (∃ (s : State) (s1 : State) (fid : Nat) (h : Hedge) (v : Vote), floodIn s fid 3 = some (h, s1) ∧ h.htype ≠ 0 ∧ voteOn s1 h.suspect = some v ∧
      v.mine = true ∧ v.vseq = h.vseq ∧ v.voters.contains h.origin = true ∧ v.yes.contains h.origin = false ∧ v.no.contains h.origin = false) ∧
    (∃ (s : State) (s1 : State) (fid : Nat) (h : Hedge) (v : Vote), floodIn s fid 4 = some (h, s1) ∧ h.htype ≠ 0 ∧ voteOn s1 h.suspect = some v ∧
      v.mine = true ∧ v.vseq = h.vseq ∧ v.voters.contains h.origin = true ∧ v.yes.contains h.origin = false ∧ v.no.contains h.origin = false) ∧
    (∃ (s : State) (s1 : State) (fid : Nat) (h : Hedge), floodIn s fid 5 = some (h, s1) ∧ h.htype ≠ 0) ∧
    (∃ (s : State) (s1 : State) (fid : Nat) (h : Hedge) (v : Vote), floodIn s fid 6 = some (h, s1) ∧ h.htype ≠ 0 ∧ voteOn s1 h.suspect = some v ∧
      v.origin = h.origin ∧ v.vseq = h.vseq) ∧
    (∃ (s : State) (s1 : State) (fid : Nat) (h : Hedge), floodIn s fid 7 = some (h, s1) ∧ h.htype ≠ 0 ∧ h.dpV = true ∧ h.evid ≠ 3) ∧
    (∃ (s : State) (s1 : State) (fid : Nat) (h : Hedge), floodIn s fid 8 = some (h, s1) ∧ h.htype ≠ 0 ∧ holdsPart s1 = true ∧ h.part = s1.haw.part) ∧
    (∃ (s : State) (s1 : State) (fid : Nat) (h : Hedge), floodIn s fid 9 = some (h, s1) ∧ h.htype ≠ 0 ∧ holdsPart s1 = true ∧ h.part = s1.haw.part) :=
  ⟨⟨withUp oneDim 0, w_hedgeVoteCompletes1_s0, 0, rfl, by decide +kernel⟩,
   ⟨w_hedgeVoteCompletes2_s, w_hedgeVoteCompletes2_p4.2, 1, (1, 0), hedgeFrame (hedgeMsg 1), w_hedgeVoteCompletes2_p4.1,
     eq_okPair (by decide +kernel), by decide +kernel⟩,
   ⟨oneDim, 0, 1, oneDim_observable, Or.inl (by decide +kernel), by decide +kernel⟩,
   ⟨w_hedgeVoteCompletes4_s, 5, w_hedgeVoteCompletes4_v, by decide +kernel⟩,
   ⟨w_hedgeVoteCompletes5_s, 5, aVote, by decide +kernel⟩,
   ⟨w_hedgeVoteCompletes6_s, 5, aVote, by decide +kernel⟩,
   ⟨w_hedgeVoteCompletes7_s, w_hedgeVoteCompletes7_p1.2, 1, w_hedgeVoteCompletes7_p1.1, eq_somePair (by decide +kernel), by decide +kernel⟩,
   ⟨w_hedgeVoteCompletes8_s, w_hedgeVoteCompletes8_p7.2, 1, w_hedgeVoteCompletes8_p7.1, aVote, eq_somePair (by decide +kernel), by decide +kernel⟩,
   ⟨w_hedgeVoteCompletes9_s, w_hedgeVoteCompletes9_p7.2, 1, w_hedgeVoteCompletes9_p7.1, aVote, eq_somePair (by decide +kernel), by decide +kernel⟩,
   ⟨w_hedgeVoteCompletes10_s, w_hedgeVoteCompletes10_p1.2, 1, w_hedgeVoteCompletes10_p1.1, eq_somePair (by decide +kernel), by decide +kernel⟩,
   ⟨w_hedgeVoteCompletes11_s, w_hedgeVoteCompletes11_p1.2, 1, w_hedgeVoteCompletes11_p1.1, aVote, eq_somePair (by decide +kernel), by decide +kernel⟩,
   ⟨w_hedgeVoteCompletes12_s, w_hedgeVoteCompletes12_p1.2, 1, w_hedgeVoteCompletes12_p1.1, eq_somePair (by decide +kernel), by decide +kernel⟩,
   ⟨w_hedgeVoteCompletes13_s, w_hedgeVoteCompletes13_p1.2, 1, w_hedgeVoteCompletes13_p1.1, eq_somePair (by decide +kernel), by decide +kernel⟩,
   ⟨w_hedgeVoteCompletes14_s, w_hedgeVoteCompletes14_p1.2, 1, w_hedgeVoteCompletes14_p1.1, eq_somePair (by decide +kernel), by decide +kernel⟩⟩

def w_countersAndSnapshotsComplete1_c : Ncp := own (beBytes 1 1 ++ beBytes 2 [0x00000000].length ++ [0x00000000].flatMap (beBytes 4))
def w_countersAndSnapshotsComplete2_c : Ncp := own (beBytes 4 0 ++ beBytes 8 0)
def w_countersAndSnapshotsComplete3_c : Ncp := own (beBytes 4 0 ++ beBytes 8 (2 ^ 64 - 1))
def w_countersAndSnapshotsComplete4_c : Ncp := own (beBytes 4 (now32 timed + 10000) ++ beBytes 8 0)
def w_countersAndSnapshotsComplete5_s : State := { on with st := { snaps := [aSnap .pending] } }
def w_countersAndSnapshotsComplete6_s : State := { on with st := { snaps := [aSnap .writing] } }
def w_countersAndSnapshotsComplete7_s : State := { on with st := { snaps := [aSnap .complete] } }
def w_countersAndSnapshotsComplete8_c : Ncp := own (beBytes 4 1 ++ beBytes 4 63)
def w_countersAndSnapshotsComplete8_s : State := { on with st := { snaps := [aSnap .complete] } }
def w_countersAndSnapshotsComplete9_c : Ncp := own (beBytes 1 8 ++ beBytes 1 0 ++ [0, 0])

/-- The hypotheses of CountersAndSnapshotsComplete can be met, clause by clause. -/
theorem test_holds_countersAndSnapshotsComplete :
    (∃ (s : State) (c : Ncp) (rst : Nat) (srcs : List Nat), OwnerCmd s c ∧ (∀ x ∈ srcs, x < 2 ^ 32 ∧ sourceValid x = true) ∧ rst ≤ 1 ∧
      1 ≤ srcs.length ∧ srcs.length ≤ 1024 ∧ c.body = beBytes 1 rst ++ beBytes 2 srcs.length ++ srcs.flatMap (beBytes 4)) ∧
    (∃ (s : State) (c : Ncp) (src : Nat) (v : Nat), OwnerCmd s c ∧ c.body = beBytes 4 src ++ beBytes 8 v ∧ src < 2 ^ 32 ∧ v < 2 ^ 64 ∧
      sourceValid src = true ∧ v = 0) ∧
    (∃ (s : State) (c : Ncp) (src : Nat) (v : Nat), OwnerCmd s c ∧ c.body = beBytes 4 src ++ beBytes 8 v ∧ src < 2 ^ 32 ∧ v < 2 ^ 64 ∧
      sourceValid src = true ∧ v ≠ 0 ∧ s.st.thr.length < 4096) ∧
    (∃ (s : State) (c : Ncp) (t : Nat) (mask : Nat) (k : Nat), OwnerCmd s c ∧ c.body = beBytes 4 t ++ beBytes 8 mask ∧ t < 2 ^ 32 ∧ mask < 2 ^ 22 ∧
      s.yew.stepped = true ∧ 10000 ≤ diff32 t (now32 s) ∧ diff32 t (now32 s) ≤ 2000000000 ∧ s.st.snaps.length < 4 ∧
      (s.st.snaps.map fun x => snapSize s x.mask x.part).foldl (· + ·) 0 + snapSize s mask 0 ≤ fld s .SNAP_CELLS * 256 ∧
      (List.range 4).find? (fun k => s.st.snaps.all fun x => x.slot != k) = some k) ∧
    (∃ (s : State) (x : Snap), s.st.snaps = [x] ∧ x.phase = .pending ∧ x.at_ ≤ nowNs s) ∧
    (∃ (s : State) (x : Snap), s.st.snaps = [x] ∧ x.phase = .writing) ∧
    (∃ (s : State) (x : Snap), s.st.snaps = [x] ∧ x.phase = .complete ∧ x.doneAt + ticksOfS (fld s .SNAP_HOLD_S) ≤ s.raw) ∧
    (∃ (s : State) (c : Ncp) (id : Nat) (off : Nat) (x : Snap), OwnerCmd s c ∧ c.body = beBytes 4 id ++ beBytes 4 off ∧ id < 2 ^ 32 ∧ off < 2 ^ 32 ∧
      s.st.snaps.find? (fun x => x.id == id) = some x ∧ off < (snapBytes x).length) ∧
    (∃ (s : State) (c : Ncp) (blk : Nat) (inst : Nat), OwnerCmd s c ∧ c.body = beBytes 1 blk ++ beBytes 1 inst ++ [0, 0] ∧ blk < 256 ∧ inst < 255 ∧
      unitExists blk inst = true) :=
  ⟨⟨on, w_countersAndSnapshotsComplete1_c, 1, [0x00000000], ⟨rfl, rfl⟩, fun x hx => List.mem_singleton.mp hx ▸ ⟨by decide +kernel, by decide +kernel⟩,
     by decide +kernel⟩,
   ⟨on, w_countersAndSnapshotsComplete2_c, 0, 0, ⟨rfl, rfl⟩, by decide +kernel⟩,
   ⟨on, w_countersAndSnapshotsComplete3_c, 0, 2 ^ 64 - 1, ⟨rfl, rfl⟩, by decide +kernel⟩,
   ⟨timed, w_countersAndSnapshotsComplete4_c, now32 timed + 10000, 0, 0, ⟨rfl, rfl⟩, by decide +kernel⟩,
   ⟨w_countersAndSnapshotsComplete5_s, aSnap .pending, by decide +kernel⟩,
   ⟨w_countersAndSnapshotsComplete6_s, aSnap .writing, by decide +kernel⟩,
   ⟨w_countersAndSnapshotsComplete7_s, aSnap .complete, by decide +kernel⟩,
   ⟨w_countersAndSnapshotsComplete8_s, w_countersAndSnapshotsComplete8_c, 1, 63, aSnap .complete, ⟨rfl, rfl⟩, by decide +kernel⟩,
   ⟨on, w_countersAndSnapshotsComplete9_c, 8, 0, ⟨rfl, rfl⟩, by decide +kernel⟩⟩

def w_traceCompletes5_s : State := setFldAt tracing .TP_EN Fld.TP_EN.inst 0 0 1

/-- The hypotheses of TraceCompletes can be met, clause by clause. -/
theorem test_holds_traceCompletes :
    (∃ (s : State) (s1 : State) (c : Ncp) (id : Nat), OwnerCmd s c ∧ reserve s ((tracePart c.body).getD 0) (beAt c.body 20 4) 0 = some (id, s1) ∧
      c.body.length = 32 ∧ traceParamsOk c.body = true ∧ mayTrace s c.auth c.body = true ∧ s.st.trace = none ∧ beAt c.body 24 4 = 0) ∧
    (∃ (s : State) (c : Ncp), OwnerCmd s c ∧ c.body = []) ∧
    (∃ (s : State) (t : Trace), s.st.trace = some t ∧ t.lastTime + 1250000 ≤ s.raw ∧ bitAt (beAt t.params 0 1) 3 = false) ∧
    (∃ (s : State) (t : Trace) (x : Nat), s.st.trace = some t ∧ t.stopAt = some x ∧ x ≤ nowNs s) ∧
    (∃ (s : State) (t : Trace), s.st.trace = some t ∧ t.staged = [] ∧ t.stagedBytes = 0 ∧ t.lostSince = 0 ∧ flag s .TP_EN = true) :=
  ⟨⟨on, reserved.2, own traceBody, reserved.1, ⟨rfl, rfl⟩, on_reserved, by decide +kernel⟩,
   ⟨tracing, own [], ⟨rfl, rfl⟩, by decide +kernel⟩,
   ⟨tracing, aTrace, by decide +kernel⟩,
   ⟨tracing, aTrace, 5, by decide +kernel⟩,
   ⟨w_traceCompletes5_s, aTrace, by decide +kernel⟩⟩

def w_teardownAndMarginComplete4_s : State := setFldAt on .ENG_MASK Fld.ENG_MASK.inst 0 0 0
def w_teardownAndMarginComplete4_c : Ncp := own (beBytes 1 15 ++ [0, 0, 0] ++ beBytes 2 10000 ++ [0])
def w_teardownAndMarginComplete5_m : Margin := { cmd := own [], unit := 15, vofs := 0, load := 0, endAt := 5 }
def w_teardownAndMarginComplete5_s : State := { on with haw := { margin := some w_teardownAndMarginComplete5_m } }

/-- The hypotheses of TeardownAndMarginComplete can be met, clause by clause. -/
theorem test_holds_teardownAndMarginComplete :
    (∃ (s : State) (c : Ncp), OwnerCmd s c ∧ c.body = beBytes 2 s.haw.part ∧ s.haw.part < 4096 ∧ holdsPart s = true ∧ s.haw.pstate = .active) ∧
    (∃ (s : State) (c : Ncp), s.haw.pstate = .teardown ∧ s.haw.teardown = some c) ∧
    (∃ (s : State) (c : Ncp) (u : Nat) (ms : Nat), OwnerCmd s c ∧ u < 16 ∧ 1 ≤ ms ∧ ms ≤ 10000 ∧
      c.body = beBytes 1 u ++ [0, 0, 0] ++ beBytes 2 ms ++ [0] ∧ unitBusy s u = false ∧ s.haw.margin = none) ∧
    (∃ (s : State) (m : Margin), s.haw.margin = some m ∧ m.endAt ≤ s.raw) :=
  ⟨⟨held5, own (beBytes 2 5), ⟨rfl, rfl⟩, by decide +kernel⟩,
   ⟨ending, own (beBytes 2 5), by decide +kernel⟩,
   ⟨w_teardownAndMarginComplete4_s, w_teardownAndMarginComplete4_c, 15, 10000, ⟨rfl, rfl⟩, by decide +kernel⟩,
   ⟨w_teardownAndMarginComplete5_s, w_teardownAndMarginComplete5_m, by decide +kernel⟩⟩

def w_keyExchangeCompletes1_c : Ncp := anon ([2] ++ beBytes 2 0xFFE ++ zeroBytes 1313)
def w_keyExchangeCompletes2_c : Ncp := anon ([1] ++ zeroBytes 1315)
def w_keyExchangeCompletes3_c : Ncp := anon (beBytes 4 1 ++ zeroBytes 5502)
def w_keyExchangeCompletes3_s : State := { exchanging 2 with holly := { (exchanging 2).holly with debug := true } }
def w_keyExchangeCompletes3_auth : List Byte := (someVal [] (let c : Ncp := w_keyExchangeCompletes3_c; let k : Kex := aKex 2; finAuth k c.body))
def w_keyExchangeCompletes4_c : Ncp := anon (beBytes 4 1 ++ aConfirm)
def w_keyExchangeCompletes5_c : Ncp := anon (beBytes 4 1 ++ zeroBytes 48)
def w_keyExchangeCompletes8_k : Kex := { aKex 1 with since := 5 }
def w_keyExchangeCompletes8_s : State := { on with holly := { kexes := [(1, w_keyExchangeCompletes8_k)] } }

/-- The hypotheses of KeyExchangeCompletes can be met, clause by clause. -/
theorem test_holds_keyExchangeCompletes :
    (∃ (s : State) (c : Ncp) (p : Nat), s.pwr.hubUp = true ∧ c.auth = .untagged ∧ c.body.length = 1316 ∧ beAt c.body 0 1 = 2 ∧ beAt c.body 1 2 = p ∧
      1 ≤ p ∧ p ≤ 0xFFE ∧ s.holly.debug = false ∧ tearingDown s p = false ∧ tfind s.holly.bindings p = none) ∧
    (∃ (s : State) (c : Ncp), s.pwr.hubUp = true ∧ c.auth = .untagged ∧ overMailbox c.via = true ∧ c.body.length = 1316 ∧ beAt c.body 0 1 = 1 ∧
      beAt c.body 1 2 = 0 ∧ s.holly.ownerKey = none ∧ flag s .OWNER_LOCK = false) ∧
    (∃ (s : State) (c : Ncp) (k : Kex) (auth : List Byte) (code : Code), finAuth k c.body = some auth ∧ s.pwr.hubUp = true ∧ c.auth = .untagged ∧
      52 ≤ c.body.length ∧ kexOf s (beAt c.body 0 4) = some k ∧ finBars s k = some code) ∧
    (∃ (s : State) (c : Ncp) (k : Kex) (auth : List Byte), s.pwr.hubUp = true ∧ c.auth = .untagged ∧ 52 ≤ c.body.length ∧
      kexOf s (beAt c.body 0 4) = some k ∧ finAuth k c.body = some auth ∧ finBars s k = none ∧ finAuthOk s k auth = true ∧
      finConfirmed k c.body = true) ∧
    (∃ (s : State) (c : Ncp) (k : Kex) (auth : List Byte), (finAuthOk s k auth = false ∨ finConfirmed k c.body = false) ∧ s.pwr.hubUp = true ∧
      c.auth = .untagged ∧ 52 ≤ c.body.length ∧ kexOf s (beAt c.body 0 4) = some k ∧ finAuth k c.body = some auth ∧ finBars s k = none) ∧
    (∃ (k : Kex), k.purpose = 1) ∧
    (∃ (k : Kex), k.purpose = 2) ∧
    (∃ (s : State) (id : Nat) (k : Kex), tfind s.holly.kexes id = some k ∧ k.since + 12500000 ≤ s.raw) ∧
    (∃ (s : State) (l : Nat), linkLive s l = true ∧ (linkKeys s l).txKey.isSome = true ∧ (linkKeys s l).exchanging = false ∧
      (linkKeys s l).keyedAt + ticksOfS (fld s .REKEY_S) ≤ s.raw) :=
  ⟨⟨on, w_keyExchangeCompletes1_c, 0xFFE, by decide +kernel⟩,
   ⟨on, w_keyExchangeCompletes2_c, by decide +kernel⟩,
   ⟨w_keyExchangeCompletes3_s, w_keyExchangeCompletes3_c, aKex 2, w_keyExchangeCompletes3_auth, .notAuthorised, eq_someVal (by decide +kernel),
     by decide +kernel⟩,
   ⟨exchanging 1, w_keyExchangeCompletes4_c, aKex 1, [], by decide +kernel⟩,
   ⟨exchanging 1, w_keyExchangeCompletes5_c, aKex 1, [], Or.inr (by decide +kernel), by decide +kernel⟩,
   ⟨aKex 1, by decide +kernel⟩,
   ⟨aKex 2, by decide +kernel⟩,
   ⟨w_keyExchangeCompletes8_s, 1, w_keyExchangeCompletes8_k, by decide +kernel⟩,
   ⟨keyed, 1024, by decide +kernel⟩⟩

def w_hollyCommandsComplete2_c : Ncp := anon (zeroBytes 32 ++ beBytes 2 511 ++ beBytes 2 0xFFE)

/-- The hypotheses of HollyCommandsComplete can be met, clause by clause. -/
theorem test_holds_hollyCommandsComplete :
    (∃ (s : State) (c : Ncp) (k : Nat), s.pwr.hubUp = true ∧ c.body = beBytes 1 k ∧ k ≤ 3) ∧
    (∃ (s : State) (c : Ncp) (nonce : List Byte) (mask : Nat) (part : Nat), s.pwr.hubUp = true ∧ nonce.length = 32 ∧ mask < 512 ∧ part < 0xFFF ∧
      c.body = nonce ++ beBytes 2 mask ++ beBytes 2 part) ∧
    (∃ (s : State) (c : Ncp) (p : Nat) (sci : Nat) (an : Nat) (suite : Nat), OwnerCmd s c ∧
      (holdsPart s = true → tfind s.holly.bindings s.haw.part = none) ∧ c.body.length = 68 ∧ beAt c.body 0 2 = p ∧ beAt c.body 2 8 = sci ∧
      beAt c.body 10 1 = an ∧ beAt c.body 11 1 = suite ∧ p < 1280 ∧ absorbed s p = false ∧ portMode s p = .ethernet ∧ an < 4 ∧ suite < 2 ∧
      s.haw.pstate ≠ .teardown) ∧
    (∃ (s : State) (c : Ncp), OwnerCmd s c ∧ c.body = [] ∧ s.holly.bindings = [] ∧ flag s .OWNER_LOCK = false) ∧
    (∃ (s : State) (c : Ncp), s.pwr.hubUp = true ∧ c.body = []) ∧
    (∃ (s : State) (c : Ncp), OwnerCmd s c ∧ c.body.length = 3449 ∧ flag s .DEBUG_LOCK = false) ∧
    (∃ (s : State) (c : Ncp), OwnerCmd s c ∧ c.body = []) :=
  ⟨⟨on, anon (beBytes 1 3), 3, by decide +kernel⟩,
   ⟨on, w_hollyCommandsComplete2_c, zeroBytes 32, 511, 0xFFE, by decide +kernel⟩,
   ⟨ether, own macsecBody, 1024, 9, 3, 1, ⟨rfl, rfl⟩, fun h => absurd h (by decide +kernel), by decide +kernel⟩,
   ⟨on, own [], ⟨rfl, rfl⟩, by decide +kernel⟩,
   ⟨on, anon [], by decide +kernel⟩,
   ⟨on, own (zeroBytes 3449), ⟨rfl, rfl⟩, by decide +kernel⟩,
   ⟨on, own [], ⟨rfl, rfl⟩, by decide +kernel⟩⟩

def w_headersRoundTrip1_h : Ffh := { ver := 15, tc := 7, epoch := 3, part := 4095, src := 2 ^ 32 - 1, hops := 255, sweepId := 65535 }
def w_headersRoundTrip2_h : LinkHdr := { seq := 65535, aq := 15, ack := 65535, eq := 15, eseq := 65535, ekind := .none, replay := true }

/-- The hypotheses of HeadersRoundTrip can be met, clause by clause. -/
theorem test_holds_headersRoundTrip :
    (∃ (h : Ffh), h.ver < 16 ∧ h.tc < 8 ∧ h.epoch < 4 ∧ h.ecn < 4 ∧ h.part < 4096 ∧ h.fmt < 16 ∧ h.src < 2 ^ 32 ∧ h.dst < 2 ^ 32 ∧ h.collId < 2 ^ 32 ∧
      h.chunk < 2 ^ 32 ∧ h.layer < 65536 ∧ h.oper < 65536 ∧ h.plen < 65536 ∧ h.kind < 16 ∧ h.rsv < 4 ∧ h.hops < 256 ∧ h.sweepId < 65536) ∧
    (∃ (h : LinkHdr), h.seq < 65536 ∧ h.aq < 16 ∧ h.ack < 65536 ∧ h.eq < 16 ∧ h.eseq < 65536) ∧
    (∃ (op : Nat) (seq : Nat) (part : Nat) (body : List Byte), op < 65536 ∧ seq < 2 ^ 32 ∧ part < 0xFFF ∧ body.length < 2 ^ 32) :=
  ⟨⟨w_headersRoundTrip1_h, by decide +kernel⟩,
   ⟨w_headersRoundTrip2_h, by decide +kernel⟩,
   ⟨65535, 2 ^ 32 - 1, 0xFFE, [], by decide +kernel⟩⟩

/-! Worked examples of the spec -/

/-- 00_scope.md, the example after Table 0.3: OL700 is lane 4 of tile T7 of S10, in half 1. -/
theorem test_place_of_ol700 : sliceOf 700 = 10 ∧ tileOf 700 = 7 ∧ laneOf 700 = 4 ∧ halfOf 700 = 1 := by decide +kernel

/-- 02_fabric_frames.md, the address example: plane 2, spine 1,234, down-port 37, endpoint 5; and down-port 38 of the other one. -/
theorem test_address_fields :
    addrPlane 0x426904A5 = 2 ∧ addrSpine 0x426904A5 = 1234 ∧ addrDown 0x426904A5 = 37 ∧ addrEnd 0x426904A5 = 5 ∧ addrDown 0x426904C5 = 38 := by
  decide +kernel

/-- 02_fabric_frames.md, the cells of stored frames. -/
theorem test_cells_of_frames :
    [32 + 64, 32 + 224, 32 + 225, 32 + 8160, 9216].map cellsFor = [1, 1, 2, 32, 36] := by decide +kernel

/-- 02_fabric_frames.md, the PORT_MODE example: 0x5500 at T7 of S10 puts P700 in Ethernet mode, and leaves the other half of the tile alone. -/
theorem test_port_mode_of_p700 :
    portMode (regKeep on 0x08 0x0A 0x5C 0 0x5500) 700 = .ethernet ∧ portMode on 700 = .fabric ∧
      portMode (regKeep on 0x08 0x0A 0x5C 0 0x5500) 696 ≠ .ethernet := by decide +kernel

/-- 04_calendars_and_gates.md, step 3 of the worked schedule: 4,064 payload bytes take 4,158 bytes on a protected link. -/
theorem test_wire_bytes : fabricWire 4064 true = 4158 ∧ fabricWire 8160 true = 8254 := by decide +kernel

/-- 05_routing_and_spraying.md, step 1 of the twisted route: from spine 1 to 0x507 with D10 twisted, v is D1, D2 and D10. -/
theorem test_twisted_plan :
    planOf (setFldAt (setFldAt on .DIMS Fld.DIMS.inst 0 0 11) .TW_TOP Fld.TW_TOP.inst 0 0 1) 1 0x507 = 0x406 := by decide +kernel

/-- 06_forwarding_tables.md, the prefix example: 10.22.5.9 takes the /14 in partition 0x023, with the keys of the table of probes. -/
theorem test_longest_prefix :
    prefixKey false 0x023 14 0x0A160509 = 0x00230E0A140000 ∧ prefixKey false 0x023 24 0x0A160509 = 0x0023180A160500 ∧
      (let put := fun (t : State) (n a nh : Nat) => okVal t (loadRecs 6 0 [[1, 0] ++ beBytes 2 15 ++ beBytes 7 (prefixKey false 0x023 n a) ++ beBytes 4 nh] t)
       let t := put (put (put on 14 0x0A140000 0x42) 8 0x0A000000 7) 0 0 1
       (prefixLook t t.laurel.r1 false 0x023 0x0A160509).hit) = some 0x42 := by decide +kernel

/-- The accumulator after its addends. -/
def summed (l : List Nat) : Accum := l.foldl (fun a x => a.enter (valOf 1 x) false) {}

/-- 07_number_formats.md, the worked example: 2^100 + 21.25 − 2^100 in any order is 85 × 2^147 units, 0x5B in E4M3 by RNE and 0x5A by RTZ. -/
theorem test_exact_sum :
    (summed [0x7180, 0x41AA, 0xF180]).sum = 85 * 2 ^ 147 ∧ summed [0x41AA, 0xF180, 0x7180] = summed [0x7180, 0x41AA, 0xF180] ∧
      (convert 3 rne (summed [0x7180, 0x41AA, 0xF180]).final).bits = 0x5B ∧
      (convert 3 { mode := 1 } (summed [0x7180, 0x41AA, 0xF180]).final).bits = 0x5A ∧
      (convert 1 rne (summed [0x7180, 0x41AA, 0xF180]).final).bits = 0x41AA := by decide +kernel

/-- 07_number_formats.md, the same under SR with 12 bits: r = 935 gives 0x5A and r = 2,816 gives 0x5B. -/
theorem test_stochastic_rounding :
    (convert 3 { mode := 4, r := 935 } (summed [0x41AA]).final).bits = 0x5A ∧
      (convert 3 { mode := 4, r := 2816 } (summed [0x41AA]).final).bits = 0x5B := by decide +kernel

/-- 07_number_formats.md, the partials: a and b form none, a and c form a zero with NZ_SEEN, b alone forms 0x404B and its significand. -/
theorem test_partials :
    (summed [0x7180, 0x41AA]).partial? = none ∧ (summed [0x7180, 0xF180]).partial? = some (2 ^ 94) ∧
      (summed [0x41AA]).partial? = some (0x404B * 2 ^ 80 + 0x55 * 2 ^ 72) := by decide +kernel

/-- 07_number_formats.md, ordered FP32: a, b, c ends at +0 and a, c, b at 21.25. -/
theorem test_ordered_sum :
    enc32 ((round32 ((round32 ((valOf 1 0x7180).add (valOf 1 0x41AA))).1.add (valOf 1 0xF180))).1) = 0 ∧
      (convert 3 rne (round32 ((round32 ((valOf 1 0x7180).add (valOf 1 0xF180))).1.add (valOf 1 0x41AA))).1).bits = 0x5B := by decide +kernel

/-- 08_combine_engines.md, the weighted combine: 2.0 and 1.375 in BF16. -/
theorem test_weighted_combine :
    let add := fun (a : Accum) (w x : Nat) => a.enter (addendOf (valOf 1 x) [dec32 w]).1 (addendOf (valOf 1 x) [dec32 w]).2
    let e0 := add (add {} 0x3E800000 0xBF80) 0x3F400000 0x4040
    let e1 := add (add {} 0x3E800000 0x4080) 0x3F400000 0x3F00
    e0.sum = 2 ^ 150 ∧ e1.sum = 11 * 2 ^ 146 ∧ e0.inexact = false ∧ (convert 1 rne e0.final).bits = 0x4000 ∧ (convert 1 rne e1.final).bits = 0x3FB0 := by
  decide +kernel

/-- The router of the worked example of 09_router_engine.md: four experts, two choices, gate scale 1. -/
def exampleRouter : Mop :=
  { header := beBytes 4 0x4E5A0019 ++ [1, 1, 0, 3] ++ beBytes 2 5 ++ beBytes 2 4 ++ [2, 2] ++ beBytes 2 256 ++ beBytes 2 4 ++ [2] ++ zeroBytes 3 ++
      beBytes 2 256 ++ beBytes 4 0x3F800000 ++ zeroBytes 36
    biases := [0, 0, 0, 0xBF317218], scales := [], weights := [0x40, 0x38, 0x30, 0x40] }

/-- 09_router_engine.md: the logits of its token, its choices, and its gate weights. -/
theorem test_router_example :
    let zs := tokenLogits exampleRouter [valOf 1 0x3F80]
    zs.take 3 = [0x40000000, 0x3F800000, 0x3F000000] ∧ (topK zs 2).map (·.1) = [0, 3] ∧
      gateWeights exampleRouter zs (topK zs 2) = [some 0x3F2AAAAB, some 0x3EAAAAAB] := by decide +kernel

/-- 03_central_store.md, the thresholds of the pools example, for its S of 4,096,256 cells. -/
theorem test_spill_thresholds :
    [fld on .SPILL_ON, fld on .SPILL_OFF, fld on .DROP_BULK].map (fun x => 4096256 * x / 256) = [3072192, 2688168, 4000250] := by decide +kernel

/-- 12_optical_control.md, the migration example: a fall of 3.04 dB is in the migration range. -/
theorem test_fall_of_line : fallState on { now := 716, base := 1020 } = 2 := by decide +kernel

/-- A port's fabric time state with frame 7 sent at t1 and the parent's frame 40 received at t4, in 2^-16 ns. -/
def timeEx : YewPort := { sent := [(7, 1000000 * 65536, false)], rx := some (40, 1004925 * 65536) }

/-- 13_fabric_time.md, the worked example: ASYM_PS 2,000 gives θ = 12.0 ns (in 2^-17 ps) and a delay of 2,450.0 ns. -/
theorem test_theta :
    (sampleOf { setFldAt on .ASYM_PS Fld.ASYM_PS.inst 0 0 2000 with yew := { ports := [(0, timeEx)] } } 0
      ([0x10, 0] ++ beBytes 2 41 ++ beBytes 8 1002465 ++ beBytes 2 0 ++ beBytes 2 7 ++ beBytes 8 1002440 ++ beBytes 2 0 ++ zeroBytes 6)).map (fun x => (x.theta, x.delay)) =
      some (12000 * 131072, 2450000 * 131072) := by decide +kernel

/-- 14_partitions_and_faults.md, the three partitions of the closure example, on boards of four modules and of one. -/
theorem test_partition_closure :
    let t := setFldAt (setFldAt (setFldAt on .DIMS Fld.DIMS.inst 0 0 11) .TW_TOP Fld.TW_TOP.inst 0 0 1) .POD_DIMS Fld.POD_DIMS.inst 0 0 2
    closed t 0 0x5FF = true ∧ closed t 0x100 0x4FF = false ∧ closed t 0x100 0x4FE = false ∧
      closed (setFldAt t .POD_DIMS Fld.POD_DIMS.inst 0 0 0) 0x100 0x4FE = true := by decide +kernel

/-- 15_security.md, the counter example: at E = 101 the counter 102 is a candidate, and 100 no longer is. -/
theorem test_counter_candidates : candidate 64 101 none 102 = true ∧ candidate 64 101 none 100 = false := by decide +kernel

/-- 17_registers.md, the alias example: writing 0x10 at 0x1803_8000 turns group G4 of K3 off and no other. -/
theorem test_clear_alias :
    fldI (nextVal on (exec (.registerWrite 0 0x18038000 0x10 true) on)) .GROUP_EN 3 = 0xFFEF ∧
      fldI (nextVal on (exec (.registerWrite 0 0x18038000 0x10 true) on)) .GROUP_EN 2 = 0xFFFF := by decide +kernel

/-- 16_command_protocol.md, the worked exchange: 1,331 prefixes make an image of 19,997 bytes, and SEQ 0x2A10 is new after 0x2A0F. -/
theorem test_new_sequence : 32 + 1331 * (4 + (tabLens 6).1 + (tabLens 6).2) = 19997 ∧ seqJudge { started := true, h := 0x2A0F, seen := [0x2A0F] } 0x2A10 = .fresh := by
  decide +kernel

/-! Ill-formed terms that WellFormed refuses -/

/-- A supplied IDENT of an authority over a transport. -/
def sentBy (a : Authority) (v : Transport) : Ncp := { auth := a, seq := 0, via := v, body := [] }

/-- Authorities, transports, sequence numbers and images of commands. -/
theorem test_wf_refuses_commands :
    ([.ident (sentBy (.tenant 0) (.mailbox 0)), .ident (sentBy (.tenant 0xFFF) (.mailbox 0)), .ident (sentBy .owner (.mailbox 4)),
      .ident (sentBy .owner (.udp 2 0 0)), .ident (sentBy .owner (.udp 0 (2 ^ 128) 0)), .ident (sentBy .owner (.udp 0 0 65536)),
      .ident (sentBy .owner (.inband 1280 0)), .ident (sentBy .owner (.inband 0 (2 ^ 32))),
      .regRead { own [] with seq := 2 ^ 32 }] : List Instr).all (fun i => !WellFormed.wf i) = true := by decide +kernel

theorem bytesTo_long {n : Nat} {l : List Byte} (h : n < l.length) : WellFormed.bytesTo n l = false := by
  simp [WellFormed.bytesTo, h]

/-- A body longer than the largest assembled one, and an image, a message and a frame's bytes longer than theirs. -/
theorem test_wf_refuses_long (l : List Byte) :
    (16777232 < l.length → WellFormed.ncpOk (own l) = false) ∧
      (16777216 < l.length → WellFormed.wf (.commandDispatch (some l)) = false) ∧
      (16384 < l.length → WellFormed.wf (.mbxGo 0 0 l) = false) ∧
      (8192 < l.length → WellFormed.wf (.ncpUdpDatagram 0 0 0 0 false l) = false) ∧
      (8160 < l.length → WellFormed.rxOk { rxFrame with payload := l } = false) ∧
      (9216 < l.length → WellFormed.wf (.ethFrameArrival { port := 0, bytes := l }) = false) ∧
      (64 < l.length → WellFormed.wf (.helloReceived 0 l) = false) := by
  have short : ∀ h : 8160 < l.length, WellFormed.bytesTo 2 l = false := fun h => bytesTo_long (by omega)
  refine ⟨fun h => ?_, fun h => ?_, fun h => ?_, fun h => ?_, fun h => ?_, fun h => ?_, fun h => ?_⟩ <;>
    simp_all [WellFormed.wf, WellFormed.ncpOk, WellFormed.rxOk, own, bytesTo_long h]

/-- Frames and datagrams. -/
theorem test_wf_refuses_frames :
    ([.frameArrival { rxFrame with port := 1280 }, .frameArrival { rxFrame with etype := 65536 }, .frameArrival { rxFrame with linkHdr := [] },
      .frameArrival { rxFrame with ffh := [0] }, .frameArrival { rxFrame with ffh := [], payload := zeroBytes 3 },
      .ethFrameArrival { port := 1280, bytes := [] }, .udpDatagramArrival { datagram 0 with port := 1280 },
      .udpDatagramArrival { datagram 0 with inner := { rxFrame with ffh := [0] } },
      .udpDatagramArrival { datagram 0 with hdr := zeroBytes 129 }, .vlinkOpen { datagram 0 with hdr := zeroBytes 129 }] : List Instr).all
      (fun i => !WellFormed.wf i) = true := by decide +kernel

/-- Events of the module's power, clocks, sensors and mailbox. -/
theorem test_wf_refuses_module_events :
    ([.thermalTrip 51, .thermalLoopEval (List.replicate 52 0) [] 0, .thermalLoopEval [] (List.replicate 13 (0, 0)) 0,
      .thermalLoopEval [] [(65536, 0)] 0, .thermalLoopEval [] [(0, 65536)] 0, .thermalLoopEval [] [] 65536, .mbxGo 4 0 [], .mbxGo 0 65536 [],
      .mbxReadyClear 4, .ncpUdpDatagram 2 0 0 0 false [], .ncpUdpDatagram 0 (2 ^ 128) 0 0 false [], .ncpUdpDatagram 0 0 65536 0 false [],
      .ncpUdpDatagram 0 0 0 65536 false [], .fragAssemblyTimeout 4, .railOutOfRegulation 12 true, .marginSweepDone (2 ^ 32) 0 0,
      .marginSweepDone 0 (2 ^ 32) 0, .kexTimeout (2 ^ 32), .idleTimeout 359 true, .domainAwake 359, .wakeLateCheck 359, .prewake 1280,
      .timeBeat [359], .ptpSyncReceive 1282 0 0 0 0 0, .ptpSyncReceive 0 256 0 0 0 0, .ptpSyncReceive 0 0 (2 ^ 64) 0 0 0,
      .ptpSyncReceive 0 0 0 (2 ^ 64) 0 0, .ptpSyncReceive 0 0 0 0 0 (2 ^ 32), .timeFrameSend 1280] : List Instr).all
      (fun i => !WellFormed.wf i) = true := by decide +kernel

/-- Register accesses and upsets. -/
theorem test_wf_refuses_registers :
    ([.registerWrite 4 0 0 true, .registerWrite 0 (2 ^ 32) 0 true, .registerAccessTimeout 4 0 true none, .registerAccessTimeout 0 (2 ^ 32) true none,
      .registerAccessTimeout 0 0 true (some (own [], 1024)), .lockBitSet 4 0 0, .lockBitSet 0 (2 ^ 32) 0, .sieveStart 4 0, .sieveStart 0 2,
      .counterResetWrite 4, .slowClear 4, .ringFreezeWrite 4 0, .shadowCommitApply 256 0, .shadowCommitApply 0 256,
      .upset (.register (2 ^ 32) 0 0 0), .upset (.register 0 (2 ^ 20) 0 0), .upset (.register 0 0 3 0), .upset (.register 0 0 0 32),
      .upset (.cell 4194304 true), .upset (.clod 50331648 true), .upset (.weight 128 0 0 true), .upset (.weight 0 128 0 true), .upset (.weight 0 0 2048 true),
      .upset (.laurel 2 0 0), .upset (.laurel 0 256 0), .upset (.laurel 0 0 (2 ^ 32))] : List Instr).all (fun i => !WellFormed.wf i) = true := by
  decide +kernel

/-- Links, lanes and ports. -/
theorem test_wf_refuses_links :
    ([.linkAckReceived 1280 0 0, .linkAckReceived 6144 0 0, .linkAckReceived 0 16 0, .linkAckReceived 0 0 65536, .ackReport 2047, .lossEvent 1280 0 0,
      .lossEvent 0 16 0, .lossEvent 0 0 65536, .withheldEvent 1280 0 0, .withheldEvent 0 16 0, .withheldEvent 0 0 65536, .withholdReplay 1280 0 0,
      .withholdReplay 0 16 0, .withholdReplay 0 0 65536, .refusedEvent 1280 0 0, .refusedEvent 0 16 0, .refusedEvent 0 0 65536, .skipEvent 1280 0 0,
      .skipEvent 0 16 0, .skipEvent 0 0 65536, .skipAnnounce 1280, .txcMarkEvent 1280 0, .txcMarkEvent 0 (2 ^ 32), .txcMarkSend 1280,
      .retryTimeout 1280 0 0, .retryTimeout 0 16 0, .retryTimeout 0 0 65536, .sinkStall 1280, .signalPresent 1280, .trainTimeout 1280,
      .helloReceived 1280 [], .linkUp 1280 0, .linkUp 0 (2 ^ 32), .alignmentMarker 1280 0 0 0, .alignmentMarker 0 8 0 0,
      .alignmentMarker 0 0 1296 0, .alignmentMarker 0 0 0 1296, .laneLockLoss 1280 0, .laneLockLoss 0 8, .laneErrorPeriod 1280 0 0,
      .laneErrorPeriod 0 8 0, .laneErrorPeriod 0 0 (2 ^ 32), .spareRemap 16 0, .spareRemap 0 1296, .degradeAgree 1280 0, .degradeAgree 0 256,
      .rekeyTimer 1280, .vlinkIdleRelease 4096, .transmitOpportunity 1280, .tc7Departure 1280, .spineTc7Departure 1280] : List Instr).all
      (fun i => !WellFormed.wf i) = true := by decide +kernel

/-- Store, calendars, routing, forwarding tables and engines. -/
theorem test_wf_refuses_units :
    ([.spillOutMove 2, .spillReadback 20480, .sievePass 2 0, .sievePass 0 2, .gateListTakeover 1280, .calendarTakeover 1280,
      .markerCopyTransmit 1280 0, .markerCopyTransmit 0 16, .echoFrameSend 2, .throttleIncrease 1280 0, .throttleIncrease 0 8, .cmapStale 14,
      .parityRepair 2 0 0, .parityRepair 0 256 0, .groupRecordReturn (2 ^ 32), .tokenRouted 0 (some 128) [], .tokenRouted 0 none [128],
      .basisRewriteDone 128 0, .basisRewriteDone 0 128, .queueHeadAdmit 128, .contribArrival 0 (some 128) [], .contribArrival 0 none [128],
      .chunkInputsComplete 0 (2 ^ 32) false none [], .chunkInputsComplete 0 0 false (some 128) [], .chunkInputsComplete 0 0 false none [128],
      .shadowRunComplete 16 false, .shadowTimeout 16] : List Instr).all (fun i => !WellFormed.wf i) = true := by decide +kernel

/-- Light, faults and partitions. -/
theorem test_wf_refuses_light_and_faults :
    ([.ringAcquireComplete 2304 [] false, .ringAcquireComplete 0 [(65536, 0)] false, .heaterWindowExceeded 2304 0, .heaterWindowExceeded 0 65536,
      .heaterAtRangeLimit 2304 0, .heaterAtRangeLimit 0 65536, .powerEvaluation 16 [], .powerEvaluation 0 (List.replicate 39 0),
      .migrationScheduledStart 1024, .migReqReceived 1280 [], .migReadyReceived 1280 [], .migSwitchReceived 1280 [], .migSwitchTime 1024,
      .migDoneReceived 1280 [], .migAbortReceived 1280 [], .migAskReceived 1280 [], .migTimeout 1024, .opticalControlMessageRepeat 1024,
      .circuitTakeover 0, .circuitTakeover 0xFFF, .xcOutputFall 512 0, .circuitLit 512 0, .hedgeBeatSend 1280, .neighbourSilent 14,
      .voteObservationDue 16384, .voteWindowExpiry 16384, .sinkFence 1280, .discoverySend 1280, .boundaryFenceApply 1280, .planWaitExpiry 1280,
      .probationEnd 16384] : List Instr).all (fun i => !WellFormed.wf i) = true := by decide +kernel

/-- Terms at the ends of their ranges are well-formed. -/
theorem test_wf_takes_limits :
    ([.ident (sentBy (.tenant 0xFFE) (.mailbox 3)), .frameArrival { rxFrame with port := 1279 }, .linkAckReceived 6143 15 65535, .thermalTrip 50,
      .registerWrite 3 (2 ^ 32 - 1) 0 true, .ptpSyncReceive 1281 255 0 0 (-4) 0, .upset (.clod 50331647 true), .spillReadback 20479] : List Instr).all
      WellFormed.wf = true := by decide +kernel

/-! The queue -/

/-- The front command runs on the queue's rest, and an empty queue lets one tick pass. -/
theorem test_front_command :
    (nextVal on (step { on with pending := [.watchdogExpiry, .prewake 1] })).pending = [.prewake 1] ∧
      (nextVal on (step { on with pending := [] })).raw = 2 ^ 44 + 1 := by decide +kernel

/-- No word spells a command, so withFetchWord changes nothing. -/
theorem test_no_word_spells_a_command : decodeTableWord 16 5 = none ∧ on.withFetchWord 16 5 = on := ⟨rfl, rfl⟩

end Sys2Proof.Tests
end

/-!
O29 (R64): a write that would put LOAM_THRESH out of order is rejected. A register word is a list of fields, so the proof
has three layers: what FieldDesc.put leaves in each field of a word, what a write therefore makes of each field of a LIVE
register, and the outcome of regWrite when the register's own rule refuses the word.
-/

namespace Sys2Proof.Proofs

open Sys2Proof Sys2Proof.Machine

/-! Fields of a word -/

theorem testBit_get (f : FieldDesc) (hw : 0 < f.width) (w i : Nat) :
    (f.get w).testBit i = (decide (i < f.width) && w.testBit (f.lsb + i)) := by
  have hspan : f.lsb + f.width - 1 + 1 - f.lsb = f.width := by omega
  rw [FieldDesc.get, bitsOf, hspan, Nat.testBit_mod_two_pow, Nat.testBit_div_two_pow, Nat.add_comm]

/-- A put word is the bits above the field, the field's new bits, and the bits below it. -/
theorem put_eq_concat (f : FieldDesc) (hw : 0 < f.width) (w v : Nat) :
    f.put w v = 2 ^ f.lsb * (2 ^ f.width * (w / 2 ^ f.lsb / 2 ^ f.width) + v % 2 ^ f.width) + w % 2 ^ f.lsb := by
  have hspan : f.lsb + f.width - 1 + 1 - f.lsb = f.width := by omega
  have hlow : 2 ^ f.lsb * (w / 2 ^ f.lsb) + w % 2 ^ f.lsb = w := Nat.div_add_mod _ _
  have hfield : 2 ^ f.width * (w / 2 ^ f.lsb / 2 ^ f.width) + w / 2 ^ f.lsb % 2 ^ f.width = w / 2 ^ f.lsb :=
    Nat.div_add_mod _ _
  rw [← hfield, Nat.mul_add] at hlow
  rw [FieldDesc.put, FieldDesc.get, bitsOf, hspan, Nat.mul_add, Nat.mul_comm (_ % _) (2 ^ f.lsb), Nat.mul_comm (v % _)]
  omega

theorem testBit_put (f : FieldDesc) (hw : 0 < f.width) (w v i : Nat) :
    (f.put w v).testBit i = if f.lsb ≤ i ∧ i < f.lsb + f.width then v.testBit (i - f.lsb) else w.testBit i := by
  rw [put_eq_concat f hw, Nat.testBit_two_pow_mul_add _ (Nat.mod_lt _ (Nat.two_pow_pos _)),
    Nat.testBit_two_pow_mul_add _ (Nat.mod_lt _ (Nat.two_pow_pos _))]
  by_cases hlow : i < f.lsb
  · simp [hlow, Nat.testBit_mod_two_pow, Nat.not_le.mpr hlow]
  · by_cases hin : i - f.lsb < f.width
    · have hi : f.lsb ≤ i ∧ i < f.lsb + f.width := by omega
      simp [hlow, hin, hi, Nat.testBit_mod_two_pow]
    · have hi : ¬ (f.lsb ≤ i ∧ i < f.lsb + f.width) := by omega
      have hpos : i - f.lsb - f.width + f.width + f.lsb = i := by omega
      simp only [hlow, hin, hi, if_false, Nat.testBit_div_two_pow, hpos]

/-- Two fields that share no bit of their word. -/
def Apart (f g : FieldDesc) : Prop := f.lsb + f.width ≤ g.lsb ∨ g.lsb + g.width ≤ f.lsb

theorem get_put_same (f : FieldDesc) (hw : 0 < f.width) (w v : Nat) : f.get (f.put w v) = v % 2 ^ f.width := by
  refine Nat.eq_of_testBit_eq fun i => ?_
  rw [testBit_get f hw, testBit_put f hw, Nat.testBit_mod_two_pow]
  by_cases hi : i < f.width <;> simp [hi]

theorem get_put_of_apart {f g : FieldDesc} (hf : 0 < f.width) (hg : 0 < g.width) (h : Apart f g) (w v : Nat) :
    f.get (g.put w v) = f.get w := by
  refine Nat.eq_of_testBit_eq fun i => ?_
  rw [testBit_get f hf, testBit_get f hf, testBit_put g hg]
  by_cases hi : i < f.width
  · have hout : ¬ (g.lsb ≤ f.lsb + i ∧ f.lsb + i < g.lsb + g.width) := by
      rcases h with h | h <;> omega
    rw [if_neg hout]
  · simp [hi]

theorem put_get_self (f : FieldDesc) (hw : 0 < f.width) (w : Nat) : f.put w (f.get w) = w := by
  refine Nat.eq_of_testBit_eq fun i => ?_
  rw [testBit_put f hw, testBit_get f hw]
  split
  · next hi =>
    obtain ⟨hlo, hhi⟩ := hi
    have hin : i - f.lsb < f.width := by omega
    simp [hin, Nat.add_sub_cancel' hlo]
  · rfl

/-! A word rewritten field by field -/

/-- Put g's value into each field that p takes, one after the other. -/
def putAll (p : FieldDesc → Bool) (g : FieldDesc → Nat) (fs : List FieldDesc) (w : Nat) : Nat :=
  fs.foldl (fun w f => if p f then f.put w (g f) else w) w

theorem putAll_cons (p : FieldDesc → Bool) (g : FieldDesc → Nat) (f : FieldDesc) (fs : List FieldDesc) (w : Nat) :
    putAll p g (f :: fs) w = putAll p g fs (if p f then f.put w (g f) else w) := rfl

theorem get_putAll_of_apart {p : FieldDesc → Bool} {g : FieldDesc → Nat} {f : FieldDesc} (hf : 0 < f.width) :
    ∀ {fs : List FieldDesc}, (∀ e ∈ fs, 0 < e.width) → (∀ e ∈ fs, Apart f e) → ∀ w, f.get (putAll p g fs w) = f.get w
  | [], _, _, _ => rfl
  | e :: fs, hw, hap, w => by
    obtain ⟨hwe, hws⟩ := List.forall_mem_cons.mp hw
    obtain ⟨hape, haps⟩ := List.forall_mem_cons.mp hap
    rw [putAll_cons, get_putAll_of_apart hf hws haps]
    split
    · exact get_put_of_apart hf hwe hape w (g e)
    · rfl

theorem get_putAll_of_mem {p : FieldDesc → Bool} {g : FieldDesc → Nat} {f : FieldDesc} (hp : p f = true) :
    ∀ {fs : List FieldDesc}, (∀ e ∈ fs, 0 < e.width) → fs.Pairwise Apart → f ∈ fs →
      ∀ w, f.get (putAll p g fs w) = g f % 2 ^ f.width
  | e :: fs, hw, hpair, hmem, w => by
    obtain ⟨hwe, hws⟩ := List.forall_mem_cons.mp hw
    obtain ⟨hape, hpairs⟩ := List.pairwise_cons.mp hpair
    rw [putAll_cons]
    rcases List.mem_cons.mp hmem with rfl | htail
    · rw [get_putAll_of_apart hwe hws hape, if_pos hp, get_put_same f hwe]
    · exact get_putAll_of_mem hp hws hpairs htail _

theorem putAll_get_self {p : FieldDesc → Bool} (w : Nat) :
    ∀ {fs : List FieldDesc}, (∀ e ∈ fs, 0 < e.width) → putAll p (fun f => f.get w) fs w = w
  | [], _ => rfl
  | e :: fs, hw => by
    obtain ⟨hwe, hws⟩ := List.forall_mem_cons.mp hw
    rw [putAll_cons, put_get_self e hwe, ite_self, putAll_get_self w hws]

theorem putAll_of_none {p : FieldDesc → Bool} {g : FieldDesc → Nat} (w : Nat) :
    ∀ {fs : List FieldDesc}, (∀ e ∈ fs, p e = false) → putAll p g fs w = w
  | [], _ => rfl
  | e :: fs, hp => by
    obtain ⟨hpe, hps⟩ := List.forall_mem_cons.mp hp
    rw [putAll_cons, hpe, if_neg Bool.false_ne_true, putAll_of_none w hps]

theorem aliased_lt (aka : Nat) {width v old : Nat} (hv : v < 2 ^ width) (hold : old < 2 ^ width) :
    aliased aka width v old < 2 ^ width := by
  unfold aliased
  split
  · exact hv
  · exact Nat.or_lt_two_pow hold hv
  · exact Nat.and_lt_two_pow _ (by omega)
  · exact Nat.xor_lt_two_pow hold hv

/-! A register whose fields are all kept, LIVE and unbounded -/

/-- A field that a write changes at once and to any value (access RW, class LIVE, no bounds). -/
structure PlainLive (f : FieldDesc) : Prop where
  wide : 0 < f.width
  acc : f.acc = .rw
  cls : f.cls = .live
  lo : f.lo = 0
  hi : f.hi = none

theorem judgeField_plainLive {f : FieldDesc} (hf : PlainLive f) (s : State) (x : RegAddr) (idx v : Nat) :
    judgeField s x idx v f = .ok () := by
  simp [judgeField, hf.acc, hf.lo, hf.hi]

theorem keptField_plainLive {f : FieldDesc} (hf : PlainLive f) (s : State) {x : RegAddr} (hx : x.isMbx = false) (idx : Nat)
    (shadow : Bool) : keptField s x idx shadow f = f.get (regActive s x.blk x.inst x.off idx) := by
  simp [keptField, hx, hf.cls]

theorem newWords_eq_putAll (s : State) (x : RegAddr) (d : RegDesc) (idx v : Nat) :
    (newWords s x d idx v).2 =
      (let live := putAll (fun f => f.kept && f.cls != .shadow) (newField s x idx v) d.fields (regActive s x.blk x.inst x.off idx)
       let shad := putAll (fun f => f.kept && f.cls == .shadow) (newField s x idx v) d.fields live
       putAll (fun f => f.kept && f.cls != .shadow) (fun f => f.get live) d.fields shad) := rfl

/-- The word a write leaves for the register's rule holds in each field the field's new value. -/
theorem get_newWords_of_plainLive {s : State} {x : RegAddr} {d : RegDesc} {idx v : Nat} (hd : ∀ f ∈ d.fields, PlainLive f)
    (hpair : d.fields.Pairwise Apart) {f : FieldDesc} (hf : f ∈ d.fields) :
    f.get (newWords s x d idx v).2 = newField s x idx v f % 2 ^ f.width := by
  have hwide : ∀ e ∈ d.fields, 0 < e.width := fun e he => (hd e he).wide
  have hlive : ∀ e ∈ d.fields, (e.kept && e.cls == .shadow) = false := fun e he => by simp [(hd e he).cls]
  have hkept : (f.kept && f.cls != .shadow) = true := by simp [FieldDesc.kept, (hd f hf).acc, (hd f hf).cls]
  simp only [newWords_eq_putAll, putAll_of_none _ hlive, putAll_get_self _ hwide]
  exact get_putAll_of_mem hkept hwide hpair hf _

theorem allOk_map {α : Type} {g : α → Except Code Unit} : ∀ {l : List α}, (∀ a ∈ l, g a = .ok ()) → allOk (l.map g) = .ok ()
  | [], _ => rfl
  | a :: l, h => by
    obtain ⟨ha, hl⟩ := List.forall_mem_cons.mp h
    rw [List.map_cons, ha, allOk, allOk_map hl]

/-- The register's own rule decides a write whose fields all pass their bounds. -/
theorem regWrite_eq_error_of_regRule {s : State} {r a v : Nat} {d : RegDesc} {code : Code} (hreg : regOf a = some d)
    (hactive : (regAddr a).shadow = false)
    (hfields : ∀ f ∈ d.fields, judgeField s (regAddr a) (copyOf s r (regAddr a) d) v f = .ok ())
    (hrule : regRule s (regAddr a) (copyOf s r (regAddr a) d) (newWords s (regAddr a) d (copyOf s r (regAddr a) d) v).2 =
      .error code) :
    regWrite s r a v = .error code := by
  simp [regWrite, hreg, hactive, allOk_map hfields, hrule]

/-! LOAM_THRESH (Table 3.11) -/

/-- The field of LOAM_THRESH in byte k. -/
def threshField (k reset : Nat) : FieldDesc := { lsb := 8 * k, width := 8, acc := .rw, cls := .live, reset := reset }

/-- LOAM_THRESH as the register table gives it. -/
def threshReg : RegDesc :=
  { blk := 0x10, inst := .all, off := 0x0C,
    fields := [threshField 3 0xC0, threshField 2 0xA8, threshField 1 0xE6, threshField 0 0xFA] }

/-- The parts of LOAM_THRESH's address; `aka` says which of its four addresses (R369). -/
def threshAddr (aka : Nat) : RegAddr := { blk := 0x10, inst := 0xFF, aka := aka, off := 0x0C, shadow := false }

theorem regAddr_thresh {aka : Nat} (h : aka < 4) : regAddr (0x10FF000C + aka * 2 ^ 14) = threshAddr aka := by
  have hbit : (0x10FF000C + aka * 2 ^ 14) / 2 ^ 13 % 2 = 0 := by omega
  simp only [regAddr, threshAddr, bitAt, hbit, RegAddr.mk.injEq]
  refine ⟨?_, ?_, ?_, ?_, rfl⟩ <;> omega

theorem findReg_thresh : findReg 0x10 0xFF 0x0C = some threshReg := rfl

theorem regOf_thresh {aka : Nat} (h : aka < 4) : regOf (0x10FF000C + aka * 2 ^ 14) = some threshReg := by
  rw [regOf, regAddr_thresh h]
  simp [threshAddr, findReg_thresh]

theorem plainLive_threshField (k reset : Nat) : PlainLive (threshField k reset) :=
  ⟨Nat.zero_lt_succ 7, rfl, rfl, rfl, rfl⟩

theorem plainLive_threshReg : ∀ f ∈ threshReg.fields, PlainLive f := by
  simp [threshReg, plainLive_threshField]

theorem threshReg_fields_apart : threshReg.fields.Pairwise Apart := by
  simp [threshReg, threshField, Apart]

theorem get_threshField (k reset w : Nat) : (threshField k reset).get w = w / 2 ^ (8 * k) % 256 := by
  have hspan : 8 * k + 8 - 1 + 1 - 8 * k = 8 := by omega
  exact congrArg (fun n => w / 2 ^ (8 * k) % 2 ^ n) hspan

/-- A write leaves in each byte of LOAM_THRESH what its address makes of the byte's old value and the byte written (R369). -/
theorem get_newWords_thresh (s : State) (aka v : Nat) {k reset : Nat} (hmem : threshField k reset ∈ threshReg.fields) :
    (newWords s (threshAddr aka) threshReg 0 v).2 / 2 ^ (8 * k) % 256 =
      aliased aka 8 (v / 2 ^ (8 * k) % 256) (regActive s 0x10 0xFF 0x0C 0 / 2 ^ (8 * k) % 256) := by
  rw [← get_threshField k reset, get_newWords_of_plainLive plainLive_threshReg threshReg_fields_apart hmem, newField,
    keptField_plainLive (plainLive_threshField k reset) s rfl, get_threshField, get_threshField]
  exact Nat.mod_eq_of_lt (aliased_lt aka (Nat.mod_lt _ (by decide)) (Nat.mod_lt _ (by decide)))

/-- R64 as the model asks it of the word a write would leave. -/
theorem regRule_thresh (s : State) (aka idx w : Nat)
    (h : ¬ (w / 2 ^ (8 * 2) % 256 < w / 2 ^ (8 * 3) % 256 ∧ w / 2 ^ (8 * 3) % 256 ≤ w / 2 ^ (8 * 1) % 256 ∧
      w / 2 ^ (8 * 1) % 256 < w / 2 ^ (8 * 0) % 256)) :
    regRule s (threshAddr aka) idx w = .error .badParam := by
  have hbroken : (decide (bitsOf w 23 16 < bitsOf w 31 24) && decide (bitsOf w 31 24 ≤ bitsOf w 15 8) &&
      decide (bitsOf w 15 8 < w % 256)) = false := by
    rw [Bool.eq_false_iff]
    intro hordered
    simp only [Bool.and_eq_true, decide_eq_true_eq, and_assoc] at hordered
    exact h (by simpa [bitsOf] using hordered)
  simp [regRule, threshAddr, hbroken]

/-- Settles O29: every field passes its bounds, each byte of the word left is the value that its address gives it, and R64 refuses that word. -/
theorem loamThreshOrder : Obligations.LoamThreshOrder := by
  unfold Obligations.LoamThreshOrder
  intro s r v aka _ haka new hnew hbroken
  have haddr := regAddr_thresh haka
  refine regWrite_eq_error_of_regRule (regOf_thresh haka) (by rw [haddr]; rfl)
    (fun f hf => judgeField_plainLive (plainLive_threshReg f hf) s _ _ v) ?_
  rw [haddr]
  refine regRule_thresh s aka _ _ ?_
  have hcopy : copyOf s r (threshAddr aka) threshReg = 0 := rfl
  rw [hcopy, get_newWords_thresh s aka v (reset := 0xA8) (by simp [threshReg]),
    get_newWords_thresh s aka v (reset := 0xC0) (by simp [threshReg]),
    get_newWords_thresh s aka v (reset := 0xE6) (by simp [threshReg]),
    get_newWords_thresh s aka v (reset := 0xFA) (by simp [threshReg])]
  simpa only [hnew] using hbroken

end Sys2Proof.Proofs

/-!
O27 and O28 (R81, R84): which queues a port's mode enables, and the calendar a port runs before one is loaded. R81 is one
equivalence, `queueEnabled_eq_true_iff`: an enabled queue lies below the number of queues that the mode allows.
-/

namespace Sys2Proof.Proofs

open Sys2Proof Sys2Proof.Machine

/-! Enabled queues (R81) -/

/-- How many queues, counted from queue 0, the mode of a port allows (R81). -/
def queuesOfMode : PortMode → Nat
  | .fabric => 14
  | .ethernet => 10
  | .disabled => 0

theorem queuesOfMode_le : ∀ m, queuesOfMode m ≤ 14
  | .fabric => Nat.le_refl 14
  | .ethernet => Nat.le_add_right 10 4
  | .disabled => Nat.zero_le 14

theorem queueEnabled_eq_true_iff {s : State} {p i : Nat} :
    queueEnabled s p i = true ↔ absorbed s p = false ∧ i < queuesOfMode (portMode s p) := by
  rw [queueEnabled, Bool.and_eq_true, Bool.not_eq_true']
  cases portMode s p with
  | fabric => simp only [queuesOfMode, decide_eq_true_eq]
  | ethernet => simp only [queuesOfMode, decide_eq_true_eq]
  | disabled => simp only [queuesOfMode, Bool.false_eq_true, Nat.not_lt_zero]

theorem queueEnabled_eq_true_iff_lt {s : State} {p i : Nat} (h : absorbed s p = false) :
    queueEnabled s p i = true ↔ i < queuesOfMode (portMode s p) :=
  queueEnabled_eq_true_iff.trans (and_iff_right h)

theorem queueEnabled_eq_false_iff {s : State} {p i : Nat} :
    queueEnabled s p i = false ↔ absorbed s p = true ∨ queuesOfMode (portMode s p) ≤ i := by
  rw [← Bool.not_eq_true, queueEnabled_eq_true_iff, Decidable.not_and_iff_or_not, Bool.not_eq_false, Nat.not_lt]

theorem lt_of_queueEnabled {s : State} {p i : Nat} (h : queueEnabled s p i = true) : i < 14 :=
  Nat.lt_of_lt_of_le (queueEnabled_eq_true_iff.mp h).2 (queuesOfMode_le _)

theorem mem_enabledQueues {s : State} {p i : Nat} : i ∈ enabledQueues s p ↔ queueEnabled s p i = true := by
  rw [enabledQueues, List.mem_filter, List.mem_range]
  exact and_iff_right_of_imp lt_of_queueEnabled

/-- Settles O27: each clause reads the number of queues of the port's mode off R81's equivalence. -/
theorem calendarQueuesOfAPort : Obligations.CalendarQueuesOfAPort := by
  unfold Obligations.CalendarQueuesOfAPort
  refine ⟨fun s p i hexists hmode => ?fabric, fun s p i hexists hmode => ?ethernet, fun s p i hnone => ?noQueue,
    fun s p i hi => ?tc7, fun s p i hmem => ?listed⟩
  case fabric => rw [queueEnabled_eq_true_iff_lt hexists, hmode]; exact Nat.lt_succ_iff
  case ethernet => rw [queueEnabled_eq_true_iff_lt hexists, hmode]; exact Nat.lt_succ_iff
  case noQueue =>
    obtain hmode | habsorbed := hnone
    · exact queueEnabled_eq_false_iff.mpr (.inr (by rw [hmode]; exact Nat.zero_le i))
    · exact queueEnabled_eq_false_iff.mpr (.inl habsorbed)
  case tc7 => exact queueEnabled_eq_false_iff.mpr (.inr (Nat.le_trans (queuesOfMode_le _) hi))
  case listed =>
    have henabled := mem_enabledQueues.mp hmem
    exact ⟨henabled, Nat.le_of_lt_succ (lt_of_queueEnabled henabled)⟩

/-! The reset calendar (R84) -/

theorem slotsOf_of_noCalendar {b : BxPort} (h : b.cal = none) : slotsOf b = resetCalendar := by
  rw [slotsOf, h]

theorem length_resetCalendar : resetCalendar.length = 14 := by
  rw [resetCalendar, List.length_map, List.length_range]

theorem resetCalendar_getElem? {k : Nat} (h : k < 14) :
    resetCalendar[k]? = some [13 - k, (26 - k) % 14, (25 - k) % 14, (24 - k) % 14] := by
  rw [resetCalendar, List.getElem?_map, List.getElem?_range h, Option.map_some]

theorem bxPort_reset (p : Nat) : bxPort State.reset p = {} := rfl

theorem eligible_of_queueEnabled_eq_false {s : State} {p i : Nat} (h : queueEnabled s p i = false) :
    eligible s p i = false := by
  rw [eligible, h, Bool.false_and]

/-- Settles O28: without a calendar the slots are `resetCalendar`, a port at reset holds no calendar, and Ethernet mode
does not enable the queues above 9 that the calendar names. (The name `resetCalendar` is the model's list of slots.) -/
theorem resetCalendarHolds : Obligations.ResetCalendar := by
  unfold Obligations.ResetCalendar
  refine ⟨fun s p hcal => ?slots, fun p => ?atReset, fun s p i hmode hi => ?aboveNine⟩
  case slots =>
    rw [slotsOf_of_noCalendar hcal]
    refine ⟨length_resetCalendar, fun k hk => ?_⟩
    have hprev : 13 - k + 14 - 1 = 26 - k ∧ 13 - k + 14 - 2 = 25 - k ∧ 13 - k + 14 - 3 = 24 - k := by omega
    obtain ⟨hfirst, hsecond, hthird⟩ := hprev
    rw [resetCalendar_getElem? hk, hfirst, hsecond, hthird]
  case atReset => rw [bxPort_reset]
  case aboveNine =>
    exact eligible_of_queueEnabled_eq_false (queueEnabled_eq_false_iff.mpr (.inr (by rw [hmode]; exact hi)))

end Sys2Proof.Proofs

/-!
What every step keeps. All but a few commands leave the view (the queue, RAW, the power state's core, the owner key and debug)
as it was, so that a property of the view is kept by every command that keeps it on those few.
-/

namespace Sys2Proof.Proofs

open Sys2Proof Sys2Proof.Machine Sys2Proof.Laws Sys2Proof.Safety

/-! Properties of the view -/

/-- Where an outcome is a next state, that state has the property. -/
def Ends (P : State → Prop) (r : Res) : Prop := ∀ t, r = .next t → P t

/-- A property that only looks at the view. -/
def ViewClosed (P : State → Prop) : Prop := ∀ t u, view u = view t → P t → P u

theorem ends_next {P : State → Prop} {t : State} : Ends P (.next t) ↔ P t :=
  ⟨fun h => h t rfl, fun h u hu => by cases hu; exact h⟩

theorem ends_fault {P : State → Prop} {f : Fault} : Ends P (.fault f) := fun _ ht => nomatch ht

theorem ends_atUnit {P : State → Prop} {u n : Nat} {t : State} (h : P t) : Ends P (atUnit u n t) := by
  unfold atUnit
  split
  · exact ends_next.mpr h
  · exact ends_fault

theorem ends_of_keeps {P : State → Prop} (hP : ViewClosed P) {s : State} (hs : P s) {r : Res} (h : keeps s r) : Ends P r := by
  rintro t rfl
  exact hP s t h hs

theorem ends_runCmd {P : State → Prop} (hP : ViewClosed P) {s : State} (hs : P s) {c : Ncp} {op : Nat}
    {r : Except Bad (List Byte × State)} (h : ∀ res t, r = .ok (res, t) → P t) : Ends P (runCmd s c op r) := by
  unfold runCmd
  split
  · exact ends_next.mpr hs
  · cases r with
    | error b => exact ends_next.mpr (hP _ _ (view_finish ..) hs)
    | ok x => exact ends_next.mpr (hP _ _ (view_finish ..) (h _ _ rfl))

theorem ends_runCmd_error {P : State → Prop} (hP : ViewClosed P) {s : State} (hs : P s) (c : Ncp) (op : Nat) (b : Bad) :
    Ends P (runCmd s c op (.error b)) := ends_runCmd hP hs (fun _ _ h => nomatch h)

/-- What the view holds, field by field. -/
theorem view_eq_iff {s t : State} : view t = view s ↔ t.pending = s.pending ∧ t.raw = s.raw ∧ pwrCore t.pwr = pwrCore s.pwr ∧
    t.holly.ownerKey = s.holly.ownerKey ∧ t.holly.debug = s.holly.debug := by
  simp [view]

theorem viewClosed_pending (q : List Instr) : ViewClosed (fun t => t.pending = q) := fun _ _ h ht =>
  (view_eq_iff.mp h).1.trans ht

theorem viewClosed_ownerKey (k : Option (List Byte)) : ViewClosed (fun t => t.holly.ownerKey = k) := fun _ _ h ht =>
  (congrArg View.ownerKey h).trans ht

theorem viewClosed_debug (b : Bool) : ViewClosed (fun t => t.holly.debug = b) := fun _ _ h ht =>
  (congrArg View.debug h).trans ht

theorem viewClosed_firmware (slots : List FwSlot) (active : Nat) :
    ViewClosed (fun t => t.pwr.slots = slots ∧ t.pwr.active = active) := fun _ _ h ht =>
  ⟨(congrArg (fun v : View => v.pwr.slots) h).trans ht.1, (congrArg (fun v : View => v.pwr.active) h).trans ht.2⟩

theorem viewClosed_capW (w : Nat) : ViewClosed (fun t => t.pwr.capW = w) := fun _ _ h ht =>
  (congrArg (fun v : View => v.pwr.capW) h).trans ht

/-- The power invariant as a property of RAW and the core of the power state. -/
theorem powerOk_iff_view (s : State) : PowerOk s ↔
    (view s).raw < 2 ^ 64 ∧ (view s).pwr.level ≤ 15 ∧
    ((view s).pwr.capW = 0 ∨ (1000 ≤ (view s).pwr.capW ∧ (view s).pwr.capW ≤ 2400)) ∧
    (view s).pwr.slots.length = 2 ∧ (view s).pwr.active < 2 ∧
    ((view s).pwr.hubUp = true → (view s).pwr.vin48 = true ∧ (view s).pwr.aon = true ∧ (view s).pwr.resetN = true ∧
      (view s).pwr.tripped = false) := Iff.rfl

theorem viewClosed_powerOk : ViewClosed PowerOk := fun t u h ht => by
  rw [powerOk_iff_view] at *
  rwa [h]

/-! Dispatch: an opcode runs one of Heath's commands, or is answered with a failure. -/

/-- Heath's commands (Table 16.5). -/
def heathCmds : List (Ncp → Instr) :=
  answeredCmds ++ [.regRead, .regWrite, .timeCal, .partAdmit, .partTeardown, .marginSweep, .kexFin, .ownerClear]

theorem runOpcode_of_commands {P : Res → Prop} {c : Ncp} {s : State} (op : Nat) (hcmd : ∀ k ∈ heathCmds, P (exec (k c) s))
    (hbad : ∀ o b, P (runCmd s c o (.error b))) : P (runOpcode op c s) := by
  have hfail : ∀ o {α : Type} (x : Except Bad α), P (runCmd s c o (x >>= fun _ => failWith .badParam)) := by
    intro o α x
    cases x <;> exact hbad o _
  revert hcmd
  simp only [heathCmds, answeredCmds, List.cons_append, List.nil_append, List.forall_mem_cons, and_imp]
  intros
  have hhub : ∀ r, hubOp op c s = some r → P r := by
    unfold hubOp
    split <;> rintro r ⟨⟩
    case h_7 =>
      split
      case h_4 => exact hfail _ _
      all_goals assumption
    all_goals assumption
  have hcoll : ∀ r, collOp op c s = some r → P r := by
    unfold collOp
    split <;> rintro r ⟨⟩
    case h_4 =>
      split
      case h_5 => exact hfail _ _
      all_goals assumption
    all_goals assumption
  have hfabric : ∀ r, fabricOp op c s = some r → P r := by
    unfold fabricOp
    split <;> rintro r ⟨⟩
    all_goals assumption
  have htrust : ∀ r, trustOp op c s = some r → P r := by
    unfold trustOp
    split <;> rintro r ⟨⟩
    all_goals assumption
  unfold runOpcode
  cases h1 : hubOp op c s with
  | some r => exact hhub r h1
  | none =>
    cases h2 : collOp op c s with
    | some r => exact hcoll r h2
    | none =>
      cases h3 : fabricOp op c s with
      | some r => exact hfabric r h3
      | none =>
        cases h4 : trustOp op c s with
        | some r => exact htrust r h4
        | none => exact hbad op _

/-- COMMAND_DISPATCH changes nothing, or runs a command on a state of the same view. -/
theorem ends_commandDispatch {P : State → Prop} (hP : ViewClosed P) {s : State} (hs : P s) (dma : Option (List Byte))
    (hcmd : ∀ k ∈ heathCmds, ∀ c t, P t → Ends P (exec (k c) t)) : Ends P (execCommandDispatch dma s) := by
  unfold execCommandDispatch
  split
  · exact ends_next.mpr hs
  · split
    · exact ends_next.mpr hs
    · next q _ =>
      have ht : P (takeHead s q) := hP _ _ (view_takeHead s q) hs
      exact runOpcode_of_commands _ (fun k hk => hcmd k hk _ _ ht) (fun o b => ends_runCmd_error hP ht _ o b)

/-! The special commands, one by one -/

/-- What boot does: nothing, a mark that the firmware is bad, or the release of the hub. -/
theorem boot_cases (s : State) : boot s = s ∨ boot s = { s with holly := { s.holly with fwBad := true } } ∨
    (canBoot s = true ∧ boot s = { s with
      pwr := { s.pwr with hubUp := true, wdogAt := s.raw, fwVersions := bootVersions s }
      loam := { s.loam with initDone := true }
      laurel := { s.laurel with ready := true } }) := by
  unfold boot
  cases hcan : canBoot s with
  | false => exact .inl rfl
  | true =>
    split
    · contradiction
    · split
      · exact .inr (.inl rfl)
      · exact .inr (.inr ⟨rfl, rfl⟩)

@[simp] theorem boot_pending (s : State) : (boot s).pending = s.pending := by
  rcases boot_cases s with h | h | ⟨-, h⟩ <;> rw [h]
@[simp] theorem boot_raw (s : State) : (boot s).raw = s.raw := by
  rcases boot_cases s with h | h | ⟨-, h⟩ <;> rw [h]
@[simp] theorem boot_ownerKey (s : State) : (boot s).holly.ownerKey = s.holly.ownerKey := by
  rcases boot_cases s with h | h | ⟨-, h⟩ <;> rw [h]
@[simp] theorem boot_debug (s : State) : (boot s).holly.debug = s.holly.debug := by
  rcases boot_cases s with h | h | ⟨-, h⟩ <;> rw [h]

/-- Of the power state boot sets the hub, the watchdog and the versions only. -/
theorem boot_pwr (s : State) : (boot s).pwr =
    { s.pwr with hubUp := (boot s).pwr.hubUp, wdogAt := (boot s).pwr.wdogAt, fwVersions := (boot s).pwr.fwVersions } := by
  rcases boot_cases s with h | h | ⟨-, h⟩ <;> rw [h]

theorem boot_hubUp {s : State} (h : (boot s).pwr.hubUp = true) : s.pwr.hubUp = true ∨ canBoot s = true := by
  rcases boot_cases s with hb | hb | ⟨hcan, -⟩
  · exact .inl (hb ▸ h)
  · rw [hb] at h; exact .inl h
  · exact .inr hcan

end Sys2Proof.Proofs

namespace Sys2Proof.Proofs

open Sys2Proof Sys2Proof.Machine Sys2Proof.Laws Sys2Proof.Safety

/-! The power invariant -/

theorem powerOk_wipe {s : State} (h : s.pwr.active < 2) (cause : Nat) : PowerOk (wipe s cause) := by
  refine ⟨Nat.two_pow_pos 64, Nat.zero_le 15, .inl rfl, rfl, ?_, fun hub => Bool.noConfusion hub⟩
  show (if s.pwr.pendingAct then 1 - s.pwr.active else s.pwr.active) < 2
  split <;> omega

theorem powerOk_boot {s : State} (h : PowerOk s) : PowerOk (boot s) := by
  obtain ⟨hraw, hlevel, hcap, hslots, hactive, hhub⟩ := h
  rw [PowerOk, boot_raw, boot_pwr]
  refine ⟨hraw, hlevel, hcap, hslots, hactive, fun hup => ?_⟩
  rcases boot_hubUp hup with hold | hcan
  · exact hhub hold
  · simp only [canBoot, pwrgd, Bool.and_eq_true, Bool.not_eq_true'] at hcan
    obtain ⟨⟨⟨⟨⟨⟨⟨haon, hvin, -⟩, -⟩, htrip⟩, hreset⟩, -⟩, -⟩, -⟩ := hcan
    exact ⟨hvin, haon, hreset, htrip⟩

theorem powerOk_moduleReset {s : State} (h : s.pwr.active < 2) (cause : Nat) : PowerOk (moduleReset s cause) :=
  powerOk_boot (powerOk_wipe h cause)

theorem endTrip_cases (s : State) : endTrip s = s ∨ endTrip s = { s with pwr := { s.pwr with tripped := false, railsBad := [] } } := by
  unfold endTrip
  split
  · exact .inr rfl
  · exact .inl rfl

theorem powerOk_endTrip {s : State} (h : PowerOk s) : PowerOk (endTrip s) := by
  obtain ⟨hraw, hlevel, hcap, hslots, hactive, hhub⟩ := h
  rcases endTrip_cases s with he | he <;> rw [he]
  · exact ⟨hraw, hlevel, hcap, hslots, hactive, hhub⟩
  · refine ⟨hraw, hlevel, hcap, hslots, hactive, fun hup => ?_⟩
    obtain ⟨hvin, haon, hreset, -⟩ := hhub hup
    exact ⟨hvin, haon, hreset, rfl⟩

theorem nextLevel_le {s : State} (h : s.pwr.level ≤ 15) : nextLevel s ≤ 15 := by
  unfold nextLevel
  dsimp only
  split
  · exact Nat.min_le_left _ _
  · split <;> omega

theorem view_tick (s : State) : view (tick s) = view s ∨ view (tick s) = view { s with raw := (s.raw + 1) % 2 ^ 64 } := by
  unfold tick
  split
  · exact .inr (view_slotThresholds _)
  · exact .inl rfl

theorem powerOk_raw {s : State} (h : PowerOk s) {n : Nat} (hn : n < 2 ^ 64) : PowerOk { s with raw := n } := ⟨hn, h.2⟩

theorem powerOk_tick {s : State} (h : PowerOk s) : PowerOk (tick s) := by
  rcases view_tick s with hv | hv
  · exact viewClosed_powerOk _ _ hv h
  · exact viewClosed_powerOk _ _ hv (powerOk_raw h (Nat.mod_lt _ (Nat.two_pow_pos 64)))

/-! Heath's commands that change the view -/

theorem ok_bind {α β : Type} {x : Except Bad α} {f : α → Except Bad β} {r : β} (h : (x >>= f) = .ok r) :
    ∃ a, x = .ok a ∧ f a = .ok r := by
  cases x with
  | error b => cases h
  | ok a => exact ⟨a, rfl, h⟩

theorem need_ok {b : Bool} {code : Code} {step index : Nat} {u : Unit} (h : need b code step index = .ok u) : b = true := by
  cases b
  · cases h
  · rfl

section
variable {P : State → Prop} (hP : ViewClosed P) {s : State} (hs : P s) {c : Ncp}
include hP hs

theorem ends_powerCap (h : ∀ w, (w = 0 ∨ (1000 ≤ w ∧ w ≤ 2400)) → P { s with pwr := { s.pwr with capW := w } }) :
    Ends P (execPowerCap c s) := by
  refine ends_runCmd hP hs fun res t hok => ?_
  obtain ⟨-, -, hok⟩ := ok_bind hok
  obtain ⟨-, -, hok⟩ := ok_bind hok
  obtain ⟨u, hlegal, hok⟩ := ok_bind hok
  cases hok
  exact h _ (by simpa using need_ok hlegal)

theorem ends_moduleResetCmd (h : ∀ n, P { s with pwr := { s.pwr with resetAt := some n } }) : Ends P (execModuleReset c s) := by
  refine ends_runCmd hP hs fun res t hok => ?_
  obtain ⟨-, -, hok⟩ := ok_bind hok
  obtain ⟨-, -, hok⟩ := ok_bind hok
  obtain ⟨-, -, hok⟩ := ok_bind hok
  obtain ⟨-, -, hok⟩ := ok_bind hok
  cases hok
  exact h _

theorem ends_fwStage (h : ∀ k x, P { setSlot s k x with pwr := { (setSlot s k x).pwr with pendingAct := false } }) :
    Ends P (execFwStage c s) := by
  refine ends_runCmd hP hs fun res t hok => ?_
  obtain ⟨-, -, hok⟩ := ok_bind hok
  obtain ⟨-, -, hok⟩ := ok_bind hok
  obtain ⟨data, -, hok⟩ := ok_bind hok
  obtain ⟨-, -, hok⟩ := ok_bind hok
  cases hok
  exact h _ _

theorem ends_fwActivate (hkept : P { s with pwr := { s.pwr with pendingAct := true } })
    (h : ∀ k x, P { setSlot s k x with pwr := { (setSlot s k x).pwr with pendingAct := true } }) : Ends P (execFwActivate c s) := by
  refine ends_runCmd hP hs fun res t hok => ?_
  obtain ⟨-, -, hok⟩ := ok_bind hok
  obtain ⟨-, -, hok⟩ := ok_bind hok
  obtain ⟨-, -, hok⟩ := ok_bind hok
  dsimp only at hok
  split at hok
  · cases hok
    exact hkept
  · split at hok
    · cases hok
    · obtain ⟨-, -, hok⟩ := ok_bind hok
      cases hok
      exact h _ _

theorem ends_debugUnlock (h : P { s with holly := { s.holly with debug := true } }) : Ends P (execDebugUnlock c s) := by
  refine ends_runCmd hP hs fun res t hok => ?_
  obtain ⟨-, -, hok⟩ := ok_bind hok
  obtain ⟨-, -, hok⟩ := ok_bind hok
  obtain ⟨-, -, hok⟩ := ok_bind hok
  obtain ⟨-, -, hok⟩ := ok_bind hok
  have hview : view (zeroiseLinks (teardownAll s)) = view s := (view_zeroiseLinks _).trans (view_teardownAll s)
  generalize zeroiseLinks (teardownAll s) = u at hok hview
  cases hok
  obtain ⟨hpending, hraw, hpwr, hkey, -⟩ := view_eq_iff.mp hview
  refine hP _ _ ?_ h
  rw [view_extendMeas5]
  exact view_eq_iff.mpr ⟨hpending, hraw, hpwr, hkey, rfl⟩

theorem ends_ownerClear (h : P { s with holly := { s.holly with ownerKey := none } }) : Ends P (execOwnerClear c s) := by
  unfold execOwnerClear
  split
  · exact ends_next.mpr hs
  · dsimp only
    split
    · exact ends_runCmd_error hP hs _ _ _
    · refine ends_next.mpr (hP _ _ ?_ h)
      rw [view_freshSeq]
      generalize hu : finish s c 0x0907 .done 0 noIndex [] = u
      obtain ⟨hpending, hraw, hpwr, -, hdebug⟩ := view_eq_iff.mp (hu ▸ view_finish s c 0x0907 .done 0 noIndex [])
      exact view_eq_iff.mpr ⟨hpending, hraw, hpwr, rfl, hdebug⟩

theorem ends_installKex (h : ∀ key, P { s with holly := { s.holly with ownerKey := some key } }) {t : State} (ht : view t = view s)
    (k : Kex) (auth : List Byte) : P (installKex t k auth) := by
  have htk : P t := hP _ _ ht hs
  unfold installKex
  split
  · refine hP _ (installOwner t k) ?_ (h (hkdfExpand k.secret (ascii "NZ1280 ock") 48))
    obtain ⟨hpending, hraw, hpwr, -, hdebug⟩ := view_eq_iff.mp ht
    rw [installOwner, view_freshSeq, view_eq_iff]
    exact ⟨hpending, hraw, hpwr, rfl, hdebug⟩
  · split
    · exact hP _ _ (view_installBinding ..) htk
    · exact hP _ _ (view_installLink ..) htk

theorem ends_kexFin (h : ∀ key, P { s with holly := { s.holly with ownerKey := some key } }) : Ends P (execKexFin c s) := by
  have hfail : ∀ b, Ends P (runCmd s c 0x0904 (.error b)) := fun b => ends_runCmd_error hP hs _ _ b
  unfold execKexFin
  dsimp only
  split
  · exact ends_next.mpr hs
  · split
    · exact hfail _
    · split
      · exact hfail _
      · split
        · exact hfail _
        · split
          · exact hfail _
          · refine ends_next.mpr ?_
            split
            · exact hP _ _ (view_finish ..) hs
            · split
              · exact hP _ _ (view_finish ..) (ends_installKex hP hs h (view_dropKex ..) _ _)
              · refine hP s _ ?_ hs
                rw [view_finish, view_raise, view_dropKex]

/-! Events that change the view -/

theorem ends_timeBeat {missed : List Nat} (h : ∀ n, n < 2 ^ 64 → P { s with raw := n }) : Ends P (execTimeBeat missed s) := by
  unfold execTimeBeat
  split
  · split
    · exact ends_next.mpr hs
    · refine ends_next.mpr (hP _ _ ?_ (h _ (Nat.mod_lt ((s.raw / 1250 + 1) * 1250) (Nat.two_pow_pos 64))))
      rw [view_slotThresholds, view_beatRegions, view_emit]
  · exact ends_fault

omit hs in
theorem ends_refclkLoss (h : P { s with pwr := { s.pwr with refclk := false, pllOnRef := false } }) : Ends P (execRefclkLoss s) :=
  ends_next.mpr (hP _ _ (view_foldl _ _ view_linkDown) h)

omit hP hs in
theorem ends_railOutOfRegulation {rail : Nat} {bad : Bool} (h : ∀ rails, P { s with pwr := { s.pwr with railsBad := rails } })
    (hboot : ∀ t, P t → P (boot t)) : Ends P (execRailOutOfRegulation rail bad s) := by
  refine ends_atUnit ?_
  dsimp only
  split
  · exact h _
  · exact hboot _ (h _)

end

end Sys2Proof.Proofs

namespace Sys2Proof.Proofs

open Sys2Proof Sys2Proof.Machine Sys2Proof.Laws Sys2Proof.Safety

/-! Properties that every command keeps -/

/-- Is the command COMMAND_DISPATCH? -/
def isDispatch : Instr → Bool
  | .commandDispatch _ => true
  | _ => false

theorem isDispatch_of_heathCmds {k : Ncp → Instr} (hk : k ∈ heathCmds) (c : Ncp) : isDispatch (k c) = false := by
  revert k
  simp [heathCmds, answeredCmds, isDispatch]

/-- What every other command keeps, COMMAND_DISPATCH keeps too. -/
theorem exec_ends_of_undispatched {P : State → Prop} (hP : ViewClosed P)
    (h : ∀ c s, isDispatch c = false → P s → Ends P (exec c s)) (c : Instr) {s : State} (hs : P s) : Ends P (exec c s) := by
  cases hc : isDispatch c with
  | false => exact h c s hc hs
  | true =>
    cases c
    case commandDispatch dma =>
      exact ends_commandDispatch hP hs dma fun k hk c t ht => h _ t (isDispatch_of_heathCmds hk c) ht
    all_goals cases hc

section
variable {s : State} (h : PowerOk s)
include h

theorem powerOk_vsbApplied : Ends PowerOk (execVsbApplied s) := by
  refine ends_next.mpr ?_
  split
  · exact h
  · obtain ⟨-, -, -, -, hactive, -⟩ := h
    refine powerOk_moduleReset ?_ _
    exact hactive

theorem powerOk_vin48Applied : Ends PowerOk (execVin48Applied s) := by
  refine ends_next.mpr ?_
  split
  · exact h
  · obtain ⟨hraw, hlevel, hcap, hslots, hactive, hhub⟩ := h
    refine powerOk_boot (powerOk_endTrip ⟨hraw, hlevel, hcap, hslots, hactive, fun hup => ?_⟩)
    exact ⟨rfl, (hhub hup).2⟩

theorem powerOk_resetRelease : Ends PowerOk (execResetRelease s) := by
  refine ends_next.mpr ?_
  split
  · exact h
  · obtain ⟨hraw, hlevel, hcap, hslots, hactive, hhub⟩ := h
    refine powerOk_boot (powerOk_endTrip ⟨hraw, hlevel, hcap, hslots, hactive, fun hup => ?_⟩)
    obtain ⟨hvin, haon, -, htrip⟩ := hhub hup
    exact ⟨hvin, haon, rfl, htrip⟩

theorem powerOk_resetPinAssert : Ends PowerOk (execResetPinAssert s) := by
  obtain ⟨-, -, -, -, hactive, -⟩ := h
  refine ends_next.mpr (powerOk_moduleReset ?_ _)
  exact hactive

theorem powerOk_supplyBrownout (vsbLost : Bool) : Ends PowerOk (execSupplyBrownout vsbLost s) := by
  obtain ⟨-, -, -, -, hactive, -⟩ := h
  refine ends_next.mpr (powerOk_moduleReset ?_ _)
  cases vsbLost <;> exact hactive

theorem powerOk_watchdogExpiry : Ends PowerOk (execWatchdogExpiry s) := by
  obtain ⟨-, -, -, -, hactive, -⟩ := id h
  refine ends_next.mpr ?_
  split
  · exact powerOk_moduleReset hactive _
  · exact h

theorem powerOk_watchdogRestart : Ends PowerOk (execWatchdogRestart s) := by
  refine ends_next.mpr ?_
  split <;> exact h

theorem powerOk_commandedReset : Ends PowerOk (execCommandedReset s) := by
  obtain ⟨-, -, -, -, hactive, -⟩ := id h
  refine ends_next.mpr ?_
  split
  · exact powerOk_moduleReset hactive _
  · exact h

theorem powerOk_refclkValid : Ends PowerOk (execRefclkValid s) := ends_next.mpr (powerOk_boot h)

theorem powerOk_thermalTrip (die : Nat) : Ends PowerOk (execThermalTrip die s) := by
  refine ends_atUnit ?_
  split
  · exact h
  · obtain ⟨hraw, -, -, hslots, hactive, -⟩ := h
    exact ⟨hraw, Nat.zero_le 15, .inl rfl, hslots, hactive, fun hup => Bool.noConfusion hup⟩

theorem powerOk_thermalLoopEval (dies : List Int) (rails : List (Nat × Nat)) (w : Nat) :
    Ends PowerOk (execThermalLoopEval dies rails w s) := by
  unfold execThermalLoopEval
  split
  · refine ends_next.mpr ?_
    split
    · obtain ⟨hraw, hlevel, hcap, hslots, hactive, hhub⟩ := h
      exact ⟨hraw, nextLevel_le hlevel, hcap, hslots, hactive, hhub⟩
    · exact h
  · exact ends_fault

theorem powerOk_powerCap (c : Ncp) : Ends PowerOk (execPowerCap c s) := by
  obtain ⟨hraw, hlevel, -, hslots, hactive, hhub⟩ := id h
  exact ends_powerCap viewClosed_powerOk h fun w hw => ⟨hraw, hlevel, hw, hslots, hactive, hhub⟩

theorem powerOk_fwStage (c : Ncp) : Ends PowerOk (execFwStage c s) := by
  obtain ⟨hraw, hlevel, hcap, -, hactive, hhub⟩ := id h
  exact ends_fwStage viewClosed_powerOk h fun k x => ⟨hraw, hlevel, hcap, rfl, hactive, hhub⟩

theorem powerOk_fwActivate (c : Ncp) : Ends PowerOk (execFwActivate c s) := by
  obtain ⟨hraw, hlevel, hcap, -, hactive, hhub⟩ := id h
  exact ends_fwActivate viewClosed_powerOk h h fun k x => ⟨hraw, hlevel, hcap, rfl, hactive, hhub⟩

end

theorem exec_powerOk (c : Instr) (s : State) (hc : isDispatch c = false) (h : PowerOk s) : Ends PowerOk (exec c s) := by
  have hP := viewClosed_powerOk
  cases hsp : special c with
  | false => exact ends_of_keeps hP h (exec_keeps c s hsp)
  | true =>
    cases c
    case vsbApplied => exact powerOk_vsbApplied h
    case vin48Applied => exact powerOk_vin48Applied h
    case resetRelease => exact powerOk_resetRelease h
    case resetPinAssert => exact powerOk_resetPinAssert h
    case supplyBrownout vsbLost => exact powerOk_supplyBrownout h vsbLost
    case watchdogExpiry => exact powerOk_watchdogExpiry h
    case watchdogRestart => exact powerOk_watchdogRestart h
    case commandedReset => exact powerOk_commandedReset h
    case refclkValid => exact powerOk_refclkValid h
    case refclkLoss => exact ends_refclkLoss hP h
    case railOutOfRegulation rail bad => exact ends_railOutOfRegulation (fun _ => h) fun _ => powerOk_boot
    case thermalTrip die => exact powerOk_thermalTrip h die
    case thermalLoopEval dies rails w => exact powerOk_thermalLoopEval h dies rails w
    case timeBeat missed => exact ends_timeBeat hP h fun n hn => powerOk_raw h hn
    case powerCap c => exact powerOk_powerCap h c
    case moduleReset c => exact ends_moduleResetCmd hP h fun _ => h
    case fwStage c => exact powerOk_fwStage h c
    case fwActivate c => exact powerOk_fwActivate h c
    case kexFin c => exact ends_kexFin hP h fun _ => h
    case ownerClear c => exact ends_ownerClear hP h h
    case debugUnlock c => exact ends_debugUnlock hP h h
    case commandDispatch dma => cases hc
    all_goals cases hsp

theorem step_of_pending {s : State} {c : Instr} {rest : List Instr} (h : s.pending = c :: rest) :
    step s = exec c { s with pending := rest } := by
  unfold step
  rw [h]

theorem step_of_empty {s : State} (h : s.pending = []) : step s = .next (tick s) := by
  unfold step
  rw [h]

/-- Settles O4: of the few commands that change the power state or RAW each keeps the invariant, and the others keep the view. -/
theorem powerInvariantKept : Obligations.PowerInvariantKept := by
  unfold Obligations.PowerInvariantKept
  intro s t hs ht
  cases hq : s.pending with
  | nil =>
    rw [step_of_empty hq] at ht
    cases ht
    exact powerOk_tick hs
  | cons c rest =>
    rw [step_of_pending hq] at ht
    exact exec_ends_of_undispatched viewClosed_powerOk exec_powerOk c (s := { s with pending := rest }) hs t ht

/-! Properties of the queue, the keys, the firmware and CAP_W -/

/-- A property that only the firmware slots and CAP_W of the power state bear on, and not RAW. -/
structure PowerFree (P : State → Prop) : Prop where
  view : ViewClosed P
  raw : ∀ s n, P s → P { s with raw := n }
  pwr : ∀ s p, p.slots = s.pwr.slots → p.active = s.pwr.active → p.capW = s.pwr.capW → P s → P { s with pwr := p }

theorem PowerFree.boot {P : State → Prop} (hP : PowerFree P) {s : State} (hs : P s) : P (boot s) := by
  rcases boot_cases s with h | h | ⟨-, h⟩ <;> rw [h]
  · exact hs
  · exact hP.view s _ rfl hs
  · exact hP.view { s with pwr := { s.pwr with hubUp := true, wdogAt := s.raw, fwVersions := bootVersions s } } _ rfl
      (hP.pwr s _ rfl rfl rfl hs)

theorem PowerFree.endTrip {P : State → Prop} (hP : PowerFree P) {s : State} (hs : P s) : P (endTrip s) := by
  rcases endTrip_cases s with h | h <;> rw [h]
  · exact hs
  · exact hP.pwr s _ rfl rfl rfl hs

/-- The state with nothing but the queue, what has left the module, RAW and the power state. -/
def cleared (s : State) (n : Nat) (p : Power) : State :=
  { pending := s.pending, out := s.out, freeCtr := s.freeCtr, raw := n, pwr := p }

/-- KEX_FIN and OWNER_CLEAR. -/
def setsKey : Instr → Bool
  | .kexFin _ | .ownerClear _ => true
  | _ => false

/-- FW_STAGE and FW_ACTIVATE. -/
def setsFirmware : Instr → Bool
  | .fwStage _ | .fwActivate _ => true
  | _ => false

/-- POWER_CAP. -/
def setsCap : Instr → Bool
  | .powerCap _ => true
  | _ => false

/-- DEBUG_UNLOCK. -/
def unlocks : Instr → Bool
  | .debugUnlock _ => true
  | _ => false

section
variable {P : State → Prop} (hP : PowerFree P) {s : State} (hs : P s)
include hP

theorem ends_reset {u : State} (h : ∀ n p, P (cleared u n p)) (cause : Nat) : P (moduleReset u cause) :=
  hP.boot (h 0 (pwrOverReset u _))

/-- The events that may reset the module leave the property, or come to a cleared state. -/
theorem ends_mayReset {c : Instr} (hc : mayReset c = true) (hs : P s) (h : ∀ n p, P (cleared s n p)) : Ends P (exec c s) := by
  cases c
  case vsbApplied =>
    rw [exec_vsbApplied, execVsbApplied, ends_next]
    split
    · exact hs
    · refine ends_reset hP (fun n p => ?_) _
      exact h n p
  case resetPinAssert =>
    rw [exec_resetPinAssert, execResetPinAssert, ends_next]
    refine ends_reset hP (fun n p => ?_) _
    exact h n p
  case supplyBrownout vsbLost =>
    rw [exec_supplyBrownout, execSupplyBrownout, ends_next]
    refine ends_reset hP (fun n p => ?_) _
    exact h n p
  case watchdogExpiry =>
    rw [exec_watchdogExpiry, execWatchdogExpiry, ends_next]
    split
    · exact ends_reset hP h _
    · exact hs
  case commandedReset =>
    rw [exec_commandedReset, execCommandedReset, ends_next]
    split
    · exact ends_reset hP h _
    · exact hs
  case thermalTrip die =>
    rw [exec_thermalTrip, execThermalTrip]
    refine ends_atUnit ?_
    split
    · exact hs
    · exact h _ _
  all_goals cases hc

/-- What a command does to a property of the queue, the keys, the firmware slots and CAP_W. -/
theorem exec_ends_of_powerFree {c : Instr} (hd : isDispatch c = false) (hs : P s)
    (hreset : mayReset c = true → ∀ n p, P (cleared s n p))
    (hkey : setsKey c = true → ∀ key, P { s with holly := { s.holly with ownerKey := key } })
    (hfirmware : setsFirmware c = true → ∀ p : Power, p.capW = s.pwr.capW → P { s with pwr := p })
    (hcap : setsCap c = true → ∀ w, P { s with pwr := { s.pwr with capW := w } })
    (hunlock : unlocks c = true → P { s with holly := { s.holly with debug := true } }) : Ends P (exec c s) := by
  have hpwr : ∀ p : Power, p.slots = s.pwr.slots → p.active = s.pwr.active → p.capW = s.pwr.capW → P { s with pwr := p } :=
    fun p hslots hactive hcapW => hP.pwr s p hslots hactive hcapW hs
  cases hr : mayReset c with
  | true => exact ends_mayReset hP hr hs (hreset hr)
  | false =>
  cases hsp : special c with
  | false => exact ends_of_keeps hP.view hs (exec_keeps c s hsp)
  | true =>
    cases c
    case vin48Applied =>
      rw [exec_vin48Applied, execVin48Applied, ends_next]
      split
      · exact hs
      · exact hP.boot (hP.endTrip (hpwr _ rfl rfl rfl))
    case resetRelease =>
      rw [exec_resetRelease, execResetRelease, ends_next]
      split
      · exact hs
      · exact hP.boot (hP.endTrip (hpwr _ rfl rfl rfl))
    case watchdogRestart =>
      rw [exec_watchdogRestart, execWatchdogRestart, ends_next]
      split
      · exact hpwr _ rfl rfl rfl
      · exact hs
    case refclkValid =>
      rw [exec_refclkValid, execRefclkValid, ends_next]
      exact hP.boot (hpwr _ rfl rfl rfl)
    case refclkLoss => exact ends_refclkLoss hP.view (hpwr _ rfl rfl rfl)
    case railOutOfRegulation rail bad =>
      exact ends_railOutOfRegulation (fun _ => hpwr _ rfl rfl rfl) fun _ => hP.boot
    case thermalLoopEval dies rails w =>
      rw [exec_thermalLoopEval, execThermalLoopEval]
      split
      · rw [ends_next]
        split <;> exact hpwr _ rfl rfl rfl
      · exact ends_fault
    case timeBeat missed => exact ends_timeBeat hP.view hs fun n _ => hP.raw s n hs
    case powerCap c => exact ends_powerCap hP.view hs fun w _ => hcap rfl w
    case moduleReset c => exact ends_moduleResetCmd hP.view hs fun _ => hpwr _ rfl rfl rfl
    case fwStage c => exact ends_fwStage hP.view hs fun _ _ => hfirmware rfl _ rfl
    case fwActivate c => exact ends_fwActivate hP.view hs (hfirmware rfl _ rfl) fun _ _ => hfirmware rfl _ rfl
    case kexFin c => exact ends_kexFin hP.view hs fun _ => hkey rfl _
    case ownerClear c => exact ends_ownerClear hP.view hs (hkey rfl _)
    case debugUnlock c => exact ends_debugUnlock hP.view hs (hunlock rfl)
    case commandDispatch dma => cases hd
    all_goals first | (cases hr; done) | cases hsp

end

theorem exec_pending (c : Instr) (s : State) : Ends (fun t => t.pending = s.pending) (exec c s) := by
  have hP : PowerFree fun t => t.pending = s.pending := ⟨viewClosed_pending _, fun _ _ => id, fun _ _ _ _ _ => id⟩
  refine exec_ends_of_undispatched hP.view (fun c u hd hu => ?_) c rfl
  exact exec_ends_of_powerFree hP hd hu (fun _ _ _ => hu) (fun _ _ => hu) (fun _ _ _ => hu) (fun _ _ => hu) (fun _ => hu)

theorem step_pending {c : Instr} {s t : State} {rest : List Instr} (hq : s.pending = c :: rest) (ht : step s = .next t) :
    t.pending = rest := by
  rw [step_of_pending hq] at ht
  exact exec_pending c { s with pending := rest } t ht

theorem tick_pending (s : State) : (tick s).pending = s.pending := by
  rcases view_tick s with h | h <;> exact (view_eq_iff.mp h).1

/-- Settles O5: the queue is part of the view, and the commands that change the view keep it. -/
theorem queueStaysWellFormed : Obligations.QueueStaysWellFormed := by
  unfold Obligations.QueueStaysWellFormed
  refine ⟨fun c s t ht => exec_pending c s t ht, fun c s t rest hq ht => step_pending hq ht, ?_⟩
  intro s t hs ht c hc
  cases hq : s.pending with
  | nil =>
    rw [step_of_empty hq] at ht
    cases ht
    exact hs c (tick_pending s ▸ hc)
  | cons d rest =>
    rw [step_pending hq ht] at hc
    exact hs c (hq ▸ List.mem_cons_of_mem d hc)

theorem of_mayChangeOwner {c : Instr} (h : mayChangeOwner c = false) :
    isDispatch c = false ∧ mayReset c = false ∧ setsKey c = false := by
  obtain ⟨hreset, hother⟩ := Bool.or_eq_false_iff.mp h
  cases c
  case kexFin => cases hother
  case ownerClear => cases hother
  case commandDispatch => cases hother
  all_goals exact ⟨rfl, hreset, rfl⟩

/-- Settles O6: the owner key is part of the view; of the commands that change the view only those named set it. -/
theorem ownerKeyChangesOnlyThere : Obligations.OwnerKeyChangesOnlyThere := by
  unfold Obligations.OwnerKeyChangesOnlyThere
  intro c s t hc ht
  obtain ⟨hd, hreset, hkey⟩ := of_mayChangeOwner hc
  have hP : PowerFree fun u => u.holly.ownerKey = s.holly.ownerKey := ⟨viewClosed_ownerKey _, fun _ _ => id, fun _ _ _ _ _ => id⟩
  exact exec_ends_of_powerFree hP hd rfl (fun h => nomatch hreset ▸ h) (fun h => nomatch hkey ▸ h) (fun _ _ _ => rfl) (fun _ _ => rfl)
    (fun _ => rfl) t ht

theorem of_mayUnlock {c : Instr} (h : mayUnlock c = false) : isDispatch c = false ∧ unlocks c = false := by
  cases c
  case debugUnlock => cases h
  case commandDispatch => cases h
  all_goals exact ⟨rfl, rfl⟩

/-- Settles O7: the debug state is part of the view; DEBUG_UNLOCK alone sets it, and a reset leaves it locked. -/
theorem debugStaysLocked : Obligations.DebugStaysLocked := by
  unfold Obligations.DebugStaysLocked
  intro c s t hs hc ht
  obtain ⟨hd, hunlock⟩ := of_mayUnlock hc
  have hP : PowerFree fun u => u.holly.debug = false := ⟨viewClosed_debug _, fun _ _ => id, fun _ _ _ _ _ => id⟩
  exact exec_ends_of_powerFree hP hd hs (fun _ _ _ => rfl) (fun _ _ => hs) (fun _ _ _ => hs) (fun _ _ => hs)
    (fun h => nomatch hunlock ▸ h) t ht

theorem of_mayChangeFirmware {c : Instr} (h : mayChangeFirmware c = false) :
    isDispatch c = false ∧ mayReset c = false ∧ setsFirmware c = false := by
  obtain ⟨hreset, hother⟩ := Bool.or_eq_false_iff.mp h
  cases c
  case fwStage => cases hother
  case fwActivate => cases hother
  case commandDispatch => cases hother
  all_goals exact ⟨rfl, hreset, rfl⟩

theorem of_mayChangeCap {c : Instr} (h : mayChangeCap c = false) :
    isDispatch c = false ∧ mayReset c = false ∧ setsCap c = false := by
  obtain ⟨hreset, hother⟩ := Bool.or_eq_false_iff.mp h
  cases c
  case powerCap => cases hother
  case commandDispatch => cases hother
  all_goals exact ⟨rfl, hreset, rfl⟩

/-- Settles O8: firmware slots and CAP_W are part of the view; of the commands that change it only those named set them. -/
theorem firmwareAndCapChangeOnlyThere : Obligations.FirmwareAndCapChangeOnlyThere := by
  unfold Obligations.FirmwareAndCapChangeOnlyThere
  intro c s t ht
  constructor
  · intro hc
    obtain ⟨hd, hreset, hfirmware⟩ := of_mayChangeFirmware hc
    have hP : PowerFree fun u => u.pwr.slots = s.pwr.slots ∧ u.pwr.active = s.pwr.active :=
      ⟨viewClosed_firmware _ _, fun _ _ => id, fun _ _ hslots hactive _ h => ⟨hslots.trans h.1, hactive.trans h.2⟩⟩
    exact exec_ends_of_powerFree hP hd ⟨rfl, rfl⟩ (fun h => nomatch hreset ▸ h) (fun _ _ => ⟨rfl, rfl⟩)
      (fun h => nomatch hfirmware ▸ h) (fun _ _ => ⟨rfl, rfl⟩) (fun _ => ⟨rfl, rfl⟩) t ht
  · intro hc
    obtain ⟨hd, hreset, hcap⟩ := of_mayChangeCap hc
    have hP : PowerFree fun u => u.pwr.capW = s.pwr.capW :=
      ⟨viewClosed_capW _, fun _ _ => id, fun _ _ _ _ hcapW h => hcapW.trans h⟩
    exact exec_ends_of_powerFree hP hd rfl (fun h => nomatch hreset ▸ h) (fun _ _ => rfl) (fun _ _ h => h)
      (fun h => nomatch hcap ▸ h) (fun _ => rfl) t ht

end Sys2Proof.Proofs

namespace Sys2Proof.Proofs

open Sys2Proof Sys2Proof.Machine Sys2Proof.Laws Sys2Proof.Safety

/-- Settles O1: the queue of the state is the command and the rest. -/
theorem stepRunsTheFrontCommand : Obligations.StepRunsTheFrontCommand := by
  unfold Obligations.StepRunsTheFrontCommand
  exact fun c s rest => step_of_pending (s := { s with pending := c :: rest }) rfl

theorem slotThresholds_of_none {s : State} (h : ∀ e ∈ s.st.thr, slotSource e.1 = false) : slotThresholds s = s := by
  have hnone : s.st.thr.filter (fun e => slotSource e.1) = [] := by
    rw [List.filter_eq_nil_iff]
    exact fun e he => by simp [h e he]
  rw [slotThresholds, hnone, List.foldl_nil]

/-- Settles O2: with no threshold on a slot account a tick moves RAW alone. -/
theorem emptyQueuePassesOneTick : Obligations.EmptyQueuePassesOneTick := by
  unfold Obligations.EmptyQueuePassesOneTick
  intro s hq
  rw [step_of_empty hq, tick]
  refine ⟨fun haon => by rw [haon]; rfl, fun haon hthr => ?_⟩
  rw [haon, if_pos rfl, slotThresholds_of_none (s := { s with raw := (s.raw + 1) % 2 ^ 64 }) hthr]

/-- Settles O3. -/
theorem powerInvariantHoldsAtReset : Obligations.PowerInvariantHoldsAtReset := by
  unfold Obligations.PowerInvariantHoldsAtReset
  exact ⟨Nat.two_pow_pos 64, Nat.zero_le 15, .inl rfl, rfl, Nat.zero_lt_two, fun hub => Bool.noConfusion hub⟩

/-! Resets -/

theorem boot_of_not_canBoot {s : State} (h : canBoot s = false) : boot s = s := by
  rw [boot, h]
  rfl

theorem canBoot_eq_true_iff (s : State) : canBoot s = true ↔ s.pwr.aon = true ∧ s.pwr.vin48 = true ∧ s.pwr.railsBad = [] ∧
    s.pwr.tripped = false ∧ s.pwr.resetN = true ∧ s.pwr.refclk = true ∧ s.pwr.hubUp = false ∧ s.holly.fwBad = false := by
  simp only [canBoot, pwrgd, vsbOk, Bool.and_eq_true, Bool.not_eq_true', List.isEmpty_iff]
  constructor
  · rintro ⟨⟨⟨⟨⟨⟨⟨haon, hvin, hrails⟩, -⟩, htrip⟩, hreset⟩, hclk⟩, hhub⟩, hbad⟩
    exact ⟨haon, hvin, hrails, htrip, hreset, hclk, hhub, hbad⟩
  · rintro ⟨haon, hvin, hrails, htrip, hreset, hclk, hhub, hbad⟩
    simp [haon, hvin, hrails, htrip, hreset, hclk, hhub, hbad]

/-- Without RESET_N, the always-on island or VIN48 a reset is not followed by a boot. -/
theorem moduleReset_of_unpowered {s : State} (h : s.pwr.resetN = false ∨ s.pwr.vsb = false ∨ s.pwr.vin48 = false) (cause : Nat) :
    moduleReset s cause = wipe s cause := by
  refine boot_of_not_canBoot (Bool.eq_false_iff.mpr fun hcan => ?_)
  obtain ⟨haon, hvin, -, -, hreset, -⟩ := (canBoot_eq_true_iff _).mp hcan
  have haon : s.pwr.vsb = true := haon
  have hvin : s.pwr.vin48 = true := hvin
  have hreset : s.pwr.resetN = true := hreset
  simp [haon, hvin, hreset] at h

/-- Settles O10: each event runs its reset on its condition; without power or RESET_N no boot follows. -/
theorem suppliesAndResetsComplete : Obligations.SuppliesAndResetsComplete := by
  unfold Obligations.SuppliesAndResetsComplete
  refine ⟨fun s h => ?vsb, fun s => ?pin, fun s => ?vsbLost, fun s => ?vinLost, fun s hhub hdue => ?wdog, fun s hhub => ?restart,
    fun s t hat hdue => ?commanded⟩
  case vsb => rw [exec_vsbApplied, execVsbApplied, h]; rfl
  case pin => rw [exec_resetPinAssert, execResetPinAssert, moduleReset_of_unpowered (.inl rfl)]; rfl
  case vsbLost => rw [exec_supplyBrownout, execSupplyBrownout, if_pos rfl, moduleReset_of_unpowered (.inr (.inl rfl))]; rfl
  case vinLost =>
    rw [exec_supplyBrownout, execSupplyBrownout, if_neg Bool.false_ne_true, moduleReset_of_unpowered (.inr (.inr rfl))]; rfl
  case wdog =>
    have hdue : wdogDue s = true := by simp [wdogDue, hhub, elapsed, hdue]
    rw [exec_watchdogExpiry, execWatchdogExpiry, hdue]; rfl
  case restart => rw [exec_watchdogRestart, execWatchdogRestart, hhub]; rfl
  case commanded =>
    have hdue : commandDue s = true := by simp [commandDue, hat, hdue]
    rw [exec_commandedReset, execCommandedReset, hdue]; rfl

/-- Settles O11: boot adds to the wiped state only the hub, the mark of bad firmware and the marks of initialisation. -/
theorem moduleResetClearsEverything : Obligations.ModuleResetClearsEverything := by
  unfold Obligations.ModuleResetClearsEverything
  intro s cause
  rw [moduleReset]
  rcases boot_cases (wipe s cause) with h | h | ⟨-, h⟩ <;> rw [h] <;>
    exact ⟨rfl, rfl, rfl, rfl, rfl, rfl, rfl, rfl, rfl, rfl, rfl, rfl, rfl, rfl, rfl, rfl, rfl, rfl, rfl, rfl, rfl, rfl, rfl, rfl, rfl, rfl,
      rfl, rfl, rfl, rfl, rfl, rfl, rfl⟩

/-! Boot -/

/-- With every condition of the sequence met and the factory's firmware active, boot releases the hub. -/
theorem boot_eq_booted {s : State} (hcan : canBoot s = true) (hfactory : (activeImage s).isEmpty = true) : boot s = booted s := by
  rw [boot, hcan, hfactory, bootVersions, hfactory]
  rfl

theorem endTrip_of_untripped {s : State} (h : s.pwr.tripped = false) : endTrip s = s := by
  rw [endTrip, h]
  rfl

theorem boot_endTrip_eq_booted {s : State} (htrip : s.pwr.tripped = false) (hcan : canBoot s = true)
    (hfactory : (activeImage s).isEmpty = true) : boot (endTrip s) = booted s := by
  rw [endTrip_of_untripped htrip, boot_eq_booted hcan hfactory]

/-- Settles O12: each event completes the conditions under which boot releases the hub. -/
theorem bootCompletes : Obligations.BootCompletes := by
  unfold Obligations.BootCompletes
  refine ⟨fun s hready hvin hrails hclk hreset => ?release, fun s hready hvin hrails hclk hreset => ?vin,
    fun s hready hvin hrails hreset => ?clk, fun s k hk hready hvin hrails hclk hreset => ?rail, fun s k hk hgood => ?bad,
    fun s hdown => ?lost⟩
  case release =>
    obtain ⟨haon, htrip, hhub, hbad, hfactory⟩ := hready
    rw [exec_resetRelease, execResetRelease, hreset, if_neg Bool.false_ne_true]
    refine congrArg Host.Outcome.next (boot_endTrip_eq_booted htrip ?_ hfactory)
    exact (canBoot_eq_true_iff _).mpr ⟨haon, hvin, hrails, htrip, rfl, hclk, hhub, hbad⟩
  case vin =>
    obtain ⟨haon, htrip, hhub, hbad, hfactory⟩ := hready
    rw [exec_vin48Applied, execVin48Applied, hvin, if_neg Bool.false_ne_true]
    refine congrArg Host.Outcome.next (boot_endTrip_eq_booted htrip ?_ hfactory)
    exact (canBoot_eq_true_iff _).mpr ⟨haon, rfl, hrails, htrip, hreset, hclk, hhub, hbad⟩
  case clk =>
    obtain ⟨haon, htrip, hhub, hbad, hfactory⟩ := hready
    refine congrArg Host.Outcome.next (boot_eq_booted ?_ hfactory)
    exact (canBoot_eq_true_iff _).mpr ⟨haon, hvin, hrails, htrip, hreset, rfl, hhub, hbad⟩
  case rail =>
    obtain ⟨haon, htrip, hhub, hbad, hfactory⟩ := hready
    have hothers : s.pwr.railsBad.filter (· != k) = [] := by simp [hrails]
    rw [exec_railOutOfRegulation, execRailOutOfRegulation, atUnit, if_pos hk]
    simp only [hothers, if_neg Bool.false_ne_true]
    refine congrArg Host.Outcome.next (boot_eq_booted ?_ hfactory)
    exact (canBoot_eq_true_iff _).mpr ⟨haon, hvin, rfl, htrip, hreset, hclk, hhub, hbad⟩
  case bad =>
    have hothers : s.pwr.railsBad.filter (· != k) = s.pwr.railsBad := by
      refine List.filter_eq_self.mpr fun j hj => ?_
      have hne : j ≠ k := fun h => by simp [← h, hj] at hgood
      simpa using hne
    rw [exec_railOutOfRegulation, execRailOutOfRegulation, atUnit, if_pos hk]
    simp only [hothers, if_true]
  case lost =>
    have hnone : (List.range nPorts).filter (portUp s) = [] := List.filter_eq_nil_iff.mpr fun p _ => by simp [hdown p]
    rw [exec_refclkLoss, execRefclkLoss, hnone]
    rfl

end Sys2Proof.Proofs

/-!
Heath's commands: the checks that pass, and the answer of a command whose checks have passed or of the first that fails.
-/
namespace Sys2Proof.Proofs

open Sys2Proof Sys2Proof.Machine Sys2Proof.Laws Sys2Proof.Safety

/-! Checks -/

@[simp] theorem ok_bind_eq {ε α β : Type} (a : α) (f : α → Except ε β) : ((.ok a : Except ε α) >>= f) = f a := rfl
@[simp] theorem error_bind_eq {ε α β : Type} (b : ε) (f : α → Except ε β) : ((.error b : Except ε α) >>= f) = .error b := rfl
@[simp] theorem pure_eq_ok {ε α : Type} (a : α) : (pure a : Except ε α) = .ok a := rfl

@[simp] theorem atStep_ok {α : Type} (k : Nat) (a : α) : atStep k (.ok a) = .ok a := rfl

theorem need_of {b : Bool} (h : b = true) (code : Code) (step index : Nat) : need b code step index = .ok () := by
  rw [need, if_pos h]

theorem need_of_not {b : Bool} (h : b = false) (code : Code) (step index : Nat) :
    need b code step index = .error { code := code, step := step, index := index } := by
  rw [need, h]
  rfl

theorem needOwner_of {c : Ncp} (h : c.auth = .owner) : needOwner c = .ok () := need_of (by simp [h]) _ _ _

theorem needLen_of {c : Ncp} {n : Nat} (h : c.body.length = n) : needLen c n = .ok () := need_of (by simp [h]) _ _ _

theorem needLen_nil {c : Ncp} (h : c.body = []) : needLen c 0 = .ok () := needLen_of (by simp [h])

theorem needTenant_of {s : State} {c : Ncp} {p : Nat} (h : c.auth = .tenant p) (ht : tearingDown s p = false) :
    needTenant s c = .ok p := by
  rw [needTenant, h]
  simp [ht]

theorem needKeyed_of {s : State} {c : Ncp} (h : KeyedCmd s c) : needKeyed s c = .ok () := by
  obtain ⟨-, hc | ⟨p, hc, ht⟩⟩ := h <;> rw [needKeyed, hc]
  simp [ht]

/-! Answers -/

theorem runCmd_of_ok {s t : State} {c : Ncp} {op : Nat} {res : List Byte} (hhub : s.pwr.hubUp = true) :
    runCmd s c op (.ok (res, t)) = done t c op res := by
  rw [runCmd, hhub]
  rfl

theorem runCmd_of_error {s : State} {c : Ncp} {op : Nat} (hhub : s.pwr.hubUp = true) (code : Code) (step index : Nat) :
    runCmd s c op (.error { code := code, step := step, index := index }) = rejected s c op code step index := by
  rw [runCmd, hhub]
  rfl

theorem runLong_of_ok {s t : State} {c : Ncp} {op : Nat} (hhub : s.pwr.hubUp = true) : runLong s c op (.ok t) = .next t := by
  rw [runLong, hhub]
  rfl

theorem exec_of_ok {s t : State} {c : Ncp} {op : Nat} {res : List Byte} {r : Except Bad (List Byte × State)}
    (hhub : s.pwr.hubUp = true) (h : r = .ok (res, t)) : runCmd s c op r = done t c op res := by
  rw [h, runCmd_of_ok hhub]

/-! Lengths of lists of fields -/

theorem length_flatMap_of {α β : Type} {f : α → List β} {n : Nat} (h : ∀ a, (f a).length = n) (l : List α) :
    (l.flatMap f).length = l.length * n := by
  rw [List.length_flatMap, List.map_congr_left (fun a _ => h a), List.map_const', List.sum_replicate_nat]

/-! The thermal trip and loop -/

theorem mem_tripped_rails (bad : List Nat) (k : Nat) : k ∈ List.range 11 ++ bad.filter (· == 11) ↔ k < 11 ∨ (k = 11 ∧ 11 ∈ bad) := by
  simp only [List.mem_append, List.mem_range, List.mem_filter, beq_iff_eq]
  exact or_congr_right ⟨fun ⟨hk, he⟩ => ⟨he, he ▸ hk⟩, fun ⟨he, hk⟩ => ⟨he ▸ hk, he⟩⟩

theorem dieLimits_isSome {d : Nat} (h : d < 48 ∨ d = 50) : ∃ l, dieLimits d = some l := by
  unfold dieLimits
  split
  · exact ⟨_, rfl⟩
  · split
    · exact ⟨_, rfl⟩
    · next hfirst _ =>
      have hd : d < 48 := h.resolve_right fun he => hfirst (by simp [he])
      exact ⟨_, if_pos hd⟩

theorem tfind_putAll_of_lt {α : Type} (l : List α) : ∀ (t : Table α) {k j : Nat}, j < k → tfind (Machine.putAll t k l) j = tfind t j := by
  induction l with
  | nil => exact fun _ _ _ _ => rfl
  | cons x l ih =>
    intro t k j hj
    rw [Machine.putAll, ih _ (Nat.lt_succ_of_lt hj), tfind_tins_other _ _ (Nat.ne_of_lt hj)]

theorem tfind_putAll {α : Type} : ∀ (l : List α) (t : Table α) {k i j : Nat} (h : i < l.length), j = k + i →
    tfind (Machine.putAll t k l) j = some l[i]
  | x :: l, t, k, 0, j, _, hj => by
    rw [hj]
    exact (tfind_putAll_of_lt l _ (Nat.lt_succ_self _)).trans (tfind_tins_self _ _ _)
  | x :: l, t, k, i + 1, j, h, hj =>
    tfind_putAll l (tins t k x) (Nat.lt_of_succ_lt_succ h) (by omega)

/-- The dies that have limits, with their temperature and their throttle temperature. -/
def limitedDies (s : State) : List (Int × Int) := (List.range 51).filterMap fun d => (dieLimits d).map fun l => (dieTemp s d, l.1)

theorem mem_limitedDies {s : State} {x : Int × Int} :
    x ∈ limitedDies s ↔ ∃ d l, dieLimits d = some l ∧ d < 51 ∧ x = (dieTemp s d, l.1) := by
  simp only [limitedDies, List.mem_filterMap, List.mem_range, Option.map_eq_some_iff]
  constructor
  · rintro ⟨d, hd, l, hl, rfl⟩
    exact ⟨d, l, hl, hd, rfl⟩
  · rintro ⟨d, l, hl, hd, rfl⟩
    exact ⟨d, hd, l, hl, rfl⟩

/-- R409: a die is hotter than its throttle temperature, or a set cap is exceeded. -/
def TooHot (s : State) : Prop :=
  (∃ d l, dieLimits d = some l ∧ d < 51 ∧ l.1 < dieTemp s d) ∨ (s.pwr.capW ≠ 0 ∧ s.pwr.capW < s.pwr.powerW)

/-- R409: every die is 5 degrees below its throttle temperature, and the power is at most 95 per cent of a set cap. -/
def CoolEnough (s : State) : Prop :=
  (∀ d l, dieLimits d = some l → d < 51 → dieTemp s d ≤ l.1 - 50) ∧ (s.pwr.capW = 0 ∨ 100 * s.pwr.powerW ≤ 95 * s.pwr.capW)

open Classical in
theorem nextLevel_eq (s : State) : nextLevel s =
    if TooHot s then min 15 (s.pwr.level + 1) else if CoolEnough s then s.pwr.level - 1 else s.pwr.level := by
  have hhot : (((limitedDies s).any fun x => decide (x.2 < x.1)) || (s.pwr.capW != 0 && decide (s.pwr.capW < s.pwr.powerW))) = true ↔
      TooHot s := by
    simp only [Bool.or_eq_true, List.any_eq_true, mem_limitedDies, decide_eq_true_eq, Bool.and_eq_true, bne_iff_ne, TooHot]
    refine or_congr_left ⟨?_, ?_⟩
    · rintro ⟨x, ⟨d, l, hl, hd, rfl⟩, hlt⟩
      exact ⟨d, l, hl, hd, hlt⟩
    · rintro ⟨d, l, hl, hd, hlt⟩
      exact ⟨_, ⟨d, l, hl, hd, rfl⟩, hlt⟩
  have hcool : (((limitedDies s).all fun x => decide (x.1 ≤ x.2 - 50)) &&
      (s.pwr.capW == 0 || decide (100 * s.pwr.powerW ≤ 95 * s.pwr.capW))) = true ↔ CoolEnough s := by
    simp only [Bool.and_eq_true, List.all_eq_true, mem_limitedDies, decide_eq_true_eq, Bool.or_eq_true, beq_iff_eq, CoolEnough]
    refine and_congr_left fun _ => ⟨fun h d l hl hd => h _ ⟨d, l, hl, hd, rfl⟩, ?_⟩
    rintro h x ⟨d, l, hl, hd, rfl⟩
    exact h d l hl hd
  rw [← ite_congr (propext hhot) (fun _ => rfl) fun _ => ite_congr (propext hcool) (fun _ => rfl) fun _ => rfl]
  rfl

/-- The state with the readings of an evaluation. -/
def withReadings (s : State) (dies : List Int) (rails : List (Nat × Nat)) (w : Nat) : State :=
  { s with pwr := { s.pwr with dies := Machine.putAll s.pwr.dies 0 dies, rails := Machine.putAll s.pwr.rails 0 rails, powerW := w } }

/-- Settles O13: the trip's rails are listed by `mem_tripped_rails`, and `nextLevel_eq` states R409 as the obligation does. -/
theorem tripAndThermalLoop : Obligations.TripAndThermalLoop := by
  unfold Obligations.TripAndThermalLoop
  refine ⟨fun s d hd => ?trip, fun s dies rails w hhub hdies hrails => ?loop⟩
  case trip =>
    obtain ⟨l, hl⟩ := dieLimits_isSome hd
    have hlt : d < 51 := by omega
    rw [exec_thermalTrip, execThermalTrip, atUnit, if_pos hlt, hl]
    refine ⟨_, rfl, rfl, rfl, fun k hk => ?_, ?_, rfl, rfl, rfl, rfl, rfl, rfl, rfl, rfl⟩
    · exact (mem_tripped_rails _ k).mpr (.inl hk)
    · exact (mem_tripped_rails _ 11).trans ⟨fun h => (h.resolve_left (Nat.lt_irrefl 11)).2, fun h => .inr ⟨rfl, h⟩⟩
  case loop =>
    have hlevel := nextLevel_eq (withReadings s dies rails w)
    refine ⟨{ withReadings s dies rails w with pwr := { (withReadings s dies rails w).pwr with
      level := nextLevel (withReadings s dies rails w) } }, ?_, fun i hi => ?_, ?_, ?_, ?_⟩
    · rw [exec_thermalLoopEval, execThermalLoopEval, if_pos ⟨hdies, hrails⟩]
      simp only [hhub, if_true]
      rfl
    · have hread : tget 250 (Machine.putAll s.pwr.dies 0 dies) i = dies[i] := by
        rw [tget_eq_tfind, tfind_putAll dies _ hi (Nat.zero_add i).symm, Option.getD_some]
      exact hread
    · exact fun hhot => hlevel.trans (if_pos hhot)
    · exact fun hhot hcool => hlevel.trans ((if_neg hhot).trans (if_pos hcool))
    · exact fun hhot hcool => hlevel.trans ((if_neg hhot).trans (if_neg hcool))

end Sys2Proof.Proofs

namespace Sys2Proof.Proofs

open Sys2Proof Sys2Proof.Machine Sys2Proof.Laws Sys2Proof.Safety

/-! Power and firmware commands -/

theorem length_awakeMap (s : State) : (awakeMap s).length = 48 := by
  rw [awakeMap, length_flatMap_of fun _ => beBytes_length 4 _]
  rfl

theorem beAt_single (n : Nat) : beAt [BitVec.ofNat 8 n] 0 1 = n % 256 := by
  simp [beAt, bytesAt, beNat]

theorem slotAt_setSlot (s : State) (k i : Nat) (hi : i < 2) (x : FwSlot) :
    slotAt (setSlot s k x) i = if i = k then x else slotAt s i := by
  obtain rfl | rfl : i = 0 ∨ i = 1 := by omega
  all_goals simp [slotAt, setSlot, List.range_succ]

/-- Settles O14. -/
theorem powerCommandsComplete : Obligations.PowerCommandsComplete := by
  unfold Obligations.PowerCommandsComplete
  refine ⟨fun s c hhub hbody => ?ident, fun s c hown hbody => ?status, fun s c w hown hbody hw => ?cap,
    fun s c force hown hbody hforce hidle => ?reset, fun s c data hown hlock himg hfit hactive hslots => ?stage,
    fun s c hown hbody hlock hfactory => ?activate, fun s c hown hbody => ?fwStatus, fun s => ?perst⟩
  case ident =>
    rw [exec_ident, execIdent, needLen_nil hbody]
    exact ⟨_, runCmd_of_ok hhub⟩
  case status =>
    obtain ⟨hhub, hauth⟩ := hown
    rw [exec_powerStatus, execPowerStatus, needOwner_of hauth, needLen_nil hbody]
    refine ⟨_, runCmd_of_ok hhub, ?_⟩
    simp only [List.length_append, beBytes_length, length_awakeMap]
    rw [length_flatMap_of (n := 4) (fun _ => by simp), length_flatMap_of fun _ => beBytes_length 2 _, List.length_range, List.length_range]
  case cap =>
    obtain ⟨hhub, hauth⟩ := hown
    have hread : beAt c.body 0 2 = w := by rw [hbody, beAt_beBytes, Nat.mod_eq_of_lt (by omega)]
    have hlegal : (w == 0 || (decide (1000 ≤ w) && decide (w ≤ 2400))) = true := by simpa using hw
    simp only [exec_powerCap, execPowerCap, needOwner_of hauth, needLen_of (hbody ▸ beBytes_length 2 w), hread, need_of hlegal, ok_bind_eq]
    exact runCmd_of_ok hhub
  case reset =>
    obtain ⟨hhub, hauth⟩ := hown
    have hread : beAt c.body 0 1 = force := by rw [hbody, beAt_single, Nat.mod_eq_of_lt (by omega)]
    have hidle : (force == 1 || s.haw.pstate == .none) = true := by simpa using hidle
    simp only [exec_moduleReset, execModuleReset, needOwner_of hauth, needLen_of (hbody ▸ rfl : c.body.length = 1), hread, need_of (decide_eq_true hforce),
      need_of hidle, ok_bind_eq]
    exact runCmd_of_ok hhub
  case stage =>
    obtain ⟨hhub, hauth⟩ := hown
    have hunlocked : (!flag s .FW_LOCK) = true := by simp [hlock]
    simp only [exec_fwStage, execFwStage, needOwner_of hauth, need_of hunlocked, himg, atStep_ok, need_of (decide_eq_true hfit), ok_bind_eq]
    refine ⟨setSlot s (1 - s.pwr.active) _, runCmd_of_ok hhub, ?_, ?_, ?_⟩
    · rw [slotAt_setSlot _ _ _ hactive, if_neg (by omega)]
    · rw [slotAt_setSlot _ _ _ (by omega), if_pos rfl]
    · rw [slotAt_setSlot _ _ _ (by omega), if_pos rfl]
  case activate =>
    obtain ⟨hhub, hauth⟩ := hown
    have hunlocked : (!flag s .FW_LOCK) = true := by simp [hlock]
    simp only [exec_fwActivate, execFwActivate, needOwner_of hauth, needLen_nil hbody, need_of hunlocked, hfactory, ok_bind_eq, if_true]
    exact runCmd_of_ok hhub
  case fwStatus =>
    obtain ⟨hhub, hauth⟩ := hown
    rw [exec_fwStatus, execFwStatus, needOwner_of hauth, needLen_nil hbody]
    exact runCmd_of_ok hhub
  case perst => exact ⟨_, rfl, rfl, rfl, rfl, rfl, rfl, rfl, rfl, rfl⟩

end Sys2Proof.Proofs

/-!
Sequence numbers, the reply cache and the answers of commands (R353, R357, R358).
-/
namespace Sys2Proof.Proofs

open Sys2Proof Sys2Proof.Machine Sys2Proof.Laws Sys2Proof.Safety

/-! Sequence numbers -/

@[simp] theorem diff32_self (n : Nat) : diff32 n n = 0 := by
  rw [diff32, Int.sub_self]
  rfl

theorem seqJudge_of_unstarted {q : SeqState} (h : q.started = false) (n : Nat) : seqJudge q n = .fresh := by
  rw [seqJudge, h]
  rfl

theorem seqJudge_of_above {q : SeqState} {n : Nat} (h : 0 < diff32 n q.h) : seqJudge q n = .fresh := by
  unfold seqJudge
  split
  · rfl
  · rw [if_pos h]

theorem seqJudge_of_far_below {q : SeqState} {n : Nat} (hs : q.started = true) (h : diff32 n q.h < -63) : seqJudge q n = .stale := by
  simp [seqJudge, hs, h, Int.not_lt.mpr (by omega : diff32 n q.h ≤ 0)]

theorem seqJudge_of_within {q : SeqState} {n : Nat} (hs : q.started = true) (hlow : -63 ≤ diff32 n q.h) (hhigh : diff32 n q.h ≤ 0) :
    seqJudge q n = if q.seen.contains n then .repeated else .fresh := by
  simp [seqJudge, hs, Int.not_lt.mpr hlow, Int.not_lt.mpr hhigh]

@[simp] theorem seqAccept_started (q : SeqState) (n : Nat) : (seqAccept q n).started = true := rfl

theorem seqAccept_h_of_new {q : SeqState} {n : Nat} (h : q.started = false ∨ 0 < diff32 n q.h) : (seqAccept q n).h = n :=
  if_pos (by simpa using h)

theorem seqAccept_h_of_within {q : SeqState} {n : Nat} (hs : q.started = true) (h : diff32 n q.h ≤ 0) : (seqAccept q n).h = q.h :=
  if_neg (by simp [hs, h])

theorem mem_seen_seqAccept {q : SeqState} {n : Nat} (h : -63 ≤ diff32 n (seqAccept q n).h) : n ∈ (seqAccept q n).seen :=
  List.mem_filter.mpr ⟨by simp, decide_eq_true h⟩

/-- A number just accepted lies in the window of its key. -/
theorem window_seqAccept_of_fresh {q : SeqState} {n : Nat} (h : seqJudge q n = .fresh) :
    -63 ≤ diff32 n (seqAccept q n).h ∧ diff32 n (seqAccept q n).h ≤ 0 := by
  by_cases hnew : q.started = false ∨ 0 < diff32 n q.h
  · simp [seqAccept_h_of_new hnew]
  · have hs : q.started = true := by simpa using not_or.mp hnew |>.1
    have hle : diff32 n q.h ≤ 0 := Int.not_lt.mp (not_or.mp hnew).2
    rw [seqAccept_h_of_within hs hle]
    refine ⟨?_, hle⟩
    refine Int.not_lt.mp fun hfar => ?_
    rw [seqJudge_of_far_below hs hfar] at h
    exact SeqJudge.noConfusion h

/-- Settles O20. -/
theorem sequenceWindow : Obligations.SequenceWindow := by
  unfold Obligations.SequenceWindow
  refine ⟨fun q n hs => ⟨seqJudge_of_unstarted hs n, seqAccept_h_of_new (.inl hs), rfl⟩,
    fun q n _ habove => ⟨seqJudge_of_above habove, seqAccept_h_of_new (.inr habove)⟩,
    fun q n hs hfar => seqJudge_of_far_below hs hfar,
    fun q n hs hlow hhigh => ⟨seqAccept_h_of_within hs hhigh, ?within⟩, fun q n _ hfresh => ?accepted⟩
  case within =>
    rw [seqJudge_of_within hs hlow hhigh]
    by_cases hseen : n ∈ q.seen <;> simp [hseen]
  case accepted =>
    obtain ⟨hlow, hhigh⟩ := window_seqAccept_of_fresh hfresh
    rw [seqJudge_of_within (seqAccept_started q n) hlow hhigh, if_pos (List.contains_iff_mem.mpr (mem_seen_seqAccept hlow))]

/-! The reply cache -/

/-- A cached reply: was it cut, its opcode, its first 248 bytes. -/
def cachedReply (op : Nat) (body : List Byte) : List Byte :=
  beBytes 1 (b2n (decide (248 < body.length))) ++ beBytes 2 op ++ body.take 248

theorem cacheReply_of_unseen {s : State} {cls seq : Nat} {q : SeqState} (op : Nat) (body : List Byte) (hq : tfind s.ncp.seqs cls = some q)
    (hseen : q.seen.contains seq = false) (hlen : q.cache.length ≤ 64) :
    cacheReply s cls seq op body = { s with ncp := { s.ncp with seqs := tins s.ncp.seqs cls q } } := by
  simp only [cacheReply, hq, hseen, Bool.false_eq_true, if_false, Nat.sub_eq_zero_of_le hlen, List.drop_zero]

/-- The last 64 replies, of a cache that one more joins. -/
def cacheWith (q : SeqState) (seq : Nat) (entry : List Byte) : List (Nat × List Byte) :=
  let cache := (q.cache.filter fun e => e.1 != seq) ++ [(seq, entry)]
  cache.drop (cache.length - 64)

theorem cacheReply_of_seen {s : State} {cls seq : Nat} {q : SeqState} (op : Nat) (body : List Byte) (hq : tfind s.ncp.seqs cls = some q)
    (hseen : q.seen.contains seq = true) : cacheReply s cls seq op body =
      { s with ncp := { s.ncp with seqs := tins s.ncp.seqs cls { q with cache := cacheWith q seq (cachedReply op body) } } } := by
  simp only [cacheReply, hq, hseen, if_true]
  rfl

theorem length_cacheWith (q : SeqState) (seq : Nat) (entry : List Byte) : (cacheWith q seq entry).length ≤ 64 := by
  simp only [cacheWith, List.length_drop]
  omega

theorem getLast?_cacheWith (q : SeqState) (seq : Nat) (entry : List Byte) : (cacheWith q seq entry).getLast? = some (seq, entry) := by
  rw [cacheWith, List.getLast?_drop, if_neg (by simp only [List.length_append, List.length_singleton]; omega), List.getLast?_concat]

theorem mem_of_mem_cacheWith {q : SeqState} {seq : Nat} {entry : List Byte} {e : Nat × List Byte} (h : e ∈ cacheWith q seq entry)
    (hne : e.1 ≠ seq) : e ∈ q.cache := by
  rcases List.mem_append.mp (List.mem_of_mem_drop h) with hold | hnew
  · exact (List.mem_filter.mp hold).1
  · exact absurd (congrArg Prod.fst (List.mem_singleton.mp hnew)) hne

theorem mem_cacheWith_of_room {q : SeqState} {seq : Nat} {entry : List Byte} {e : Nat × List Byte} (hroom : q.cache.length < 64)
    (h : e ∈ q.cache) (hne : e.1 ≠ seq) : e ∈ cacheWith q seq entry := by
  have hle := List.length_filter_le (fun e => e.1 != seq) q.cache
  have hall : (q.cache.filter fun e => e.1 != seq).length + 1 - 64 = 0 := by omega
  simp [cacheWith, hall, h, hne]

/-- Settles O21. -/
theorem replyCache : Obligations.ReplyCache := by
  unfold Obligations.ReplyCache
  refine ⟨fun s cls seq op body q hq hseen hlen => cacheReply_of_unseen op body hq hseen hlen,
    fun s cls seq op body q hq hseen => ⟨{ q with cache := cacheWith q seq (cachedReply op body) }, cacheReply_of_seen op body hq hseen,
      rfl, rfl, rfl, length_cacheWith q seq _, getLast?_cacheWith q seq _, fun e he hne => mem_of_mem_cacheWith he hne,
      fun hroom e he hne => mem_cacheWith_of_room hroom he hne⟩⟩

/-! The answers -/

/-- The command is answered at once, from its checks. -/
def AnsweredAtOnce (k : Ncp → Instr) : Prop := ∀ (s : State) (c : Ncp), ∃ op r, exec (k c) s = runCmd s c op r

theorem answeredAtOnce_of_mem : ∀ k ∈ answeredCmds, AnsweredAtOnce k := by
  simp only [answeredCmds, List.forall_mem_cons]
  and_intros
  iterate 61 exact fun _ _ => ⟨_, _, rfl⟩
  exact fun _ h => absurd h List.not_mem_nil

/-- The counts and the two tables that an answer may change, and no more of Heath's. -/
def AnsweredNcp (g h : NcpState) : Prop := h = { g with mbx := h.mbx, seqs := h.seqs }

theorem AnsweredNcp.trans {f g h : NcpState} (hfg : AnsweredNcp f g) (hgh : AnsweredNcp g h) : AnsweredNcp f h := by
  unfold AnsweredNcp at *
  rw [hgh, hfg]

theorem answeredNcp_cacheReply (s : State) (cls seq op : Nat) (body : List Byte) : AnsweredNcp s.ncp (cacheReply s cls seq op body).ncp := by
  unfold cacheReply
  split <;> rfl

theorem answeredNcp_mbxPump (s : State) (k : Nat) : AnsweredNcp s.ncp (mbxPump s k).ncp := by
  unfold mbxPump
  dsimp only
  split
  · rfl
  · split <;> rfl

theorem ncp_emits (via : Transport) (msgs : List (List Byte)) :
    ∀ s : State, (msgs.foldl (fun t m => emit t (.reply via m)) s).ncp = s.ncp := by
  induction msgs with
  | nil => exact fun _ => rfl
  | cons m l ih => exact fun s => (ih _).trans rfl

theorem answeredNcp_deliver (s : State) {via : Transport} (h : ∀ p src, via ≠ .inband p src) (msgs : List (List Byte)) :
    AnsweredNcp s.ncp (deliver s via msgs).ncp := by
  cases via with
  | udp mg ip port => exact ncp_emits _ msgs s ▸ rfl
  | mailbox k =>
    rw [deliver]
    split
    · rfl
    · exact AnsweredNcp.trans (g := { s.ncp with mbx := _ }) rfl (answeredNcp_mbxPump _ k)
  | inband p src => exact absurd rfl (h p src)

/-- Heath's counts after an answer. -/
def countedNcp (g : NcpState) (c : Ncp) (op : Nat) (code : Code) : NcpState :=
  { g with
    cmds := (g.cmds + 1) % 2 ^ 32
    rejects := if isSuccess code then g.rejects else (g.rejects + 1) % 2 ^ 32
    last := tins g.last (classOf c.auth) (codeNum code, op)
    running := g.running.filter fun r => !(r.cls == classOf c.auth && r.opcode == op && r.seq == c.seq && r.via == c.via) }

theorem answeredNcp_finish (s : State) (c : Ncp) (op : Nat) (code : Code) (step index : Nat) (res : List Byte)
    (h : ∀ p src, c.via ≠ .inband p src) : AnsweredNcp (countedNcp s.ncp c op code) (finish s c op code step index res).ncp := by
  rw [finish]
  refine AnsweredNcp.trans ?_ (answeredNcp_deliver _ h _)
  split
  · rfl
  · exact answeredNcp_cacheReply _ _ _ _ _

/-! Events that only tell -/

/-- Only the telemetry and the sent items may differ. -/
def Told (s t : State) : Prop := t = { s with st := t.st, out := t.out }

theorem Told.refl (s : State) : Told s s := rfl

theorem Told.trans {s t u : State} (h : Told s t) (g : Told t u) : Told s u := by
  unfold Told at *
  rw [g, h]

theorem told_foldl {α : Type} {f : State → α → State} (h : ∀ t x, Told t (f t x)) : ∀ (l : List α) (s : State), Told s (l.foldl f s)
  | [], s => Told.refl s
  | a :: l, s => (h s a).trans (told_foldl h l (f s a))

theorem told_traceStage (s : State) (r : List Byte) : Told s (traceStage s r) := by
  unfold traceStage
  split
  · rfl
  · dsimp only
    split <;> rfl

theorem told_record (s : State) (e : Ev) (scope : Nat) (r : Rec) : Told s (record s e scope r) := by
  unfold record
  split
  · rfl
  · have hring : ∀ x, Told s (if flag s .FREEZE then s else ringPush s (ringOf e scope) x) := by
      intro x
      split <;> rfl
    dsimp only
    split
    · exact hring _
    · split
      · exact (hring _).trans (told_traceStage _ _)
      · exact hring _

theorem told_bump (s : State) (e : Ev) (scope n : Nat) (r : Rec) : Told s (bump s e scope n r) :=
  Told.trans (t := ctrAdd s (sourceOf e scope) n) rfl (told_record _ e scope r)

theorem told_sendAlert (s : State) (kind source value arg : Nat) : Told s (sendAlert s kind source value arg) := by
  unfold sendAlert
  dsimp only
  split
  · split <;> rfl
  · exact Told.trans (t := { s with st := _ }) rfl (told_bump _ .alertDrop 0 1 {})

theorem told_checkThreshold (s : State) (src arg : Nat) : Told s (checkThreshold s src arg) := by
  unfold checkThreshold
  split
  · split
    · refine Told.trans ?_ (told_sendAlert _ _ _ _ _)
      exact Told.trans (t := { s with st := _ }) rfl (told_bump _ .ctrThresh 0 1 _)
    · rfl
  · rfl

/-- An event that is no alarm and no evidence changes the telemetry and what is sent: nothing else. -/
theorem told_raise (s : State) {e : Ev} (halarm : e.alarm = false) (hev : evidenceClass e = none) (scope : Nat) (r : Rec) :
    Told s (raise s e scope r) := by
  rw [raise, raiseN, if_neg Nat.one_ne_zero]
  simp only [halarm, Bool.false_eq_true, if_false, hev]
  exact ((told_bump s e scope 1 r).trans (told_checkThreshold _ _ _)).trans (told_foldl (fun t q => told_checkThreshold t q 0) _ _)

theorem told_badAddr (s : State) (a : Nat) : Told s (badAddr s a) := told_raise s rfl rfl 0 _

/-- The requester's record of a rejection. -/
def rejectionRecord (g : RegFile) (r a : Nat) (code : Code) : RegFile :=
  { g with
    wstat := tset 0 g.wstat r (codeNum code)
    rejects := tset 0 g.rejects r (satAdd 16 (tget 0 g.rejects r) 1)
    waddr := tset 0 g.waddr r a }

theorem told_noteWrite_of_rejected (s : State) (r a : Nat) {code : Code} (h : isSuccess code = false) :
    Told { s with regs := rejectionRecord s.regs r a code } (noteWrite s r a code) := by
  rw [noteWrite, h, if_neg Bool.false_ne_true]
  refine Told.trans ?_ (told_raise _ rfl rfl 0 _)
  split
  · exact Told.trans (t := { s with regs := rejectionRecord s.regs r a code }) rfl (told_badAddr _ a)
  · rfl

theorem exec_registerWrite_eq (s : State) {r : Nat} (hr : r < 4) (a : Nat) (v : Word) :
    exec (.registerWrite r a v true) s = .next (busWrite s r a v.toNat) := by
  simp [exec_registerWrite, execRegisterWrite, atUnit, hr]

theorem busWrite_of_ok {s t : State} {r a v : Nat} (hopen : reqOpen s r = true) (h : regWrite s r a v = .ok t) :
    busWrite s r a v = noteWrite t r a .done := by
  simp [busWrite, hopen, h]

theorem busWrite_of_error {s : State} {r a v : Nat} {code : Code} (hopen : reqOpen s r = true) (h : regWrite s r a v = .error code) :
    busWrite s r a v = noteWrite s r a code := by
  simp [busWrite, hopen, h]

/-- Settles O22: every one of the commands is `runCmd` of its checks, and an answer or a rejected write is told and no more. -/
theorem rejectionKeepsState : Obligations.RejectionKeepsState := by
  unfold Obligations.RejectionKeepsState
  refine ⟨fun k hk s c hhub => ?answered, fun s c op code step index res hvia => ?finish,
    fun s r a v code hr hopen hbad hwrite => ?write⟩
  case answered =>
    obtain ⟨op, checks, hrun⟩ := answeredAtOnce_of_mem k hk s c
    refine ⟨op, ?_⟩
    rw [hrun]
    cases checks with
    | error b => exact .inl ⟨b, by rw [runCmd, hhub]; rfl⟩
    | ok p => exact .inr ⟨p.1, p.2, runCmd_of_ok hhub⟩
  case finish =>
    have hstate := answered_finish s c op code step index res hvia
    have hncp := answeredNcp_finish s c op code step index res hvia
    generalize finish s c op code step index res = t at hstate hncp
    refine ⟨t, rfl, ?_⟩
    rw [hstate, hncp]
    and_intros <;> rfl
  case write =>
    have htold := told_noteWrite_of_rejected s r a hbad
    rw [exec_registerWrite_eq s hr, busWrite_of_error hopen hwrite]
    generalize noteWrite s r a code = t at htold
    refine ⟨t, rfl, ?_⟩
    rw [htold]
    and_intros <;> rfl

end Sys2Proof.Proofs

/-!
The register commands: the lists of REG_READ and REG_WRITE.
-/
namespace Sys2Proof.Proofs

open Sys2Proof Sys2Proof.Machine Sys2Proof.Laws Sys2Proof.Safety

/-! Lists of records in a message -/

/-- A list of records of one length, read back one by one. -/
theorem map_bytesAt_flatMap {α : Type} {f : α → List Byte} {w : Nat} :
    ∀ {l : List α}, (∀ a ∈ l, (f a).length = w) → ∀ pre : List Byte,
      (List.range l.length).map (fun i => bytesAt (pre ++ l.flatMap f) (pre.length + w * i) w) = l.map f
  | [], _, _ => rfl
  | a :: l, hw, pre => by
    have ha : (f a).length = w := hw a List.mem_cons_self
    have hhead : bytesAt (pre ++ (a :: l).flatMap f) (pre.length + w * 0) w = f a := by
      rw [Nat.mul_zero, Nat.add_zero, bytesAt_append_right Nat.le.refl, Nat.sub_self, List.flatMap_cons, bytesAt_append_left ha]
    have htail := map_bytesAt_flatMap (fun b hb => hw b (List.mem_cons_of_mem a hb)) (pre ++ f a)
    rw [List.length_append, ha, List.append_assoc, ← List.flatMap_cons] at htail
    rw [List.length_cons, List.range_succ_eq_map, List.map_cons, List.map_map, hhead, List.map_cons, ← htail]
    refine congrArg (f a :: ·) (List.map_congr_left fun i _ => ?_)
    rw [Function.comp_apply, Nat.mul_succ, Nat.add_comm (w * i), Nat.add_assoc]

theorem beNat_beBytes_of_lt {n v : Nat} (h : v < 256 ^ n) : beNat (beBytes n v) = v := by
  rw [beNat_beBytes, Nat.mod_eq_of_lt h]

theorem beAt_pair_fst {a : Nat} (ha : a < 2 ^ 32) (v : Nat) : beAt (beBytes 4 a ++ beBytes 4 v) 0 4 = a := by
  rw [beAt_beBytes_append, Nat.mod_eq_of_lt (by omega)]

theorem beAt_pair_snd (a : Nat) {v : Nat} (hv : v < 2 ^ 32) : beAt (beBytes 4 a ++ beBytes 4 v) 4 4 = v := by
  rw [beAt_append_right (by simp), beBytes_length, Nat.sub_self, beAt_beBytes, Nat.mod_eq_of_lt (by omega)]

/-- The entries of a list command are its records. -/
theorem regList_of {α : Type} {c : Ncp} {f : α → List Byte} {w : Nat} {l : List α} (hauth : c.auth = .owner) (hw : ∀ a, (f a).length = w)
    (hbody : c.body = beBytes 2 l.length ++ l.flatMap f) (hmin : 1 ≤ l.length) (hmax : l.length ≤ 1024) :
    regList c w = .ok (l.map f) := by
  have hlen : c.body.length = 2 + w * l.length := by
    rw [hbody, List.length_append, beBytes_length, length_flatMap_of hw, Nat.mul_comm]
  have hn : beAt c.body 0 2 = l.length := by rw [hbody, beAt_beBytes_append, Nat.mod_eq_of_lt (by omega)]
  have htwo : decide (2 ≤ c.body.length) = true := decide_eq_true (by omega)
  have hcount : (decide (1 ≤ l.length) && decide (l.length ≤ 1024) && c.body.length == 2 + w * l.length) = true := by
    simp [hmin, hmax, hlen]
  simp only [regList, needOwner_of hauth, need_of htwo, hn, need_of hcount, ok_bind_eq, pure_eq_ok]
  rw [← map_bytesAt_flatMap (fun a _ => hw a) (beBytes 2 l.length), ← hbody, beBytes_length]

theorem findIdx_eq_none {α : Type} {p : α → Bool} : ∀ {l : List α}, (∀ a ∈ l, p a = false) → ∀ i, findIdx p i l = none
  | [], _, _ => rfl
  | a :: l, h, i => by
    rw [findIdx, h a List.mem_cons_self, if_neg Bool.false_ne_true]
    exact findIdx_eq_none (fun b hb => h b (List.mem_cons_of_mem a hb)) (i + 1)

theorem map_map_of_inverse {α β : Type} {f : α → β} {g : β → α} {l : List α} (h : ∀ a ∈ l, g (f a) = a) : (l.map f).map g = l := by
  rw [List.map_map]
  exact (List.map_congr_left (g := id) h).trans l.map_id

theorem map_beNat_beBytes {l : List Nat} (h : ∀ a ∈ l, a < 2 ^ 32) : (l.map (beBytes 4)).map beNat = l := by
  refine map_map_of_inverse fun a ha => beNat_beBytes_of_lt ?_
  have hlt := h a ha
  omega

/-- The pairs that a REG_WRITE entry carries. -/
def pairOf (e : List Byte) : Nat × Nat := (beAt e 0 4, beAt e 4 4)

theorem pairOf_append {p : Nat × Nat} (h : p.1 < 2 ^ 32 ∧ p.2 < 2 ^ 32) : pairOf (beBytes 4 p.1 ++ beBytes 4 p.2) = p := by
  rw [pairOf, beAt_pair_fst h.1, beAt_pair_snd _ h.2]

theorem map_pairOf {l : List (Nat × Nat)} (h : ∀ p ∈ l, p.1 < 2 ^ 32 ∧ p.2 < 2 ^ 32) :
    (l.map fun p => beBytes 4 p.1 ++ beBytes 4 p.2).map pairOf = l :=
  map_map_of_inverse fun p hp => pairOf_append (h p hp)

@[simp] theorem noteWrite_pwr (s : State) (r a : Nat) (code : Code) : (noteWrite s r a code).pwr = s.pwr := by
  by_cases h : isSuccess code
  · rw [noteWrite, if_pos h]
  · rw [told_noteWrite_of_rejected s r a (Bool.eq_false_iff.mpr h)]

/-- Settles O15: the entries of the list are its records (`regList_of`), read back as addresses or pairs. -/
theorem registerCommandsComplete : Obligations.RegisterCommandsComplete := by
  unfold Obligations.RegisterCommandsComplete
  refine ⟨fun s c addrs hown hbody hmin hmax haddrs => ?read, fun s t c pairs hown hbody hmin hmax hpairs hwrite => ?write,
    fun s c pairs i a code hown hbody hmin hmax hpairs hwrite => ?reject⟩
  case read =>
    obtain ⟨hhub, hauth⟩ := hown
    have hocc : findIdx (fun a => (regOf a).isNone) 0 addrs = none :=
      findIdx_eq_none (fun a ha => by simpa using (haddrs a ha).2) 0
    simp only [exec_regRead, execRegRead, regList_of hauth (beBytes_length 4) hbody hmin hmax,
      map_beNat_beBytes fun a ha => (haddrs a ha).1, hocc]
    exact runCmd_of_ok hhub
  case write =>
    obtain ⟨hhub, hauth⟩ := hown
    have hlist := regList_of (w := 8) hauth (fun _ => by simp) hbody hmin hmax
    have hmap := map_pairOf hpairs
    unfold pairOf at hmap
    simp only [exec_regWrite, execRegWrite, hlist, hmap, hwrite]
    exact runCmd_of_ok hhub
  case reject =>
    obtain ⟨hhub, hauth⟩ := hown
    have hlist := regList_of (w := 8) hauth (fun _ => by simp) hbody hmin hmax
    have hmap := map_pairOf hpairs
    unfold pairOf at hmap
    simp only [exec_regWrite, execRegWrite, hlist, hmap, hwrite, hhub, if_true]
    exact runCmd_of_error ((congrArg Power.hubUp (noteWrite_pwr s 1 a code)).trans hhub) code 0 i

end Sys2Proof.Proofs

/-!
Commits of shadow copies (R377 to R379), and upsets, votes and the scrub of register words (R371).
-/
namespace Sys2Proof.Proofs

open Sys2Proof Sys2Proof.Machine Sys2Proof.Laws Sys2Proof.Safety

/-! Tables -/

theorem tfind_tadj_self {α : Type} (f : α → α) (k : Nat) : ∀ t : Table α, tfind (tadj t k f) k = (tfind t k).map f
  | [] => rfl
  | (j, v) :: t => by
    by_cases h : j = k
    · simp [tadj, tfind, h]
    · simp [tadj, tfind, h, tfind_tadj_self f k t]

theorem tfind_tadj_other {α : Type} (f : α → α) {j k : Nat} (h : j ≠ k) : ∀ t : Table α, tfind (tadj t k f) j = tfind t j
  | [] => rfl
  | (i, v) :: t => by
    by_cases hi : i = k
    · simp [tadj, tfind, hi, h.symm]
    · simp [tadj, tfind, hi, tfind_tadj_other f h t]

theorem tget_tset_of_ne {α : Type} [DecidableEq α] {d v : α} (h : v ≠ d) (t : Table α) (k : Nat) : tget d (tset d t k v) k = v := by
  rw [tset, if_neg h, tget_eq_tfind, tfind_tins_self]
  rfl

/-! Commits -/

theorem namedInstances_one {blk inst : Nat} (h : inst ≠ 0xFE) : namedInstances blk inst = [inst] := by
  simp [namedInstances, h]

theorem exec_shadowCommitApply_of_only {s : State} {p : PendCommit} (hpend : s.regs.pend = [p]) (hdue : reached s p.at_ = true) :
    exec (.shadowCommitApply p.blk p.inst) s = .next (applyPend s p) := by
  simp [exec_shadowCommitApply, execShadowCommitApply, hpend, hdue]

/-- Settles O17. -/
theorem commitsComplete : Obligations.CommitsComplete := by
  unfold Obligations.CommitsComplete
  refine ⟨fun s u c blk inst t hhub hhead ht hstep hearly hlate hall hdirty => ?timed,
    fun s u c blk inst hhub hhead hall hdirty => ?now, fun s c blk inst hhub hhead hone => ?discard,
    fun s u p hpend hdue hall => ?due,
    fun s c p q k hown hbody hp hq hne hcabp hcabq hlanes hmode hdim hlistp hlistq hfencep hfenceq hfree hnear => ?accept⟩
  case timed =>
    subst ht
    have hnotPast : (!decide (diff32 (beAt c.body 4 4) (now32 s) < 10000)) = true := by simpa using hearly
    have hnotFar : (!decide (2000000000 < diff32 (beAt c.body 4 4) (now32 s))) = true := by simpa using hlate
    simp only [exec_regCommitAtT, execRegCommitAtT, hhead, ok_bind_eq, need_of hstep, need_of hnotPast, need_of hnotFar, hall, atStep_ok,
      hdirty, if_true, pure_eq_ok]
    exact runCmd_of_ok hhub
  case now =>
    simp only [exec_regCommitNow, execRegCommitNow, hhead, ok_bind_eq, hall, atStep_ok, hdirty, if_true, pure_eq_ok]
    exact runCmd_of_ok hhub
  case discard =>
    simp only [exec_regCommitDiscard, execRegCommitDiscard, hhead, ok_bind_eq, namedInstances_one hone, List.foldl_cons, List.foldl_nil,
      pure_eq_ok]
    exact runCmd_of_ok hhub
  case due =>
    rw [exec_shadowCommitApply_of_only hpend hdue, applyPend, hall]
  case accept =>
    obtain ⟨hhub, hauth⟩ := hown
    have hlen : c.body.length = 4 := by simp [hbody]
    have hp' : beAt c.body 0 2 = p := by rw [hbody, beAt_beBytes_append, Nat.mod_eq_of_lt (by omega)]
    have hq' : beAt c.body 2 2 = q := by
      rw [hbody, beAt_append_right (by simp), beBytes_length, Nat.sub_self, beAt_beBytes, Nat.mod_eq_of_lt (by omega)]
    have hports : (decide (p < nPorts) && decide (q < nPorts) && p != q) = true := by simp [nPorts, hp, hq, hne]
    have hlegal : (cabOf s p == .swap && cabOf s q == .swap && portLanes s p == portLanes s q && portMode s p == portMode s q &&
        dimCode s p == dimCode s q && !listNames s p && !listNames s q && !portFenced s p && !portFenced s q) = true := by
      simp [hcabp, hcabq, hlanes, hmode, hdim, hlistp, hlistq, hfencep, hfenceq]
    have hfar : (!commitNear s 0x00 0) = true := by simp [hnear]
    simp only [exec_cablingAccept, execCablingAccept, needOwner_of hauth, needLen_of hlen, hp', hq', need_of hports, need_of hlegal, hfree,
      need_of hfar, ok_bind_eq]
    cases commitInst (regKeepShadow s 0x00 0 (0x800 + 4 * k) 0 (2 ^ 31 + p * 65536 + q)) 0x00 0 [p, q] with
    | ok u => exact runCmd_of_ok hhub
    | error e => exact runCmd_of_error hhub e 0 noIndex

/-! Upsets -/

theorem worse_ne_zero (old : Nat) (unc : Bool) : worse old unc ≠ 0 := by
  cases unc <;> simp [worse]

theorem bit_ne_zero {b : Nat} (h : b < 32) : BitVec.ofNat 32 (2 ^ b) ≠ 0#32 := by
  intro he
  have hnat : 2 ^ b % 2 ^ 32 = 0 := by simpa using congrArg BitVec.toNat he
  rw [Nat.mod_eq_of_lt (Nat.pow_lt_pow_right (by decide) h)] at hnat
  exact absurd hnat (Nat.pos_iff_ne_zero.mp (Nat.two_pow_pos b))

/-- The copies of a word after a flip in one of them. -/
def flipped (copy : Nat) (m : BitVec 32) : BitVec 32 × BitVec 32 × BitVec 32 :=
  if copy == 0 then (m, 0#32, 0#32) else if copy == 1 then (0#32, m, 0#32) else (0#32, 0#32, m)

theorem majority3_flipped (copy : Nat) (m : BitVec 32) :
    majority3 (flipped copy m).1 (flipped copy m).2.1 (flipped copy m).2.2 = 0#32 := by
  unfold flipped
  split
  · simp [majority3]
  · split <;> simp [majority3]

theorem flipped_differs (copy : Nat) {m : BitVec 32} (h : m ≠ 0#32) :
    ((flipped copy m).1 == (flipped copy m).2.1 && (flipped copy m).2.1 == (flipped copy m).2.2) = false := by
  unfold flipped
  split
  · simpa using h
  · split
    · simpa using fun _ => h
    · simpa using h.symm

/-- The state with a word marked as upset in one copy. -/
def withUpset (s : State) (key : Nat) (e : BitVec 32 × BitVec 32 × BitVec 32) : State :=
  { s with regs := { s.regs with upset := tins s.regs.upset key e } }

theorem upsetRegister_of_clean {s : State} {a idx : Nat} (copy bit : Nat)
    (hclean : tfind s.regs.upset (regKey (regAddr a).blk (regAddr a).inst (regAddr a).off idx) = none) :
    upsetRegister s a idx copy bit = s ∨ upsetRegister s a idx copy bit =
      withUpset s (regKey (regAddr a).blk (regAddr a).inst (regAddr a).off idx) (flipped copy (BitVec.ofNat 32 (2 ^ bit))) := by
  unfold upsetRegister
  split
  · exact .inl rfl
  · split
    · next hcond =>
      have hflip : (if (copy == 0) = true then (0 ^^^ BitVec.ofNat 32 (2 ^ bit), 0, 0)
          else if (copy == 1) = true then (0, 0 ^^^ BitVec.ofNat 32 (2 ^ bit), 0) else (0, 0, 0 ^^^ BitVec.ofNat 32 (2 ^ bit))) =
          flipped copy (BitVec.ofNat 32 (2 ^ bit)) := by simp [flipped]
      simp only [hclean, Option.getD_none, hflip, flipped_differs copy (bit_ne_zero hcond.1), Bool.false_eq_true, if_false]
      exact .inr rfl
    · exact .inl rfl

/-- An upset whose majority is the word itself changes no value that is read. -/
theorem regActive_withUpset {s : State} {key : Nat} {e : BitVec 32 × BitVec 32 × BitVec 32} (hclean : tfind s.regs.upset key = none)
    (hmaj : majority3 e.1 e.2.1 e.2.2 = 0#32) (blk inst off k : Nat) :
    regActive (withUpset s key e) blk inst off k = regActive s blk inst off k := by
  have hkept : regKept (withUpset s key e) blk inst off k = regKept s blk inst off k := rfl
  have hupset : (withUpset s key e).regs.upset = tins s.regs.upset key e := rfl
  by_cases hk : regKey blk inst off k = key
  · simp only [regActive, hkept, hupset, hk, tfind_tins_self, hclean, hmaj, BitVec.xor_zero]
  · simp only [regActive, hkept, hupset, tfind_tins_other _ _ hk]

theorem regKey_parts {blk inst off idx : Nat} (hinst : inst < 256) (hoff : off < 65536) (hidx : idx < 2 ^ 20) :
    regKey blk inst off idx / 2 ^ 20 / 2 ^ 24 = blk ∧ regKey blk inst off idx / 2 ^ 20 / 2 ^ 16 % 256 = inst ∧
      regKey blk inst off idx / 2 ^ 20 % 2 ^ 16 = off ∧ regKey blk inst off idx % 2 ^ 20 = idx := by
  simp only [regKey]
  omega

theorem voteFix_of_only {s : State} {blk inst off idx : Nat} {e : BitVec 32 × BitVec 32 × BitVec 32}
    (hupset : s.regs.upset = [(regKey blk inst off idx, e)]) :
    voteFix s blk inst off idx = raise { s with regs := { s.regs with
      active := tset (BitVec.ofNat 32 (regReset blk inst off idx)) s.regs.active (regKey blk inst off idx)
        (regKept s blk inst off idx ^^^ majority3 e.1 e.2.1 e.2.2)
      upset := [], voteFix := satAdd 16 s.regs.voteFix 1 } } .regVoteFix 0 (recVal (blk * 2 ^ 24 + inst * 2 ^ 16 + off)) := by
  have hfind : tfind s.regs.upset (regKey blk inst off idx) = some e := by simp [hupset, tfind]
  have hactive : regActive s blk inst off idx = (regKept s blk inst off idx ^^^ majority3 e.1 e.2.1 e.2.2).toNat := by
    simp [regActive, hfind]
  have hdel : tdel s.regs.upset (regKey blk inst off idx) = [] := by simp [hupset, tdel]
  have haddr : regKey blk inst off 0 / 2 ^ 20 = blk * 2 ^ 24 + inst * 2 ^ 16 + off := by
    rw [regKey, Nat.add_zero, Nat.mul_div_cancel _ (Nat.two_pow_pos 20)]
  simp only [voteFix, hfind, hactive, regKeep, BitVec.ofNat_toNat, BitVec.setWidth_eq, hdel, haddr]

/-- Settles O18. -/
theorem upsetsAndScrub : Obligations.UpsetsAndScrub := by
  unfold Obligations.UpsetsAndScrub
  refine ⟨fun s a idx copy bit blk inst off k hclean => ?register, fun s blk inst off idx e _ hinst hoff hidx hhub hupset => ?scrub,
    fun s r a d hd hblk => ?read, fun s c unc => ?cell, fun s c unc => ?clod, fun s a page word unc => ?weight,
    fun s tk i => ⟨rfl, rfl⟩⟩
  case register =>
    refine ⟨_, rfl, ?_⟩
    rcases upsetRegister_of_clean copy bit hclean with h | h <;> dsimp only <;> rw [h]
    · exact ⟨rfl, rfl, rfl, rfl, rfl⟩
    · exact ⟨regActive_withUpset hclean (majority3_flipped copy _) blk inst off k, rfl, rfl, rfl, rfl⟩
  case scrub =>
    obtain ⟨hblk', hinst', hoff', hidx'⟩ := regKey_parts (blk := blk) hinst hoff hidx
    rw [exec_rwvScrub, execRwvScrub, hhub, Bool.not_true, if_neg Bool.false_ne_true, hupset]
    simp only [List.foldl_cons, List.foldl_nil, hblk', hinst', hoff', hidx']
    rw [voteFix_of_only hupset]
  case read =>
    simp [busRead, hd, hblk]
  case cell =>
    refine ⟨_, rfl, rfl, fun k hk => tfind_tadj_other _ hk _, fun r hr hheld => ?_⟩
    rw [tfind_tadj_self, hr]
    simp [hheld]
  case clod =>
    refine ⟨_, rfl, rfl, fun k hk => tfind_tadj_other _ hk _, fun r hr hfree hretired => ?_⟩
    rw [tfind_tadj_self, hr]
    simp [hfree, hretired]
  case weight =>
    rw [exec_upset, execUpset]
    refine ⟨_, rfl, ?_⟩
    dsimp only
    by_cases hres : (s.marl.tiles.any fun x => x.array == a && x.pages.contains page) = true
    · rw [if_pos hres]
      exact ⟨rfl, fun k hk => tget_tset_other 0 _ _ hk, fun _ => tget_tset_of_ne (worse_ne_zero _ unc) _ _⟩
    · rw [if_neg hres]
      exact ⟨rfl, fun _ _ => rfl, fun h => absurd h hres⟩

end Sys2Proof.Proofs

/-!
The wire forms read back: fields of bytes and of bits, the lengths of digests, and the three headers (Tables 2.3, 11.5, 16.1).
-/
namespace Sys2Proof.Proofs

open Sys2Proof Sys2Proof.Machine Sys2Proof.Laws Sys2Proof.Safety

/-! Fields of a packed byte string -/

theorem beAt_skip {n off m : Nat} (h : n ≤ off) (v : Nat) (b : List Byte) : beAt (beBytes n v ++ b) off m = beAt b (off - n) m := by
  rw [beAt_append_right (by simpa using h), beBytes_length]

theorem beAt_skip_zeros {n off m : Nat} (h : n ≤ off) (b : List Byte) : beAt (zeroBytes n ++ b) off m = beAt b (off - n) m := by
  rw [beAt_append_right (by simpa using h), zeroBytes_length]

theorem beNat_zeroBytes (n : Nat) : beNat (zeroBytes n) = 0 := by
  induction n with
  | zero => rfl
  | succ n ih =>
    have hcons : zeroBytes (n + 1) = [0#8] ++ zeroBytes n := rfl
    rw [hcons, beNat_append, ih]
    simp [beNat]

theorem beAt_zeros (n : Nat) (b : List Byte) : beAt (zeroBytes n ++ b) 0 n = 0 := by
  rw [beAt, bytesAt_append_left (zeroBytes_length n), beNat_zeroBytes]

/-! Fields of bits -/

theorem b2n_le_one (b : Bool) : b2n b ≤ 1 := by
  cases b <;> decide

theorem bitv_eq (b : Bool) (k : Nat) : bitv b k = b2n b * 2 ^ k := by
  cases b <;> simp [bitv, b2n]

theorem bitAt_of {v k : Nat} {b : Bool} (h : v / 2 ^ k % 2 = b2n b) : bitAt v k = b := by
  rw [bitAt, h]
  cases b <;> rfl

/-! Lengths of digests -/

theorem length_shaRounds (l : List (BitVec 64 × BitVec 64)) :
    ∀ v : List (BitVec 64), v.length = 8 → (l.foldl (fun v kw => shaRound v kw.1 kw.2) v).length = 8 := by
  induction l with
  | nil => exact fun v h => h
  | cons kw l ih => exact fun v _ => ih _ rfl

theorem length_shaBlock {h : List (BitVec 64)} (hh : h.length = 8) (block : List Byte) : (shaBlock h block).length = 8 := by
  rw [shaBlock, List.length_zipWith, length_shaRounds _ h hh, hh]
  rfl

theorem length_shaBlocks (l : List (List Byte)) : ∀ h : List (BitVec 64), h.length = 8 → (l.foldl shaBlock h).length = 8 := by
  induction l with
  | nil => exact fun h hh => hh
  | cons b l ih => exact fun h hh => ih _ (length_shaBlock hh b)

@[simp] theorem length_sha384 (m : List Byte) : (sha384 m).length = 48 := by
  rw [sha384, ← List.flatMap_def, length_flatMap_of fun _ => beBytes_length 8 _, List.length_take, length_shaBlocks _ shaIv rfl]
  rfl

@[simp] theorem length_hmac384 (key msg : List Byte) : (hmac384 key msg).length = 48 := length_sha384 _

theorem length_tag (key msg : List Byte) : ((hmac384 key msg).take 16).length = 16 := by
  rw [List.length_take, length_hmac384]
  rfl

theorem crc16Bit_lt {r : Nat} (h : r < 2 ^ 16) : crc16Bit 0x1021 r < 2 ^ 16 := by
  unfold crc16Bit
  split
  · omega
  · exact Nat.xor_lt_two_pow (Nat.mod_lt _ (by decide)) (by decide)

theorem crc16Bits_lt (l : List Nat) : ∀ r : Nat, r < 2 ^ 16 → l.foldl (fun x _ => crc16Bit 0x1021 x) r < 2 ^ 16 := by
  induction l with
  | nil => exact fun r h => h
  | cons _ l ih => exact fun r h => ih _ (crc16Bit_lt h)

/-- One byte of CRC-16. -/
def crc16Byte (r : Nat) (b : Byte) : Nat := (List.range 8).foldl (fun x _ => crc16Bit 0x1021 x) (r ^^^ (b.toNat * 256))

theorem crc16_eq (l : List Byte) : crc16 l = l.foldl crc16Byte 0xFFFF := rfl

theorem crc16Byte_lt {r : Nat} (h : r < 2 ^ 16) (b : Byte) : crc16Byte r b < 2 ^ 16 := by
  have hb := b.isLt
  have hxor : r ^^^ (b.toNat * 256) < 2 ^ 16 := Nat.xor_lt_two_pow h (by omega)
  rw [crc16Byte]
  exact crc16Bits_lt (List.range 8) _ hxor

theorem crc16Bytes_lt (l : List Byte) : ∀ r : Nat, r < 2 ^ 16 → l.foldl crc16Byte r < 2 ^ 16 := by
  induction l with
  | nil => exact fun r h => h
  | cons b l ih =>
    intro r h
    rw [List.foldl_cons]
    exact ih (crc16Byte r b) (crc16Byte_lt h b)

theorem crc16_lt (l : List Byte) : crc16 l < 2 ^ 16 := by
  rw [crc16_eq]
  exact crc16Bytes_lt l _ (by decide)

/-! The fabric header -/

theorem length_ffhBytes (h : Ffh) : (ffhBytes h).length = 32 := by
  simp [ffhBytes, ffhHead]

/-- The first byte of a fabric header. -/
def ffhByte0 (h : Ffh) : Nat := h.ver * 16 + h.tc * 2 + bitv h.fence 0

/-- The second byte of a fabric header. -/
def ffhByte1 (h : Ffh) : Nat := h.epoch * 64 + bitv h.sweep 5 + bitv h.esc 4 + h.ecn * 4 + bitv h.ece 1 + bitv h.mc 0

/-- The byte of KIND and the shard flags of a fabric header. -/
def ffhByte26 (h : Ffh) : Nat := h.kind * 16 + bitv h.scl 3 + bitv h.last 2 + h.rsv

/-- The fields of the 32 bytes, each modulo its width. -/
theorem beAt_ffhBytes (h : Ffh) :
    beAt (ffhBytes h) 0 1 = ffhByte0 h % 256 ∧ beAt (ffhBytes h) 1 1 = ffhByte1 h % 256 ∧
    beAt (ffhBytes h) 2 2 = (h.part * 16 + h.fmt) % 65536 ∧ beAt (ffhBytes h) 4 4 = h.src % 2 ^ 32 ∧
    beAt (ffhBytes h) 8 4 = h.dst % 2 ^ 32 ∧ beAt (ffhBytes h) 12 4 = h.collId % 2 ^ 32 ∧
    beAt (ffhBytes h) 16 4 = h.chunk % 2 ^ 32 ∧ beAt (ffhBytes h) 20 2 = h.layer % 65536 ∧
    beAt (ffhBytes h) 22 2 = h.oper % 65536 ∧ beAt (ffhBytes h) 24 2 = h.plen % 65536 ∧
    beAt (ffhBytes h) 26 1 = ffhByte26 h % 256 ∧ beAt (ffhBytes h) 27 1 = h.hops % 256 ∧
    beAt (ffhBytes h) 28 2 = h.sweepId % 65536 ∧ beAt (ffhBytes h) 30 2 = crc16 (ffhHead h) % 65536 := by
  rw [ffhBytes]
  generalize crc16 (ffhHead h) = crc
  simp (disch := decide) [ffhHead, ffhByte0, ffhByte1, ffhByte26, beAt_skip, beAt_beBytes_append, beAt_beBytes]

theorem ffhByte0_fields {h : Ffh} (hver : h.ver < 16) (htc : h.tc < 8) :
    bitsOf (ffhByte0 h % 256) 7 4 = h.ver ∧ bitsOf (ffhByte0 h % 256) 3 1 = h.tc ∧ bitAt (ffhByte0 h % 256) 0 = h.fence := by
  have hf := b2n_le_one h.fence
  simp only [ffhByte0, bitsOf, bitv_eq]
  exact ⟨by omega, by omega, bitAt_of (by omega)⟩

theorem ffhByte1_fields {h : Ffh} (hepoch : h.epoch < 4) (hecn : h.ecn < 4) :
    bitsOf (ffhByte1 h % 256) 7 6 = h.epoch ∧ bitAt (ffhByte1 h % 256) 5 = h.sweep ∧ bitAt (ffhByte1 h % 256) 4 = h.esc ∧
    bitsOf (ffhByte1 h % 256) 3 2 = h.ecn ∧ bitAt (ffhByte1 h % 256) 1 = h.ece ∧ bitAt (ffhByte1 h % 256) 0 = h.mc := by
  have hsweep := b2n_le_one h.sweep
  have hesc := b2n_le_one h.esc
  have hece := b2n_le_one h.ece
  have hmc := b2n_le_one h.mc
  simp only [ffhByte1, bitsOf, bitv_eq]
  exact ⟨by omega, bitAt_of (by omega), bitAt_of (by omega), by omega, bitAt_of (by omega), bitAt_of (by omega)⟩

theorem ffhByte26_fields {h : Ffh} (hkind : h.kind < 16) (hrsv : h.rsv < 4) :
    bitsOf (ffhByte26 h % 256) 7 4 = h.kind ∧ bitAt (ffhByte26 h % 256) 3 = h.scl ∧ bitAt (ffhByte26 h % 256) 2 = h.last ∧
    bitsOf (ffhByte26 h % 256) 1 0 = h.rsv := by
  have hscl := b2n_le_one h.scl
  have hlast := b2n_le_one h.last
  simp only [ffhByte26, bitsOf, bitv_eq]
  exact ⟨by omega, bitAt_of (by omega), bitAt_of (by omega), by omega⟩

theorem ffhPart_fields {p f : Nat} (hp : p < 4096) (hf : f < 16) :
    bitsOf ((p * 16 + f) % 65536) 15 4 = p ∧ bitsOf ((p * 16 + f) % 65536) 3 0 = f := by
  simp only [bitsOf]
  omega

/-! The link header -/

theorem ekindOf_ekindCode (k : EKind) : ekindOf (ekindCode k) = k := by
  cases k <;> rfl

theorem ekindCode_lt (k : EKind) : ekindCode k < 8 := by
  cases k <;> decide

/-- The acknowledgment word of a link header. -/
def linkAckWord (h : LinkHdr) : Nat := h.aq * 2 ^ 20 + h.ack * 16 + h.eq

/-- The last byte of a link header. -/
def linkEventByte (h : LinkHdr) : Nat := ekindCode h.ekind * 32 + bitv h.replay 4

theorem beAt_linkHdrBytes (h : LinkHdr) :
    beAt (linkHdrBytes h) 0 2 = h.seq % 65536 ∧ beAt (linkHdrBytes h) 2 3 = linkAckWord h % 2 ^ 24 ∧
    beAt (linkHdrBytes h) 5 2 = h.eseq % 65536 ∧ beAt (linkHdrBytes h) 7 1 = linkEventByte h % 256 := by
  simp (disch := decide) [linkHdrBytes, linkAckWord, linkEventByte, beAt_skip, beAt_beBytes_append, beAt_beBytes]

theorem linkAckWord_fields {h : LinkHdr} (haq : h.aq < 16) (hack : h.ack < 65536) (heq : h.eq < 16) :
    bitsOf (linkAckWord h % 2 ^ 24) 23 20 = h.aq ∧ bitsOf (linkAckWord h % 2 ^ 24) 19 4 = h.ack ∧ bitsOf (linkAckWord h % 2 ^ 24) 3 0 = h.eq := by
  simp only [linkAckWord, bitsOf]
  omega

theorem linkEventByte_fields (h : LinkHdr) :
    bitsOf (linkEventByte h % 256) 7 5 = ekindCode h.ekind ∧ bitAt (linkEventByte h % 256) 4 = h.replay := by
  have hkind := ekindCode_lt h.ekind
  have hreplay := b2n_le_one h.replay
  simp only [linkEventByte, bitsOf, bitv_eq]
  exact ⟨by omega, bitAt_of (by omega)⟩

/-! Messages -/

/-- The tag of a message. -/
def tagOf (key : Option (List Byte)) (flags op seq part : Nat) (body : List Byte) : List Byte :=
  match key with
  | some k => (hmac384 k (ncpHead flags op seq part body.length ++ body)).take 16
  | none => zeroBytes 16

theorem length_tagOf (key : Option (List Byte)) (flags op seq part : Nat) (body : List Byte) :
    (tagOf key flags op seq part body).length = 16 := by
  cases key with
  | some k => exact length_tag k _
  | none => exact zeroBytes_length 16

@[simp] theorem length_ncpHead (flags op seq part len : Nat) : (ncpHead flags op seq part len).length = 16 := by
  simp [ncpHead]

/-- A message is its header, its tag and its body; one without a key has UNAUTH set. -/
theorem ncpMsg_eq (key : Option (List Byte)) (flags op seq part : Nat) (body : List Byte) :
    ncpMsg key flags op seq part body =
      ncpHead (flags + bitv key.isNone 6) op seq part body.length ++ (tagOf key flags op seq part body ++ body) := by
  cases key <;> simp [ncpMsg, tagOf, bitv]

/-- The fields of a message header, each modulo its width. -/
theorem beAt_ncpHead (flags op seq part len : Nat) (b : List Byte) :
    beAt (ncpHead flags op seq part len ++ b) 0 1 = 0x10 ∧ beAt (ncpHead flags op seq part len ++ b) 1 1 = flags % 256 ∧
    beAt (ncpHead flags op seq part len ++ b) 2 2 = op % 65536 ∧ beAt (ncpHead flags op seq part len ++ b) 4 4 = seq % 2 ^ 32 ∧
    beAt (ncpHead flags op seq part len ++ b) 8 2 = part % 65536 ∧ beAt (ncpHead flags op seq part len ++ b) 10 2 = 0 ∧
    beAt (ncpHead flags op seq part len ++ b) 12 4 = len % 2 ^ 32 := by
  simp (disch := decide) [ncpHead, beAt_skip, beAt_skip_zeros, beAt_zeros, beAt_beBytes_append]

theorem flags_fields (reply frag unauth : Bool) :
    bitAt ((bitv reply 7 + bitv frag 5 + bitv unauth 6) % 256) 7 = reply ∧
    bitAt ((bitv reply 7 + bitv frag 5 + bitv unauth 6) % 256) 6 = unauth ∧
    bitAt ((bitv reply 7 + bitv frag 5 + bitv unauth 6) % 256) 5 = frag ∧
    (bitv reply 7 + bitv frag 5 + bitv unauth 6) % 256 % 16 = 0 := by
  have hreply := b2n_le_one reply
  have hfrag := b2n_le_one frag
  have hunauth := b2n_le_one unauth
  simp only [bitv_eq]
  exact ⟨bitAt_of (by omega), bitAt_of (by omega), bitAt_of (by omega), by omega⟩

/-- The header of a message reads back. -/
theorem ncpParse_ncpMsg (key : Option (List Byte)) (reply frag : Bool) {op seq part : Nat} {body : List Byte} (hop : op < 65536)
    (hseq : seq < 2 ^ 32) (hpart : part < 0xFFF) (hlen : body.length < 2 ^ 32) :
    ncpParse (ncpMsg key (bitv reply 7 + bitv frag 5) op seq part body) =
      { ver := 1, reply := reply, unauth := key.isNone, frag := frag, opcode := op, seq := seq, part := part, len := body.length,
        reservedOk := true, tag := tagOf key (bitv reply 7 + bitv frag 5) op seq part body } := by
  rw [ncpMsg_eq]
  generalize htag : tagOf key (bitv reply 7 + bitv frag 5) op seq part body = tag
  have htagLen : tag.length = 16 := htag ▸ length_tagOf key _ op seq part body
  obtain ⟨h0, h1, h2, h4, h8, h10, h12⟩ :=
    beAt_ncpHead (bitv reply 7 + bitv frag 5 + bitv key.isNone 6) op seq part body.length (tag ++ body)
  obtain ⟨hr, hu, hf, hz⟩ := flags_fields reply frag key.isNone
  have hbytes : bytesAt (ncpHead (bitv reply 7 + bitv frag 5 + bitv key.isNone 6) op seq part body.length ++ (tag ++ body)) 16 16 = tag := by
    rw [bytesAt_append_right (by simp), length_ncpHead, Nat.sub_self, bytesAt_append_left htagLen]
  simp only [ncpParse, h0, h1, h2, h4, h8, h10, h12, hr, hu, hf, hz, hbytes, Nat.mod_eq_of_lt hop, Nat.mod_eq_of_lt hseq,
    Nat.mod_eq_of_lt hlen, Nat.mod_eq_of_lt (by omega : part < 65536), Nat.mod_eq_of_lt (by omega : part < 4096), hpart]
  rfl

/-- Settles O60: each form's fields are read at their places, and the fields of a byte taken apart again. -/
theorem headersRoundTrip : Obligations.HeadersRoundTrip := by
  unfold Obligations.HeadersRoundTrip
  refine ⟨fun h hver htc hepoch hecn hpart hfmt hsrc hdst hcoll hchunk hlayer hoper hplen hkind hrsv hhops hsweep =>
    ⟨length_ffhBytes h, ?ffh⟩, fun h hseq haq hack heq heseq => ⟨by simp [linkHdrBytes], ?link⟩,
    fun key reply frag op seq part body hop hseq hpart hlen => ?message⟩
  case ffh =>
    obtain ⟨h0, h1, h2, h4, h8, h12, h16, h20, h22, h24, h26, h27, h28, h30⟩ := beAt_ffhBytes h
    obtain ⟨gver, gtc, gfence⟩ := ffhByte0_fields hver htc
    obtain ⟨gepoch, gsweep, gesc, gecn, gece, gmc⟩ := ffhByte1_fields hepoch hecn
    obtain ⟨gpart, gfmt⟩ := ffhPart_fields hpart hfmt
    obtain ⟨gkind, gscl, glast, grsv⟩ := ffhByte26_fields hkind hrsv
    have hcrc : crc16 (ffhHead h) < 65536 := crc16_lt (ffhHead h)
    simp only [ffhParse, h0, h1, h2, h4, h8, h12, h16, h20, h22, h24, h26, h27, h28, h30, gver, gtc, gfence, gepoch, gsweep, gesc, gecn,
      gece, gmc, gpart, gfmt, gkind, gscl, glast, grsv, Nat.mod_eq_of_lt hsrc, Nat.mod_eq_of_lt hdst, Nat.mod_eq_of_lt hcoll,
      Nat.mod_eq_of_lt hchunk, Nat.mod_eq_of_lt hlayer, Nat.mod_eq_of_lt hoper, Nat.mod_eq_of_lt hplen, Nat.mod_eq_of_lt hhops,
      Nat.mod_eq_of_lt hsweep, Nat.mod_eq_of_lt hcrc]
  case link =>
    obtain ⟨h0, h2, h5, h7⟩ := beAt_linkHdrBytes h
    obtain ⟨gaq, gack, geq⟩ := linkAckWord_fields haq hack heq
    obtain ⟨gkind, greplay⟩ := linkEventByte_fields h
    simp only [linkHdrParse, h0, h2, h5, h7, gaq, gack, geq, gkind, greplay, ekindOf_ekindCode, Nat.mod_eq_of_lt hseq,
      Nat.mod_eq_of_lt heseq]
  case message =>
    rw [ncpParse_ncpMsg key reply frag hop hseq hpart hlen]
    cases key <;> rfl

end Sys2Proof.Proofs

/-!
Two statements that a table with two entries of one key refutes: a write that returns the first entry to its default leaves the second one
in force. Every write of the model keeps a table's keys rising, but the statements speak of every state.
-/
namespace Sys2Proof.Proofs

open Sys2Proof Sys2Proof.Machine Sys2Proof.Laws Sys2Proof.Safety

/-- What has left the module in an outcome. -/
def outOf : Res → List Emit
  | .next t => t.out
  | _ => []

/-- Is FREEZE set in an outcome? -/
def frozenIn : Res → Bool
  | .next t => flag t .FREEZE
  | _ => false

/-- The hub is up; mailbox slot 0 has an entry that is ready, and behind it a second one with a message that waits. -/
def twoEntrySlot : State :=
  { State.reset with
    pwr := { State.reset.pwr with hubUp := true }
    ncp := { State.reset.ncp with mbx := [(0, { ready := true }), (0, { waiting := [[]] })] } }

/-- Clearing READY brings the second entry to light, whose message leaves with its interrupt. -/
theorem length_outOf_readyClear : (outOf (exec (.mbxReadyClear 0) twoEntrySlot)).length = 2 := by
  rfl

/-- Refutes O19: clearing READY in a mailbox table with two entries for the slot sends the message that waits in the second one, where
the statement has READY cleared and nothing sent. -/
theorem not_mailboxAndMessagesComplete : ¬ Obligations.MailboxAndMessagesComplete := by
  unfold Obligations.MailboxAndMessagesComplete
  rintro ⟨-, -, -, -, hready, -⟩
  have hclear := hready twoEntrySlot 0 (by decide) rfl rfl rfl (by decide)
  have hsent : 2 = 0 := length_outOf_readyClear.symm.trans (congrArg (fun o => (outOf o).length) hclear)
  exact absurd hsent (by decide)

/-- The hub is up; the ring control register has two entries, both with FREEZE set. -/
def twoEntryRingControl : State :=
  { State.reset with
    pwr := { State.reset.pwr with hubUp := true }
    regs := { State.reset.regs with active := [(regKey 0x31 0 0 0, 2 ^ 31), (regKey 0x31 0 0 0, 2 ^ 31)] } }

/-- Writing zero, the reset value, drops the first entry, and FREEZE is read from the second. -/
theorem frozenIn_ringFreezeWrite :
    frozenIn (exec (.ringFreezeWrite 0 0#32) twoEntryRingControl) = true := by
  rfl

/-- Refutes O16: in a register table with two entries for the ring control register, a write of zero leaves FREEZE set. -/
theorem not_busWritesComplete : ¬ Obligations.BusWritesComplete := by
  unfold Obligations.BusWritesComplete
  rintro ⟨-, -, -, -, -, -, hfreeze, -⟩
  obtain ⟨t, hwrite, hclear, -⟩ := hfreeze twoEntryRingControl 0 0#32 (by decide) rfl
  have hset : flag t .FREEZE = true := (congrArg frozenIn hwrite).symm.trans frozenIn_ringFreezeWrite
  rw [hset] at hclear
  exact absurd hclear (by decide)

end Sys2Proof.Proofs

/-!
Training (R238 to R241) and the lanes of a port (R253 to R256).
-/
namespace Sys2Proof.Proofs

open Sys2Proof Sys2Proof.Machine Sys2Proof.Laws Sys2Proof.Safety

/-! Events at a port or lane that exists -/

theorem atPort_of_lt {p : Nat} (h : p < 1280) (t : State) : atPort p t = .next t := if_pos h

theorem atLane_of {s : State} {p i : Nat} (hp : p < 1280) (hi : i < portLanes s p) (t : State) : atLane s p i t = .next t :=
  if_pos ⟨hp, hi⟩

/-! The record of a port -/

theorem portLink_setPortLink {l : PortLink} (h : l ≠ {}) (s : State) (p : Nat) : portLink (setPortLink s p l) p = l :=
  tget_tset_of_ne h s.lk.ports p

@[simp] theorem wakeDomain_lk (s : State) (d : Nat) : (wakeDomain s d).lk = s.lk := by
  unfold wakeDomain
  dsimp only
  split <;> rfl

@[simp] theorem wakeDomain_raw (s : State) (d : Nat) : (wakeDomain s d).raw = s.raw := by
  unfold wakeDomain
  dsimp only
  split <;> rfl

theorem lockDrop_lk_raw (s : State) (n : Nat) : (lockDrop s n).lk = s.lk ∧ (lockDrop s n).raw = s.raw := by
  unfold lockDrop
  split <;> exact ⟨rfl, rfl⟩

theorem lockDrops_lk_raw (l : List Nat) : ∀ s : State, (l.foldl lockDrop s).lk = s.lk ∧ (l.foldl lockDrop s).raw = s.raw := by
  induction l with
  | nil => exact fun s => ⟨rfl, rfl⟩
  | cons n l ih =>
    intro s
    obtain ⟨hlk, hraw⟩ := lockDrop_lk_raw s n
    rw [List.foldl_cons, (ih _).1, (ih _).2, hlk, hraw]
    exact ⟨rfl, rfl⟩

/-- A port's state after a new identity has been noted on a lane. -/
def withLaneId (s : State) (p lane laneId : Nat) : State :=
  setPortLink s p { portLink s p with lastId := tins (portLink s p).lastId lane laneId }

theorem portLink_withLaneId (s : State) (p lane laneId : Nat) :
    portLink (withLaneId s p lane laneId) p = { portLink s p with lastId := tins (portLink s p).lastId lane laneId } := by
  refine portLink_setPortLink (fun h => ?_) s p
  have hnil : tins (portLink s p).lastId lane laneId = [] := congrArg PortLink.lastId h
  have hfind := tfind_tins_self (portLink s p).lastId lane laneId
  rw [hnil] at hfind
  exact absurd hfind (by simp [tfind])

theorem noteLaneId_of_same {s : State} {p lane laneId : Nat} (h : tfind (portLink s p).lastId lane = some laneId) :
    noteLaneId s p lane laneId = s := by
  simp [noteLaneId, h]

theorem noteLaneId_of_new {s : State} {p lane laneId : Nat} (hmode : portMode s p = .fabric)
    (h : tfind (portLink s p).lastId lane ≠ some laneId) : noteLaneId s p lane laneId =
      emit (withLaneId s p lane laneId) (.marker p lane (laneNum s p lane) (some laneId)) := by
  have hnew : (tfind (portLink s p).lastId lane == some laneId) = false := by simpa using h
  have hmode' : portMode (withLaneId s p lane laneId) p = .fabric := hmode
  have hnote : noteLaneId s p lane laneId = sendMarker (withLaneId s p lane laneId) p lane := by
    rw [noteLaneId, hnew, if_neg Bool.false_ne_true]
    rfl
  have hid : tfind (portLink (withLaneId s p lane laneId) p).lastId lane = some laneId := by
    rw [portLink_withLaneId, tfind_tins_self]
  rw [hnote, sendMarker, hmode', hid]
  rfl

/-- Noting an identity changes, of what is read later, only the identities that the port has last received. -/
theorem portLink_noteLaneId {s : State} {p : Nat} (lane laneId : Nat) (hmode : portMode s p = .fabric) :
    (noteLaneId s p lane laneId).regs = s.regs ∧ (noteLaneId s p lane laneId).lk.laneOf = s.lk.laneOf ∧
    ∃ ids, portLink (noteLaneId s p lane laneId) p = { portLink s p with lastId := ids } := by
  by_cases h : tfind (portLink s p).lastId lane = some laneId
  · rw [noteLaneId_of_same h]
    exact ⟨rfl, rfl, _, rfl⟩
  · rw [noteLaneId_of_new hmode h]
    exact ⟨rfl, rfl, _, portLink_withLaneId s p lane laneId⟩

/-! What is read of the registers and the lane map -/

theorem widthAt_congr {s t : State} (h : t.regs = s.regs) (p : Nat) : widthAt t p = widthAt s p := by
  simp only [widthAt, regActive, regKept, h]

theorem holderFrom_congr {s t : State} (h : t.regs = s.regs) (base n : Nat) :
    ∀ fuel pos, holderFrom t base n fuel pos = holderFrom s base n fuel pos
  | 0, _ => rfl
  | fuel + 1, pos => by simp only [holderFrom, widthAt_congr h, holderFrom_congr h base n fuel]

theorem portLanes_congr {s t : State} (h : t.regs = s.regs) (p : Nat) : portLanes t p = portLanes s p := by
  simp only [portLanes, holder, holderFrom_congr h]

theorem laneNum_congr {s t : State} (h : t.lk.laneOf = s.lk.laneOf) (p i : Nat) : laneNum t p i = laneNum s p i := by
  simp only [laneNum, laneStart, h]

theorem lanesOfPort_congr {s t : State} (hregs : t.regs = s.regs) (hlanes : t.lk.laneOf = s.lk.laneOf) (p : Nat) :
    lanesOfPort t p = lanesOfPort s p := by
  rw [lanesOfPort, portLanes_congr hregs]
  exact List.map_congr_left fun i _ => laneNum_congr hlanes p i

/-- Settles O23: noting a lane's identity first changes nothing that training reads (`portLink_noteLaneId`). -/
theorem linkTrainingCompletes : Obligations.LinkTrainingCompletes := by
  unfold Obligations.LinkTrainingCompletes
  refine ⟨fun s p hp hmay => ?signal, fun s u p lane laneId hmode hu => ⟨fun h => hu.trans (noteLaneId_of_same h),
      fun h => hu.trans (noteLaneId_of_new hmode h)⟩,
    fun s u p lane laneId echoId hp hlane hmode hup hphase hstep hecho hu => ?marker,
    fun s u p lane id hp hlane hmode hup hpeer hu => ?upMarker,
    fun s p msg hp hlen hcrc hmode hup hphase hstep hfec hreach hsteer => ?hello,
    fun s p rtt hp hphase hmode hstep hrtt hprot => ?linkUp,
    fun s p rtt hp hphase hmode hstep hrtt => ?tooFar,
    fun s u p hp hphase hstep hawait hdue hkeep hstop => ?timeout⟩
  case signal =>
    obtain ⟨hlk, hraw⟩ := lockDrops_lk_raw (lanesOfPort s p) (wakeDomain s (2 + tileNo p))
    refine ⟨_, _, rfl, hlk.trans (wakeDomain_lk s _), hraw.trans (wakeDomain_raw s _), rfl, ?_⟩
    have hport : portLink ((lanesOfPort s p).foldl lockDrop (wakeDomain s (2 + tileNo p))) p = portLink s p := by
      simp only [portLink, hlk, wakeDomain_lk]
    rw [exec_signalPresent, execSignalPresent, atPort_of_lt hp, signalPresent, if_pos hmay]
    dsimp only
    rw [hport]
  case marker =>
    obtain ⟨hregs, hlanes, ids, hport⟩ := portLink_noteLaneId lane laneId hmode
    rw [← hu] at hregs hlanes hport
    have hcontains : (lanesOfPort u p).contains echoId = true := by rw [lanesOfPort_congr hregs hlanes, hecho]
    have hexec : exec (.alignmentMarker p lane laneId echoId) s = .next (trainMarker u p lane laneId echoId) := by
      rw [exec_alignmentMarker, execAlignmentMarker, atLane_of hp hlane, ← hu, hmode, hup, hphase]
      rfl
    have htrain : trainMarker u p lane laneId echoId =
        if (List.range (portLanes s p)).all fun j => (tfind (tins (portLink s p).peerLane lane laneId) j).isSome then
          emit (setPortLink u p { portLink u p with peerLane := tins (portLink s p).peerLane lane laneId, step := .hello })
            (.hello p (helloBytes u p))
        else setPortLink u p { portLink u p with peerLane := tins (portLink s p).peerLane lane laneId } := by
      simp only [trainMarker, hcontains, hport, hstep, portLanes_congr hregs]
      rfl
    rw [hexec, htrain]
    exact ⟨fun h => by rw [if_neg (by rw [h]; decide)], fun h => by rw [if_pos h]⟩
  case upMarker =>
    obtain ⟨-, hlanes, ids, hport⟩ := portLink_noteLaneId lane id hmode
    rw [← hu] at hlanes hport
    have hecho : laneNum u p lane = laneNum s p lane := laneNum_congr hlanes p lane
    have hid : tget id (portLink s p).peerLane lane = id := by rw [tget_eq_tfind, hpeer]; rfl
    rw [exec_alignmentMarker, execAlignmentMarker, atLane_of hp hlane, ← hu, hmode, hup]
    simp only [upMarker, hecho, hport, hid, bne_self_eq_false, Bool.false_eq_true, if_false]
    simp
  case hello =>
    have hcrc' : (crc16 (msg.take 30) != beAt msg 30 2) = false := by simp [hcrc]
    simp [exec_helloReceived, execHelloReceived, atPort_of_lt hp, helloIn, hlen, hcrc', hmode, hup, hphase, hstep, hfec, hreach, hsteer]
  case linkUp =>
    simp [exec_linkUp, execLinkUp, atPort_of_lt hp, linkUp, hphase, hmode, hstep, Nat.not_lt.mpr hrtt, hprot]
  case tooFar =>
    simp [exec_linkUp, execLinkUp, atPort_of_lt hp, linkUp, hphase, hmode, hstep, hrtt]
  case timeout =>
    have hu : u = stopKeying s p := by
      by_cases hkey : (portLink s p).step = .keying
      · exact hstop hkey
      · rw [hkeep hkey, stopKeying]
        simp [hkey]
    simp [exec_trainTimeout, execTrainTimeout, atPort_of_lt hp, hphase, hawait, hdue, hu, hstep, trainFail]

/-! Lanes -/

theorem laneFailed_of_electrical {s : State} {lane : Nat} (hup : portUp s (laneHolder s lane) = true) (h : 1024 ≤ lane) :
    laneFailed s lane = laneDown s lane := by
  simp [laneFailed, hup, Nat.not_lt.mpr h]

/-- Settles O24. -/
theorem lanesCompleteAndDegrade : Obligations.LanesCompleteAndDegrade := by
  unfold Obligations.LanesCompleteAndDegrade
  refine ⟨fun s p lane hp hlane hup hok helec hholder => ?loss, fun s p lane n hp hlane hup hok hmax => ?period,
    fun s lane p hlow hhigh hholder hup hserves => ?spare, fun s p mask hp hup hen hmask hgood hpow hfewer => ?degrade⟩
  case loss =>
    rw [exec_laneLockLoss, execLaneLockLoss, atLane_of hp hlane, hup, hok, laneFailed_of_electrical (by rw [hholder, hup]) helec]
    rfl
  case period =>
    simp [exec_laneErrorPeriod, execLaneErrorPeriod, atLane_of hp hlane, hup, hok, Nat.not_lt.mpr hmax]
  case spare =>
    rw [exec_spareRemap, execSpareRemap, if_pos ⟨hlow, hhigh, rfl⟩, spareRemap, hholder, hup, hserves]
    rfl
  case degrade =>
    have hok : degradeOk s p mask = true := by
      simpa [degradeOk, hup, hen, hmask, hgood, hfewer, or_assoc] using hpow
    rw [exec_degradeAgree, execDegradeAgree, atPort_of_lt hp, degrade, if_pos hok]

end Sys2Proof.Proofs

/-!
Link-level retry: events, acknowledgments and the control blocks that report them (R242 to R251, R342), stalled sinks and idle links.
-/
namespace Sys2Proof.Proofs

open Sys2Proof Sys2Proof.Machine Sys2Proof.Laws Sys2Proof.Safety

/-! Events at a link that exists -/

/-- A link or virtual link that exists. -/
def IsLink (l : Nat) : Prop := l < 1280 ∨ (2048 ≤ l ∧ l < 6144)

theorem atLink_of {l : Nat} (h : IsLink l) (t : State) : atLink l t = .next t := if_pos h

theorem linkOpen_of_live {s : State} {l : Nat} (hl : l < 1280) (h : linkLive s l = true) : linkOpen s l = true := by
  have hphys : l < vlinkBase := by rw [vlinkBase]; omega
  simp [linkOpen, h, hphys]

theorem linkPort_of_lt {l : Nat} (hl : l < 1280) (s : State) : linkPort s l = l := by
  have hphys : l < vlinkBase := by rw [vlinkBase]; omega
  rw [linkPort, if_pos hphys]

theorem sendControlBlock_of_lt {l : Nat} (hl : l < 1280) (s : State) (hd : LinkHdr) :
    sendControlBlock s l hd = emit s (.lcb l (linkHdrBytes hd ++ beBytes 2 (crc16 (linkHdrBytes hd)))) := by
  have hphys : l < vlinkBase := by rw [vlinkBase]; omega
  rw [sendControlBlock, if_pos hphys]

/-! What an acknowledgment and an event do -/

theorem replaysSpent_of_few {s : State} {l q n : Nat} {r : TxRec} (hr : findTx s l q n = some r)
    (h : r.lossReplays < fld s .REPLAY_MAX) : replaysSpent s l q n = false := by
  simp [replaysSpent, hr, h]

theorem ackTx_of_nothing_settled {s : State} {l q a : Nat} (h : ∀ r ∈ (txOf (endOf s l) q).open_, 0 ≤ diff16 r.seq a) :
    (ackTx s l q a).holly = s.holly ∧ (ackTx s l q a).loam = s.loam ∧ (ackTx s l q a).haw = s.haw := by
  have hdone : (txOf (endOf s l) q).open_.filter (fun r => decide (diff16 r.seq a < 0)) = [] :=
    List.filter_eq_nil_iff.mpr fun r hr => by simpa using h r hr
  simp only [ackTx, hdone, List.isEmpty_nil, if_true]
  exact ⟨rfl, rfl, rfl⟩

/-- Settles O25. -/
theorem retryEventsComplete : Obligations.RetryEventsComplete := by
  unfold Obligations.RetryEventsComplete
  refine ⟨fun s l q a hl hopen hq ha => ⟨?ack, ackTx_of_nothing_settled⟩, fun s l q n r hl hopen hq hn hr hfew hnone => ?loss,
    fun s l q n r hl hopen hq hn hr => ?withheld, fun s l q n hl => atLink_of hl s, fun s l q n hl hopen hq hn => ?skip,
    fun s l m hl hopen hm => ?mark, fun s l q n t r f hl hlive hq hq14 hn hr hat hdue hf hesc => ?replay,
    fun s l q n r hl hlive hq hn hr hdue hfew => ?retry⟩
  case ack =>
    rw [exec_linkAckReceived, execLinkAckReceived, atLink_of hl, if_pos hopen, Nat.mod_eq_of_lt hq, Nat.mod_eq_of_lt ha]
  case loss =>
    rw [exec_lossEvent, execLossEvent, atLink_of hl, if_pos hopen, Nat.mod_eq_of_lt (by omega), Nat.mod_eq_of_lt hn, lossRx,
      replaysSpent_of_few hr hfew]
    simp [eventRx, hr]
  case withheld =>
    rw [exec_withheldEvent, execWithheldEvent, atLink_of hl, if_pos hopen, Nat.mod_eq_of_lt hq, Nat.mod_eq_of_lt hn]
    simp [eventRx, hr]
  case skip =>
    rw [exec_skipEvent, execSkipEvent, atLink_of hl, if_pos hopen, Nat.mod_eq_of_lt hq, Nat.mod_eq_of_lt hn, skipRx]
    exact ⟨fun h => by rw [if_pos h], fun h => by rw [h, if_neg Bool.false_ne_true]⟩
  case mark =>
    rw [exec_txcMarkEvent, execTxcMarkEvent, atLink_of hl, if_pos hopen, Nat.mod_eq_of_lt hm]
  case replay =>
    rw [exec_withholdReplay, execWithholdReplay, atLink_of hl, if_pos hlive, Nat.mod_eq_of_lt hq, Nat.mod_eq_of_lt hn]
    simp [withholdReplay, hr, hat, hf, Nat.not_lt.mpr hdue, hesc, hq14]
  case retry =>
    rw [exec_retryTimeout, execRetryTimeout, atLink_of hl, if_pos hlive, Nat.mod_eq_of_lt hq, Nat.mod_eq_of_lt hn]
    simp [retryTimeout, hr, hdue, replaysSpent_of_few hr hfew]

/-! Control blocks -/

theorem endOf_setEnd {e : LinkEnd} (h : e ≠ {}) (s : State) (l : Nat) : endOf (setEnd s l e) l = e := tget_tset_of_ne h s.lk.ends l

theorem linkEnd_ne_of_ackDirty {e : LinkEnd} (h : e.ackDirty ≠ []) : e ≠ {} := fun he => h (congrArg LinkEnd.ackDirty he)

theorem linkEnd_ne_of_events {e : LinkEnd} (h : e.events ≠ []) : e ≠ {} := fun he => h (congrArg LinkEnd.events he)

/-- Only the ends of links and what is sent differ, and `n` items more are sent. -/
def SentOn (s t : State) (n : Nat) : Prop :=
  t = { s with lk := { s.lk with ends := t.lk.ends }, out := t.out } ∧ s.out.length + n = t.out.length

theorem SentOn.trans {s t u : State} {m n : Nat} (h : SentOn s t m) (g : SentOn t u n) : SentOn s u (m + n) := by
  obtain ⟨ht, hm⟩ := h
  obtain ⟨hu, hn⟩ := g
  refine ⟨?_, by omega⟩
  rw [hu, ht]

theorem sentOn_setEnd (s : State) (l : Nat) (e : LinkEnd) : SentOn s (setEnd s l e) 0 := ⟨rfl, rfl⟩

theorem sentOn_emit (s : State) (x : Emit) : SentOn s (emit s x) 1 := ⟨rfl, by simp [emit]⟩

/-- With no event waiting, a block for each changed ACK leaves. -/
theorem sentOn_sendBlocks {l : Nat} (hl : l < 1280) (e : LinkEnd) (hev : e.events = []) :
    ∀ (dirty : List Nat) (s : State),
      SentOn (setEnd s l { e with ackDirty := dirty }) (sendBlocks dirty.length (setEnd s l { e with ackDirty := dirty }) l) dirty.length
  | [], _ => ⟨rfl, rfl⟩
  | q :: dirty, s => by
    have hend : endOf (setEnd s l { e with ackDirty := q :: dirty }) l = { e with ackDirty := q :: dirty } :=
      endOf_setEnd (linkEnd_ne_of_ackDirty (List.cons_ne_nil q dirty)) s l
    obtain ⟨hd, hhd⟩ : ∃ hd, nextHeader { e with ackDirty := q :: dirty } 0 false = (hd, { e with ackDirty := dirty }) := by
      simp [nextHeader, ackReportOf, hev]
    have hnext : sendNextBlock (setEnd s l { e with ackDirty := q :: dirty }) l =
        setEnd (emit (setEnd s l { e with ackDirty := q :: dirty })
          (.lcb l (linkHdrBytes hd ++ beBytes 2 (crc16 (linkHdrBytes hd))))) l { e with ackDirty := dirty } := by
      rw [sendNextBlock, hend, hhd, sendControlBlock_of_lt hl]
      rfl
    rw [List.length_cons, sendBlocks, hend, hnext]
    have hsend := ((sentOn_emit (setEnd s l { e with ackDirty := q :: dirty })
      (.lcb l (linkHdrBytes hd ++ beBytes 2 (crc16 (linkHdrBytes hd))))).trans (sentOn_setEnd _ l { e with ackDirty := dirty })).trans
      (sentOn_sendBlocks hl e hev dirty _)
    rw [Nat.add_zero, Nat.add_comm] at hsend
    simpa using hsend

/-- The changed ACKs and then those of the other spaces are sixteen. -/
theorem length_dirty_spaces {dirty : List Nat} (hnodup : dirty.Nodup) (hlt : ∀ q ∈ dirty, q < 16) :
    (dirty ++ (List.range 16).filter fun q => !dirty.contains q).length = 16 := by
  have hperm : (dirty ++ (List.range 16).filter fun q => !dirty.contains q).Perm (List.range 16) := by
    refine (List.perm_ext_iff_of_nodup ?_ List.nodup_range).mpr fun q => ?_
    · refine List.nodup_append.mpr ⟨hnodup, List.nodup_range.filter _, fun a ha b hb hab => ?_⟩
      subst hab
      simp [ha] at hb
    · by_cases hq : q ∈ dirty
      · simp [hq, hlt q hq]
      · simp [hq]
  exact hperm.length_eq

/-- Settles O26: the blocks of an ACK report are counted by `sentOn_sendBlocks`. -/
theorem linkReportsComplete : Obligations.LinkReportsComplete := by
  unfold Obligations.LinkReportsComplete
  refine ⟨fun s l hl hlive hev hlen hnodup hlt => ?report, fun s s1 l q n sp hd e2 hl hlive hev htx hsp hs1 hhd => ?announce,
    fun s l hl hlive hprot hkey hgate => ?mark, fun s p t hp hdown hup hdisc hsince hdue => ?stall,
    fun s v e hv he hidle => ?idle⟩
  case report =>
    have hall := length_dirty_spaces hnodup hlt
    have hsent := (sentOn_setEnd s l _).trans
      (sentOn_sendBlocks hl (endOf s l) hev ((endOf s l).ackDirty ++ (List.range 16).filter fun q => !(endOf s l).ackDirty.contains q) s)
    rw [hall] at hsent
    refine ⟨_, by rw [exec_ackReport, execAckReport, atLink_of (.inl hl), if_pos (linkOpen_of_live hl hlive)], ?_⟩
    have hcount : (endOf s l).events.length + 16 = 16 := by rw [hev]; rfl
    unfold ackReport
    dsimp only
    rw [hcount]
    obtain ⟨hrest, hout⟩ := hsent
    exact ⟨by rw [hrest], by rw [hrest], by rw [hrest], by rw [hrest], by simpa using hout⟩
  case announce =>
    have hend : endOf s1 l = { endOf s l with events := [{ kind := .skip, space := q, seq := n }] } := by
      rw [hs1]
      exact endOf_setEnd (linkEnd_ne_of_events (List.cons_ne_nil _ _)) s l
    have hann : skipAnnounce s l = sendBlocks (endOf s1 l).events.length s1 l := by
      simp [skipAnnounce, hs1, htx, hsp, hev, noteEvent]
    have hblock : sendBlocks (endOf s1 l).events.length s1 l =
        emit (setEnd s1 l e2) (.lcb l (linkHdrBytes hd ++ beBytes 2 (crc16 (linkHdrBytes hd)))) := by
      have hone : (endOf s1 l).events.length = 1 := by rw [hend]; rfl
      have hwaits : ((endOf s1 l).events.isEmpty && (endOf s1 l).ackDirty.isEmpty) = false := by rw [hend]; rfl
      rw [hone, sendBlocks, hwaits, if_neg Bool.false_ne_true, sendBlocks, sendNextBlock, hhd, sendControlBlock_of_lt hl]
    refine ⟨by rw [exec_skipAnnounce, execSkipAnnounce, atLink_of (.inl hl), if_pos (linkOpen_of_live hl hlive), hann, hblock], ?_⟩
    rw [hend] at hhd
    have hfields : ∀ e : LinkEnd, e.events = [{ kind := .skip, space := q, seq := n }] →
        (nextHeader e 0 false).1.ekind = .skip ∧ (nextHeader e 0 false).1.eq = q ∧ (nextHeader e 0 false).1.eseq = n := by
      intro e he
      have hkept : (ackReportOf e).2.2.events = e.events := by
        unfold ackReportOf
        split <;> rfl
      simp [nextHeader, hkept, he]
    simpa [hhd] using hfields { endOf s l with events := [{ kind := .skip, space := q, seq := n }] } rfl
  case mark =>
    have hmay : (!linkProt s l || (linkKeys s l).txKey.isNone || tc7Open (bxPort s l) (nowU s)) = false := by
      simpa [hprot, hgate] using hkey
    refine ⟨setEnd s l (ackReportOf (endOf s l)).2.2,
      { seq := (linkKeys s l).txc / 65536 % 65536, aq := (ackReportOf (endOf s l)).1, ack := (ackReportOf (endOf s l)).2.1
        eseq := (linkKeys s l).txc % 65536, ekind := .txcMark }, ?_, rfl, rfl, rfl, rfl, rfl, rfl⟩
    rw [exec_txcMarkSend, execTxcMarkSend, atLink_of (.inl hl), if_pos (linkOpen_of_live hl hlive), txcMark, linkPort_of_lt hl, hmay,
      if_neg Bool.false_ne_true, sendControlBlock_of_lt hl]
  case stall =>
    simp [exec_sinkStall, execSinkStall, atPort_of_lt hp, hdown, hup, hdisc, hsince, hdue]
  case idle =>
    simp [exec_vlinkIdleRelease, execVlinkIdleRelease, atUnit, hv, he, hidle]

end Sys2Proof.Proofs

/-!
Calendar and gate images, their takeovers and cancelling (R89 to R95, R104), and domains falling asleep and waking (R26 to R30).
-/
namespace Sys2Proof.Proofs

open Sys2Proof Sys2Proof.Machine Sys2Proof.Laws Sys2Proof.Safety

/-! Checks of every element of a list -/

theorem eachOk_of {α : Type} {f : Nat → α → Except Bad Unit} : ∀ {l : List α} {i : Nat}, (∀ j, ∀ x ∈ l, f j x = .ok ()) → eachOk f i l = .ok ()
  | [], _, _ => rfl
  | x :: l, i, h => by
    rw [eachOk, h i x List.mem_cons_self]
    exact eachOk_of fun j y hy => h j y (List.mem_cons_of_mem x hy)

theorem eachOk_need_of {α : Type} {b : α → Bool} {l : List α} (h : ∀ x ∈ l, b x = true) (code : Code) (step i : Nat) :
    eachOk (fun i x => need (b x) code step i) i l = .ok () :=
  eachOk_of fun j x hx => need_of (h x hx) code step j

theorem checkConflict_of {s : State} {gates : Bool} {ss : List BxSect} (h : bxConflict s gates ss = none) : checkConflict s gates ss = .ok () := by
  rw [checkConflict, h]

/-! Ports in a message -/

/-- The numbers of a list of two-byte records. -/
theorem map_beAt_ports {ports : List Nat} (h : ∀ p ∈ ports, p < 1280) (pre : List Byte) :
    (List.range ports.length).map (fun i => beAt (pre ++ ports.flatMap (beBytes 2)) (pre.length + 2 * i) 2) = ports := by
  have hbytes := congrArg (List.map beNat) (map_bytesAt_flatMap (f := beBytes 2) (l := ports) (fun p _ => beBytes_length 2 p) pre)
  rw [List.map_map] at hbytes
  refine hbytes.trans (map_map_of_inverse fun p hp => beNat_beBytes_of_lt ?_)
  have hlt := h p hp
  omega

theorem length_portsBody (k n : Nat) (ports : List Nat) :
    (beBytes 1 k ++ beBytes 2 n ++ ports.flatMap (beBytes 2)).length = 3 + 2 * ports.length := by
  rw [List.length_append, List.length_append, beBytes_length, beBytes_length, length_flatMap_of (beBytes_length 2), Nat.mul_comm]

/-- Settles O30. -/
theorem calendarsAndGatesComplete : Obligations.CalendarsAndGatesComplete := by
  unfold Obligations.CalendarsAndGatesComplete
  refine ⟨fun s c img ss t hown himg hconf htime hfree => ?calendar, fun s u c img ss t hown himg hconf htime hfree hu hfit => ?gates,
    fun s c ports hown hlen hports hbody hpend => ?cancel, fun s c hown hbody hpend => ?cancelRoutes,
    fun s p g hp hg hdue => ?gateTakeover, fun s p g hp hg hdue => ?calTakeover, fun s p hp hsoon => ?prewake⟩
  case calendar =>
    obtain ⟨hhub, hauth⟩ := hown
    have hreplace : ∀ x ∈ ss, replaceable s ((bxPort s x.port).calPend.map (·.takeover)) = true := fun x hx => by
      rw [hfree x hx]
      rfl
    simp only [exec_loadCalendar, execLoadCalendar, needOwner_of hauth, himg, checkConflict_of hconf, htime, eachOk_need_of hreplace,
      ok_bind_eq, pure_eq_ok]
    exact runCmd_of_ok hhub
  case gates =>
    obtain ⟨hhub, hauth⟩ := hown
    have hreplace : ∀ x ∈ ss, replaceable s ((bxPort s x.port).glPend.map (·.takeover)) = true := fun x hx => by
      rw [hfree x hx]
      rfl
    simp only [exec_loadGates, execLoadGates, needOwner_of hauth, himg, checkConflict_of hconf, htime, ← hu, need_of hfit,
      eachOk_need_of hreplace, ok_bind_eq, pure_eq_ok]
    exact runCmd_of_ok hhub
  case cancel =>
    obtain ⟨hhub, hauth⟩ := hown
    have hkind : beAt c.body 0 1 = 1 := by
      rw [hbody, List.append_assoc]
      exact (beAt_beBytes_append ..).trans rfl
    have hcount : beAt c.body 1 2 = ports.length := by
      rw [hbody, List.append_assoc, beAt_skip Nat.le.refl, Nat.sub_self, beAt_beBytes_append, Nat.mod_eq_of_lt (by omega)]
    have hall : (List.range ports.length).map (fun i => beAt c.body (3 + 2 * i) 2) = ports := by
      rw [hbody]
      exact map_beAt_ports hports (beBytes 1 1 ++ beBytes 2 ports.length)
    have hshape : (decide (3 ≤ c.body.length) && c.body.length == 3 + 2 * ports.length && decide (1 ≤ 1) && decide (1 ≤ 3)) = true := by
      rw [hbody, length_portsBody]
      simp
    have hexist : ∀ p ∈ ports, decide (p < nPorts) = true := fun p hp => decide_eq_true (hports p hp)
    simp only [exec_cancelPending, execCancelPending, needOwner_of hauth, hkind, hcount, hall, need_of hshape, eachOk_need_of hexist,
      ok_bind_eq, pure_eq_ok, beq_self_eq_true, if_true, eachOk_need_of hpend]
    exact runCmd_of_ok hhub
  case cancelRoutes =>
    obtain ⟨hhub, hauth⟩ := hown
    have hkind : beAt c.body 0 1 = 3 := by rw [hbody]; rfl
    have hcount : beAt c.body 1 2 = 0 := by rw [hbody]; rfl
    have hlen : c.body.length = 3 := by rw [hbody]; rfl
    have hpend' : (3 != 3 || replaceable s (s.sh.pend.map (·.takeover))) = true := hpend
    simp only [exec_cancelPending, execCancelPending, needOwner_of hauth, hkind, hcount, hlen, ok_bind_eq, pure_eq_ok, List.range_zero,
      List.map_nil, eachOk, need_of hpend']
    exact runCmd_of_ok hhub
  case gateTakeover =>
    simp [exec_gateListTakeover, execGateListTakeover, atPort_of_lt hp, hg, reached, hdue]
  case calTakeover =>
    simp [exec_calendarTakeover, execCalendarTakeover, atPort_of_lt hp, hg, reached, hdue]
  case prewake =>
    have hwake : (!(soonOwners s p (fld s .BX_WAKE_PREWAKE_NS)).isEmpty || (flag s .PREWAKE_ALL && opensSoon s p)) = true := by
      simp [hsoon]
    rw [exec_prewake, execPrewake, atPort_of_lt hp, prewake, hwake]
    rfl

/-! Domains -/

theorem wakeDomain_of_awake {s : State} {d : Nat} (h : tget SleepState.awake s.pwr.domains d = .awake) :
    wakeDomain s d = { s with pwr := { s.pwr with lastWork := tset 0 s.pwr.lastWork d s.raw } } := by
  rw [wakeDomain, h]

theorem isWaking_of {s : State} {d t : Nat}
    (h : tget SleepState.awake s.pwr.domains d = .waking t ∨ tget SleepState.awake s.pwr.domains d = .late t) : isWaking s d = true := by
  rcases h with h | h <;> simp [isWaking, h]

theorem missedWindows_of_no_ports {s : State} (h : s.bx.ports = []) (d t0 : Nat) : missedWindows s d t0 = s := by
  rw [missedWindows, h]
  rfl

/-- Settles O31. -/
theorem domainsSleepAndWake : Obligations.DomainsSleepAndWake := by
  unfold Obligations.DomainsSleepAndWake
  refine ⟨fun s d hd hawake hmay hidle => ⟨?sleep, ?trigger⟩, fun s d t hd hwaking hports hstale => ?awake,
    fun s d t hd hwaking hlate => ?late⟩
  case sleep =>
    simp [exec_idleTimeout, execIdleTimeout, atUnit, nDomains, hd, hawake, hmay, hidle, fallAsleep, setDomain]
  case trigger =>
    simp [exec_idleTimeout, execIdleTimeout, atUnit, nDomains, hd, hawake, hmay, hidle, wakeDomain_of_awake hawake]
  case awake =>
    rw [exec_domainAwake, execDomainAwake, atUnit, nDomains, if_pos hd, if_pos (isWaking_of hwaking)]
    simp only [setDomain, hstale, Bool.false_eq_true, if_false]
    rw [missedWindows_of_no_ports (by exact hports)]
  case late =>
    simp [exec_wakeLateCheck, execWakeLateCheck, atUnit, nDomains, hd, hwaking, elapsed, hlate, setDomain]

end Sys2Proof.Proofs

/-!
The movers of the store (R65 to R80), route tables (R110, R111), sweeps (R119 to R122), and echoes and congestion maps (R125 to R128).
-/
namespace Sys2Proof.Proofs

open Sys2Proof Sys2Proof.Machine Sys2Proof.Laws Sys2Proof.Safety

theorem atUnit_of_lt {i n : Nat} (h : i < n) (t : State) : atUnit i n t = .next t := if_pos h

/-! Spilling -/

theorem spilling_noteSpill (s : State) : (noteSpill s).loam.spilling =
    if thresholdCells s (fld s .SPILL_ON) ≤ 256 * s.loam.sharedUsed then true
    else if 256 * s.loam.sharedUsed < thresholdCells s (fld s .SPILL_OFF) then false else s.loam.spilling := by
  generalize hon : (if thresholdCells s (fld s .SPILL_ON) ≤ 256 * s.loam.sharedUsed then true
    else if 256 * s.loam.sharedUsed < thresholdCells s (fld s .SPILL_OFF) then false else s.loam.spilling) = on
  simp only [noteSpill, hon]
  split
  · next h => exact (beq_iff_eq.mp h).symm
  · rfl

theorem noteSpill_of_between {s : State} (hon : 256 * s.loam.sharedUsed < thresholdCells s (fld s .SPILL_ON))
    (hoff : thresholdCells s (fld s .SPILL_OFF) ≤ 256 * s.loam.sharedUsed) : noteSpill s = s := by
  simp [noteSpill, Nat.not_le.mpr hon, Nat.not_lt.mpr hoff]

theorem exec_spillReadback_of_lt {u : Nat} (hu : u < 20480) (s : State) : exec (.spillReadback u) s = .next (readBackQueue s u) :=
  atUnit_of_lt hu _

/-- Settles O32. -/
theorem storeMoversComplete : Obligations.StoreMoversComplete := by
  unfold Obligations.StoreMoversComplete
  refine ⟨fun s => ⟨fun hon => ?on, fun hon hoff => ?off, noteSpill_of_between⟩, fun s half hhalf hoff => ?still,
    fun s s1 half u cl used c cs run hhalf hnote hspill hqueue hcells hrun hne hread hopen => ?spill,
    fun s u n c hu hseg hlong => ?longHead, fun s u hu hseg => ?noTail,
    fun s s1 u n c fids hu hseg hshort hroom hs1 hfids => ?readback,
    fun s s1 fid u t f hf hheld hen hrefs hshares hold hread => ?hold, fun s half tier hhalf htier => ⟨fun hdue => ?due, fun hdue => ?notDue⟩⟩
  case on => rw [spilling_noteSpill, if_pos hon]
  case off => rw [spilling_noteSpill, if_neg (Nat.not_le.mpr hon), if_pos hoff]
  case still =>
    rw [exec_spillOutMove, execSpillOutMove, atUnit_of_lt hhalf, spillOut]
    simp [hoff]
  case spill =>
    rw [exec_spillOutMove, execSpillOutMove, atUnit_of_lt hhalf, spillOut]
    simp only [hnote, hspill, hqueue, hcells, ← hrun, hread, spillInto, hopen]
    simp [hne]
  case longHead =>
    rw [exec_spillReadback_of_lt hu, readBackQueue, hseg]
    simp [hlong]
  case noTail =>
    rw [exec_spillReadback_of_lt hu, readBackQueue, hseg]
  case readback =>
    have hmay : (decide (fld s .HEAD_WIN ≤ n + 16) || !roomIn s .shared (tget ({} : ClodRec) s.loam.clods c).used) = false := by
      simp [hshort, hroom]
    rw [exec_spillReadback_of_lt hu, readBackQueue, hseg]
    simp only [hmay, Bool.false_eq_true, if_false]
    subst hs1 hfids
    rfl
  case hold =>
    have hdue : elapsed s t (ticksOfNs (fld s .HOLD_SPILL_NS) + 1) = true := decide_eq_true (by omega)
    simp [exec_holdSpillMove, execHoldSpillMove, holdSpill, hf, hheld, hen, hrefs, hshares, hdue, hread]
  case due => rw [exec_sievePass, execSievePass, if_pos ⟨hhalf, htier⟩, if_pos hdue]
  case notDue => rw [exec_sievePass, execSievePass, if_pos ⟨hhalf, htier⟩, hdue, if_neg Bool.false_ne_true]

/-- Settles O33. -/
theorem routeTablesComplete : Obligations.RouteTablesComplete := by
  unfold Obligations.RouteTablesComplete
  refine ⟨fun s c img t hown himg hmasks hepoch htime hprev hpend => ?load, fun s r hr hdue => ?takeover,
    fun s o q hprev hquiet hold hdue => ?release⟩
  case load =>
    obtain ⟨hhub, hauth⟩ := hown
    have hnext : (beAt img 5 1 % 4 == (s.sh.epoch + 1) % 4) = true := by simp [hepoch]
    have hfree : (s.sh.prev.isNone && replaceable s (s.sh.pend.map (·.takeover))) = true := by simp [hprev, hpend, replaceable]
    simp only [exec_loadRoutes, execLoadRoutes, needOwner_of hauth, himg, hmasks, need_of hnext, htime, need_of hfree, ok_bind_eq, pure_eq_ok]
    exact runCmd_of_ok hhub
  case takeover =>
    simp [exec_routeTakeover, execRouteTakeover, hr, reached, hdue]
  case release =>
    simp [exec_epochRelease, execEpochRelease, hprev, hquiet, hold, elapsed, hdue]

/-! Sweeps -/

/-- A state keeps RAW through a function that keeps its view. -/
theorem raw_of_view {s t : State} (h : view t = view s) : t.raw = s.raw := congrArg View.raw h

theorem view_raise_discardCopy (s : State) (fid : Nat) (e : Ev) (scope : Nat) (r : Rec) :
    view (raise (discardCopy s fid) e scope r) = view s := by
  simp

theorem releaseSweep_of_ready {s : State} {k : Nat} {w : Sweep} (hw : tfind s.sh.sweeps k = some w) (htmo : w.timedOut = none)
    (hready : sweepReady s k w = true) (hearlier : earlierHeld s k = false) : releaseSweep s k =
      if (w.fenced.filter (heldForOrder s)).isEmpty && !w.fenced.isEmpty then w.fenced.foldl queueFrame (dropSweep s k)
      else (w.fenced.filter fun f => !heldForOrder s f).foldl queueFrame
        (setSweep s k { w with done := true, fenced := w.fenced.filter (heldForOrder s) }) := by
  simp [releaseSweep, hw, htmo, hready, hearlier]

/-- Settles O34. -/
theorem sweepsComplete : Obligations.SweepsComplete := by
  unfold Obligations.SweepsComplete
  refine ⟨fun s p u l e f k hp hu hhead hkind hopp hchoice => ?copy, fun s p hp => ?tc7,
    fun s k w hw htmo hready hearlier => ⟨fun hne hfree => ?all, fun hnil => ?none, fun held hheld hne => ?some⟩,
    fun s k w hw htmo hready hdue => ?timeout, fun s k t w hw htmo hdue => ?slot⟩
  case copy =>
    simp [exec_markerCopyTransmit, execMarkerCopyTransmit, atPort_of_lt hp, hu, hhead, hkind, hopp, hchoice]
  case tc7 =>
    rw [exec_markerCopyTransmit, execMarkerCopyTransmit, atPort_of_lt hp]
    rfl
  case all =>
    have hnone : w.fenced.filter (heldForOrder s) = [] := List.filter_eq_nil_iff.mpr fun f hf => by simp [hfree f hf]
    rw [exec_sweepComplete, execSweepComplete, releaseSweep_of_ready hw htmo hready hearlier, hnone]
    simp [hne, dropSweep]
  case none =>
    rw [exec_sweepComplete, execSweepComplete, releaseSweep_of_ready hw htmo hready hearlier]
    simp [hnil, setSweep]
  case some =>
    rw [exec_sweepComplete, execSweepComplete, releaseSweep_of_ready hw htmo hready hearlier, ← hheld]
    simp [hne, setSweep]
  case timeout =>
    have hnow : elapsed s w.started (sweepTmo s) = true := decide_eq_true hdue
    refine ⟨_, by rw [exec_sweepTimeout, execSweepTimeout], ?_⟩
    simp only [sweepTimeout, hw, htmo, hready, hnow, Option.isSome_none, Bool.not_true, Bool.or_false, Bool.false_eq_true, if_false]
    refine ⟨tfind_tins_self _ _ _, raw_of_view (view_foldl w.fenced s fun t fid => ?_)⟩
    split
    · exact view_raise_discardCopy t fid _ _ _
    · rfl
  case slot =>
    simp [exec_sweepSlotRelease, execSweepSlotRelease, hw, htmo, elapsed, hdue, dropSweep]

/-- Settles O35. -/
theorem congestionCommandsComplete : Obligations.CongestionCommandsComplete := by
  unfold Obligations.CongestionCommandsComplete
  refine ⟨fun s half e t hhalf hecho hdue => ⟨fun hfar => ?far, fun p hnear hhit hgood => ?near⟩,
    fun s p tc hp htc hbelow hdue => ?increase, fun s hen hdue => ?send, fun s s1 fid f htake hvalid hdim => ?receive,
    fun s d p ps hd hdims hfresh hdue hports => ?stale, fun s c d hown hbody hd => ?read⟩
  case far =>
    have hnow : elapsed s e.at_ (ticksOfNs (fld s .ECE_HOLD_NS)) = true := decide_eq_true hdue
    have hself : (addrSpine e.src == selfSpine s) = false := by simp [hfar]
    rw [exec_echoFrameSend, execEchoFrameSend, atUnit_of_lt hhalf, echoSend, hecho]
    simp only [hnow, hself, Bool.not_true, Bool.false_eq_true, if_false]
  case near =>
    have hnow : elapsed s e.at_ (ticksOfNs (fld s .ECE_HOLD_NS)) = true := decide_eq_true hdue
    have hself : (addrSpine e.src == selfSpine s) = true := by simp [hnear]
    have hlook : dportLook { s with sh := { s.sh with echo := tset [] s.sh.echo half t } } half (addrDown e.src) =
        dportLook s half (addrDown e.src) := rfl
    rw [exec_echoFrameSend, execEchoFrameSend, atUnit_of_lt hhalf, echoSend, hecho]
    simp only [hnow, hself, Bool.not_true, Bool.false_eq_true, if_false, if_true, echoHere, hlook, hgood, hhit]
    rfl
  case increase =>
    simp [exec_throttleIncrease, execThrottleIncrease, atPort_of_lt hp, hbelow, Nat.not_le.mpr htc, elapsed, hdue]
  case send =>
    refine ⟨_, by rw [exec_cmapSend, execCmapSend], ?_⟩
    simp [cmapSend, hen, elapsed, hdue]
  case receive =>
    simp [exec_cmapReceive, execCmapReceive, htake, hvalid, hdim]
  case stale =>
    simp [exec_cmapStale, execCmapStale, atUnit_of_lt hd, Nat.not_le.mpr hdims, hfresh, elapsed, hdue, hports]
  case read =>
    obtain ⟨hhub, hauth⟩ := hown
    have hread : beAt c.body 0 1 = d := by rw [hbody, beAt_beBytes, Nat.mod_eq_of_lt (by omega)]
    have hdim : decide (d < 14) = true := decide_eq_true hd
    simp only [exec_cmapRead, execCmapRead, needOwner_of hauth, needLen_of (hbody ▸ beBytes_length 1 d), hread, need_of hdim, ok_bind_eq,
      pure_eq_ok]
    exact runCmd_of_ok hhub

end Sys2Proof.Proofs

/-!
Forwarding tables (R133 to R153), the combine engines (R185 to R191) and the router engine (R196 to R209).
-/
namespace Sys2Proof.Proofs

open Sys2Proof Sys2Proof.Machine Sys2Proof.Laws Sys2Proof.Safety

/-! Forwarding tables -/

theorem repairIn_of_ne {tk : Nat} (hgroup : tk ≠ 2) (hmac : tk ≠ tkMac) (i : Nat) (r : Replica) : repairIn tk i r = markIn false tk i r := by
  have h9 : tk ≠ 9 := hmac
  simp [repairIn, hgroup, h9]

/-- Nothing but the repaired replica changes when no learned key is lost. -/
theorem lost_eq_none {r : Replica} {tk i : Nat} (h : (tfind r.mac (placeOfIndex tkMac i)).filter macDrop = none ∨ tk ≠ tkMac) :
    (if tk == tkMac then (tfind r.mac (placeOfIndex tkMac i)).filter macDrop else none) = none := by
  rcases h with h | h
  · rw [h, ite_self]
  · simp [h]

/-- Settles O36. -/
theorem forwardingTablesComplete : Obligations.ForwardingTablesComplete := by
  unfold Obligations.ForwardingTablesComplete
  refine ⟨fun s t c img tk n hown hdma himg htk hn hver hmin hmax hz1 hz2 hn1 hn2 hlen hlock hload => ?load,
    fun s c tk half k hown hmin hmax hhalf hbody hlen hkey hrange => ?read, fun s u q qs hq hany hexcess hwrite => ?learn,
    fun s hdue hen => ?age, fun s tk i => ⟨fun h => ?repair0, fun h => ?repair1⟩, fun r tk i hgroup hmac => repairIn_of_ne hgroup hmac i r,
    fun s n a b ha hb hadue hbdue => ?record⟩
  case load =>
    obtain ⟨hhub, hauth⟩ := hown
    subst htk hn
    have hopen : (!(false && beAt c.body 0 1 == 1)) = true := rfl
    have hhead : (beAt img 4 1 == 1 && decide (1 ≤ beAt img 5 1) && decide (beAt img 5 1 ≤ 11) && beAt img 6 2 == 0 && beAt img 24 4 == 0 &&
        decide (1 ≤ beAt img 8 4) && decide (beAt img 8 4 ≤ 1048576) &&
        img.length == 32 + beAt img 8 4 * (4 + (tabLens (beAt img 5 1)).1 + (tabLens (beAt img 5 1)).2)) = true := by
      simp [hver, hmin, hmax, hz1, hz2, hn1, hn2, hlen]
    have hunlocked : (!bitAt (fld s .TLOCK) (beAt img 5 1 - 1)) = true := by simp [hlock]
    simp only [exec_loadTable, execLoadTable, needOwner_of hauth, hdma, need_of hopen, himg, need_of hhead, need_of hunlocked, hload, ok_bind_eq,
      pure_eq_ok]
    rw [runCmd_of_ok hhub]
    simp only [Bool.or_eq_true, beq_iff_eq, or_assoc]
  case read =>
    obtain ⟨hhub, hauth⟩ := hown
    have htk : beAt c.body 0 1 = tk := by rw [hbody, List.append_assoc, beAt_beBytes_append, Nat.mod_eq_of_lt (by omega)]
    have hhalf' : beAt c.body 1 1 = half := by
      rw [hbody, List.append_assoc, beAt_skip Nat.le.refl, Nat.sub_self, beAt_beBytes_append, Nat.mod_eq_of_lt (by omega)]
    have hk : c.body.drop 2 = k := by rw [hbody, List.drop_left' (by simp)]
    have htwo : decide (2 ≤ c.body.length) = true := decide_eq_true (by simp only [hbody, List.length_append, beBytes_length]; omega)
    have hlegal : (decide (1 ≤ tk) && decide (tk ≤ 11) && decide (half ≤ 1)) = true := by simp [hmin, hmax, hhalf]
    have hform : (k.length == (tabLens tk).1 && keyOk tk k) = true := by simp [hlen, hkey]
    simp only [exec_tableRead, execTableRead, needOwner_of hauth, htk, hhalf', hk, need_of htwo, need_of hlegal, need_of hform, need_of hrange,
      ok_bind_eq, pure_eq_ok]
    exact runCmd_of_ok hhub
  case learn =>
    have hany' : macAny { s with laurel := { s.laurel with learnQ := qs } } q.key = none := hany
    simp only [exec_learnProcess, execLearnProcess, hq, settleLearn, hany', hexcess, hwrite, Bool.false_eq_true, if_false]
  case age =>
    have hnow : elapsed s s.laurel.agedAt (ticksOfS (fld s .AGE_PERIOD_S)) = true := decide_eq_true hdue
    simp only [exec_agePeriod, execAgePeriod, hnow, hen, Bool.not_true, Bool.not_false, Bool.false_eq_true, if_false, if_true]
  case repair0 =>
    rw [exec_parityRepair, execParityRepair, atUnit_of_lt (by decide)]
    exact congrArg Host.Outcome.next (by simp only [replica, beq_self_eq_true, if_true, lost_eq_none h])
  case repair1 =>
    rw [exec_parityRepair, execParityRepair, atUnit_of_lt (by decide)]
    exact congrArg Host.Outcome.next (by simp only [replica, Nat.reduceBEq, Bool.false_eq_true, if_false, lost_eq_none h])
  case record =>
    simp [exec_groupRecordReturn, execGroupRecordReturn, mapReplicas, ha, hb, elapsed, hadue, hbdue]

/-! The combine engines -/

theorem shadowComplete_of_agreement {s : State} {k : Nat} {r : ShadowRun} (hr : readRun s k = some r) (h : r.lanes = r.primary) :
    shadowComplete s k false = setKEng (endShadow s k r) k { kEng (endShadow s k r) k with
      shadowRuns := ((kEng (endShadow s k r) k).shadowRuns + 1) % 2 ^ 32 } := by
  simp [shadowComplete, hr, h]

/-- Settles O37. -/
theorem combineEnginesComplete : Obligations.CombineEnginesComplete := by
  unfold Obligations.CombineEnginesComplete
  refine ⟨fun s c img hown himg henc hlock hslot hstruct husers => ?program,
    fun s s2 k r hk hr hs2 => ⟨fun hsame => ?agree, fun differs s3 hdiff hs3 => ?mismatch⟩, fun s k t r hk hr hat hdue => ?skip,
    fun s k t ht hphase hdue => ?combine⟩
  case program =>
    obtain ⟨hhub, hauth⟩ := hown
    have hunlocked : (!flag s .PROG_LOCK) = true := by simp [hlock]
    have huser : decide (16 ≤ beAt img 5 1) = true := decide_eq_true hslot
    have hunused : (progUsers s (beAt img 5 1) == 0) = true := by simp [husers]
    simp only [exec_loadKprog, execLoadKprog, loadKprog, needOwner_of hauth, himg, need_of henc, need_of hunlocked, need_of huser,
      need_of hstruct, need_of hunused, ok_bind_eq, pure_eq_ok]
    exact runCmd_of_ok hhub
  case agree =>
    rw [exec_shadowRunComplete, execShadowRunComplete, atUnit_of_lt hk, shadowComplete_of_agreement hr hsame, hs2]
  case mismatch =>
    have hbad : (!differs && r.lanes == r.primary) = false := by
      rcases hdiff with h | h <;> simp [h]
    rw [exec_shadowRunComplete, execShadowRunComplete, atUnit_of_lt hk, shadowComplete, hr]
    simp only [← hs2, hbad, Bool.false_eq_true, if_false]
    rw [hs3]
    rfl
  case skip =>
    simp [exec_shadowTimeout, execShadowTimeout, atUnit_of_lt hk, shadowTimeout, hr, hat, elapsed, hdue]
  case combine =>
    simp [exec_combineTimeout, execCombineTimeout, combineTimeout, ht, hphase, elapsed, hdue]

/-! The router engine -/

theorem mopInUse_of_none {s : State} {id : Nat} (h : mopOf s id = none) : mopInUse s id = false := by
  rw [mopInUse, h]

/-- Taking a consumed frame moves nothing but the inbox. -/
theorem takeHeld_same {s s0 : State} {fid kind : Nat} {f : StoredFrame} (h : takeHeld s fid kind = some (f, s0)) :
    s0.pwr = s.pwr := by
  unfold takeHeld at h
  split at h
  · split at h
    · cases h
    · cases h; rfl
  · cases h

theorem engineAwake_congr {s s0 : State} (h : s0.pwr = s.pwr) (k : Nat) : engineAwake s0 k = engineAwake s k := by
  simp only [engineAwake, domainAwake, h]

/-- A tile on a retired page moves to free pages of the roomiest array of its half. -/
theorem rewriteBasis_of {s : State} {a p b : Nat} {t : Tile}
    (htile : s.marl.tiles.find? (fun t => t.array == a && t.pages.contains p && s.marl.retired.contains (a * 128 + p) &&
        (match mopOf s t.mop with | some m => mKind m == 2 | none => false)) = some t)
    (hroom : roomiest { s.marl with tiles := s.marl.tiles.filter (· != t) } (a / 64) t.pages.length (fun _ => true) = some b) :
    rewriteBasis s a p = { s with marl := { s.marl with
      tiles := s.marl.tiles.map fun x => if x == t then { t with
        array := b, pages := (freePages { s.marl with tiles := s.marl.tiles.filter (· != t) } b).take t.pages.length } else x
      errs := ((freePages { s.marl with tiles := s.marl.tiles.filter (· != t) } b).take t.pages.length).foldl
        (fun x q => clearPage (b * 128 + q) x) s.marl.errs } } := by
  unfold rewriteBasis
  dsimp only
  split
  next h => cases htile.symm.trans h
  next t' h =>
    cases htile.symm.trans h
    split
    next h => cases hroom.symm.trans h
    next b' h => cases hroom.symm.trans h; rfl

/-- Settles O38. -/
theorem routerEngineComplete : Obligations.RouterEngineComplete := by
  unfold Obligations.RouterEngineComplete
  refine ⟨fun s t c p img hten himg hpart henc hlock hnone hrouter hplace => ?load,
    fun s c p id m hten hbody hid hm hpart hlock hunused => ?drop,
    fun s s0 s1 fid id f m d htake hrouter hawake hread hgood hfmt hfmt7 hparse hpiece hlen =>
      ⟨fun k t htok hphase hfresh => ?later, fun htok => ?first⟩,
    fun s k t ht hphase hdue => ?assembly, fun s s1 s2 k t m0 m ht hphase hm0 hawake hs1 hm hgood hrows hfinite => ?routed,
    fun s s0 s1 fid k j f t m d a fault htake htok hm hj hphase hawake hread hfmt hfmt7 hparse hpiece hlen hfresh ha => ?expert,
    fun s a p b n t ha htile hn hroom => ?basis⟩
  case load =>
    obtain ⟨hhub, hauth, htear⟩ := hten
    have hpart' : (mPart (mopOfImage img) == p) = true := by simp [hpart]
    have hunlocked : (!flag s .MW_LOCK) = true := by simp [hlock]
    have hclash : (mKind (mopOfImage img) != 1 || (match routerOf s p (mLayer (mopOfImage img)) (mRop (mopOfImage img)) with
        | some r => r.1 == beAt img 6 1 | none => true)) = true := by
      by_cases hkind : mKind (mopOfImage img) = 1
      · simp [hrouter hkind]
      · simp [hkind]
    have hunused : (!mopInUse s (beAt img 6 1)) = true := by simp [mopInUse_of_none hnone]
    simp only [exec_loadMop, execLoadMop, loadMop, needTenant_of hauth htear, himg, need_of hpart', need_of henc, need_of hunlocked, hnone,
      need_of rfl, need_of hunused, hplace, ok_bind_eq, pure_eq_ok]
    exact exec_of_ok hhub (congrArg (· >>= fun _ => .ok ([], extendMeas8 t p [img])) (need_of hclash .conflict 3 noIndex))
  case drop =>
    obtain ⟨hhub, hauth, htear⟩ := hten
    have hid' : beAt c.body 0 1 = id := by rw [hbody, beAt_beBytes, Nat.mod_eq_of_lt (by omega)]
    have hpart' : (mPart m == p) = true := by simp [hpart]
    have hunlocked : (!flag s .MW_LOCK) = true := by simp [hlock]
    have hfree : (!mopInUse s id) = true := by simp [hunused]
    simp only [exec_dropMop, execDropMop, needTenant_of hauth htear, needLen_of (hbody ▸ beBytes_length 1 id), hid', hm, need_of hpart',
      need_of hunlocked, need_of hfree, ok_bind_eq, pure_eq_ok]
    exact runCmd_of_ok hhub
  case later =>
    have hcount : (decide (dataPieces m ≤ f.ffh.oper % 8) || d.elems.length != pieceLen m (f.ffh.oper % 8)) = false := by
      simp [hpiece, hlen]
    have hrange : (f.ffh.fmt == 0 || decide (7 < f.ffh.fmt)) = false := by simp [hfmt, hfmt7]
    simp only [exec_tokenPieceArrival, execTokenPieceArrival, tokenPiece, htake, hrouter, hawake, hread, htok, hgood, hrange, hparse, hcount,
      hphase, hfresh, Bool.not_true, Bool.false_eq_true, if_false, bne_self_eq_false, Bool.or_false, List.length_append, List.length_singleton,
      beq_iff_eq]
  case first =>
    have hcount : (decide (dataPieces m ≤ f.ffh.oper % 8) || d.elems.length != pieceLen m (f.ffh.oper % 8)) = false := by
      simp [hpiece, hlen]
    have hrange : (f.ffh.fmt == 0 || decide (7 < f.ffh.fmt)) = false := by simp [hfmt, hfmt7]
    refine ⟨setTok { s1 with marl := { s1.marl with nextTok := s1.marl.nextTok + 1 } } s1.marl.nextTok
      { part := f.ffh.part, src := f.ffh.src, collId := f.ffh.collId, chunk := f.ffh.chunk, layer := f.ffh.layer
        rop := bitsOf f.ffh.oper 15 12, mop := id, half := f.inHalf, tc := f.ffh.tc, firstAt := s.raw }, ?_, ?_, ?_⟩
    · simp only [exec_tokenPieceArrival, execTokenPieceArrival, tokenPiece, htake, hrouter, hawake, hread, htok, hgood, hrange, hparse, hcount,
        Bool.not_true, Bool.false_eq_true, if_false, bne_self_eq_false, Bool.or_false, List.any_nil, List.nil_append, List.length_singleton,
        beq_iff_eq, eq_comm (a := 1)]
    · rfl
    · rfl
  case assembly =>
    simp [exec_assemblyTimeout, execAssemblyTimeout, assemblyTimeout, ht, hphase, elapsed, hdue]
  case routed =>
    have hnum : ((tokenLogits m (tokenElems s1 m t)).any fun z => !finite32 z) = false := by
      simpa using hfinite
    simp only [exec_tokenRouted, execTokenRouted, routeToken, ht, hphase, hm0, hawake, ← hs1, hm, hgood, hrows, hnum, Bool.not_true,
      Bool.false_eq_true, if_false, bne_self_eq_false]
  case expert =>
    have hcount : (decide (dataPieces m ≤ f.ffh.oper % 8) || d.elems.length != pieceLen m (f.ffh.oper % 8)) = false := by
      simp [hpiece, hlen]
    have hrange : (f.ffh.fmt == 0 || decide (7 < f.ffh.fmt)) = false := by simp [hfmt, hfmt7]
    have hawake' : engineAwake s (combineEngine t) = true := engineAwake_congr (takeHeld_same htake) _ ▸ hawake
    have hexec : exec (.expertOutArrival fid fault) s = .next (if combineReady m a.1 then finishCombine a.2 k m a.1 fault else a.2) := by
      simp only [exec_expertOutArrival, execExpertOutArrival, expertOut, htake, htok, hm, hj, hphase, hawake', hread, hrange, hparse, hcount,
        hfresh, Bool.not_true, Bool.false_eq_true, if_false, bne_self_eq_false, ← ha]
    refine ⟨by rw [ha]; rfl, by rw [ha]; exact hphase, by rw [ha]; rfl, by rw [ha]; rfl, fun h => ?_, fun h => ?_⟩
    · rw [hexec, h, if_neg Bool.false_ne_true]
    · rw [hexec, if_pos h]
  case basis =>
    subst hn
    rw [exec_basisRewriteDone, execBasisRewriteDone, atUnit_of_lt ha]
    exact ⟨rewriteBasis s a p, by rw [rewriteBasis_of htile hroom], by rw [rewriteBasis_of htile hroom]⟩

end Sys2Proof.Proofs

/-!
Setting up collectives (R211 to R218) and their progress (R219 to R229).
-/
namespace Sys2Proof.Proofs

open Sys2Proof Sys2Proof.Machine Sys2Proof.Laws Sys2Proof.Safety

/-! Lists, queues and templates -/

/-- Checks that hold of every item at its own position are passed by the whole list. -/
theorem eachOk_of_getElem? {α : Type} {f : Nat → α → Except Bad Unit} : ∀ {l : List α} {i : Nat},
    (∀ j x, l[j]? = some x → f (i + j) x = .ok ()) → eachOk f i l = .ok ()
  | [], _, _ => rfl
  | x :: l, i, h => by
    rw [eachOk, show f i x = .ok () from h 0 x rfl]
    exact eachOk_of_getElem? fun j y hy => by rw [Nat.add_assoc, Nat.add_comm 1 j]; exact h (j + 1) y hy

theorem ownQueue_of {s : State} {p q : Nat} {x : TQueue} (hq : q < 128) (hx : tfind s.tilth.queues q = some x) (hp : x.part = p) :
    ownQueue s p q = .ok x := by
  simp only [ownQueue, need_of (decide_eq_true hq), hx, hp, ok_bind_eq, beq_self_eq_true, if_true, pure_eq_ok]

theorem ctrlQueue_of {s : State} {c : Ncp} {p q action : Nat} {x : TQueue} (hten : TenantCmd s c p) (hbody : c.body = beBytes 1 q ++ beBytes 1 action)
    (haction : action < 256) (hq : q < 128) (hx : tfind s.tilth.queues q = some x) (hp : x.part = p) : ctrlQueue s c action = .ok (q, x) := by
  obtain ⟨hhub, hauth, htear⟩ := hten
  have hq' : beAt c.body 0 1 = q := by rw [hbody, beAt_beBytes_append, Nat.mod_eq_of_lt (by omega)]
  have hact : (beAt c.body 1 1 == action) = true := by
    rw [hbody, beAt_skip Nat.le.refl, Nat.sub_self, beAt_beBytes, Nat.mod_eq_of_lt (by omega), beq_self_eq_true]
  have hlen : c.body.length = 2 := by rw [hbody, List.length_append, beBytes_length, beBytes_length]
  simp only [ctrlQueue, needTenant_of hauth htear, needLen_of hlen, need_of hact, hq', ownQueue_of hq hx hp, ok_bind_eq, pure_eq_ok]

/-- The descriptors of a body of `COLL_POST` are those posted. -/
theorem postedDescs {ds : List (List Byte)} (hlen : ∀ d ∈ ds, d.length = 64) {pre : List Byte} (hpre : pre.length = 3) :
    ((List.range ds.length).map fun i => bytesAt (pre ++ ds.flatten) (3 + 64 * i) 64) = ds := by
  have h := map_bytesAt_flatMap (f := id) hlen pre
  rwa [hpre, List.flatMap_id, List.map_id] at h

theorem length_flatten_of {ds : List (List Byte)} (hlen : ∀ d ∈ ds, d.length = 64) : ds.flatten.length = 64 * ds.length := by
  rw [List.length_flatten, List.eq_replicate_of_mem (a := 64) (l := ds.map List.length) (by simpa using hlen), List.sum_replicate_nat,
    List.length_map, Nat.mul_comm]

/-- The head of a running queue whose wait is over is admitted, or stops its queue. -/
theorem admitHead_of {s s0 : State} {q : Nat} {x : TQueue} {d : Desc} {rest : List Desc} (hx : tfind s.tilth.queues q = some x)
    (hdescs : x.descs = d :: rest) (hstop : x.stopped = false) (hwait : waitOver s d = true) (hadm : admittedIn s (q / 64) < 4096)
    (hs0 : s0 = readGroup s d (q / 64)) :
    admitHead s q =
      (match admitColl { s0 with tilth := { s0.tilth with queues := tins s0.tilth.queues q { x with descs := rest } } } d (some q) (q / 64) 0 0 with
      | .ok u => u
      | .error e => { s0 with tilth := { s0.tilth with queues := tins s0.tilth.queues q { x with stopped := true, lastStatus := codeNum e } } }) := by
  obtain ⟨part, stopped, status, descs, toks⟩ := x
  cases hdescs
  cases hstop
  rw [admitHead, hx]
  dsimp only
  rw [if_neg (by simp [hwait, hadm]), ← hs0] <;> rfl

/-- Settles O39. -/
theorem collectiveSetupCompletes : Obligations.CollectiveSetupCompletes := by
  unfold Obligations.CollectiveSetupCompletes
  refine ⟨fun s c p img l hten himg hpart hhead hl hmem hnodes hlock hshape hrun hmany hnodesFit => ?list, fun s c p q hten hbody hq hnone => ?openQ,
    fun s c p q n x ds hten hq hn hn2 hds hall hbody hx hp hroom => ?post,
    fun s c p q x hten hq hx hp hstop => ⟨fun hbody => ?resume, fun hbody => ?skip, fun hbody => ?flush, fun hbody hidle => ?close⟩,
    fun s c p hten hlen hpart hstat hcoll hz hlock hfew hrun => ?template,
    fun s s0 q x d rest hq hx hdescs hstop hwait hadm hs0 => ⟨fun u hu => ?admitted, fun e he => ?refused⟩⟩
  case list =>
    obtain ⟨hhub, hauth, htear⟩ := hten
    have hpart' : (beAt img 8 2 % 4096 == p) = true := by simp [hpart]
    have hunlocked : (!flag s .LIST_LOCK) = true := by simp [hlock]
    have hunused : (!(s.tilth.colls.any fun e => e.2.part == p && (dMlist e.2.desc == beAt img 6 2 || dSlist e.2.desc == beAt img 6 2))) = true := by
      rw [hrun]; rfl
    have hfit : (decide (listEntries s (p * 65536 + beAt img 6 2) (·.members.length) + l.members.length ≤ 2097152) &&
        decide (listEntries s (p * 65536 + beAt img 6 2) (·.nodes.length) + l.nodes.length ≤ 262144)) = true := by
      simp [hmany, hnodesFit]
    have hmembers : (if (beAt img 5 1 == 1) = true then listMembers img else []) = l.members := by simp only [hl, beq_iff_eq]
    have hnodeList : (if (beAt img 5 1 == 1) = true then [] else listNodes img) = l.nodes := by simp only [hl, beq_iff_eq]
    have hl' : ({ lver := beAt img 10 2, imgId := beAt img 16 8, members := l.members, nodes := l.nodes } : TList) = l := by rw [hl]
    have heach : eachOk (fun i x => do need (nodeOk l.nodes.length i x) .badParam 1 i; need (decide (x.spine < 2 ^ dimsN s)) .outOfRange 1 i)
        0 l.nodes = .ok () :=
      eachOk_of_getElem? fun i x hx => by
        rw [Nat.zero_add, need_of (hnodes i x hx).1]
        exact need_of (decide_eq_true (hnodes i x hx).2) ..
    simp only [exec_loadList, execLoadList, loadList, needTenant_of hauth htear, himg, need_of hpart', need_of hhead, hmembers, hnodeList, hl', need_of hmem, heach,
      need_of hunlocked, need_of hshape, need_of hunused, need_of hfit, ok_bind_eq, pure_eq_ok]
    exact runCmd_of_ok hhub
  case openQ =>
    obtain ⟨hhub, hauth, htear⟩ := hten
    have hq' : beAt c.body 0 1 = q := by rw [hbody, beAt_beBytes, Nat.mod_eq_of_lt (by omega)]
    have hclosed : (tfind s.tilth.queues q).isNone = true := by rw [hnone]; rfl
    simp only [exec_queueOpen, execQueueOpen, needTenant_of hauth htear, needLen_of (hbody ▸ beBytes_length 1 q), hq',
      need_of (decide_eq_true hq), need_of hclosed, ok_bind_eq, pure_eq_ok]
    exact runCmd_of_ok hhub
  case post =>
    obtain ⟨hhub, hauth, htear⟩ := hten
    subst hds
    have hd64 : ∀ d ∈ ds, d.length = 64 := fun d hd => (hall d hd).1
    have hq' : beAt c.body 0 1 = q := by rw [hbody, List.append_assoc, beAt_beBytes_append, Nat.mod_eq_of_lt (by omega)]
    have hn' : beAt c.body 1 2 = ds.length := by
      rw [hbody, List.append_assoc, beAt_skip Nat.le.refl, Nat.sub_self, beAt_beBytes_append, Nat.mod_eq_of_lt (by omega)]
    have hlen : (c.body.length == 3 + 64 * ds.length && decide (1 ≤ ds.length)) = true := by
      simp [hbody, length_flatten_of hd64, hn, List.length_append, beBytes_length, -List.length_flatten]
      omega
    have hpre : (beBytes 1 q ++ beBytes 2 ds.length).length = 3 := by rw [List.length_append, beBytes_length, beBytes_length]
    have hdescs : ((List.range ds.length).map fun i => bytesAt c.body (3 + 64 * i) 64) = ds := by rw [hbody]; exact postedDescs hd64 hpre
    have heach : eachOk (postOk s p) 0 ds = .ok () := eachOk_of fun j d hd => by
      obtain ⟨-, hown, hok, hwait⟩ := hall d hd
      have hw : (!dWaitV d || (match tfind s.tilth.queues (dWaitQ d) with | some y => y.part == p | none => true)) = true := by
        cases hv : dWaitV d with
        | false => rfl
        | true =>
          cases hy : tfind s.tilth.queues (dWaitQ d) with
          | none => rfl
          | some y => simpa using hwait hv y hy
      simp only [postOk, need_of (beq_iff_eq.mpr hown), need_of hok, ok_bind_eq]
      exact need_of hw ..
    simp only [exec_collPost, execCollPost, needTenant_of hauth htear, hq', hn', need_of hlen, ownQueue_of hq hx hp, hdescs, heach,
      need_of (decide_eq_true hroom), ok_bind_eq, pure_eq_ok]
    exact runCmd_of_ok hhub
  case resume =>
    simp only [exec_queueResume, execQueueResume, ctrlQueue_of (action := 1) hten hbody (by decide) hq hx hp, need_of hstop, ok_bind_eq, pure_eq_ok]
    exact runCmd_of_ok hten.1
  case skip =>
    simp only [exec_queueSkip, execQueueSkip, ctrlQueue_of (action := 2) hten hbody (by decide) hq hx hp, need_of hstop, ok_bind_eq, pure_eq_ok]
    exact runCmd_of_ok hten.1
  case flush =>
    simp only [exec_queueFlush, execQueueFlush, ctrlQueue_of (action := 3) hten hbody (by decide) hq hx hp, need_of hstop, ok_bind_eq, pure_eq_ok]
    exact runCmd_of_ok hten.1
  case close =>
    have hfree : (x.stopped && !(s.tilth.colls.any fun e => e.2.queue == some q)) = true := by rw [hstop, hidle]; rfl
    simp only [exec_queueClose, execQueueClose, ctrlQueue_of (action := 4) hten hbody (by decide) hq hx hp, need_of hfree, ok_bind_eq, pure_eq_ok]
    exact runCmd_of_ok hten.1
  case template =>
    obtain ⟨hhub, hauth, htear⟩ := hten
    have hlegal : (descStatic (c.body.drop 4) && dColl (c.body.drop 4) == 0 && beAt (c.body.drop 4) 38 6 == 0) = true := by
      simp [hstat, hcoll, hz]
    have hunlocked : (!flag s .TPL_LOCK) = true := by simp [hlock]
    have hidle : (!(s.tilth.colls.any fun e => e.2.queue.isNone && e.2.part == p && e.2.layer == beAt c.body 0 2 && e.2.oper == beAt c.body 2 2)) = true := by
      rw [hrun]; rfl
    have hroom : decide ((s.tilth.templates.filter fun t => !(t.part == p && t.layer == beAt c.body 0 2 && t.oper == beAt c.body 2 2)).length < 256) =
        true := decide_eq_true (Nat.lt_of_le_of_lt (List.length_filter_le ..) hfew)
    simp only [exec_loadTemplate, execLoadTemplate, needTenant_of hauth htear, needLen_of hlen, need_of (beq_iff_eq.mpr hpart), need_of hlegal,
      need_of hunlocked, need_of hidle, need_of hroom, ok_bind_eq, pure_eq_ok]
    exact ⟨_, runCmd_of_ok hhub, rfl⟩
  case admitted =>
    rw [exec_queueHeadAdmit, execQueueHeadAdmit, atUnit_of_lt hq, admitHead_of hx hdescs hstop hwait hadm hs0]
    exact congrArg Host.Outcome.next (by rw [hu])
  case refused =>
    rw [exec_queueHeadAdmit, execQueueHeadAdmit, atUnit_of_lt hq, admitHead_of hx hdescs hstop hwait hadm hs0]
    exact congrArg Host.Outcome.next (by rw [he])

/-! Progress -/

/-- A reduction is neither a gather, a transform nor a dispatch. -/
theorem dOpc_of_dReduces {d : Desc} (h : dReduces d = true) : dOpc d = 1 ∨ dOpc d = 2 := by
  simpa [dReduces] using h

theorem takeCtrl_of {s s1 : State} {fid ctype : Nat} {f : StoredFrame} {c : Coll} (g : State → StoredFrame → Coll → State)
    (htake : takeKind s fid 6 = .ok (f, s1)) (hcoll : collOf s1 (collKey f.ffh.part f.ffh.collId) = some c) (htype : beAt f.data 0 1 = ctype) :
    takeCtrl s fid ctype g = g s1 f c := by
  simp [takeCtrl, htake, hcoll, htype]

/-- Settles O40. -/
theorem collectiveProgressCompletes : Obligations.CollectiveProgressCompletes := by
  unfold Obligations.CollectiveProgressCompletes
  refine ⟨fun s k c hc hnot hstart hmop => ?prewake,
    fun s s0 s1 fid k key fmt len f c x colBad htake hk hc hfail henter hread h16 hfp hpiece hkey hfin hdone hfmt hcontrib hoff hgot =>
      ⟨fun u hu => ?partial_, fun u hu hwait hred hord => ?added⟩,
    fun s k chunk c rowBad colBad hc hroot hfail hfin hred hord hchunk hworks hin hawake hres => ?inputs,
    fun s s1 fid f c htake hc hkey hfail => ⟨fun htype hopc hnew hneed => ?arrive, fun htype hcoord hlt => ?nodeDone, fun htype => ?ended,
      fun htype hlast => ?abortMore, fun htype hlast hne => ?abortEnd, fun htype hlast hcoord => ?abortCoord⟩,
    fun s k c hc hdue => ⟨fun st hst => ?deadFailed, fun hfail hopc hsent => ?deadTimeout⟩,
    fun s c p id x hten hbody hid hx => ?status⟩
  case prewake =>
    have hdue : reached s (c.start - fld s .TL_PREWAKE_PREWAKE_NS) = true := decide_eq_true (by omega)
    simp only [exec_enginePrewake, execEnginePrewake, prewakeColl, hc, hnot, hdue, hmop, Bool.not_true, Bool.or_self, Bool.false_eq_true, if_false]
  case partial_ =>
    subst hk
    have hsmall : ¬ 33554432 ≤ key := by omega
    simp [exec_contribArrival, execContribArrival, contribIn, htake, hc, hfail, hread, Nat.not_lt.mpr h16, hfp, hpiece, hfin, hdone, hfmt, hcontrib,
      Nat.not_lt.mpr hoff, Nat.not_lt.mpr hgot, hu, hsmall, -List.contains_eq_mem]
  case added =>
    subst hk
    have hsmall : ¬ 33554432 ≤ key := by omega
    have h3 : dOpc c.desc ≠ 3 ∧ dOpc c.desc ≠ 7 := by rcases dOpc_of_dReduces hred with h | h <;> omega
    simp [exec_contribArrival, execContribArrival, contribIn, htake, hc, hfail, hread, Nat.not_lt.mpr h16, hfp, hpiece, hfin, hdone, hfmt, hcontrib,
      Nat.not_lt.mpr hoff, Nat.not_lt.mpr hgot, hu, hsmall, hwait, h3.1, h3.2, hord, -List.contains_eq_mem]
  case inputs =>
    have h3 : dOpc c.desc ≠ 3 := by rcases dOpc_of_dReduces hred with h | h <;> omega
    have hres' : (dExact c.desc && !chunkResidueOk s c chunk) = false := by
      cases he : dExact c.desc with
      | false => rfl
      | true => simp [hres he]
    simp [exec_chunkInputsComplete, execChunkInputsComplete, inputsComplete, hc, hroot, hfail, hfin, hred, hord, Nat.not_le.mpr hchunk, hworks, hin,
      hawake, h3, hres', -List.contains_eq_mem]
  case arrive =>
    rw [exec_arriveReceived, execArriveReceived, takeCtrl_of _ htake hc htype]
    simp [arriveIn, hkey, hc, hopc, hfail, hnew, hneed, -List.contains_eq_mem]
  case nodeDone =>
    obtain ⟨i, hi, hme⟩ := hcoord
    rw [exec_nodeDoneReceived, execNodeDoneReceived, takeCtrl_of _ htake hc htype]
    simp [nodeDoneIn, hi, hme, Nat.not_le.mpr hlt]
  case ended => rw [exec_endReceived, execEndReceived, takeCtrl_of _ htake hc htype]
  case abortMore =>
    rw [exec_abortReceived, execAbortReceived, takeCtrl_of _ htake hc htype]
    simp [abortIn, hlast]
  case abortEnd =>
    rw [exec_abortReceived, execAbortReceived, takeCtrl_of _ htake hc htype]
    simp [abortIn, hlast, Ne.symm hne]
  case abortCoord =>
    obtain ⟨i, hi, hme⟩ := hcoord
    rw [exec_abortReceived, execAbortReceived, takeCtrl_of _ htake hc htype]
    simp [abortIn, hlast, hi, hme]
  case deadFailed =>
    have hnow : reached s (c.start + dTmo c.desc * 1000) = true := decide_eq_true hdue
    simp [exec_collDeadline, execCollDeadline, collDeadline, hc, hnow, hst]
  case deadTimeout =>
    have hnow : reached s (c.start + dTmo c.desc * 1000) = true := decide_eq_true hdue
    simp [exec_collDeadline, execCollDeadline, collDeadline, hc, hnow, hfail, hopc, hsent]
  case status =>
    obtain ⟨hhub, hauth, htear⟩ := hten
    have hid' : beAt c.body 0 4 = id := by rw [hbody, beAt_beBytes, Nat.mod_eq_of_lt (by omega)]
    refine ⟨(slowestRank (takeFree s 256).2 x).2, (takeFree s 256).1, (slowestRank (takeFree s 256).2 x).1, ?_, ?_⟩
    · simp only [exec_collStatus, execCollStatus, needTenant_of hauth htear, needLen_of (hbody ▸ beBytes_length 4 id), hid', hx, ok_bind_eq,
        pure_eq_ok]
      exact runCmd_of_ok hhub
    · rw [slowestRank]
      split <;> rfl

end Sys2Proof.Proofs

/-!
Fingerprints (R214), frames from the wire (R32 to R53, R241) and the moments at which a port sends (R82, R98).
-/
namespace Sys2Proof.Proofs

open Sys2Proof Sys2Proof.Machine Sys2Proof.Laws Sys2Proof.Safety

/-! Fingerprints -/

/-- Settles O42. -/
theorem fprintDigests : Obligations.FprintDigests := by
  unfold Obligations.FprintDigests
  intro d
  have h0 := crc16_lt (bytesAt d 1 1 ++ bytesAt d 3 5 ++ bytesAt d 44 4 ++ bytesAt d 56 8)
  have h1 := crc16_lt (bytesAt d 2 1)
  have h2 := crc16_lt (bytesAt d 24 10)
  have h3 := crc16_lt (bytesAt d 12 12)
  simp only [fprint]
  refine ⟨?_, ?_, ?_, ?_, ?_⟩ <;> omega

/-! Arrivals -/

@[simp] theorem wakeDomain_haw (s : State) (d : Nat) : (wakeDomain s d).haw = s.haw := by
  unfold wakeDomain
  dsimp only
  split <;> rfl

theorem macsecPass_haw {s s1 : State} {p : Nat} {q : Option Seal} (h : macsecPass s p q = some s1) : s1.haw = s.haw := by
  unfold macsecPass at h
  dsimp only at h
  repeat' split at h
  all_goals cases h
  all_goals rfl

theorem portFenced_congr {s t : State} (h : t.haw = s.haw) (p : Nat) : portFenced t p = portFenced s p := by
  simp only [portFenced, fenceOf, h]

/-- What is left of an Ethernet frame's arrival after its MACsec on a port that is not fenced. -/
theorem etherPortRx_of {s s1 : State} {f : EthFrame} (dg : IpView → UdpFfh) (hcw : f.badCodewords = 0) (hmac : macsecPass s f.port f.macsec = some s1)
    (hfence : portFenced s f.port = false) (hscreen : ethScreen (wakeDomain s1 (pipeDomain f.port)) f.port f.bytes spineUnits = none) :
    etherPortRx s f dg = match ffhUdp (wakeDomain s1 (pipeDomain f.port)) f.port f.bytes with
      | (some x, t) => if (dg x).badChecksum then t else datagramRx t (dg x) x
      | (none, t) => ethStages t f.port f.lead f.bytes := by
  have h1 : portFenced s1 f.port = false := (portFenced_congr (macsecPass_haw hmac) _).trans hfence
  have hu : portFenced (wakeDomain s1 (pipeDomain f.port)) f.port = false := (portFenced_congr (wakeDomain_haw ..) _).trans h1
  simp only [etherPortRx, hcw, hmac, hfence, frontWakes, etherRx, hscreen, hu, Nat.lt_irrefl, Bool.false_eq_true, if_false] <;> rfl

/-- A datagram on an open Ethernet-mode port takes the datagram stages. -/
theorem datagramArrival_of {s s1 s2 : State} {d : UdpFfh} {x : IpView} (hmode : portMode s d.port = .ethernet) (hrx : receives s d.port = true)
    (hfence : portFenced s d.port = false) (hcw : d.inner.badCodewords = 0) (hmac : macsecPass s d.port d.macsec = some s1)
    (hscreen : ethScreen (wakeDomain s1 (pipeDomain d.port)) d.port (frameOfUdp d).bytes spineUnits = none)
    (hudp : ffhUdp (wakeDomain s1 (pipeDomain d.port)) d.port (frameOfUdp d).bytes = (some x, s2)) (hsum : d.badChecksum = false) :
    datagramArrival s d = datagramRx s2 d x := by
  have h := etherPortRx_of (f := frameOfUdp d) (fun _ => d) hcw hmac hfence hscreen
  rw [show (frameOfUdp d).port = d.port from rfl, hudp] at h
  simp only [datagramArrival, hmode, hrx, h, hsum, Bool.not_true, Bool.or_false, Bool.false_eq_true, if_false, bne_self_eq_false]

theorem exec_udpDatagramArrival_of {d : UdpFfh} (hp : d.port < nPorts) (s : State) :
    exec (.udpDatagramArrival d) s = .next (datagramArrival s d) := atPort_of_lt hp _

/-- Settles O43. -/
theorem frameArrivalsComplete : Obligations.FrameArrivalsComplete := by
  unfold Obligations.FrameArrivalsComplete
  refine ⟨fun s f hp hrx hmode => ⟨fun hbad => ?codewords, fun hcw hctl hfence hcrc => ?control, fun u hcw hffh hfence het hprot hseal hu => ?frame⟩,
    fun s s1 s2 u f hp hrx hfence hmode hcw hmac hu hscreen hudp => ?ether,
    fun s s1 s2 u d x v hp hmode hrx hfence hcw hmac hu hscreen hudp hsum =>
      ⟨fun e hopen hv => ?virtual, fun hopen hv => ?noLink, fun w hopen hv => ?opened⟩⟩
  case codewords => simp [exec_frameArrival, execFrameArrival, atPort_of_lt hp, frameArrival, hrx, hmode, fabricRx, hbad]
  case control =>
    simp [exec_frameArrival, execFrameArrival, atPort_of_lt hp, frameArrival, hrx, hmode, fabricRx, hcw, hctl, controlRx, hfence, hcrc]
  case frame =>
    simp [exec_frameArrival, execFrameArrival, atPort_of_lt hp, frameArrival, hrx, hmode, fabricRx, hcw, hffh, hfence, het, openFrame, hprot, hseal,
      frontWakes, ← hu]
    cases linkLive u f.port <;> rfl
  case ether =>
    subst hu
    rw [exec_ethFrameArrival, execEthFrameArrival, atPort_of_lt hp, ethArrival, etherPortRx_of _ hcw hmac hfence hscreen, hudp]
    simp [hrx, hmode]
  case virtual =>
    subst hu
    rw [exec_udpDatagramArrival_of hp, datagramArrival_of hmode hrx hfence hcw hmac hscreen hudp hsum]
    simp [datagramRx, hopen, hv, vlinkBase]
  case noLink =>
    subst hu
    rw [exec_udpDatagramArrival_of hp, datagramArrival_of hmode hrx hfence hcw hmac hscreen hudp hsum]
    simp [datagramRx, hopen, hv]
  case opened =>
    subst hu
    rw [exec_vlinkOpen, execVlinkOpen, atPort_of_lt hp, datagramArrival_of hmode hrx hfence hcw hmac hscreen hudp hsum]
    simp [datagramRx, hopen, hv]

/-! Departures -/

theorem rekeyAtLimit_of_none {s : State} {l : Nat} (h : (linkKeys s l).txKey = none) : rekeyAtLimit s l = s := by
  simp [rekeyAtLimit, h]

/-- A fold whose every step leaves the state leaves it. -/
theorem foldl_fixed {α β : Type} {f : β → α → β} {b : β} : ∀ {l : List α}, (∀ a ∈ l, f b a = b) → l.foldl f b = b
  | [], _ => rfl
  | a :: l, h => by
    rw [List.foldl_cons, h a List.mem_cons_self]
    exact foldl_fixed fun x hx => h x (List.mem_cons_of_mem a hx)

/-- Settles O44. -/
theorem departuresComplete : Obligations.DeparturesComplete := by
  unfold Obligations.DeparturesComplete
  refine ⟨fun s p i k hp hopp hcal => ⟨_, rfl, ?bySlot⟩, fun s p hp hopp => ⟨fun i hcal => ?starved, fun hcal => ?nothing⟩,
    fun s p hp hopp => ?closed, fun s p hp => ⟨?tc7, ?own⟩, fun s p hkeys => foldl_fixed fun l hl => rekeyAtLimit_of_none (hkeys l hl)⟩
  case bySlot =>
    rw [exec_transmitOpportunity, execTransmitOpportunity, atPort_of_lt hp, transmit]
    simp only [hopp, hcal, Bool.not_true, Bool.false_eq_true, if_false]
  case starved =>
    rw [exec_transmitOpportunity, execTransmitOpportunity, atPort_of_lt hp, transmit]
    simp only [hopp, hcal, Bool.not_true, Bool.false_eq_true, if_false]
  case nothing =>
    rw [exec_transmitOpportunity, execTransmitOpportunity, atPort_of_lt hp, transmit]
    simp only [hopp, hcal, Bool.not_true, Bool.false_eq_true, if_false]
  case closed =>
    rw [exec_transmitOpportunity, execTransmitOpportunity, atPort_of_lt hp, transmit]
    simp only [hopp, Bool.not_false, if_true]
  case tc7 => rw [exec_tc7Departure, execTc7Departure, atPort_of_lt hp]
  case own => rw [exec_spineTc7Departure, execSpineTc7Departure, atPort_of_lt hp]

end Sys2Proof.Proofs

/-!
Privet and Hedgerow: rings (R264 to R267), line power (R268 to R275), migrations (R269 to R273), steering and circuits (R277 to R283).
-/
namespace Sys2Proof.Proofs

open Sys2Proof Sys2Proof.Machine Sys2Proof.Laws Sys2Proof.Safety

theorem elapsed_of {s : State} {t d : Nat} (h : t + d ≤ s.raw) : elapsed s t d = true := decide_eq_true h

theorem reached_of {s : State} {t : Nat} (h : t ≤ nowNs s) : reached s t = true := decide_eq_true h

/-! Rings -/

/-- Settles O45. -/
theorem ringsComplete : Obligations.RingsComplete := by
  unfold Obligations.RingsComplete
  refine ⟨fun s r t peaks lit hr hacq hcross htarget hev => ?found, fun s r peaks lit hr hacq hcross htarget htries => ?lost,
    fun s r h hr hlock hout => ?window, fun s r h hr hlock hend => ?range, fun s c eng dir fib line r hown hbody he hd hf hl hr => ?relock⟩
  case found =>
    simp [exec_ringAcquireComplete, execRingAcquireComplete, atUnit_of_lt hr, acquireDone, hacq, hcross, htarget, hev]
  case lost =>
    simp [exec_ringAcquireComplete, execRingAcquireComplete, atUnit_of_lt hr, acquireDone, hacq, hcross, htarget, Nat.not_le.mpr htries]
  case window =>
    have hw : outsideWindow s r h = true := by simpa [outsideWindow] using hout
    simp [exec_heaterWindowExceeded, execHeaterWindowExceeded, atUnit_of_lt hr, hlock, hw]
  case range =>
    simp [exec_heaterAtRangeLimit, execHeaterAtRangeLimit, atUnit_of_lt hr, hlock, hend]
  case relock =>
    obtain ⟨hhub, hauth⟩ := hown
    have heng : beAt c.body 0 1 = eng := by
      rw [hbody, List.append_assoc, List.append_assoc, beAt_beBytes_append, Nat.mod_eq_of_lt (by omega)]
    have hdir : beAt c.body 1 1 = dir := by
      rw [hbody, List.append_assoc, List.append_assoc, beAt_skip Nat.le.refl, Nat.sub_self, beAt_beBytes_append, Nat.mod_eq_of_lt (by omega)]
    have hfib : beAt c.body 2 1 = fib := by
      rw [hbody, List.append_assoc, beAt_append_right (by simp)]
      simp [beAt_beBytes_append]
      omega
    have hline : beAt c.body 3 1 = line := by
      rw [hbody, beAt_append_right (by simp)]
      simp [beAt_beBytes]
      omega
    have hlen : c.body.length = 4 := by simp [hbody]
    have hlegal : (decide (eng < 16) && decide (dir < 2) && decide (fib < 4) && decide (line < 18)) = true := by simp [he, hd, hf, hl]
    simp only [exec_optRelock, execOptRelock, needOwner_of hauth, needLen_of hlen, heng, hdir, hfib, hline, need_of hlegal, ← hr, ok_bind_eq,
      pure_eq_ok]
    exact runCmd_of_ok hhub

/-! Line power -/

/-- Settles O46. -/
theorem linePowerCommandsComplete : Obligations.LinePowerCommandsComplete := by
  unfold Obligations.LinePowerCommandsComplete
  refine ⟨fun s s1 eng means he => ⟨fun hearly => ?early, fun hdue hs1 hfew => ?due⟩, fun s c mask comb pick hown hmask hcomb hbody hpick => ?baseline,
    fun s c eng comb hown he hcomb hbody => ?comb⟩
  case early =>
    have hnot : elapsed s (tget 0 s.prv.evalAt eng) (ticksOfUs (fld s .POWER_PERIOD_US)) = false := decide_eq_false (Nat.not_le.mpr hearly)
    simp [exec_powerEvaluation, execPowerEvaluation, atUnit_of_lt he, hnot]
  case due =>
    simp [exec_powerEvaluation, execPowerEvaluation, atUnit_of_lt he, elapsed_of hdue, evaluatePower, ← hs1, Nat.not_le.mpr hfew]
  case baseline =>
    obtain ⟨hhub, hauth⟩ := hown
    have hmask' : beAt c.body 0 2 = mask := by rw [hbody, beAt_beBytes_append, Nat.mod_eq_of_lt (by omega)]
    have hcomb' : beAt c.body 2 1 = comb := by rw [hbody, beAt_skip Nat.le.refl, Nat.sub_self, beAt_beBytes, Nat.mod_eq_of_lt (by omega)]
    have hlen : c.body.length = 3 := by simp [hbody]
    simp only [exec_optBaseline, execOptBaseline, needOwner_of hauth, needLen_of hlen, hmask', hcomb', need_of (decide_eq_true hcomb), beq_iff_eq,
      ← hpick, ok_bind_eq, pure_eq_ok]
    exact runCmd_of_ok hhub
  case comb =>
    obtain ⟨hhub, hauth⟩ := hown
    have heng : beAt c.body 0 1 = eng := by rw [hbody, beAt_beBytes_append, Nat.mod_eq_of_lt (by omega)]
    have hcomb' : beAt c.body 1 1 = comb := by rw [hbody, beAt_skip Nat.le.refl, Nat.sub_self, beAt_beBytes, Nat.mod_eq_of_lt (by omega)]
    have hlen : c.body.length = 2 := by simp [hbody]
    have hlegal : (decide (eng < 16) && decide (comb < 2)) = true := by simp [he, hcomb]
    have hexec : exec (.optComb c) s = done (if (combOf s eng == comb) = true then { s with prv := { s.prv with spent := s.prv.spent.filter (· != eng) } }
        else switchComb { s with prv := { s.prv with spent := s.prv.spent.filter (· != eng) } } eng) c 0x0603 [] := by
      simp only [exec_optComb, execOptComb, needOwner_of hauth, needLen_of hlen, heng, hcomb', need_of hlegal, ok_bind_eq, pure_eq_ok]
      exact runCmd_of_ok hhub
    exact ⟨fun h => by rw [hexec, if_pos (beq_iff_eq.mpr h)], fun h => by rw [hexec, if_neg (by simpa using h)]⟩

/-! Migrations -/

/-- Keeping a transmitting migration leaves the receiving one of a lane. -/
theorem migOf_false_putMig {s : State} {m : Mig} (htx : m.tx = true) (lane : Nat) : migOf (putMig s m) false lane = migOf s false lane := by
  have hnew : [m].find? (fun x => x.tx == false && x.lane == lane) = none := by simp [htx]
  simp only [migOf, putMig, dropMig, List.find?_append, hnew, Option.or_none, List.find?_filter]
  congr 1
  funext x
  cases hx : x.tx with
  | true => simp
  | false => simp [htx]; rfl

theorem migOf_tx {s : State} {tx : Bool} {lane : Nat} {m : Mig} (h : migOf s tx lane = some m) : m.tx = tx := by
  have := List.find?_some h
  simp only [Bool.and_eq_true, beq_iff_eq] at this
  exact this.1

theorem laneHolder_congr {s t : State} (hregs : t.regs = s.regs) (hlanes : t.lk.laneOf = s.lk.laneOf) (lane : Nat) :
    laneHolder t lane = laneHolder s lane := by
  simp only [laneHolder, holder, holderFrom_congr hregs, hlanes]

theorem repeatMig_of {s : State} {tx : Bool} {lane : Nat} {m : Mig} (hm : migOf s tx lane = some m) (hmsg : m.msg ≠ []) (hdue : m.sentAt + 1250 ≤ s.raw) :
    repeatMig s tx lane = sendOpt (putMig s { m with sentAt := s.raw }) lane m.msg := by
  have hnow : elapsed s m.sentAt (ticksOfUs 1) = true := elapsed_of (by simpa only [ticksOfUs, Nat.one_mul] using hdue)
  simp [repeatMig, hm, hmsg, hnow]

theorem repeatMig_of_idle {s : State} {tx : Bool} {lane : Nat} (h : ∀ x, migOf s tx lane = some x → x.msg = []) : repeatMig s tx lane = s := by
  rw [repeatMig]
  split
  next m hm => simp [h m hm]
  next => rfl

/-- Settles O47. -/
theorem migrationsComplete : Obligations.MigrationsComplete := by
  unfold Obligations.MigrationsComplete
  refine ⟨fun s c lane dest t hown hlane hdest hbody ht hmay hnone hline hfree => ?migrate,
    fun s lane m hlane hm => ⟨fun hstep hat => ?start, fun hstep hdue => ?timeout, fun hmsg hdue hrx => ?again⟩,
    fun s p n msg ans hp htaken hn hnone hto hdis hsteer hfree hans => ?request,
    fun s p msg m hp htaken hm hid => ⟨fun hstep => ?ready, fun hstep => ?finished, fun u hpast hu hlocal => ?aborted⟩,
    fun s p n msg m hp htaken hn hm hid hstep => ⟨fun hnow => ?switchNow, fun hemerg hlater => ?switchLater⟩,
    fun s lane m hlane hm hstep hat hnow => ?switchTime, fun s p msg hp htaken hlane hheld hline => ?ask⟩
  case migrate =>
    obtain ⟨hhub, hauth⟩ := hown
    have hbase : baseLine lane < 256 := by unfold baseLine; omega
    have hlane' : beAt c.body 0 2 = lane := by
      rw [hbody, List.append_assoc, List.append_assoc, beAt_beBytes_append, Nat.mod_eq_of_lt (by omega)]
    have hdest' : beAt c.body 2 1 = dest := by
      rw [hbody, List.append_assoc, List.append_assoc, beAt_skip Nat.le.refl, Nat.sub_self, beAt_beBytes_append, Nat.mod_eq_of_lt (by omega)]
    have hzero : beAt c.body 3 1 = 0 := by
      rw [hbody, List.append_assoc, beAt_append_right (by simp)]
      rfl
    have ht' : beAt c.body 4 4 = t := by
      rw [hbody, beAt_append_right (by simp)]
      simp [beAt_beBytes]
      omega
    have hlen : c.body.length = 8 := by simp [hbody]
    have hlegal : (decide (lane < 1024) && (0 : Nat) == 0 && (dest == 16 || dest == 17 || dest == baseLine lane)) = true := by
      simpa [hlane, or_assoc] using hdest
    have hidle : (mayMigrate s lane && (migOf s true lane).isNone && txLineOf s lane != dest) = true := by simp [hmay, hnone, hline]
    simp only [exec_optMigrate, execOptMigrate, needOwner_of hauth, needLen_of hlen, hlane', hdest', hzero, ht', need_of hlegal, need_of hidle,
      need_of hfree, ok_bind_eq, pure_eq_ok]
    exact runCmd_of_ok hhub
  case start =>
    simp [exec_migrationScheduledStart, execMigrationScheduledStart, atUnit_of_lt hlane, hm, hstep, reached_of hat]
  case timeout =>
    simp [exec_migTimeout, execMigTimeout, atUnit_of_lt hlane, hm, hstep, elapsed_of hdue, migFailed]
  case again =>
    have htx : m.tx = true := migOf_tx hm
    have hidle : ∀ x, migOf (sendOpt (putMig s { m with sentAt := s.raw }) lane m.msg) false lane = some x → x.msg = [] := fun x hx =>
      hrx x ((migOf_false_putMig (m := { m with sentAt := s.raw }) htx lane).symm.trans hx)
    rw [exec_opticalControlMessageRepeat, execOpticalControlMessageRepeat, atUnit_of_lt hlane, repeatMig_of hm hmsg hdue, repeatMig_of_idle hidle]
    have hheld : laneHolder (putMig s { m with sentAt := s.raw }) lane = laneHolder s lane := laneHolder_congr (s := s) (t := putMig s _) rfl rfl lane
    refine ⟨_, rfl, ?_⟩
    rw [sendOpt, hheld]
    rfl
  case request =>
    subst hans
    simp [exec_migReqReceived, execMigReqReceived, atPort_of_lt hp, htaken, migReq, hn, hnone, migReq.accept, hto, hdis, hsteer, hfree]
  case ready =>
    refine ⟨if m.emerg then nowNs s else nowNs s + (portLink s (laneHolder s m.lane)).rtt / 2 + fld s .SW_MARGIN_US * 1000,
      optMsg 3 m.id m.laneId m.emerg m.fromLine m.toLine (if m.emerg then 0
        else (nowNs s + (portLink s (laneHolder s m.lane)).rtt / 2 + fld s .SW_MARGIN_US * 1000) % 2 ^ 32), ?_, fun h => ?_, fun h => ?_⟩
    · rw [exec_migReadyReceived, execMigReadyReceived, atPort_of_lt hp, htaken, migReady, hm]
      simp only [hid, hstep, bne_self_eq_false, Bool.or_self, Bool.false_eq_true, if_false, if_true]
    · rw [h]; exact ⟨rfl, rfl⟩
    · rw [h]; exact ⟨rfl, rfl⟩
  case finished =>
    simp [exec_migDoneReceived, execMigDoneReceived, atPort_of_lt hp, htaken, hm, hid, hstep]
  case aborted =>
    have hown : (if (m.id == optId msg && !migPastSwitch s m) = true then
        migFailed (raise (dropMig s true m.lane) .prvMigAbort m.lane (recVal m.lane)) m else s) = u := by
      rw [hid, hpast, hu]; simp [migFailed]
    rw [exec_migAbortReceived, execMigAbortReceived, atPort_of_lt hp, htaken, migAbortMsg, hm]
    simp only [hown, hlocal, Option.bind_none, if_true]
  case switchNow =>
    have hnow' : (optEmerg msg || reached s (expand32 s (optTsw msg))) = true := by simpa [reached] using hnow
    simp [exec_migSwitchReceived, execMigSwitchReceived, atPort_of_lt hp, htaken, migSwitchMsg, hn, hm, hid, hstep, hnow']
  case switchLater =>
    have hlater' : reached s (expand32 s (optTsw msg)) = false := decide_eq_false (Nat.not_le.mpr hlater)
    simp [exec_migSwitchReceived, execMigSwitchReceived, atPort_of_lt hp, htaken, migSwitchMsg, hn, hm, hid, hstep, hemerg, hlater']
  case switchTime =>
    simp [exec_migSwitchTime, execMigSwitchTime, atUnit_of_lt hlane, hm, hstep, hat, reached_of hnow]
  case ask =>
    simp [exec_migAskReceived, execMigAskReceived, atPort_of_lt hp, htaken, hlane, hheld, hline]

/-! Steering and circuits -/

/-- Settles O48. -/
theorem steeringAndCircuitsComplete : Obligations.SteeringAndCircuitsComplete := by
  unfold Obligations.SteeringAndCircuitsComplete
  refine ⟨fun s c img n t raws hown himg hn hv hk h1 hmax hlen hz hraws hok hlock hstruct htime hpend => ?steer,
    fun s img hpend hdue => ?takeover,
    fun s c p img n t raws hten himg hn hpart hp hv hk hmax hlen hz hraws hok hlock hholds hmine hclash htime hpend => ?circuits,
    fun s part img hpend hdue => ?circuitTakeover,
    fun s out pw x hout hx => ⟨fun hdark => ?lit, fun hlit hnew hlow => ?lost, fun hlit hhigh => ?good⟩,
    fun s c hown hbody hrep => ?cancelSteer, fun s c p hten hp hbody hrep => ?cancelCircuits⟩
  case steer =>
    obtain ⟨hhub, hauth⟩ := hown
    subst hn
    have hhead : (beAt img 4 1 == 1 && beAt img 5 1 == 1 && decide (1 ≤ beAt img 6 2) && decide (beAt img 6 2 ≤ 1280) &&
        img.length == 32 + 12 * beAt img 6 2 && beAt img 24 4 == 0) = true := by simp [hv, hk, h1, hmax, hlen, hz]
    have henc := eachOk_need_of (fun e he => (hok e he).1) .badParam 1 0
    have hports : eachOk (fun i e => need (decide (SteerEnt.port e < nPorts)) .outOfRange 3 i) 0 (raws.map steerEnt) = .ok () :=
      eachOk_need_of (fun e he => by
        obtain ⟨r, hr, rfl⟩ := List.mem_map.mp he
        exact decide_eq_true (hok r hr).2) .outOfRange 3 0
    have hstructs : eachOk (fun i e => need (steerStructOk s (raws.map steerEnt) i e) .conflict 4 i) 0 (raws.map steerEnt) = .ok () :=
      eachOk_of_getElem? fun i e he => by rw [Nat.zero_add]; exact need_of (hstruct i e he) ..
    have hunlocked : (!flag s .STEER_LOCK) = true := by simp [hlock]
    have hrep : replaceable s (s.prv.steerPend.map (·.takeover)) = true := by rw [hpend]; rfl
    simp only [exec_loadSteer, execLoadSteer, needOwner_of hauth, himg, need_of hhead, ← hraws, henc, need_of hunlocked, hports, hstructs, htime,
      need_of hrep, ok_bind_eq, pure_eq_ok]
    exact runCmd_of_ok hhub
  case takeover =>
    simp [exec_steerTakeover, execSteerTakeover, hpend, reached_of hdue]
  case circuits =>
    obtain ⟨hhub, hauth, htear⟩ := hten
    subst hn
    have hhead : (beAt img 4 1 == 2 && beAt img 5 1 == 1 && decide (beAt img 6 2 ≤ 512) && img.length == 32 + 4 * beAt img 6 2 &&
        decide (p < 4096) && beAt img 26 2 == 0) = true := by simp [hv, hk, hmax, hlen, hz, hp]
    have henc := eachOk_need_of hok .badParam 1 0
    have hclashes : eachOk (fun i e => need (!((raws.map circuitEnt).take i).any (circuitClash e) && !(otherCircuits s p).any (circuitClash e))
        .conflict 4 i) 0 (raws.map circuitEnt) = .ok () :=
      eachOk_of_getElem? fun i e he => by
        rw [Nat.zero_add, (hclash i e he).1, (hclash i e he).2]
        exact need_of rfl ..
    have hunlocked : (!flag s .CIRC_LOCK) = true := by simp [hlock]
    have hauthor : (p == p && holdsPart s && s.haw.part == p) = true := by simp [hholds, hmine]
    have hrep : replaceable s ((tfind s.xc.pend p).map (·.takeover)) = true := by rw [hpend]; rfl
    simp only [exec_loadCircuits, execLoadCircuits, needTenant_of hauth htear, himg, hpart, need_of hhead, ← hraws, henc, need_of hunlocked,
      need_of hauthor, hclashes, htime, need_of hrep, ok_bind_eq, pure_eq_ok]
    exact runCmd_of_ok hhub
  case circuitTakeover =>
    simp [exec_circuitTakeover, execCircuitTakeover, hpend, reached_of hdue]
  case lit =>
    simp [exec_circuitLit, execCircuitLit, atUnit_of_lt hout, hx, hdark]
  case lost =>
    simp [exec_xcOutputFall, execXcOutputFall, atUnit_of_lt hout, hx, hlit, hnew, hlow]
  case good =>
    simp [exec_xcOutputFall, execXcOutputFall, atUnit_of_lt hout, hx, hlit, Int.not_le.mpr hhigh]
  case cancelSteer =>
    obtain ⟨hhub, hauth⟩ := hown
    have hlen : c.body.length = 3 := by rw [hbody]; rfl
    have hkind : beAt c.body 0 1 = 1 := by rw [hbody]; rfl
    have hpart : beAt c.body 1 2 = 0 := by rw [hbody]; rfl
    simp only [exec_optCancel, execOptCancel, needOwner_of hauth, needLen_of hlen, hkind, hpart, beq_self_eq_true, Bool.true_or, need_of rfl,
      need_of hrep, if_true, ok_bind_eq, pure_eq_ok]
    exact runCmd_of_ok hhub
  case cancelCircuits =>
    obtain ⟨hhub, hauth, htear⟩ := hten
    have hlen : c.body.length = 3 := by simp [hbody]
    have hkind : beAt c.body 0 1 = 2 := by rw [hbody]; rfl
    have hpart : beAt c.body 1 2 = p := by rw [hbody, beAt_append_right (by simp)]; simp [beAt_beBytes]; omega
    simp only [exec_optCancel, execOptCancel, needTenant_of hauth htear, needLen_of hlen, hkind, hpart, beq_self_eq_true, Bool.or_true, need_of rfl,
      need_of (decide_eq_true hp), need_of hrep, Nat.reduceBEq, Bool.false_eq_true, if_false, ok_bind_eq, pure_eq_ok]
    exact runCmd_of_ok hhub

end Sys2Proof.Proofs

/-!
Fabric time (R287 to R299, R305), world time (R300), time beats (R301) and the quality of a stamp (R302).
-/
namespace Sys2Proof.Proofs

open Sys2Proof Sys2Proof.Machine Sys2Proof.Laws Sys2Proof.Safety

/-! The step -/

theorem localExact_congr {s t : State} (hyew : t.yew = s.yew) (hraw : t.raw = s.raw) : localExact t = localExact s := by
  rw [localExact, localExact, hyew, hraw]

theorem localExact_setRate (s : State) (r : Nat) : localExact (setRate s r) = localExact s := by
  simp only [localExact, setRate, Int.mul_sub]
  omega

theorem stepTime_yew (s : State) (theta : Int) (phase : YewPhase) : (stepTime s theta phase).yew = { s.yew with
    offset := s.yew.offset - theta, stepped := true, phase := phase, acq := [], lockRun := 0, unlockRun := 0 } := by
  rw [stepTime, raise_yew]

/-- A root's step leaves a locked spine that is its own root. -/
theorem rootStep_yew (s : State) (theta : Int) : (rootStep s theta).yew = { s.yew with
    offset := s.yew.offset - theta, stepped := true, phase := .locked, acq := [], lockRun := 0, unlockRun := 0, root := selfSpine s } := by
  rw [rootStep, raise_yew]
  dsimp only
  rw [stepTime_yew]

theorem localExact_rootStep (s : State) (theta : Int) : localExact (rootStep s theta) = localExact s - theta := by
  have hraw : (rootStep s theta).raw = s.raw := by rw [rootStep, raise_raw, stepTime, raise_raw]
  simp only [localExact, rootStep_yew, hraw]
  omega

/-- The ports of a body of `TIME_CAL` are those named. -/
theorem map_beAt_pairs {ports : List Nat} (hsmall : ∀ p ∈ ports, p < 65536) {pre : List Byte} (hpre : pre.length = 4) :
    ((List.range ports.length).map fun i => beAt (pre ++ ports.flatMap (beBytes 2)) (4 + 2 * i) 2) = ports := by
  have h := map_bytesAt_flatMap (f := beBytes 2) (l := ports) (fun p _ => beBytes_length 2 p) pre
  rw [hpre] at h
  calc ((List.range ports.length).map fun i => beAt (pre ++ ports.flatMap (beBytes 2)) (4 + 2 * i) 2)
      = ((List.range ports.length).map fun i => bytesAt (pre ++ ports.flatMap (beBytes 2)) (4 + 2 * i) 2).map beNat := by
        rw [List.map_map]; rfl
    _ = ports.map (beNat ∘ beBytes 2) := by rw [h, List.map_map]
    _ = ports := by
        refine (List.map_congr_left fun p hp => ?_).trans (List.map_id _)
        rw [Function.comp_apply, beNat_beBytes, id_eq]
        exact Nat.mod_eq_of_lt (hsmall p hp)

/-- The results of `TIME_STATUS` (Table 13.6). -/
def timeReport (s : State) : List Byte :=
  beBytes 1 (match s.yew.phase with | .free => 0 | .acquire => 1 | .tracking => 2 | .locked => 3 | .holdover => 4) ++
    beBytes 1 (moduleQual s (flag s .ROOT_EN)) ++ zeroBytes 2 ++ beBytes 8 (nowNs s) ++ beBytes 2 (nowFrac s) ++ zeroBytes 2 ++
    beBytes 8 s.raw ++ beBytes 8 s.yew.rate ++ beBytes 4 (thetaPs s.yew.theta) ++
    beBytes 4 (clampInt 0 4294967295 (s.yew.delay / 131072)).toNat ++ beBytes 4 (wrapInt 32 s.yew.worldOfs) ++ beBytes 2 s.yew.utcOfs ++ zeroBytes 2

/-- Settles O49. -/
theorem fabricTimeCompletes : Obligations.FabricTimeCompletes := by
  unfold Obligations.FabricTimeCompletes
  refine ⟨localExact_setRate, fun s p hp hport hdue => ?send, fun s s1 fid f htake hver hsample => ?receive,
    fun s hroot hstep hdue => ⟨rootStep s 0, ?rootWait, ?rooted⟩, fun s c t hown hbody ht hroot hstep => ⟨?timeStep, ?stepped⟩,
    fun s hroot hpri halt hphase hservo => ⟨_, rfl, ?silence⟩, fun s c hown hbody => ?status,
    fun s c ref ports hown href hne hmany hbody hspine hports hroot hcal => ?cal⟩
  case send => simp [exec_timeFrameSend, execTimeFrameSend, atPort_of_lt hp, hport, elapsed_of hdue]
  case receive =>
    simp [exec_timeFrameReceive, execTimeFrameReceive, htake, timeFrame, hver, hsample]
  case rootWait =>
    rw [exec_rootWaitExpiry, execRootWaitExpiry, hroot, hstep, elapsed_of hdue]
    rfl
  case rooted =>
    rw [rootStep_yew]
    exact ⟨rfl, rfl, rfl, Int.sub_zero _⟩
  case timeStep =>
    obtain ⟨hhub, hauth⟩ := hown
    have ht' : beAt c.body 0 8 = t := by rw [hbody, beAt_beBytes, Nat.mod_eq_of_lt (by omega)]
    have hunstepped : (!s.yew.stepped) = true := by simp [hstep]
    simp only [exec_timeStep, execTimeStep, needOwner_of hauth, needLen_of (hbody ▸ beBytes_length 8 t), need_of hroot, need_of hunstepped, ht',
      ok_bind_eq, pure_eq_ok]
    exact runCmd_of_ok hhub
  case stepped => rw [localExact_rootStep]; omega
  case silence =>
    have hpri' : (!flag s .PRI_V || parentSilent s (fld s .PARENT_PRI)) = true := by
      cases h : flag s .PRI_V with
      | false => rfl
      | true => simp [hpri h]
    have hphase' : (s.yew.phase == .tracking || s.yew.phase == .locked) = true := by simpa using hphase
    simp [exec_parentSilence, execParentSilence, hroot, hpri', halt, hphase', hservo]
  case status =>
    obtain ⟨hhub, hauth⟩ := hown
    have hlen : c.body.length = 0 := by rw [hbody]; rfl
    have hexec := runCmd_of_ok (c := c) (op := 0x0702) (t := s) (res := timeReport s) hhub
    refine ⟨timeReport s, ?_, by simp [timeReport]⟩
    simp only [exec_timeStatus, execTimeStatus, needOwner_of hauth, needLen_of hlen, ok_bind_eq, pure_eq_ok]
    exact hexec
  case cal =>
    obtain ⟨hhub, hauth⟩ := hown
    have hpre : (beBytes 2 ref ++ beBytes 2 ports.length).length = 4 := by rw [List.length_append, beBytes_length, beBytes_length]
    have href' : beAt c.body 0 2 = ref := by rw [hbody, List.append_assoc, beAt_beBytes_append, Nat.mod_eq_of_lt (by omega)]
    have hn : beAt c.body 2 2 = ports.length := by
      rw [hbody, List.append_assoc, beAt_skip Nat.le.refl, Nat.sub_self, beAt_beBytes_append, Nat.mod_eq_of_lt (by omega)]
    have hlist : ((List.range ports.length).map fun i => beAt c.body (4 + 2 * i) 2) = ports := by
      rw [hbody]; exact map_beAt_pairs (fun p hp => by have := (hports p hp).1; omega) hpre
    have hlen : (c.body.length == 4 + 2 * ports.length) = true := by
      rw [hbody, List.length_append, hpre, length_flatMap_of (beBytes_length 2), Nat.mul_comm, beq_self_eq_true]
    have hall : ((ref :: ports).all fun p => decide (p < nPorts) && dimCode s p == dimCode s ref && isSpinePort s p) = true := by
      rw [List.all_eq_true]
      intro p hp
      rcases List.mem_cons.mp hp with rfl | hp
      · simp [hspine, href, nPorts]
      · obtain ⟨hlt, hdim⟩ := hports p hp
        have hs : isSpinePort s p = true := by rw [isSpinePort, hdim]; exact hspine
        simp [hs, hlt, hdim, nPorts]
    have hnoParent : (!(!flag s .ROOT_EN && (if s.yew.altActive then flag s .ALT_V else flag s .PRI_V) &&
        ports.contains (if s.yew.altActive then fld s .PARENT_ALT else fld s .PARENT_PRI))) = true := by rw [hroot]; rfl
    have hfree : s.yew.cal.isNone = true := by rw [hcal]; rfl
    have hnot : ports.isEmpty = false := by simpa using hne
    simp only [exec_timeCal, execTimeCal, needOwner_of hauth, href', hn, need_of hlen, hlist, need_of hall, need_of hnoParent, need_of hfree, hnot,
      ok_bind_eq, pure_eq_ok, Bool.false_eq_true, if_false, runLong, hhub, Bool.not_true]

/-! World time and beats -/

/-- A beat that reaches every region leaves the mark of STALE to the sleeping ones. -/
theorem beatRegions_nil (s : State) : beatRegions s [] = { s with yew := { s.yew with
    regionMissed := [], regionStale := s.yew.regionStale.filter fun r => !(tget SleepState.awake s.pwr.domains r == .awake) } } := by
  simp [beatRegions, raiseEach]

/-- The root once a Sync of the run of its grandmaster has been noted. -/
def syncNoted (s : State) (gm : Nat) (k : Int) (utc : Nat) : State :=
  { s with yew := { s.yew with
      ptpMaster := gm, ptpRun := s.yew.ptpRun + 1, ptpLast := s.raw, ptpInterval := k, ptpLost := false, utcOfs := utc % 65536 } }

theorem localExact_syncNoted (s : State) (gm : Nat) (k : Int) (utc : Nat) : localExact (syncNoted s gm k utc) = localExact s := rfl

/-- Settles O50. -/
theorem worldTimeAndBeatsComplete : Obligations.WorldTimeAndBeatsComplete := by
  unfold Obligations.WorldTimeAndBeatsComplete
  refine ⟨fun s src domain gm time utc k hfrom hdomain => ⟨fun hrun hgm => ?noted, fun hgm => ?newMaster, fun hrun hgm hstep => 
      ⟨rootStep (syncNoted s gm k utc) (localExact s - ((time * 2 ^ 24 : Nat) : Int)), ?fourth, ?world⟩⟩,
    fun s hroot hptp hrun hdue => ?loss, fun s haon hthr hraw => ?beat⟩
  case noted =>
    simp [exec_ptpSyncReceive, execPtpSyncReceive, hfrom, hdomain, hgm, show s.yew.ptpRun + 1 < 4 by omega]
  case newMaster =>
    simp [exec_ptpSyncReceive, execPtpSyncReceive, hfrom, hdomain, hgm]
  case fourth =>
    simp only [exec_ptpSyncReceive, execPtpSyncReceive, hfrom, hdomain, hgm, hstep, beq_self_eq_true, if_true, bne_self_eq_false, Bool.not_true,
      Bool.or_self, Bool.false_eq_true, if_false, show ¬ s.yew.ptpRun + 1 < 4 by omega, Bool.not_false]
    rfl
  case world =>
    rw [rootStep_yew, localExact_rootStep, localExact_syncNoted]
    exact ⟨rfl, rfl, by omega⟩
  case loss =>
    simp [exec_ptpLoss, execPtpLoss, hroot, hptp, hrun, elapsed_of hdue]
  case beat =>
    have hnext : (s.raw / 1250 + 1) * 1250 % 2 ^ 64 = (s.raw / 1250 + 1) * 1250 := Nat.mod_eq_of_lt (by omega)
    have hexec : exec (.timeBeat []) s = .next (beatRegions (emit { s with raw := (s.raw / 1250 + 1) * 1250 }
        (.beat ((s.raw / 1250 + 1) * 1250) s.yew.offset s.yew.rate)) []) := by
      have hquiet := slotThresholds_of_none (s := beatRegions (emit { s with raw := (s.raw / 1250 + 1) * 1250 }
        (.beat ((s.raw / 1250 + 1) * 1250) s.yew.offset s.yew.rate)) []) (by
          rw [beatRegions_nil]
          exact hthr ▸ List.forall_mem_nil _)
      rw [exec_timeBeat, execTimeBeat, hnext, haon]
      exact congrArg Host.Outcome.next hquiet
    refine ⟨_, hexec, ?_⟩
    rw [beatRegions_nil]
    refine ⟨by simp [emit], by simp only [emit]; omega, by simp only [emit]; omega, rfl, fun r hr => ?_⟩
    simpa using List.mem_filter.mp hr

/-! Quality -/

theorem moduleQual_le {s : State} (root : Bool) (h : s.yew.parentQual ≤ 3) : moduleQual s root ≤ 3 := by
  cases hp : s.yew.phase <;> simp only [moduleQual, hp] <;> split <;> omega

/-- Settles O51. -/
theorem qualityOfAStamp : Obligations.QualityOfAStamp := by
  unfold Obligations.QualityOfAStamp
  intro s root region hparent
  have hmod := moduleQual_le root hparent
  refine ⟨Nat.le_max_left .., ?_, fun h => ?_, fun h => ?_, ?_, fun hphase hroot => ?_⟩
  · rw [qualIn]; split <;> omega
  · rw [qualIn, if_pos h]; omega
  · rw [qualIn, h, if_neg Bool.false_ne_true, Nat.max_zero]
  · rw [qualIn]; split <;> omega
  · rw [moduleQual, hphase, hroot]; rfl

end Sys2Proof.Proofs

/-!
Fences by command, HOLD, probation, the expulsion budget and SCORE (R319, R327 to R333).
-/
namespace Sys2Proof.Proofs

open Sys2Proof Sys2Proof.Machine Sys2Proof.Laws Sys2Proof.Safety

/-- The bytes of a body `[kind, 0] ++ n ++ rest` of the fence commands. -/
theorem fenceBody {b : List Byte} {kind : Byte} {k n m : Nat} {rest : List Byte} (hbody : b = [kind, 0] ++ beBytes 2 n ++ rest) (hn : n < 65536)
    (hkind : kind.toNat = k) (hrest : 4 + rest.length = m) :
    beAt b 0 1 = k ∧ beAt b 1 1 = 0 ∧ beAt b 2 2 = n ∧ beAt b 4 2 = beAt rest 0 2 ∧ b.length = m := by
  subst hbody hkind hrest
  refine ⟨?_, ?_, ?_, ?_, ?_⟩
  · simp [beAt, bytesAt, beNat]
  · simp [beAt, bytesAt, beNat]
  · rw [List.append_assoc, beAt_append_right (by simp)]
    simp [beAt_beBytes_append]
    omega
  · rw [beAt_append_right (by simp)]
    simp
  · simp
    omega

/-- The end of a probation that is over. -/
theorem endProbation_of {s : State} {x : Nat} {p : Probation} (hp : tfind s.haw.probation x = some p)
    (hover : p.since + ticksOfS (fld s .PROB_S) ≤ s.raw) :
    endProbation s x =
      (let s1 := { s with haw := { s.haw with probation := tdel s.haw.probation x } }
       if !p.failed && (match p.lastBeat with | some t => !elapsed s t (ticksOfUs (2 * fld s .BEAT_US) + 1) | none => false) then
         raise (setSpine s1 x fun b => { b with probation := false, cleared := true }) .hawProbPass 0 (recVal x)
       else raise ((portsToward (setSpine s1 x fun b => { b with probation := false }) x).foldl (fun t q => fencePort t q .fault)
         (setSpine s1 x fun b => { b with probation := false })) .hawProbFail 0 (recVal x)) := by
  rw [endProbation, hp]
  simp only [elapsed_of hover, Bool.not_true, Bool.false_eq_true, if_false] <;> rfl

/-- What `HAW_REPORT` tells after SCORE and EXPELLED. -/
theorem hawReport_of {s : State} {c : Ncp} (hown : OwnerCmd s c) (hbody : c.body = []) :
    ∃ rest, exec (.hawReport c) s = done s c 0x080B (beBytes 2 s.haw.score ++ beBytes 4 s.haw.expelled.length ++ rest) := by
  obtain ⟨hhub, hauth⟩ := hown
  have hlen : c.body.length = 0 := by rw [hbody]; rfl
  simp only [exec_hawReport, execHawReport, needOwner_of hauth, needLen_of hlen, ok_bind_eq, pure_eq_ok, runCmd_of_ok hhub]
  simp only [List.append_assoc]
  exact ⟨_, rfl⟩

/-- Settles O53. -/
theorem fencesByCommandComplete : Obligations.FencesByCommandComplete := by
  unfold Obligations.FencesByCommandComplete
  refine ⟨fun s c n hown => ⟨fun hbody hn habs hopen => ?fencePort_, fun hbody hn hsmall hopen => ?fenceSpine, fun p hbody hn hp hopen => ?fenceDown⟩,
    fun s c n dp hown => ⟨fun hbody hn => ?clearPort, fun hbody hn hvote => ?clearSpine_, fun hbody hn hdp => ?clearPair⟩,
    fun s c hown hbody hpart hholds hhold => ⟨_, rfl, ?release⟩, fun s c x hown hbody hx hfenced hweak => ?probation,
    fun s s1 x p hx hp hover hs1 => ⟨fun t hok hbeat hle hrecent => ?passed, fun s2 hbad hs2 => ?failed⟩,
    fun s c hown hbody => ?report, fun s => rfl, fun s hdue => ?recover, fun s p t hp hsink hdue hhold hopen => ⟨_, rfl, ?sink⟩⟩
  case fencePort_ =>
    obtain ⟨hhub, hauth⟩ := hown
    obtain ⟨hkind, hzero, hn', -, hlen⟩ := fenceBody (hbody.trans (List.append_nil _).symm) (by omega) (k := 1) (m := 4) rfl rfl
    have hport : (decide (n < nPorts) && !absorbed s n) = true := by simp [hn, habs, nPorts]
    have hfree : (!portFenced s n) = true := by simp [hopen]
    simp only [exec_hawFence, execHawFence, needOwner_of hauth, needLen_of hlen, hkind, hzero, hn', need_of hport, need_of hfree, Nat.reduceLeDiff,
      decide_true, Nat.reduceBEq, beq_self_eq_true, Bool.and_self, need_of rfl, if_true, Bool.false_eq_true, if_false, ok_bind_eq, pure_eq_ok]
    exact runCmd_of_ok hhub
  case fenceSpine =>
    obtain ⟨hhub, hauth⟩ := hown
    obtain ⟨hkind, hzero, hn', -, hlen⟩ := fenceBody (hbody.trans (List.append_nil _).symm) (by omega) (k := 2) (m := 4) rfl rfl
    have hfree : (!(spineBits s n).fenced) = true := by simp [hopen]
    simp only [exec_hawFence, execHawFence, needOwner_of hauth, needLen_of hlen, hkind, hzero, hn', need_of (decide_eq_true hn), need_of hfree,
      Nat.reduceLeDiff,
      decide_true, Nat.reduceBEq, beq_self_eq_true, Bool.and_self, need_of rfl, if_true, Bool.false_eq_true, if_false, ok_bind_eq, pure_eq_ok]
    exact runCmd_of_ok hhub
  case fenceDown =>
    obtain ⟨hhub, hauth⟩ := hown
    obtain ⟨hkind, hzero, hn', -, hlen⟩ := fenceBody (hbody.trans (List.append_nil _).symm) hn (k := 3) (m := 4) rfl rfl
    have hfree : (!portFenced s p) = true := by simp [hopen]
    simp only [exec_hawFence, execHawFence, needOwner_of hauth, needLen_of hlen, hkind, hzero, hn', hp, need_of hfree, Nat.reduceLeDiff,
      decide_true, Nat.reduceBEq, beq_self_eq_true, Bool.and_self, need_of rfl, Bool.false_eq_true, if_false, ok_bind_eq, pure_eq_ok]
    exact runCmd_of_ok hhub
  case clearPort =>
    obtain ⟨hhub, hauth⟩ := hown
    obtain ⟨hkind, hzero, hn', hdp', hlen⟩ := fenceBody hbody (by omega) (k := 1) (m := 6) rfl rfl
    have hport : decide (n < nPorts) = true := decide_eq_true hn
    rw [show beAt [0, 0] 0 2 = 0 from rfl] at hdp'
    simp only [exec_fenceClear, execFenceClear, needOwner_of hauth, needLen_of hlen, hkind, hzero, hn', hdp', need_of hport, Bool.or_true,
      Nat.reduceLT, Nat.reduceLeDiff,
      decide_true, Nat.reduceBEq, beq_self_eq_true, Bool.and_self, need_of rfl, if_true, Bool.false_eq_true, if_false, ok_bind_eq, pure_eq_ok]
    exact runCmd_of_ok hhub
  case clearSpine_ =>
    obtain ⟨hhub, hauth⟩ := hown
    obtain ⟨hkind, hzero, hn', hdp', hlen⟩ := fenceBody hbody (by omega) (k := 2) (m := 6) rfl rfl
    rw [show beAt [0, 0] 0 2 = 0 from rfl] at hdp'
    have hnone : (voteOn s n).isNone = true := by rw [hvote]; rfl
    simp only [exec_fenceClear, execFenceClear, needOwner_of hauth, needLen_of hlen, hkind, hzero, hn', hdp', need_of (decide_eq_true hn),
      need_of hnone, Bool.or_true, Nat.reduceLT, Nat.reduceLeDiff,
      decide_true, Nat.reduceBEq, beq_self_eq_true, Bool.and_self, need_of rfl, if_true, Bool.false_eq_true, if_false, ok_bind_eq, pure_eq_ok]
    exact runCmd_of_ok hhub
  case clearPair =>
    obtain ⟨hhub, hauth⟩ := hown
    obtain ⟨hkind, hzero, hn', hdp', hlen⟩ := fenceBody hbody hn (k := 3) (m := 6) rfl rfl
    rw [beAt_beBytes, Nat.mod_eq_of_lt (by omega)] at hdp'
    simp only [exec_fenceClear, execFenceClear, needOwner_of hauth, needLen_of hlen, hkind, hzero, hn', hdp', decide_eq_true hdp, Bool.true_or,
      Nat.reduceLeDiff,
      decide_true, Nat.reduceBEq, beq_self_eq_true, Bool.and_self, need_of rfl, Bool.false_eq_true, if_false, ok_bind_eq, pure_eq_ok]
    exact runCmd_of_ok hhub
  case release =>
    obtain ⟨hhub, hauth⟩ := hown
    have hpart' : beAt c.body 0 2 = s.haw.part := by rw [hbody, beAt_beBytes, Nat.mod_eq_of_lt (by omega)]
    have hheld : (holdsPart s && s.haw.part == s.haw.part && s.haw.hold) = true := by simp [hholds, hhold]
    simp only [exec_holdRelease, execHoldRelease, needOwner_of hauth, needLen_of (hbody ▸ beBytes_length 2 s.haw.part), hpart', need_of hheld,
      ok_bind_eq, pure_eq_ok]
    exact runCmd_of_ok hhub
  case probation =>
    obtain ⟨hhub, hauth⟩ := hown
    have hx' : beAt c.body 0 2 = x := by rw [hbody, beAt_beBytes, Nat.mod_eq_of_lt (by omega)]
    have hmay : ((spineBits s x).fenced && (spineBits s x).weak) = true := by simp [hfenced, hweak]
    simp only [exec_probationStart, execProbationStart, needOwner_of hauth, needLen_of (hbody ▸ beBytes_length 2 x), hx',
      need_of (decide_eq_true hx), need_of hmay, ok_bind_eq, pure_eq_ok]
    exact runCmd_of_ok hhub
  case passed =>
    have hearly : elapsed s t (ticksOfUs (2 * fld s .BEAT_US) + 1) = false := decide_eq_false (by omega)
    subst hs1
    simp only [exec_probationEnd, execProbationEnd, endProbation_of hp hover, hok, hbeat, hearly, Bool.not_false, Bool.and_self, if_true]
  case failed =>
    have hnot : (!p.failed && (match p.lastBeat with
        | some t => !elapsed s t (ticksOfUs (2 * fld s .BEAT_US) + 1)
        | none => false)) = false := by
      rcases hbad with h | h <;> simp [h]
    subst hs2 hs1
    rw [exec_probationEnd, execProbationEnd, endProbation_of hp hover]
    exact congrArg Host.Outcome.next (if_neg (by rw [hnot]; exact Bool.false_ne_true))
  case report =>
    obtain ⟨rest, hexec⟩ := hawReport_of hown hbody
    exact ⟨_, hexec, List.take_left' (by simp)⟩
  case recover =>
    simp only [exec_scoreRecovery, execScoreRecovery, elapsed_of hdue, if_true]
  case sink =>
    simp [exec_sinkFence, execSinkFence, atPort_of_lt hp, hsink, elapsed_of hdue, hhold, hopen]

end Sys2Proof.Proofs

/-!
What a reply leaves alone: Holly's state and this spine's number. Every operation by which a frame of the spine's own is made, routed,
stored or queued keeps both, so an answer keeps them on every transport (R353).
-/
namespace Sys2Proof.Proofs

open Sys2Proof Sys2Proof.Machine Sys2Proof.Laws Sys2Proof.Safety

/-! Holly's state and the spine's number -/

/-- Holly's state and this spine's number, which SH_SELF keeps. -/
def quiet (s : State) : Holly × Nat := (s.holly, selfSpine s)

/-- An update of anything but the registers and Holly's state keeps both. -/
@[simp] theorem quiet_with (s : State) (pe ra pw nc st ye lo bx sh lk la ka ma ti pr xc ha ou fr) :
    quiet ⟨pe, ra, pw, s.regs, nc, st, ye, lo, bx, sh, lk, la, ka, ma, ti, pr, xc, ha, s.holly, ou, fr⟩ = quiet s := rfl

theorem tfind_tset_other {α : Type} [DecidableEq α] {d v : α} (t : Table α) {j k : Nat} (h : j ≠ k) : tfind (tset d t k v) j = tfind t j := by
  unfold tset
  split
  · exact tfind_tdel_other t h
  · exact tfind_tins_other t v h

theorem regActive_regKeep_other (s : State) {b i o k b' i' o' k' : Nat} (h : regKey b' i' o' k' ≠ regKey b i o k) (v : Nat) :
    regActive (regKeep s b i o k v) b' i' o' k' = regActive s b' i' o' k' := by
  have hkept : regKept (regKeep s b i o k v) b' i' o' k' = regKept s b' i' o' k' := by
    simp only [regKept, regKeep, tget_eq_tfind, tfind_tset_other _ h]
  rw [regActive, regActive, hkept]
  simp only [regKeep, tfind_tdel_other _ h]

/-- FREEZE lies in another register than this spine's number. -/
theorem selfSpine_setFreeze (s : State) (v : Nat) : selfSpine (setFld s .FREEZE v) = selfSpine s := by
  have hother : regKey Fld.SH_SELF_SPINE.blk Fld.SH_SELF_SPINE.inst (Fld.SH_SELF_SPINE.off + 4 * 0) 0 ≠
      regKey Fld.FREEZE.blk Fld.FREEZE.inst (Fld.FREEZE.off + 4 * 0) 0 := by
    simp only [regKey, Fld.SH_SELF_SPINE, Fld.FREEZE]
    omega
  rw [selfSpine, selfSpine, fld, fld, fldAt, fldAt, setFld, setFldAt, regActive_regKeep_other s hother]

theorem quiet_setFreeze (s : State) (v : Nat) : quiet (setFld s .FREEZE v) = quiet s := by
  rw [quiet, selfSpine_setFreeze, setFld, setFldAt, regKeep_holly, quiet]

@[simp] theorem quiet_ite {p : Prop} [Decidable p] (a b : State) : quiet (if p then a else b) = if p then quiet a else quiet b :=
  apply_ite _ _ _ _

@[simp] theorem quiet_ite_snd {α : Type} {p : Prop} [Decidable p] (a b : α × State) :
    quiet (if p then a else b).2 = if p then quiet a.2 else quiet b.2 := by
  split <;> rfl

@[simp] theorem quiet_foldl {α : Type} {f : State → α → State} (l : List α) (s : State) (h : ∀ t x, quiet (f t x) = quiet t) :
    quiet (l.foldl f s) = quiet s := by
  induction l generalizing s with
  | nil => rfl
  | cons a l ih => rw [List.foldl_cons, ih, h]

/-! Events -/

@[simp] theorem quiet_emit (s : State) (e : Emit) : quiet (emit s e) = quiet s := by
  simp [emit]

@[simp] theorem quiet_ringPush (s : State) (path : Nat) (r : RingRec) : quiet (ringPush s path r) = quiet s := by
  simp [ringPush]

@[simp] theorem quiet_ctrAdd (s : State) (src n : Nat) : quiet (ctrAdd s src n) = quiet s := by
  simp [ctrAdd]

@[simp] theorem quiet_evidence (s : State) (cls : Nat) : quiet (evidence s cls) = quiet s := by
  simp [evidence]

@[simp] theorem quiet_traceStage (s : State) (r : List Byte) : quiet (traceStage s r) = quiet s := by
  unfold traceStage
  repeat' split
  all_goals simp [*]

@[simp] theorem quiet_record (s : State) (e : Ev) (scope : Nat) (r : Rec) : quiet (record s e scope r) = quiet s := by
  unfold record
  repeat' split
  all_goals simp [*]

@[simp] theorem quiet_bump (s : State) (e : Ev) (scope n : Nat) (r : Rec) : quiet (bump s e scope n r) = quiet s := by
  simp [bump]

@[simp] theorem quiet_sendAlert (s : State) (kind source value arg : Nat) : quiet (sendAlert s kind source value arg) = quiet s := by
  unfold sendAlert
  dsimp only
  repeat' split
  all_goals simp [*]

@[simp] theorem quiet_checkThreshold (s : State) (src arg : Nat) : quiet (checkThreshold s src arg) = quiet s := by
  unfold checkThreshold
  repeat' split
  all_goals simp [*]

@[simp] theorem quiet_alarmFreeze (s : State) : quiet (alarmFreeze s) = quiet s := by
  unfold alarmFreeze
  extract_lets s1
  split
  · rw [quiet_bump, quiet_with]
    exact quiet_setFreeze s 1
  · rfl

@[simp] theorem quiet_raiseN (s : State) (e : Ev) (scope n : Nat) (r : Rec) : quiet (raiseN s e scope n r) = quiet s := by
  unfold raiseN
  repeat' split
  all_goals simp [*]

@[simp] theorem quiet_raise (s : State) (e : Ev) (scope : Nat) (r : Rec) : quiet (raise s e scope r) = quiet s := by
  simp [raise]

/-- `raise_holly` may already have taken the event out of Holly's state. -/
@[simp] theorem quiet_raise_regs (s : State) (e : Ev) (scope : Nat) (r : Rec) (pe ra pw nc st ye lo bx sh lk la ka ma ti pr xc ha ho ou fr) :
    quiet ⟨pe, ra, pw, (raise s e scope r).regs, nc, st, ye, lo, bx, sh, lk, la, ka, ma, ti, pr, xc, ha, ho, ou, fr⟩ =
      quiet ⟨pe, ra, pw, s.regs, nc, st, ye, lo, bx, sh, lk, la, ka, ma, ti, pr, xc, ha, ho, ou, fr⟩ :=
  Prod.ext rfl (congrArg Prod.snd (quiet_raise s e scope r) :)

@[simp] theorem quiet_setBx (s : State) (p : Nat) (b : BxPort) : quiet (setBx s p b) = quiet s := by
  simp [setBx]

@[simp] theorem quiet_noteSpill (s : State) : quiet (noteSpill s) = quiet s := by
  simp [noteSpill]

@[simp] theorem quiet_noteOld (s : State) (e : Nat) : quiet (noteOld s e) = quiet s := by
  simp [noteOld]

@[simp] theorem quiet_storeFrame (s : State) (f : StoredFrame) (n refs : Nat) : quiet (storeFrame s f n refs).2 = quiet s := by
  simp [storeFrame]

@[simp] theorem quiet_setRefs (s : State) (fid refs : Nat) : quiet (setRefs s fid refs) = quiet s := by
  unfold setRefs
  repeat' split
  all_goals simp [*]

@[simp] theorem quiet_dropCells (s : State) (fid : Nat) : quiet (dropCells s fid) = quiet s := by
  unfold dropCells
  repeat' split
  all_goals simp [*]

@[simp] theorem quiet_releaseCells (s : State) (fid : Nat) : quiet (releaseCells s fid) = quiet s := by
  unfold releaseCells
  repeat' split
  all_goals simp [*]

@[simp] theorem quiet_dropFrame (s : State) (fid : Nat) : quiet (dropFrame s fid) = quiet s := by
  unfold dropFrame
  repeat' split
  all_goals simp [*]

@[simp] theorem quiet_releaseRef (s : State) (fid : Nat) : quiet (releaseRef s fid) = quiet s := by
  unfold releaseRef
  repeat' split
  all_goals simp [*]

@[simp] theorem quiet_setQueue (s : State) (u : Nat) (q : List QEnt) : quiet (setQueue s u q) = quiet s := by
  simp [setQueue]

@[simp] theorem quiet_enqueue (s : State) (u : Nat) (e : QEnt) : quiet (enqueue s u e) = quiet s := by
  simp [enqueue]

@[simp] theorem quiet_parityHits (s : State) (half : Nat) (bads : List (Nat × Nat)) : quiet (parityHits s half bads) = quiet s := by
  simp [parityHits]

theorem quiet_trapToHeath {s : State} {port : Nat} {bytes : List Byte} {x} (h : trapToHeath s port bytes = some x) : quiet x = quiet s := by
  unfold trapToHeath at h
  dsimp only at h
  repeat' split at h
  all_goals (try cases h)
  all_goals simp [*]

@[simp] theorem quiet_addDep (s : State) (p : Nat) (d : Departure) : quiet (addDep s p d) = quiet s := by
  simp [addDep]

theorem quiet_chooseScored {s : State} {slice tc : Nat} {cand : List (Nat × Nat)} {x} (h : chooseScored s slice tc cand = some x) : quiet x.2 = quiet s := by
  unfold chooseScored at h
  dsimp only at h
  repeat' split at h
  all_goals (try cases h)
  all_goals simp [*]

@[simp] theorem quiet_routeByPlan (s0 : State) (h : Ffh) (a : Arrival) (esc keep : Bool) : quiet (routeByPlan s0 h a esc keep).2 = quiet s0 := by
  unfold routeByPlan
  extract_lets s t entry
  have hs : quiet s = quiet s0 := by simp [s]
  clear_value s
  split; · exact hs
  split; · exact hs
  split; · exact hs
  split; · exact hs
  extract_lets escape
  have he : quiet escape.2 = quiet s0 := by
    simp only [escape]
    repeat' split
    all_goals exact hs
  clear_value escape
  split; · exact he
  rename_i pick _
  have hp : ∀ x, pick = some x → quiet x.2 = quiet s0 := by
    intro x hx
    simp only [pick] at hx
    split at hx
    · obtain ⟨a, _, rfl⟩ := Option.map_eq_some_iff.mp hx; exact hs
    · split at hx <;> rw [quiet_chooseScored hx, hs]
  clear_value pick
  cases pick with
  | none => exact hs
  | some x =>
    have hx := hp x rfl
    dsimp only
    repeat' split
    all_goals exact hx

@[simp] theorem quiet_routeAway (s : State) (h : Ffh) (a : Arrival) (esc keep : Bool) : quiet (routeAway s h a esc keep).2 = quiet s := by
  unfold routeAway
  dsimp only
  repeat' split
  all_goals simp [*]

@[simp] theorem quiet_routeHere (s : State) (h : Ffh) (a : Arrival) (esc : Bool) : quiet (routeHere s h a esc).2 = quiet s := by
  unfold routeHere
  dsimp only
  repeat' split
  all_goals simp [*]

@[simp] theorem quiet_routeUnicast (s : State) (h : Ffh) (a : Arrival) : quiet (routeUnicast s h a).2 = quiet s := by
  simp [routeUnicast]

@[simp] theorem quiet_wakeDomain (s : State) (d : Nat) : quiet (wakeDomain s d) = quiet s := by
  unfold wakeDomain; split <;> rfl

@[simp] theorem quiet_unholdCopy (s : State) (fid : Nat) : quiet (unholdCopy s fid) = quiet s := by
  simp [unholdCopy]

@[simp] theorem quiet_discardCopy (s : State) (fid : Nat) : quiet (discardCopy s fid) = quiet s := by
  simp [discardCopy]

@[simp] theorem quiet_reroute (s : State) (u : Nat) (e : QEnt) (f : StoredFrame) : quiet (reroute s u e f).2.2 = quiet s := by
  unfold reroute
  dsimp only
  split; · rfl
  split
  · split <;> rfl
  · split; · rfl
    generalize hr : routeAway s f.ffh (arrivalOf f (u % 16 % 2 == 1)) (u % 16 % 2 == 1) true = r
    have hv := congrArg (fun x => quiet x.2) hr
    simp at hv
    rcases r with ⟨_ | _ | _, s1⟩ <;> simp_all
    split
    · next h => exact quiet_trapToHeath h
    · rfl

@[simp] theorem quiet_setSweep (s : State) (k : Nat) (w : Sweep) : quiet (setSweep s k w) = quiet s := by
  simp [setSweep]

@[simp] theorem quiet_dropSweep (s : State) (k : Nat) : quiet (dropSweep s k) = quiet s := by
  simp [dropSweep]

@[simp] theorem quiet_collectCopy (s : State) (h : Ffh) (payload : List Byte) : quiet (collectCopy s h payload) = quiet s := by
  unfold collectCopy
  dsimp only
  repeat' split
  all_goals simp [*]

@[simp] theorem quiet_dropTc7Copy (s : State) (p fid : Nat) : quiet (dropTc7Copy s p fid) = quiet s := by
  simp [dropTc7Copy]

@[simp] theorem quiet_scheduleTc7 (s : State) (p : Nat) (e : QEnt) : quiet (scheduleTc7 s p e) = quiet s := by
  unfold scheduleTc7
  dsimp only
  repeat' split
  all_goals simp [*]

@[simp] theorem quiet_scheduleOwn (s : State) (p : Nat) : quiet (scheduleOwn s p) = quiet s := by
  unfold scheduleOwn
  apply quiet_foldl
  intro t e
  split
  · dsimp only
    split <;> simp
  · rfl

@[simp] theorem quiet_queueTc7 (s : State) (u : Nat) (e : QEnt) (f : StoredFrame) : quiet (queueTc7 s u e f) = quiet s := by
  simp [queueTc7]

@[simp] theorem quiet_enqueueCopy (s : State) (u : Nat) (e : QEnt) : quiet (enqueueCopy s u e) = quiet s := by
  unfold enqueueCopy
  dsimp only
  repeat' split
  all_goals simp [*]

@[simp] theorem quiet_queueCopy (s : State) (f : StoredFrame) (u : Nat) (e : QEnt) : quiet (queueCopy s f u e) = quiet s := by
  simp [queueCopy]

@[simp] theorem quiet_unfence (s : State) (k : Nat) (w : Sweep) (fid : Nat) : quiet (unfence s k w fid) = quiet s := by
  simp [unfence]

@[simp] theorem quiet_queueFrame (s : State) (fid : Nat) : quiet (queueFrame s fid) = quiet s := by
  unfold queueFrame
  repeat' split
  all_goals simp [*]

@[simp] theorem quiet_spawnTo (s : State) (h : Ffh) (payload : List Byte) (pool : Pool) (dests : List (Nat × QEnt)) : quiet (spawnTo s h payload pool dests) = quiet s := by
  unfold spawnTo
  dsimp only
  repeat' split
  all_goals simp [*]

@[simp] theorem quiet_spawnControl (s : State) (p : Nat) (h : Ffh) (payload : List Byte) : quiet (spawnControl s p h payload) = quiet s := by
  simp [spawnControl]

@[simp] theorem quiet_spawnTc7 (s : State) (h : Ffh) (payload : List Byte) (pool : Pool) (u : Nat) (e : QEnt) : quiet (spawnTc7 s h payload pool u e) = quiet s := by
  simp [spawnTc7]

@[simp] theorem quiet_trapOwn (s : State) (h : Ffh) (payload : List Byte) : quiet (trapOwn s h payload) = quiet s := by
  unfold trapOwn
  repeat' split
  all_goals (try have hv0 := quiet_trapToHeath (by assumption))
  all_goals simp [*]

@[simp] theorem quiet_spawnUnicast (s : State) (half : Nat) (h : Ffh) (payload : List Byte) (pool : Pool) : quiet (spawnUnicast s half h payload pool) = quiet s := by
  unfold spawnUnicast
  dsimp only
  repeat' split
  all_goals simp [*]

@[simp] theorem quiet_inbandReply (s : State) (port src : Nat) (msg : List Byte) : quiet (inbandReply s port src msg) = quiet s := by
  simp [inbandReply]

/-! Answers -/

@[simp] theorem quiet_mbxPump (s : State) (k : Nat) : quiet (mbxPump s k) = quiet s := by
  unfold mbxPump
  dsimp only
  split
  · rfl
  · split <;> simp

@[simp] theorem quiet_deliver (s : State) (via : Transport) (msgs : List (List Byte)) : quiet (deliver s via msgs) = quiet s := by
  cases via <;> simp [deliver]

@[simp] theorem quiet_cacheReply (s : State) (cls seq op : Nat) (body : List Byte) : quiet (cacheReply s cls seq op body) = quiet s := by
  unfold cacheReply
  split <;> simp

@[simp] theorem quiet_finish (s : State) (c : Ncp) (op : Nat) (code : Code) (step index : Nat) (res : List Byte) :
    quiet (finish s c op code step index res) = quiet s := by
  unfold finish
  dsimp only
  rw [quiet_deliver]
  split <;> simp

theorem finish_holly (s : State) (c : Ncp) (op : Nat) (code : Code) (step index : Nat) (res : List Byte) :
    (finish s c op code step index res).holly = s.holly := congrArg Prod.fst (quiet_finish s c op code step index res)

end Sys2Proof.Proofs

/-!
Holly's commands (R338, R344, R347, R348, R351).
-/
namespace Sys2Proof.Proofs

open Sys2Proof Sys2Proof.Machine Sys2Proof.Laws Sys2Proof.Safety

/-- The key-wrap key of a port is the owner's while the partition of the spine has no binding. -/
theorem wrapKey_of_owner {s : State} {c : Ncp} (hauth : c.auth = .owner) (hfree : holdsPart s = true → tfind s.holly.bindings s.haw.part = none) :
    wrapKey s c = .ok (0, s.holly.ownerKey.getD []) := by
  have hnone : (if holdsPart s then tfind s.holly.bindings s.haw.part else none) = none := by
    split
    · next h => exact hfree h
    · rfl
  simp only [wrapKey, hnone, need_of (beq_iff_eq.mpr hauth), ok_bind_eq, pure_eq_ok]

/-- The checks of `DEBUG_UNLOCK` before its token. -/
theorem exec_debugUnlock_of {s : State} {c : Ncp} (hown : OwnerCmd s c) (hlen : c.body.length = 3449) (hlock : flag s .DEBUG_LOCK = false) :
    exec (.debugUnlock c) s = runCmd s c 0x0909 (do
      need (debugTokenOk s c.body) .notAuthorised
      let s1 := zeroiseLinks (teardownAll s)
      return ([], extendMeas5 { s1 with holly := { s1.holly with debug := true, scope := beAt c.body 40 4, nonce := none } })) := by
  have hopen : (!flag s .DEBUG_LOCK) = true := by simp [hlock]
  simp only [exec_debugUnlock, execDebugUnlock, needOwner_of hown.2, needLen_of hlen, need_of hopen, ok_bind_eq]

/-- The state after `OWNER_CLEAR`: answered, then without an owner. -/
def ownerCleared (s : State) (c : Ncp) : State :=
  let t := finish s c 0x0907 .done 0 noIndex []
  freshSeq { t with holly := { t.holly with ownerKey := none, meas6 := zeroBytes 48 } } 0

/-- Settles O59. -/
theorem hollyCommandsComplete : Obligations.HollyCommandsComplete := by
  unfold Obligations.HollyCommandsComplete
  refine ⟨fun s c k hhub hbody hk => ?certs, fun s c nonce mask part hhub hnonce hmask hpart hbody => ?measure,
    fun s c p sci an suite hown hlen hp hsci han hsuite hlt habs hmode han4 hsuite2 hstate hfree => ?macsec,
    fun s c hown hbody hbind hlock => ⟨ownerCleared s c, ?clear, ?cleared, rfl, rfl⟩, fun s c hhub hbody => ?nonce,
    fun s c hown hlen hlock => ?unlock, fun s c hown hbody => ?status⟩
  case certs =>
    have hk' : beAt c.body 0 1 = k := by rw [hbody, beAt_beBytes, Nat.mod_eq_of_lt (by omega)]
    simp only [exec_attestCerts, execAttestCerts, needLen_of (hbody ▸ beBytes_length 1 k), hk', need_of (decide_eq_true hk), ok_bind_eq, pure_eq_ok]
    exact runCmd_of_ok hhub
  case measure =>
    have hlen : c.body.length = 36 := by simp [hbody, hnonce]
    have hmask' : beAt c.body 32 2 = mask := by
      rw [hbody, List.append_assoc, beAt_append_right (by omega), hnonce, beAt_beBytes_append, Nat.mod_eq_of_lt (by omega)]
    have hpart' : beAt c.body 34 2 = part := by
      rw [hbody, beAt_append_right (by simp [hnonce])]
      simp [hnonce, beAt_beBytes]
      omega
    have hlegal : (decide (mask < 512) && decide (part < 0xFFF)) = true := by simp [hmask, hpart]
    simp only [exec_attestMeasure, execAttestMeasure, needLen_of hlen, hmask', hpart', need_of hlegal, ok_bind_eq, pure_eq_ok]
    exact ⟨_, _, runCmd_of_ok hhub⟩
  case macsec =>
    obtain ⟨hhub, hauth⟩ := hown
    have hlegal : (decide (p < nPorts) && !absorbed s p && portMode s p == .ethernet && decide (an < 4) && decide (suite < 2)) = true := by
      simp [nPorts, hlt, habs, hmode, han4, hsuite2]
    have hkeyed : needKeyed s c = .ok () := by rw [needKeyed, hauth]
    have hstate' : (s.haw.pstate != .teardown) = true := bne_iff_ne.mpr hstate
    simp only [exec_macsecKey, execMacsecKey, hkeyed, needLen_of hlen, hp, han, hsuite, hsci, need_of hlegal, need_of hstate',
      wrapKey_of_owner hauth hfree, ok_bind_eq]
    cases Config.keyUnwrap (s.holly.ownerKey.getD []) (bytesAt c.body 28 40) with
    | none => exact runCmd_of_error hhub .notAuthorised 0 noIndex
    | some key => exact runCmd_of_ok hhub
  case clear =>
    obtain ⟨hhub, hauth⟩ := hown
    have hempty : s.holly.bindings.isEmpty = true := by rw [hbind]; rfl
    have hopen : (!flag s .OWNER_LOCK) = true := by simp [hlock]
    simp only [exec_ownerClear, execOwnerClear, hhub, Bool.not_true, Bool.false_eq_true, if_false, needOwner_of hauth, needLen_nil hbody,
      need_of hempty, need_of hopen, ok_bind_eq]
    rfl
  case cleared => rw [ownerCleared, freshSeq_holly, finish_holly]
  case nonce =>
    simp only [exec_debugNonce, execDebugNonce, needLen_nil hbody, ok_bind_eq, pure_eq_ok]
    exact ⟨_, runCmd_of_ok hhub⟩
  case unlock =>
    rw [exec_debugUnlock_of hown hlen hlock]
    split
    · next htoken =>
      rw [need_of htoken]
      exact ⟨_, runCmd_of_ok hown.1, rfl, rfl, rfl, rfl⟩
    · next htoken =>
      rw [Bool.not_eq_true] at htoken
      rw [htoken]
      exact runCmd_of_error hown.1 .notAuthorised 0 noIndex
  case status =>
    simp only [exec_hollyStatus, execHollyStatus, needOwner_of hown.2, needLen_nil hbody, ok_bind_eq, pure_eq_ok, runCmd_of_ok hown.1]
    refine ⟨_, rfl, ?_⟩
    simp only [List.length_append, length_flatMap_of fun _ => beBytes_length 4 _, length_flatMap_of fun _ => beBytes_length 2 _,
      beBytes_length, List.length_cons, List.length_nil]
    omega

end Sys2Proof.Proofs

/-!
This spine's number outlasts every vote: what a proposal sets going (R325, R326), from a flooded message to a fence and the collectives
that it ends, writes no register but FREEZE.
-/
namespace Sys2Proof.Proofs

open Sys2Proof Sys2Proof.Machine Sys2Proof.Laws Sys2Proof.Safety

@[simp] theorem self_with (s : State) (pe ra pw nc st ye lo bx sh lk la ka ma ti pr xc ha ho ou fr) :
    (quiet ⟨pe, ra, pw, s.regs, nc, st, ye, lo, bx, sh, lk, la, ka, ma, ti, pr, xc, ha, ho, ou, fr⟩).2 = (quiet s).2 := rfl

@[simp] theorem self_ite {p : Prop} [Decidable p] (a b : Holly × Nat) : (if p then a else b).2 = if p then a.2 else b.2 := apply_ite _ _ _ _

@[simp] theorem self_foldl {α : Type} {f : State → α → State} (l : List α) (s : State) (h : ∀ t x, (quiet (f t x)).2 = (quiet t).2) :
    (quiet (l.foldl f s)).2 = (quiet s).2 := by
  induction l generalizing s with
  | nil => rfl
  | cons a l ih => rw [List.foldl_cons, ih, h]

@[simp] theorem self_setPortLink (s : State) (p : Nat) (l : PortLink) : (quiet (setPortLink s p l)).2 = (quiet s).2 := by
  simp [setPortLink]

@[simp] theorem self_setDests (s : State) (fid : Nat) (d : List (Nat × QEnt)) : (quiet (setDests s fid d)).2 = (quiet s).2 := by
  simp [setDests]

@[simp] theorem self_unreserve (s : State) (id : Nat) : (quiet (unreserve s id)).2 = (quiet s).2 := by
  unfold unreserve
  repeat' split
  all_goals simp [*]

@[simp] theorem self_dropTc7Queue (s : State) (p : Nat) : (quiet (dropTc7Queue s p)).2 = (quiet s).2 := by
  simp [dropTc7Queue]

@[simp] theorem self_rerouteAll (s : State) (p : Nat) : (quiet (rerouteAll s p)).2 = (quiet s).2 := by
  simp [rerouteAll]

@[simp] theorem self_sendOpt (s : State) (lane : Nat) (msg : List Byte) : (quiet (sendOpt s lane msg)).2 = (quiet s).2 := by
  simp [sendOpt]

@[simp] theorem self_dropMig (s : State) (tx : Bool) (lane : Nat) : (quiet (dropMig s tx lane)).2 = (quiet s).2 := by
  simp [dropMig]

@[simp] theorem self_abortMig (s : State) (m : Mig) : (quiet (abortMig s m)).2 = (quiet s).2 := by
  simp [abortMig]

@[simp] theorem self_abortMigs (s : State) (p : Mig → Bool) : (quiet (abortMigs s p)).2 = (quiet s).2 := by
  simp [abortMigs]

@[simp] theorem self_fenceLanes (s : State) (p : Nat) : (quiet (fenceLanes s p)).2 = (quiet s).2 := by
  simp [fenceLanes]

@[simp] theorem self_setEnd (s : State) (l : Nat) (e : LinkEnd) : (quiet (setEnd s l e)).2 = (quiet s).2 := by
  simp [setEnd]

@[simp] theorem self_queueHeld (s : State) (fid : Nat) : (quiet (queueHeld s fid)).2 = (quiet s).2 := by
  unfold queueHeld
  dsimp only
  repeat' split
  all_goals simp [*]

@[simp] theorem self_releaseHold (s : State) (fid : Nat) : (quiet (releaseHold s fid)).2 = (quiet s).2 := by
  simp [releaseHold]

@[simp] theorem self_skipTx (s : State) (l q n : Nat) : (quiet (skipTx s l q n)).2 = (quiet s).2 := by
  simp [skipTx]

@[simp] theorem self_discardSent (s : State) (l : Nat) : (quiet (discardSent s l)).2 = (quiet s).2 := by
  simp [discardSent]

@[simp] theorem self_abandonGaps (s : State) (l : Nat) : (quiet (abandonGaps s l)).2 = (quiet s).2 := by
  simp [abandonGaps]

@[simp] theorem self_dropKeys (s : State) (l : Nat) : (quiet (dropKeys s l)).2 = (quiet s).2 := by
  simp [dropKeys]

@[simp] theorem self_freshEnd (s : State) (l : Nat) : (quiet (freshEnd s l)).2 = (quiet s).2 := by
  simp [freshEnd]

@[simp] theorem self_dropDeparture (s : State) (p : Nat) (d : Departure) : (quiet (dropDeparture s p d)).2 = (quiet s).2 := by
  unfold dropDeparture
  dsimp only
  repeat' split
  all_goals simp [*]

@[simp] theorem self_freeSpares (s : State) (p : Nat) : (quiet (freeSpares s p)).2 = (quiet s).2 := by
  simp [freeSpares]

@[simp] theorem self_emptyLink (s : State) (p : Nat) : (quiet (emptyLink s p)).2 = (quiet s).2 := by
  simp [emptyLink]

@[simp] theorem self_stopKeying (s : State) (p : Nat) : (quiet (stopKeying s p)).2 = (quiet s).2 := by
  simp [stopKeying]

@[simp] theorem self_linkDown (s : State) (p : Nat) : (quiet (linkDown s p)).2 = (quiet s).2 := by
  simp [linkDown]

@[simp] theorem self_spawnGroup (s : State) (half : Nat) (h : Ffh) (payload : List Byte) (group : Nat) (pool : Pool) : (quiet (spawnGroup s half h payload group pool)).2 = (quiet s).2 := by
  unfold spawnGroup
  dsimp only
  repeat' split
  all_goals simp [*]

@[simp] theorem self_setKEng (s : State) (k : Nat) (e : KEngine) : (quiet (setKEng s k e)).2 = (quiet s).2 := by
  simp [setKEng]

@[simp] theorem self_pageOut (k need n : Nat) (s : State) : (quiet (pageOut k need n s)).2 = (quiet s).2 := by
  induction n generalizing s with
  | zero => rfl
  | succ n ih => unfold pageOut; dsimp only; split; · rfl
                 split <;> simp [ih]

@[simp] theorem self_touchChunk (s : State) (k coll chunk len : Nat) (opening : Bool) : (quiet (touchChunk s k coll chunk len opening)).2 = (quiet s).2 := by
  unfold touchChunk
  dsimp only
  repeat' split
  all_goals simp

@[simp] theorem self_closeChunk (s : State) (k coll chunk : Nat) : (quiet (closeChunk s k coll chunk)).2 = (quiet s).2 := by
  simp [closeChunk]

@[simp] theorem self_noteAdds (s : State) (k n : Nat) : (quiet (noteAdds s k n)).2 = (quiet s).2 := by
  simp [noteAdds]

@[simp] theorem self_countConv (s : State) (scope : Nat) (cs : List Conv) (r : Rec) : (quiet (countConv s scope cs r)).2 = (quiet s).2 := by
  simp [countConv]

@[simp] theorem self_residueFails (s : State) (k coll chunk : Nat) : (quiet (residueFails s k coll chunk)).2 = (quiet s).2 := by
  simp [residueFails]

@[simp] theorem self_openOnEngine (s : State) (k coll chunk : Nat) (lanes : List Lane) : (quiet (openOnEngine s k coll chunk lanes).2).2 = (quiet s).2 := by
  simp [openOnEngine]

@[simp] theorem self_modShadow (s : State) (k coll chunk : Nat) (g : ShadowRun → ShadowRun) : (quiet (modShadow s k coll chunk g)).2 = (quiet s).2 := by
  simp [modShadow]

@[simp] theorem self_releaseInputs (s : State) (k coll chunk : Nat) (fids : List Nat) : (quiet (releaseInputs s k coll chunk fids)).2 = (quiet s).2 := by
  unfold releaseInputs
  repeat' split
  all_goals simp [*]

@[simp] theorem self_endShadow (s : State) (k : Nat) (r : ShadowRun) : (quiet (endShadow s k r)).2 = (quiet s).2 := by
  simp [endShadow]

@[simp] theorem self_shadowAdd (s : State) (k coll chunk : Nat) (g : List Lane → List Lane) : (quiet (shadowAdd s k coll chunk g)).2 = (quiet s).2 := by
  simp [shadowAdd]

@[simp] theorem self_readShadow (s : State) (k coll chunk : Nat) (lanes : List Lane) : (quiet (readShadow s k coll chunk lanes)).2 = (quiet s).2 := by
  simp [readShadow]

@[simp] theorem self_dropRun (s : State) (k coll chunk : Nat) : (quiet (dropRun s k coll chunk)).2 = (quiet s).2 := by
  unfold dropRun
  repeat' split
  all_goals simp [*]

@[simp] theorem self_releaseUnits (s : State) (id : Nat) : (quiet (releaseUnits s id)).2 = (quiet s).2 := by
  unfold releaseUnits
  repeat' split
  all_goals simp [*]

@[simp] theorem self_setTok (s : State) (k : Nat) (t : Token) : (quiet (setTok s k t)).2 = (quiet s).2 := by
  simp [setTok]

@[simp] theorem self_tokenNotice (s : State) (half : Nat) (t : Token) (c : Code) (experts : List Nat) : (quiet (tokenNotice s half t c experts)).2 = (quiet s).2 := by
  simp [tokenNotice]

@[simp] theorem self_dropToken (s : State) (k : Nat) : (quiet (dropToken s k)).2 = (quiet s).2 := by
  unfold dropToken
  repeat' split
  all_goals simp [*]

@[simp] theorem self_abandonToken (s : State) (k : Nat) (c : Code) : (quiet (abandonToken s k c)).2 = (quiet s).2 := by
  unfold abandonToken
  repeat' split
  all_goals simp [*]

@[simp] theorem self_sendCombined (s : State) (m : Mop) (t : Token) (out : List Nat) : (quiet (sendCombined s m t out)).2 = (quiet s).2 := by
  simp [sendCombined]

@[simp] theorem self_completeCombine (s : State) (k : Nat) (m : Mop) (t : Token) : (quiet (completeCombine s k m t)).2 = (quiet s).2 := by
  simp [completeCombine]

@[simp] theorem self_finishCombine (s : State) (k : Nat) (m : Mop) (t : Token) (fault : Bool) : (quiet (finishCombine s k m t fault)).2 = (quiet s).2 := by
  simp [finishCombine]

@[simp] theorem self_settleToken (s : State) (k : Nat) : (quiet (settleToken s k)).2 = (quiet s).2 := by
  unfold settleToken
  repeat' split
  all_goals simp [*]

@[simp] theorem self_tokenFence (s : State) (hit : Nat → Bool) : (quiet (tokenFence s hit)).2 = (quiet s).2 := by
  unfold tokenFence
  apply self_foldl
  intro u e
  dsimp only
  repeat' split
  all_goals simp

@[simp] theorem self_setColl (s : State) (c : Coll) : (quiet (setColl s c)).2 = (quiet s).2 := by
  simp [setColl]

@[simp] theorem self_sendFrame (s : State) (c : Coll) (h : Ffh) (dest : SendTo) (payload : List Byte) : (quiet (sendFrame s c h dest payload)).2 = (quiet s).2 := by
  unfold sendFrame
  repeat' split
  all_goals simp [*]

@[simp] theorem self_sendVector (s : State) (c : Coll) (kind chunk fmt : Nat) (codes : List Nat) (who : Nat) (node : Bool) (rstat : Nat) (dest : SendTo) : (quiet (sendVector s c kind chunk fmt codes who node rstat dest)).2 = (quiet s).2 := by
  simp [sendVector]

@[simp] theorem self_sendCtrl (s : State) (c : Coll) (dst ctype status fclass arga argb : Nat) (l : List Nat) : (quiet (sendCtrl s c dst ctype status fclass arga argb l)).2 = (quiet s).2 := by
  simp [sendCtrl]

@[simp] theorem self_toMembers (s : State) (c : Coll) (g : State → Nat → State) (hg : ∀ t x, (quiet (g t x)).2 = (quiet t).2) : (quiet (toMembers s c g)).2 = (quiet s).2 := by
  unfold toMembers
  apply self_foldl; intro u a; split <;> simp [hg]

@[simp] theorem self_toNodes (s : State) (c : Coll) (g : State → Nat → State) (hg : ∀ t x, (quiet (g t x)).2 = (quiet t).2) : (quiet (toNodes s c g)).2 = (quiet s).2 := by
  unfold toNodes
  apply self_foldl; intro u i; simp [hg]

@[simp] theorem self_tellQueue (s : State) (c : Coll) (status : Nat) : (quiet (tellQueue s c status)).2 = (quiet s).2 := by
  unfold tellQueue
  repeat' split
  all_goals simp [*]

@[simp] theorem self_discardChunk (s : State) (c : Coll) (chunk : Nat) : (quiet (discardChunk s c chunk)).2 = (quiet s).2 := by
  unfold discardChunk
  simp

@[simp] theorem self_removeColl (s : State) (c : Coll) : (quiet (removeColl s c)).2 = (quiet s).2 := by
  simp [removeColl]

@[simp] theorem self_endColl (s : State) (c : Coll) (status : Nat) : (quiet (endColl s c status)).2 = (quiet s).2 := by
  simp [endColl]

@[simp] theorem self_announceFail (s : State) (c : Coll) (status fclass rank chunk : Nat) (ranks : List Nat) : (quiet (announceFail s c status fclass rank chunk ranks)).2 = (quiet s).2 := by
  simp [announceFail]

@[simp] theorem self_failColl (s : State) (k : Nat) (f : CFail) : (quiet (failColl s k f)).2 = (quiet s).2 := by
  unfold failColl
  dsimp only
  repeat' split
  all_goals simp [*]

@[simp] theorem self_tryComplete (s : State) (k : Nat) : (quiet (tryComplete s k)).2 = (quiet s).2 := by
  unfold tryComplete
  repeat' split
  all_goals simp [*]

@[simp] theorem self_checkDone (s : State) (k : Nat) : (quiet (checkDone s k)).2 = (quiet s).2 := by
  unfold checkDone
  dsimp only
  repeat' split
  all_goals simp [*]

@[simp] theorem self_noteSlow (s : State) (k chunk : Nat) : (quiet (noteSlow s k chunk)).2 = (quiet s).2 := by
  unfold noteSlow
  dsimp only
  repeat' split
  all_goals simp [*]

@[simp] theorem self_finishChunk (s : State) (k chunk : Nat) : (quiet (finishChunk s k chunk)).2 = (quiet s).2 := by
  unfold finishChunk
  dsimp only
  repeat' split
  all_goals simp [*]

@[simp] theorem self_openChunk (s : State) (c : Coll) (chunk : Nat) : (quiet (openChunk s c chunk).1).2 = (quiet s).2 := by
  unfold openChunk
  dsimp only
  split <;> simp

@[simp] theorem self_addToChunk (s : State) (k chunk : Nat) (isPartial : Bool) (parts : List (List Addend × Nat)) (fids : List Nat) : (quiet (addToChunk s k chunk isPartial parts fids)).2 = (quiet s).2 := by
  unfold addToChunk
  repeat' split
  all_goals simp [*]

@[simp] theorem self_addPiece (s : State) (k chunk key : Nat) : (quiet (addPiece s k chunk key)).2 = (quiet s).2 := by
  unfold addPiece
  repeat' split
  all_goals simp [*]

@[simp] theorem self_addInOrder (k chunk : Nat) (l : List Nat) (s : State) : (quiet (addInOrder k chunk l s)).2 = (quiet s).2 := by
  induction l generalizing s with
  | nil => rfl
  | cons a l ih =>
    unfold addInOrder
    split
    · rfl
    · dsimp only; split; · rfl
      rw [ih]; split <;> simp

@[simp] theorem self_barrierCheck (s : State) (k : Nat) : (quiet (barrierCheck s k)).2 = (quiet s).2 := by
  unfold barrierCheck
  repeat' split
  all_goals simp [*]

@[simp] theorem self_endDest (s : State) (c : Coll) (dst : Nat) (st fclass rank chunk : Nat) (ranks : List Nat) : (quiet (endDest s c dst st fclass rank chunk ranks).1).2 = (quiet s).2 := by
  simp [endDest]

@[simp] theorem self_a2aCheck (s : State) (k : Nat) : (quiet (a2aCheck s k)).2 = (quiet s).2 := by
  unfold a2aCheck
  split; · rfl
  rename_i c _
  split; · rfl
  dsimp only
  have g : ∀ (l : List Nat) (x : State × Coll),
      (quiet (l.foldl (fun (u : State × Coll) d => endDest u.1 u.2 d (qualifier u.2) 0 noArg noArg u.2.excluded) x).1).2 = (quiet x.1).2 := by
    intro l
    induction l with
    | nil => intro x; rfl
    | cons a l ih => intro x; simp [List.foldl_cons, ih]
  split <;> simp [g]

@[simp] theorem self_failDest (s : State) (c : Coll) (dst : Nat) (f : CFail) : (quiet (failDest s c dst f)).2 = (quiet s).2 := by
  simp [failDest]

@[simp] theorem self_restartFrom (s : State) (k from_ : Nat) : (quiet (restartFrom s k from_)).2 = (quiet s).2 := by
  unfold restartFrom
  repeat' split
  all_goals simp [*]

@[simp] theorem self_askAlternate (s : State) (c : Coll) (me alt : Nat) : (quiet (askAlternate s c me alt)).2 = (quiet s).2 := by
  simp [askAlternate]

@[simp] theorem self_excludeMembers (s : State) (k : Nat) (rs : List Nat) : (quiet (excludeMembers s k rs)).2 = (quiet s).2 := by
  unfold excludeMembers
  split; · rfl
  dsimp only
  split <;> simp

@[simp] theorem self_loseMembers (s : State) (k : Nat) (rs : List Nat) : (quiet (loseMembers s k rs)).2 = (quiet s).2 := by
  unfold loseMembers
  split
  · split
    · simp
    · split
      · apply self_foldl
        intro u d
        split <;> simp
      · simp
  · rfl

@[simp] theorem self_subtreeLost (s : State) (k : Nat) : (quiet (subtreeLost s k)).2 = (quiet s).2 := by
  unfold subtreeLost
  repeat' split
  all_goals simp [*]

@[simp] theorem self_seekParent (s : State) (k : Nat) (alts : List Nat) : (quiet (seekParent s k alts)).2 = (quiet s).2 := by
  unfold seekParent
  repeat' split
  all_goals simp [*]

@[simp] theorem self_moveChunks (s : State) (k i : Nat) : (quiet (moveChunks s k i)).2 = (quiet s).2 := by
  unfold moveChunks
  dsimp only
  repeat' split
  all_goals simp [*]

@[simp] theorem self_tryRestart (s : State) (k : Nat) : (quiet (tryRestart s k)).2 = (quiet s).2 := by
  unfold tryRestart
  repeat' split
  all_goals simp [*]

@[simp] theorem self_seekAfter (s : State) (k i : Nat) : (quiet (seekAfter s k i)).2 = (quiet s).2 := by
  unfold seekAfter
  dsimp only
  repeat' split
  all_goals simp [*]

@[simp] theorem self_loseTreeNode (s : State) (k i : Nat) : (quiet (loseTreeNode s k i)).2 = (quiet s).2 := by
  unfold loseTreeNode
  dsimp only
  repeat' split
  all_goals simp [*]

@[simp] theorem self_loseNode (s : State) (k i : Nat) : (quiet (loseNode s k i)).2 = (quiet s).2 := by
  unfold loseNode
  repeat' split
  all_goals simp [*]

@[simp] theorem self_fenceColl (s : State) (k : Nat) (spine : Option Nat) (hit : Nat → Bool) : (quiet (fenceColl s k spine hit)).2 = (quiet s).2 := by
  unfold fenceColl
  dsimp only
  repeat' split
  all_goals simp [*]

@[simp] theorem self_tilthFence (s : State) (spine : Option Nat) (hit : Nat → Bool) : (quiet (tilthFence s spine hit)).2 = (quiet s).2 := by
  simp [tilthFence]

@[simp] theorem self_spineNotice (s : State) (spine : Nat) : (quiet (spineNotice s spine)).2 = (quiet s).2 := by
  simp [spineNotice]

@[simp] theorem self_fencePort (s : State) (p : Nat) (k : PortFence) : (quiet (fencePort s p k)).2 = (quiet s).2 := by
  simp [fencePort]

@[simp] theorem self_setSpine (s : State) (x : Nat) (g : SpineBits → SpineBits) : (quiet (setSpine s x g)).2 = (quiet s).2 := by
  simp [setSpine]

@[simp] theorem self_sendHedge (s : State) (p : Nat) (m : List Byte) : (quiet (sendHedge s p m)).2 = (quiet s).2 := by
  simp [sendHedge]

@[simp] theorem self_floodOut (s : State) (m : List Byte) (fromDim : Nat) : (quiet (floodOut s m fromDim)).2 = (quiet s).2 := by
  unfold floodOut
  apply self_foldl
  intro u d
  repeat' split
  all_goals simp

@[simp] theorem self_noteSeen (s : State) (origin hseq : Nat) : (quiet (noteSeen s origin hseq)).2 = (quiet s).2 := by
  simp [noteSeen]

@[simp] theorem self_flood (s : State) (h : Hedge) : (quiet (flood s h)).2 = (quiet s).2 := by
  simp [flood]

@[simp] theorem self_dropVote (s : State) (x : Nat) : (quiet (dropVote s x)).2 = (quiet s).2 := by
  simp [dropVote]

@[simp] theorem self_putVote (s : State) (v : Vote) : (quiet (putVote s v)).2 = (quiet s).2 := by
  simp [putVote]

@[simp] theorem self_noteResult (s : State) (result evid voters yes suspect : Nat) : (quiet (noteResult s result evid voters yes suspect)).2 = (quiet s).2 := by
  simp [noteResult]

@[simp] theorem self_enterHold (s : State) : (quiet (enterHold s)).2 = (quiet s).2 := by
  simp [enterHold]

@[simp] theorem self_countExpulsion (s : State) (part : Nat) : (quiet (countExpulsion s part)).2 = (quiet s).2 := by
  simp [countExpulsion]

@[simp] theorem self_applyCommit (s : State) (h : Hedge) : (quiet (applyCommit s h)).2 = (quiet s).2 := by
  simp [applyCommit]

@[simp] theorem self_commitVote (s : State) (v : Vote) : (quiet (commitVote s v)).2 = (quiet s).2 := by
  simp [commitVote]

@[simp] theorem self_abandonVote (s : State) (v : Vote) : (quiet (abandonVote s v)).2 = (quiet s).2 := by
  simp [abandonVote]

@[simp] theorem self_settleVote (s : State) (v : Vote) : (quiet (settleVote s v)).2 = (quiet s).2 := by
  simp [settleVote]

@[simp] theorem self_leaveOut (s : State) (x : Nat) : (quiet (leaveOut s x)).2 = (quiet s).2 := by
  simp [leaveOut]

end Sys2Proof.Proofs

/-!
The hedge vote: beats, proposals, votes and the flooded messages (R322 to R328).
-/
namespace Sys2Proof.Proofs

open Sys2Proof Sys2Proof.Machine Sys2Proof.Laws Sys2Proof.Safety

/-- Leaving a suspect out of the open votes keeps this spine's number. -/
theorem selfSpine_leaveOut (s : State) (x : Nat) : selfSpine (leaveOut s x) = selfSpine s := self_leaveOut s x

/-- A beat that neither carries nor ends DEGRADED. -/
theorem beatIn_of {s : State} {f : StoredFrame} (hok : hedgeOk f.data = true) (hdim : dimCode s f.inPort ≤ 13)
    (hnow : (hedgeParse f.data).degraded = false) (hwas : (neighOf s (dimCode s f.inPort)).degraded = false) :
    beatIn s f = probationBeat (setNeigh s (dimCode s f.inPort)
      { lastBeat := s.raw, heard := true, degraded := false, score := (hedgeParse f.data).score })
      (neighbourOf s (selfSpine s) (dimCode s f.inPort)) (hedgeParse f.data).score := by
  have hskip : ¬ (!hedgeOk f.data || decide (dimCode s f.inPort > 13)) = true := by simp [hok, hdim]
  rw [beatIn, if_neg hskip]
  simp [hnow, hwas]

/-- A proposal on which this spine has no vote is kept as one that it has answered. -/
theorem proposalIn_of_stranger {s : State} {h : Hedge} (hopen : (spineBits s h.suspect).fenced = false) (hnone : voteOn s h.suspect = none)
    (hnot : (voterSet s h.suspect).contains (selfSpine s) = false) :
    proposalIn s h = putVote (leaveOut s h.suspect)
      { suspect := h.suspect, origin := h.origin, vseq := h.vseq, evid := h.evid, part := h.part, since := s.raw
        voters := voterSet s h.suspect, voted := true } := by
  rw [proposalIn]
  simp only [hopen, hnone, selfSpine_leaveOut, hnot, Bool.not_false, Bool.false_eq_true, if_true, if_false]

/-- A vote that its proposer counts: of a voter that has not voted before. -/
theorem voteIn_of {s : State} {h : Hedge} {v : Vote} (yes : Bool) (hv : voteOn s h.suspect = some v) (hmine : v.mine = true) (hseq : v.vseq = h.vseq)
    (hvoter : v.voters.contains h.origin = true) (hyes : v.yes.contains h.origin = false) (hno : v.no.contains h.origin = false) :
    voteIn s h yes = settleVote s (if yes then { v with yes := v.yes ++ [h.origin] } else { v with no := v.no ++ [h.origin] }) := by
  rw [voteIn, hv]
  simp only [hmine, hseq, hvoter, hyes, hno, beq_self_eq_true, Bool.not_false, Bool.and_self, if_true]

/-- Settles O54. -/
theorem hedgeVoteCompletes : Obligations.HedgeVoteCompletes := by
  unfold Obligations.HedgeVoteCompletes
  refine ⟨fun s s0 p hp hs0 hspine hup hmode hopen hquar hdue => ?beatSend, fun s s1 fid e f g hin hframe hkind htype htake hok hdim hnow hwas => ?beatReceive,
    fun s d x hd hx hvote hobs hquiet hopen hnone => ?silent,
    fun s x v hv => ⟨fun hvoted hyes => ?observedYes, fun hvoted hyes hdue => ?observedNo, fun hmine hdue => ?window⟩,
    fun s s1 fid h hbeat => ⟨fun hin hopen hnone hnot => ?proposal,
      fun v hv hmine hseq hvoter hyes hno => ⟨fun hin => ?voteYes, fun hin => ?voteNo⟩, fun hin => ?commit, fun v hin hv horigin hseq => ?abandon,
      fun hin hdp hevid => ?notice, fun hin hholds hpart => ?hold, fun hin hholds hpart => ?release⟩⟩
  case beatSend =>
    subst hs0
    simp [execHedgeBeatSend, atPort_of_lt hp, hspine, hup, hmode, hopen, hquar, elapsed_of hdue]
  case beatReceive =>
    simp only [exec_hedgeBeatReceive, execHedgeBeatReceive, hin, hframe, hkind, htype, htake, beq_self_eq_true, Bool.or_true, Bool.and_self,
      if_true, beatIn_of hok hdim hnow hwas]
  case silent =>
    subst hx
    have hquiet' : (silentDim s d || darkDim s d) = true := by simpa using hquiet
    simp only [exec_neighbourSilent, execNeighbourSilent, atUnit_of_lt hd, hvote, hobs, hquiet', hopen, hnone, Option.isNone_none, Bool.not_false,
      Bool.and_self, if_true]
  case observedYes =>
    simp [execVoteObservationDue, hv, hvoted, hyes]
  case observedNo =>
    simp [execVoteObservationDue, hv, hvoted, hyes, elapsed_of hdue]
  case window =>
    simp [execVoteWindowExpiry, hv, hmine, elapsed_of hdue]
  case proposal =>
    simp [execProposeReceived, hin, hbeat, proposalIn_of_stranger hopen hnone hnot]
  case voteYes =>
    simp [execVoteYesReceived, hin, hbeat, voteIn_of true hv hmine hseq hvoter hyes hno]
  case voteNo =>
    simp [execVoteNoReceived, hin, hbeat, voteIn_of false hv hmine hseq hvoter hyes hno]
  case commit =>
    simp [execCommitReceived, hin, hbeat]
  case abandon =>
    simp [execAbandonReceived, hin, hbeat, hv, horigin, hseq]
  case notice =>
    simp [execNoticeReceived, hin, hbeat, noticeIn, hdp, hevid]
  case hold =>
    simp [execHoldReceived, hin, hbeat, hholds, hpart]
  case release =>
    simp [execReleaseReceived, hin, hbeat, hholds, hpart]

end Sys2Proof.Proofs
